-- ==== Sys2Proof/Word.lean ====
section
/-! DEFINITION. The word types of the Kyran 2 core and of the Druvin D4 memory (R6, R45, R46). -/

namespace Sys2Proof

/-- One byte of memory or of an instruction stream (R6). -/
abbrev Byte := BitVec 8

/-- A scalar register, a control register or a 64-bit field of a record (R45, R47). -/
abbrev Word := BitVec 64

/-- A vector register or one row of a tile register: 4096 bits, 512 bytes (R45, R46). -/
abbrev VWord := BitVec 4096

/-- A predicate register, one bit a lane (R45, R46). -/
abbrev PWord := BitVec 1024

/-- One 32-bit code: an accumulator, a format descriptor, a generator (R23, R31, R166). -/
abbrev W32 := BitVec 32

end Sys2Proof
end

