-- ==== Sys2Proof/Syntax.lean ====
section
/-! DEFINITION. The syntax of the machine: one constructor of `Instr` for every row of the opcode table
(spec/opcode_table.json). The first rows are op words of the I, M, V, X and E slots (04–09); the rest are the
steps that the core, its engines, the hub, the scheduler, the host and the management core make on their own
("What each step holds", file 95), with what names the step as arguments. Operands are plain numbers; the ranges
stand in `Instr.wellFormed`. -/
namespace Sys2Proof

/-- The operands of a 32-bit VR word (Table 4-3). -/
structure VR where
  p : Nat
  t : Nat
  b : Nat
  a : Nat
  d : Nat
  deriving DecidableEq, Repr

/-- The operands of a 64-bit VRL word (Table 4-3); `hi` is bits [31:16] of the second word, whose fields each
instruction names (R140). -/
structure VL where
  t : Nat
  b : Nat
  a : Nat
  d : Nat
  fd : Nat
  c : Nat
  px : Nat
  hi : Nat
  deriving DecidableEq, Repr

/-- The operands of an atomic, format AT (R126). -/
structure AT where
  nr : Nat
  sz : Nat
  land : Nat
  a : Nat
  d : Nat
  b : Nat
  c : Nat
  off : Int
  deriving DecidableEq, Repr

/-- The traps of Table 19-2. -/
inductive TrapNo where
  | illegal | prefixOrphan | target | align | page | wprot | perm | qfull | format | groupViolation
  | tileUnrecoverable | decRatio | decCheck | decLength | fabChannel | atomicLost | overrun | watchdog
  | safeDistance | earlyRead | brk | syscall
  deriving DecidableEq, Repr

/-- A trap raised at a bundle boundary (R356): its number, ARG and STAT of the trap-cause word (Table 10-3), the
faulting address, and the bundle it names with the resume point where the trap's own rule gives others than the
running bundle (`none`: the running bundle). -/
structure Trap where
  no : TrapNo
  arg : Nat := 0
  stat : Nat := 0
  addr : Nat := 0
  named : Option Nat := none
  resume : Option Nat := none
  deriving DecidableEq, Repr

/-- A fabric message (Tables 14-1 and 14-2) by its fields, `rsv` the header's reserved bit 64; `payload` is the bytes after the
16-byte header. -/
structure FabricMsg where
  ver : Nat
  kind : Nat
  chn : Nat
  dst : Nat
  src : Nat
  seq : Nat
  rsv : Bool
  epo : Nat
  gen : Nat
  len : Nat
  addr : Nat
  payload : List Byte
  deriving DecidableEq, Repr

/-- A request at a combining stage (R308, R309): who asks, the physical address and destination device, the size
bit, the increment, whether it returns, whether it is an AADD at all (`aadd`), and the input port (Table 14-8) and hub cycle of its
arrival. -/
structure CombReq where
  requester : Nat
  fromRecord : Bool
  addr : Nat
  dev : Nat
  sz : Nat
  b : Word
  returning : Bool
  aadd : Bool
  inPort : Nat
  cycle : Nat
  deriving DecidableEq, Repr

/-- How a host operation comes (R384, R385): the VLAN on which it arrives, its queue pair, its memory key. -/
structure HostAccess where
  vlan : Nat
  qp : Nat
  key : Nat
  deriving DecidableEq, Repr

/-- The quotas of CREATE_PARTITION (Table 22-2); `hbm` and `lpddr` in GiB, `reserved` in bytes, `wdog` in ns, 100 ms unless the host
gives another (R361). -/
structure Quotas where
  clusters : Nat
  hbm : Nat
  lpddr : Nat
  reserved : Nat
  pairs : Nat
  root : Nat
  wdog : Nat := 100000000
  debug : Bool
  tag : Nat
  deriving DecidableEq, Repr

/-- The attributes of a submission queue and its ring and completion ring (Tables 18-4 and 22-3). -/
structure QueueAttr where
  depth : Nat
  domain : Nat
  prog : Bool
  strictfp : Bool
  oncancel : Bool
  ring : Nat
  cring : Nat
  ckey : Nat
  cdepth : Nat
  deriving DecidableEq, Repr

/-- The operands of OPEN_PAIR (Table 22-4). -/
structure PairOpen where
  source : Bool
  peer : Nat
  chn : Nat
  logBase : Nat
  logCap : Nat
  deriving DecidableEq, Repr

/-- The requests that page agents send one another (R372), as NOPART answers them, each with the device of the other agent. -/
inductive AgentReq where
  | collapse (dev : Nat) | migration (dev : Nat) | rewrite (dev : Nat)
  deriving DecidableEq, Repr

def AgentReq.dev : AgentReq → Nat
  | .collapse d | .migration d | .rewrite d => d

/-- What a migration request carries (R377): the frame that the requester has kept for the page, or, in the holder's answer, the
device that holds the page now. -/
inductive MigrationNote where
  | to (frame : Nat) | moved (holder : Nat)
  deriving DecidableEq, Repr

/-- Where a page stands after a migration (R377): the device and the frame. -/
structure PagePlace where
  holder : Nat
  frame : Nat
  deriving DecidableEq, Repr

/-- The firmware of a bring-up (R412): its measurement, and whether it is signed. -/
structure Firmware where
  digest : Nat
  signed : Bool
  deriving DecidableEq, Repr

/-- The units that count error events (Table 23-1): those that are retired (Table 23-2), and the tables of the hub, the TLB and walk
cache of a die, and the Agate store of a die, whose events are counted and nothing else. -/
inductive HwUnit where
  | arrayRow (core line : Nat) | arrayCol (core line : Nat) | core (n : Nat) | slice (n : Nat)
  | hbmChannel (n : Nat) | lpChannel (n : Nat) | lane (n : Nat) | engine (n : Nat) | jasper (n : Nat) | opal (n : Nat)
  | hubTable (n : Nat) | dieTlb (n : Nat) | agate (n : Nat)
  deriving DecidableEq, Repr

/-- What an error check finds (Table 23-1): an event that it corrects and counts on a unit, a 32-byte ECC unit of
memory that still fails after the retry, a metadata line that fails, the loss of both copies of a decombining
record, an error that is fatal to a partition, one that is fatal to the module, or a datapath error that is not correctable, or a
lane's loss of lock, which retire the unit (R391, R394). -/
inductive ErrorEvent where
  | corrected (u : HwUnit)
  | eccFailed (addr : Nat)
  | metadataFailed (addr : Nat)
  | recordLost (k : Nat) (applied : Bool)
  | fatalPartition (p : Nat) (unit : Nat)
  | fatalModule (unit : Nat)
  | unitFailed (u : HwUnit)
  deriving DecidableEq, Repr

/-- The steps of the machine: every row of spec/opcode_table.json, in its order. -/
inductive Instr where
  /-- ADD (R82). Writes the 64-bit sum of S[A] and S[B] to S[D]. -/
  | add (d a b : Nat)
  /-- SUB (R82). Writes S[A] minus S[B] to S[D]. -/
  | sub (d a b : Nat)
  /-- MUL (R82). Writes the low 64 bits of the product to S[D]. -/
  | mul (d a b : Nat)
  /-- MULH (R82). Writes the high 64 bits of the signed product to S[D]. -/
  | mulh (d a b : Nat)
  /-- MULHU (R82). Writes the high 64 bits of the unsigned product to S[D]. -/
  | mulhu (d a b : Nat)
  /-- DIV (R83). Writes the signed quotient, with the non-trapping division rules, to S[D]. -/
  | div (d a b : Nat)
  /-- DIVU (R83). Writes the unsigned quotient to S[D]. -/
  | divu (d a b : Nat)
  /-- REM (R83). Writes the signed remainder to S[D]. -/
  | rem (d a b : Nat)
  /-- REMU (R83). Writes the unsigned remainder to S[D]. -/
  | remu (d a b : Nat)
  /-- AND (R82). Writes the bitwise AND of S[A] and S[B] to S[D]. -/
  | and (d a b : Nat)
  /-- OR (R82). Writes the bitwise OR to S[D]. -/
  | or (d a b : Nat)
  /-- XOR (R82). Writes the bitwise XOR to S[D]. -/
  | xor (d a b : Nat)
  /-- ANDN (R82). Writes S[A] AND NOT S[B] to S[D]. -/
  | andn (d a b : Nat)
  /-- SHL (R82). Shifts S[A] left by S[B] mod 64 into S[D]. -/
  | shl (d a b : Nat)
  /-- SHR (R82). Shifts S[A] right logically by S[B] mod 64 into S[D]. -/
  | shr (d a b : Nat)
  /-- SRA (R82). Shifts S[A] right arithmetically by S[B] mod 64 into S[D]. -/
  | sra (d a b : Nat)
  /-- ROTR (R82). Rotates S[A] right by S[B] mod 64 into S[D]. -/
  | rotr (d a b : Nat)
  /-- CLZ (R82). Writes the leading-zero count of S[A] to S[D]. -/
  | clz (d a : Nat)
  /-- CTZ (R82). Writes the trailing-zero count of S[A] to S[D]. -/
  | ctz (d a : Nat)
  /-- POPC (R82). Writes the population count of S[A] to S[D]. -/
  | popc (d a : Nat)
  /-- MIN (R82). Writes the signed lesser of S[A] and S[B] to S[D]. -/
  | min (d a b : Nat)
  /-- MAX (R82). Writes the signed greater to S[D]. -/
  | max (d a b : Nat)
  /-- MINU (R82). Writes the unsigned lesser to S[D]. -/
  | minu (d a b : Nat)
  /-- MAXU (R82). Writes the unsigned greater to S[D]. -/
  | maxu (d a b : Nat)
  /-- SEQ (R82). Writes 1 to S[D] when S[A] equals S[B], else 0. -/
  | seq (d a b : Nat)
  /-- SLT (R82). Writes 1 to S[D] when S[A] is signed-less than S[B]. -/
  | slt (d a b : Nat)
  /-- SLTU (R82). Writes 1 to S[D] when S[A] is unsigned-less than S[B]. -/
  | sltu (d a b : Nat)
  /-- SEXT (R82). Sign-extends the low 8, 16 or 32 bits of S[A] into S[D]. -/
  | sext (d a f : Nat)
  /-- ZEXT (R82). Zero-extends the low 8, 16 or 32 bits of S[A] into S[D]. -/
  | zext (d a f : Nat)
  /-- SEL (R84). Writes S[A] or S[B] to S[D] by whether S[C] is non-zero. -/
  | sel (d a b c : Nat)
  /-- BFX (R84). Extracts a bit field of S[A], zero- or sign-extended, into S[D]. -/
  | bfx (d a pos len sx : Nat)
  /-- BFI (R84). Inserts the low bits of S[B] into a field of S[A] and writes S[D]. -/
  | bfi (d a b pos len : Nat)
  /-- ADDI (R85). Adds a sign-extended 11-bit immediate to S[A] into S[D]. -/
  | addi (d a : Nat) (imm : Int)
  /-- ANDI (R85). ANDs an 11-bit immediate with S[A] into S[D]. -/
  | andi (d a : Nat) (imm : Int)
  /-- ORI (R85). ORs an 11-bit immediate with S[A] into S[D]. -/
  | ori (d a : Nat) (imm : Int)
  /-- XORI (R85). XORs an 11-bit immediate with S[A] into S[D]. -/
  | xori (d a : Nat) (imm : Int)
  /-- SHLI (R85). Shifts S[A] left by an immediate 0-63 into S[D]. -/
  | shli (d a : Nat) (imm : Int)
  /-- SHRI (R85). Shifts S[A] right logically by an immediate into S[D]. -/
  | shri (d a : Nat) (imm : Int)
  /-- SRAI (R85). Shifts S[A] right arithmetically by an immediate into S[D]. -/
  | srai (d a : Nat) (imm : Int)
  /-- ADDI_LONG (R85). ADDI with a 32-bit immediate in the IL format. -/
  | addiLong (d a : Nat) (imm : Int)
  /-- ANDI_LONG (R85). ANDI with a 32-bit immediate in the IL format. -/
  | andiLong (d a : Nat) (imm : Int)
  /-- ORI_LONG (R85). ORI with a 32-bit immediate in the IL format. -/
  | oriLong (d a : Nat) (imm : Int)
  /-- XORI_LONG (R85). XORI with a 32-bit immediate in the IL format. -/
  | xoriLong (d a : Nat) (imm : Int)
  /-- SHLI_LONG (R85). SHLI in the IL format. -/
  | shliLong (d a : Nat) (imm : Int)
  /-- SHRI_LONG (R85). SHRI in the IL format. -/
  | shriLong (d a : Nat) (imm : Int)
  /-- SRAI_LONG (R85). SRAI in the IL format. -/
  | sraiLong (d a : Nat) (imm : Int)
  /-- MOVI (R86). Writes a zero- or sign-extended 32-bit immediate to S[D]. -/
  | movi (d md imm : Nat)
  /-- MOVI_HI (R86). Writes a 32-bit immediate to the upper half of S[D]. -/
  | moviHi (d imm : Nat)
  /-- STEP (R87). Sets one sticky slot's step register from an immediate or S[A]. -/
  | step (slot src a : Nat) (imm : Int)
  /-- BEQ (R88). Branches when S[A] equals S[B]. -/
  | beq (a b : Nat) (off : Int)
  /-- BNE (R88). Branches when S[A] differs from S[B]. -/
  | bne (a b : Nat) (off : Int)
  /-- BLT (R88). Branches when S[A] is signed-less than S[B]. -/
  | blt (a b : Nat) (off : Int)
  /-- BGE (R88). Branches when S[A] is signed-greater or equal to S[B]. -/
  | bge (a b : Nat) (off : Int)
  /-- BLTU (R88). Branches when S[A] is unsigned-less than S[B]. -/
  | bltu (a b : Nat) (off : Int)
  /-- BGEU (R88). Branches when S[A] is unsigned-greater or equal to S[B]. -/
  | bgeu (a b : Nat) (off : Int)
  /-- BPANY (R88). Branches when any of the low n bits of a predicate is 1. -/
  | bpany (p lc : Nat) (off : Int)
  /-- BPNONE (R88). Branches when all of the low n bits of a predicate are 0. -/
  | bpnone (p lc : Nat) (off : Int)
  /-- JMP (R88). Branches unconditionally to a relative target. -/
  | jmp (off : Int)
  /-- JMPI (R88). Branches to the address in S[A]. -/
  | jmpi (a : Nat)
  /-- CALL (R89). Branches to a relative target and writes the return address to the link register. -/
  | call (a : Nat) (off : Int)
  /-- CALLI (R89). Branches to S[B] and writes the return address to S[A]. -/
  | calli (a b : Nat)
  /-- RET (R89). Branches to the address in S[A]. -/
  | ret (a : Nat)
  /-- LOOP (R90). Decrements S[A] and branches while the new value is non-zero. -/
  | loop (a : Nat) (off : Int)
  /-- BEQ_LONG (R88). BEQ with a 32-bit offset in the IBL format. -/
  | beqLong (a b : Nat) (off : Int)
  /-- BNE_LONG (R88). BNE in the IBL format. -/
  | bneLong (a b : Nat) (off : Int)
  /-- BLT_LONG (R88). BLT in the IBL format. -/
  | bltLong (a b : Nat) (off : Int)
  /-- BGE_LONG (R88). BGE in the IBL format. -/
  | bgeLong (a b : Nat) (off : Int)
  /-- BLTU_LONG (R88). BLTU in the IBL format. -/
  | bltuLong (a b : Nat) (off : Int)
  /-- BGEU_LONG (R88). BGEU in the IBL format. -/
  | bgeuLong (a b : Nat) (off : Int)
  /-- BPANY_LONG (R88). BPANY in the IBL format. -/
  | bpanyLong (p lc : Nat) (off : Int)
  /-- BPNONE_LONG (R88). BPNONE in the IBL format. -/
  | bpnoneLong (p lc : Nat) (off : Int)
  /-- JMP_LONG (R88). JMP in the IBL format. -/
  | jmpLong (off : Int)
  /-- CALL_LONG (R89). CALL with a 32-bit offset. -/
  | callLong (a : Nat) (off : Int)
  /-- LOOP_LONG (R90). LOOP with a 32-bit offset. -/
  | loopLong (a : Nat) (off : Int)
  /-- PHASE (R133). Empty bundle with PH set that ends the phase. -/
  | phase
  /-- LDB (R114). Loads a zero-extended byte into S[D] at its landing cycle. -/
  | ldb (d a land : Nat) (off : Int)
  /-- LDBS (R114). Loads a sign-extended byte into S[D]. -/
  | ldbs (d a land : Nat) (off : Int)
  /-- LDH (R114). Loads a zero-extended halfword into S[D]. -/
  | ldh (d a land : Nat) (off : Int)
  /-- LDHS (R114). Loads a sign-extended halfword into S[D]. -/
  | ldhs (d a land : Nat) (off : Int)
  /-- LDW (R114). Loads a zero-extended word into S[D]. -/
  | ldw (d a land : Nat) (off : Int)
  /-- LDWS (R114). Loads a sign-extended word into S[D]. -/
  | ldws (d a land : Nat) (off : Int)
  /-- LDD (R114). Loads 8 bytes into S[D]. -/
  | ldd (d a land : Nat) (off : Int)
  /-- STB (R114). Stores the low byte of S[D]. -/
  | stb (d a chn : Nat) (off : Int)
  /-- STH (R114). Stores the low halfword of S[D]. -/
  | sth (d a chn : Nat) (off : Int)
  /-- STW (R114). Stores the low word of S[D]. -/
  | stw (d a chn : Nat) (off : Int)
  /-- STD (R114). Stores the 8 bytes of S[D]. -/
  | std (d a chn : Nat) (off : Int)
  /-- VLD (R114). Loads 512 bytes into V[D]. -/
  | vld (d a land : Nat) (off : Int)
  /-- VST (R114). Stores the 512 bytes of V[D]. -/
  | vst (d a chn : Nat) (off : Int)
  /-- VLDP (R118). Loads the pattern's next elements into V[D] and advances POS. -/
  | vldp (land pt d : Nat)
  /-- VLDP_SET (R117). Loads a 64-byte pattern record into PAT[PT]. -/
  | vldpSet (land pt a : Nat)
  /-- VSTP (R118). Stores V[D] at the pattern's next addresses and advances POS. -/
  | vstp (chn pt d : Nat)
  /-- VSTP_SAVE (R117). Stores PAT[PT], POS included, as 64 bytes at S[A]. -/
  | vstpSave (pt a : Nat)
  /-- VGTH (R119). Gathers active elements from indexed addresses into V[D]. -/
  | vgth (esz ix a d land px : Nat)
  /-- VSCT (R119). Scatters active lanes of V[D] to indexed addresses. -/
  | vsct (esz ix a d px chn : Nat)
  /-- TLD (R122). Reads and verifies a checksummed tile and writes its elements and scales to a tile register. -/
  | tld (bo t f a land : Nat)
  /-- TST (R123). Stores a tile register as a checksummed tile with regenerated sums. -/
  | tst (bo t f a chn : Nat)
  /-- PRF (R124). Prefetches bytes into L2 or the L1 snapshot without changing any value. -/
  | prf (cnt a lv : Nat) (off : Int)
  /-- SPIN (R125). Starts the refill of scratch pages and pins them. -/
  | spin (n a : Nat)
  /-- SPREL (R125). Unpins scratch pages. -/
  | sprel (n a : Nat)
  /-- AADD (R127). Atomic integer add at the home slice, returning the old value unless non-returning. -/
  | aadd (o : AT)
  /-- AFADD (R127). Atomic FP32 add at the home slice. -/
  | afadd (o : AT)
  /-- AXCHG (R127). Atomic exchange. -/
  | axchg (o : AT)
  /-- ACAS (R127). Atomic compare-and-swap. -/
  | acas (o : AT)
  /-- AAND (R127). Atomic AND. -/
  | aand (o : AT)
  /-- AOR (R127). Atomic OR. -/
  | aor (o : AT)
  /-- AXOR (R127). Atomic XOR. -/
  | axor (o : AT)
  /-- AMIN (R127). Atomic signed minimum. -/
  | amin (o : AT)
  /-- AMAX (R127). Atomic signed maximum. -/
  | amax (o : AT)
  /-- AMINU (R127). Atomic unsigned minimum. -/
  | aminu (o : AT)
  /-- AMAXU (R127). Atomic unsigned maximum. -/
  | amaxu (o : AT)
  /-- AFMIN (R127). Atomic float minimumNumber. -/
  | afmin (o : AT)
  /-- AFMAX (R127). Atomic float maximumNumber. -/
  | afmax (o : AT)
  /-- WAITA (R130). Holds its bundle gated until the word at the home slice differs from the compared value. -/
  | waita (sz a d b : Nat) (off : Int)
  /-- WAKE (R131). Writes a word at its home slice and evaluates every waiter on it. -/
  | wake (sz b a : Nat)
  /-- VADD (R146). Integer vector add on active lanes. -/
  | vadd (o : VR)
  /-- VSUB (R146). Integer vector subtract. -/
  | vsub (o : VR)
  /-- VMUL (R146). Integer vector multiply. -/
  | vmul (o : VR)
  /-- VMULH (R146). Integer vector multiply, high half. -/
  | vmulh (o : VR)
  /-- VMAD (R146). Integer vector multiply-add, VRL only. -/
  | vmad (o : VL)
  /-- VMIN (R146). Integer vector minimum. -/
  | vmin (o : VR)
  /-- VMAX (R146). Integer vector maximum. -/
  | vmax (o : VR)
  /-- VABS (R146). Integer vector absolute value. -/
  | vabs (o : VR)
  /-- VNEG (R146). Integer vector negation. -/
  | vneg (o : VR)
  /-- VAND (R146). Vector bitwise AND. -/
  | vand (o : VR)
  /-- VOR (R146). Vector bitwise OR. -/
  | vor (o : VR)
  /-- VXOR (R146). Vector bitwise XOR. -/
  | vxor (o : VR)
  /-- VNOT (R146). Vector bitwise NOT. -/
  | vnot (o : VR)
  /-- VSHL (R146). Vector shift left. -/
  | vshl (o : VR)
  /-- VSHR (R146). Vector logical shift right. -/
  | vshr (o : VR)
  /-- VSRA (R146). Vector arithmetic shift right. -/
  | vsra (o : VR)
  /-- VCMP (R147). Integer compare writing a destination predicate, VRL only. -/
  | vcmp (o : VL)
  /-- VSEL (R148). Selects lanes of V[A] or V[B] by a predicate, VRL only. -/
  | vsel (o : VL)
  /-- VPOPC (R146). Per-lane population count. -/
  | vpopc (o : VR)
  /-- VCLZ (R146). Per-lane leading-zero count. -/
  | vclz (o : VR)
  /-- VADD_LONG (R146). VADD in the VRL format. -/
  | vaddLong (o : VL)
  /-- VSUB_LONG (R146). VSUB in the VRL format. -/
  | vsubLong (o : VL)
  /-- VMUL_LONG (R146). VMUL in the VRL format. -/
  | vmulLong (o : VL)
  /-- VMULH_LONG (R146). VMULH in the VRL format. -/
  | vmulhLong (o : VL)
  /-- VMIN_LONG (R146). VMIN in the VRL format. -/
  | vminLong (o : VL)
  /-- VMAX_LONG (R146). VMAX in the VRL format. -/
  | vmaxLong (o : VL)
  /-- VABS_LONG (R146). VABS in the VRL format. -/
  | vabsLong (o : VL)
  /-- VNEG_LONG (R146). VNEG in the VRL format. -/
  | vnegLong (o : VL)
  /-- VAND_LONG (R146). VAND in the VRL format. -/
  | vandLong (o : VL)
  /-- VOR_LONG (R146). VOR in the VRL format. -/
  | vorLong (o : VL)
  /-- VXOR_LONG (R146). VXOR in the VRL format. -/
  | vxorLong (o : VL)
  /-- VNOT_LONG (R146). VNOT in the VRL format. -/
  | vnotLong (o : VL)
  /-- VSHL_LONG (R146). VSHL in the VRL format. -/
  | vshlLong (o : VL)
  /-- VSHR_LONG (R146). VSHR in the VRL format. -/
  | vshrLong (o : VL)
  /-- VSRA_LONG (R146). VSRA in the VRL format. -/
  | vsraLong (o : VL)
  /-- VPOPC_LONG (R146). VPOPC in the VRL format. -/
  | vpopcLong (o : VL)
  /-- VCLZ_LONG (R146). VCLZ in the VRL format. -/
  | vclzLong (o : VL)
  /-- VFADD (R149). Float vector add with one rounding. -/
  | vfadd (o : VR)
  /-- VFSUB (R149). Float vector subtract. -/
  | vfsub (o : VR)
  /-- VFMUL (R149). Float vector multiply. -/
  | vfmul (o : VR)
  /-- VFMA (R149). Float fused multiply-add, VRL only. -/
  | vfma (o : VL)
  /-- VFMIN (R149). Float vector minimumNumber. -/
  | vfmin (o : VR)
  /-- VFMAX (R149). Float vector maximumNumber. -/
  | vfmax (o : VR)
  /-- VFABS (R149). Clears the sign bit of each active lane. -/
  | vfabs (o : VR)
  /-- VFNEG (R149). Inverts the sign bit of each active lane. -/
  | vfneg (o : VR)
  /-- VFCMP (R147). Float compare writing a destination predicate, VRL only. -/
  | vfcmp (o : VL)
  /-- VFDIV (R149). Correctly rounded float vector divide. -/
  | vfdiv (o : VR)
  /-- VFSQRT (R149). Correctly rounded float vector square root. -/
  | vfsqrt (o : VR)
  /-- VRCP (R149). Float vector reciprocal within its error bound. -/
  | vrcp (o : VR)
  /-- VRSQ (R149). Float vector reciprocal square root. -/
  | vrsq (o : VR)
  /-- VEXP2 (R149). Float vector base-2 exponential. -/
  | vexp2 (o : VR)
  /-- VLOG2 (R149). Float vector base-2 logarithm. -/
  | vlog2 (o : VR)
  /-- VTANH (R149). Float vector hyperbolic tangent. -/
  | vtanh (o : VR)
  /-- VFADD_LONG (R149). VFADD in the VRL format. -/
  | vfaddLong (o : VL)
  /-- VFSUB_LONG (R149). VFSUB in the VRL format. -/
  | vfsubLong (o : VL)
  /-- VFMUL_LONG (R149). VFMUL in the VRL format. -/
  | vfmulLong (o : VL)
  /-- VFMIN_LONG (R149). VFMIN in the VRL format. -/
  | vfminLong (o : VL)
  /-- VFMAX_LONG (R149). VFMAX in the VRL format. -/
  | vfmaxLong (o : VL)
  /-- VFABS_LONG (R149). VFABS in the VRL format. -/
  | vfabsLong (o : VL)
  /-- VFNEG_LONG (R149). VFNEG in the VRL format. -/
  | vfnegLong (o : VL)
  /-- VFDIV_LONG (R149). VFDIV in the VRL format. -/
  | vfdivLong (o : VL)
  /-- VFSQRT_LONG (R149). VFSQRT in the VRL format. -/
  | vfsqrtLong (o : VL)
  /-- VRCP_LONG (R149). VRCP in the VRL format. -/
  | vrcpLong (o : VL)
  /-- VRSQ_LONG (R149). VRSQ in the VRL format. -/
  | vrsqLong (o : VL)
  /-- VEXP2_LONG (R149). VEXP2 in the VRL format. -/
  | vexp2Long (o : VL)
  /-- VLOG2_LONG (R149). VLOG2 in the VRL format. -/
  | vlog2Long (o : VL)
  /-- VTANH_LONG (R149). VTANH in the VRL format. -/
  | vtanhLong (o : VL)
  /-- VCVT (R152). Converts elements between two format registers. -/
  | vcvt (o : VL)
  /-- VQNT (R154). Quantises source elements into MX blocks with scales to a scalar. -/
  | vqnt (o : VL)
  /-- VDQNT (R155). Dequantises MX blocks using scales from a scalar. -/
  | vdqnt (o : VL)
  /-- VI2F (R153). Converts integer lanes to a float type. -/
  | vi2f (o : VL)
  /-- VF2I (R153). Converts float lanes to saturated integers. -/
  | vf2i (o : VL)
  /-- VPERM (R156). Permutes lanes from a two-register table. -/
  | vperm (o : VL)
  /-- VSHUF (R156). Shuffles bytes within 64-byte groups. -/
  | vshuf (o : VL)
  /-- VSLIDE (R157). Slides the lanes of V[A] down by one and fills from V[B]. -/
  | vslide (o : VR)
  /-- VBCAST (R158). Broadcasts a scalar to every active lane. -/
  | vbcast (o : VR)
  /-- VEXT (R158). Extracts lane S[B] mod n of V[A] into S[D]. -/
  | vext (o : VR)
  /-- VINS (R158). Inserts S[A] into lane S[B] mod n of V[D]. -/
  | vins (o : VR)
  /-- VCMPR (R159). Compresses the active lanes of V[A] into the low lanes of V[D]. -/
  | vcmpr (o : VR)
  /-- VEXPD (R159). Expands low lanes of V[A] into the active lanes of V[D]. -/
  | vexpd (o : VR)
  /-- VSLIDE_LONG (R157). VSLIDE up or down by K lanes in the VRL format. -/
  | vslideLong (o : VL)
  /-- VBCAST_LONG (R158). Broadcasts a scalar or lane LN of V[A] in the VRL format. -/
  | vbcastLong (o : VL)
  /-- VEXT_LONG (R158). Extracts lane LN into a scalar, zero- or sign-extended. -/
  | vextLong (o : VL)
  /-- VINS_LONG (R158). Inserts a scalar into lane LN. -/
  | vinsLong (o : VL)
  /-- VCMPR_LONG (R159). VCMPR in the VRL format. -/
  | vcmprLong (o : VL)
  /-- VEXPD_LONG (R159). VEXPD in the VRL format. -/
  | vexpdLong (o : VL)
  /-- VRSUM (R160). Exact integer sum of active lanes into lane 0. -/
  | vrsum (o : VR)
  /-- VRFSUM (R38). Pairwise-tree float sum of active lanes into lane 0. -/
  | vrfsum (o : VR)
  /-- VRMAX (R160). Greatest active lane into lane 0. -/
  | vrmax (o : VR)
  /-- VRMIN (R160). Least active lane into lane 0. -/
  | vrmin (o : VR)
  /-- VSCAN (R161). Inclusive running sums over active lanes. -/
  | vscan (o : VR)
  /-- VRSUM_LONG (R160). VRSUM in the VRL format. -/
  | vrsumLong (o : VL)
  /-- VRFSUM_LONG (R38). VRFSUM in the VRL format. -/
  | vrfsumLong (o : VL)
  /-- VRMAX_LONG (R160). VRMAX in the VRL format, with FK and U. -/
  | vrmaxLong (o : VL)
  /-- VRMIN_LONG (R160). VRMIN in the VRL format, with FK and U. -/
  | vrminLong (o : VL)
  /-- VSCAN_LONG (R161). VSCAN in the VRL format, with FK. -/
  | vscanLong (o : VL)
  /-- PAND (R163). P[PD] := P[PA] AND P[PB]. -/
  | pand (d a b : Nat)
  /-- POR (R163). P[PD] := P[PA] OR P[PB]. -/
  | por (d a b : Nat)
  /-- PXOR (R163). P[PD] := P[PA] XOR P[PB]. -/
  | pxor (d a b : Nat)
  /-- PNOT (R163). P[PD] := NOT P[PA]. -/
  | pnot (d a : Nat)
  /-- PANDN (R163). P[PD] := P[PA] AND NOT P[PB]. -/
  | pandn (d a b : Nat)
  /-- PCNT (R163). Counts the one bits of the low n bits of a predicate into a scalar. -/
  | pcnt (lc s a : Nat)
  /-- PFIRST (R163). Writes the index of the lowest set predicate bit, or n. -/
  | pfirst (lc s a : Nat)
  /-- PSETN (R163). Sets the low min(S[SA], n) bits of a predicate and clears the rest. -/
  | psetn (lc s d : Nat)
  /-- PMOV (R163). Copies one predicate to another. -/
  | pmov (d a : Nat)
  /-- TZERO (R167). Opens a tile group on an accumulator set and takes the restart snapshot. -/
  | tzero (mk fb fa set : Nat)
  /-- TMMA (R172). Queues a 24-step ring matrix multiply-accumulate of one K segment. -/
  | tmma (nv seg tb ta set : Nat)
  /-- TMSR (R175). Queues a 24-step semiring step on duplicated columns. -/
  | tmsr (nv seg tb ta set : Nat)
  /-- TDRAIN_TILE (R181). Closes or drains a set, converting it into a tile register. -/
  | tdrainTile (f bo r set : Nat)
  /-- TDRAIN_VECTOR (R181). Closes or drains one row of a set into a vector register. -/
  | tdrainVector (f row r set : Nat)
  /-- TDRAIN_MEMORY (R181). Closes or drains a set to memory as a checksummed tile. -/
  | tdrainMemory (f r set sc chn : Nat) (off : Int)
  /-- TWR (R186). Writes a tile-register row from a vector, optionally converting. -/
  | twr (cv bq f v row tr : Nat)
  /-- TRDR (R186). Reads a tile-register row into a vector. -/
  | trdr (cv bq f v row tr : Nat)
  /-- TRDC (R186). Reads tile-register columns into a vector. -/
  | trdc (cv f v j tr : Nat)
  /-- TCHK (R187). Verifies a tile register against sums in vectors and corrects if possible. -/
  | tchk (sd v bo f tr : Nat)
  /-- TGEN (R187). Writes the column and row sums of a tile register to two vectors. -/
  | tgen (v bo f tr : Nat)
  /-- SAFE (R92). Marks a safe point and takes a pending pre-emption. -/
  | safe (idx : Nat)
  /-- SPAWN (R94). Publishes a child continuation record and increments the parent's join counter. -/
  | spawn (a b : Nat)
  /-- JOIN (R95). Suspends until the continuation's join counter reaches zero. -/
  | join (idx : Nat)
  /-- SUSPEND (R96). Suspends until a watched word becomes non-zero. -/
  | suspend (a idx : Nat)
  /-- YIELD (R97). Writes back and requeues the continuation behind equal deadlines. -/
  | yield (idx : Nat)
  /-- EXIT (R98). Ends the continuation and decrements its parent's join counter. -/
  | exit
  /-- FUSE (R99). Arrives for tandem fusion of a pair or quad. -/
  | fuse (a n : Nat)
  /-- DECPL (R101). Decouples a fused set after its bundle. -/
  | decpl
  /-- REJN (R101). Waits until every member of the last fused set has issued REJN. -/
  | rejn
  /-- TRAP (R102). Raises X_SYSCALL with a code. -/
  | trap (code : Nat)
  /-- TRET (R103). Resumes a faulted record at its resume point and ends the handler. -/
  | tret (a : Nat)
  /-- TRET_NEXT (R103). Resumes a faulted record at the bundle after its resume point. -/
  | tretNext (a : Nat)
  /-- CTLR (R104). Reads a control register into a scalar. -/
  | ctlr (c d : Nat)
  /-- CTLW (R104). Writes a control register that has no row of its own under the scope and access rules. -/
  | ctlw (c a : Nat)
  /-- INJECT_ARM (R49). A CTLW to CTL.INJECT arms a one-time accumulator bit upset. -/
  | injectArm (a : Nat)
  /-- SB_DESCRIPTOR_WRITE (R50). A CTLW to CTL.SBn configures a stream-buffer ring and resets its counters. -/
  | sbDescriptorWrite (n a : Nat)
  /-- GETID (R104). Writes an identifier of the selected kind to a scalar. -/
  | getid (k d : Nat)
  /-- TIME (R105). Writes device time to a scalar. -/
  | time (d : Nat)
  /-- HBEAT (R105). Records a heartbeat value as a progress event when it is greater. -/
  | hbeat (a : Nat)
  /-- FMTSET (R106). Writes a well-formed format descriptor to a format register. -/
  | fmtset (f a : Nat)
  /-- BREAK (R102). Raises X_BREAK with a code. -/
  | brk (code : Nat)
  /-- FENCE (R135). Gates until earlier atomics, publications and loads are complete at a scope. -/
  | fence (sc : Nat)
  /-- BAR (R136). Publishes stores and arrives at a group barrier, then waits for the generation. -/
  | bar (g : Nat)
  /-- FLSET (R137). Sets a flag. -/
  | flset (f : Nat)
  /-- FLCLR (R137). Clears a flag. -/
  | flclr (f : Nat)
  /-- FLWAIT (R137). Gates until a flag equals the given value. -/
  | flwait (f v : Nat)
  /-- SBACQ (R138). Waits for a filled stream-buffer slot and returns its offset. -/
  | sbacq (d sb : Nat)
  /-- SBREL (R138). Returns the oldest acquired slot to the writer. -/
  | sbrel (sb : Nat)
  /-- CPOST (R196). Queues a chain head on a copy channel and re-kicks the channel. -/
  | cpost (ch a : Nat)
  /-- CWAIT (R197). Gates until every masked bit of a bitmap word is set, then starts a phase. -/
  | cwait (a b : Nat)
  /-- CTEST (R198). Tests a bitmap mask once into a flag and arms a test if incomplete. -/
  | ctest (f a b : Nat)
  /-- CPINV (R199). Invalidates the parameter caches serving the core's channels. -/
  | cpinv
  /-- CQRY (R200). Returns the state of a copy channel. -/
  | cqry (ch d : Nat)
  /-- DCFG (R202). Reads a decoder configuration and starts a new stream. -/
  | dcfg (a : Nat)
  /-- VLDX (R203). Pops the next 512 expanded bytes of the stream into a vector. -/
  | vldx (land d : Nat)
  /-- VLDX_WAIT (R203). Gates until the stream has written every block or failed. -/
  | vldxWait (d : Nat)
  /-- COLL (R205). Hands a collective command to the die's Opal. -/
  | coll (a : Nat)
  /-- FREL (R207). Closes the open epoch of a pair and sends a release flag. -/
  | frel (chn b a d : Nat)
  /-- FCHQ (R208). Returns the release state of a pair. -/
  | fchq (chn a d : Nat)
  /-- TPOST (R209). Copies a task descriptor into a submission queue and returns its task index. -/
  | tpost (b a d : Nat)
  /-- TCANCEL (R210). Cancels a task by index. -/
  | tcancel (a d : Nat)
  /-- GUARD_REISSUE (R74). Reissues a gated guarded bundle at the end of a cycle in which a flag changed. -/
  | guardReissue
  /-- QUEUE_STALL_REISSUE (R194). Reissues a bundle stalled on a full queue when an entry leaves the queue. -/
  | queueStallReissue
  /-- RESULT_LANDING (R68). A fixed-latency result lands in its register within its latency bound. -/
  | resultLanding (k : Nat)
  /-- LOAD_LANDING (R69). A variable-latency load writes its destination at its landing cycle, freezing if data is late. -/
  | loadLanding (k : Nat)
  /-- LOAD_DATA_RETURN (R69). Returning data ends a landing freeze and is written at the end of that cycle. -/
  | loadDataReturn (k : Nat)
  /-- TABLE_WALK (R367). A TLB miss is served by a walker through the four-level tables. -/
  | tableWalk (part va : Nat)
  /-- SCRATCH_PAGE_MOVE (R244). A scratch access to a page resident elsewhere moves the page after its write-back and refills it. -/
  | scratchPageMove (page : Nat)
  /-- ARRAY_EXECUTE (R173). The array runs a queued TMMA or TMSR for 24 cycles with its checksum lines. -/
  | arrayExecute
  /-- DRAIN_COMPARISON (R178). After the set's matrix work ends, the array compares lines and corrects or replays. -/
  | drainComparison
  /-- WINDOW_WRITE (R54). An engine write lands in a core's window between two bundles in 64-byte units. -/
  | windowWrite (k : Nat)
  /-- HELD_WINDOW_WRITE (R55). A window write held for a tile group, a swap or a pick-up lands when released. -/
  | heldWindowWrite (k : Nat)
  /-- PREEMPTION_REQUEST (R352). A pre-emption request reaches a core and is taken at the first safe point or waiting bundle. -/
  | preemptionRequest (core : Nat)
  /-- WRITE_BACK (R220). Writes the live context to the frame, then CODE, SAFEIDX and the state word. -/
  | writeBack
  /-- PICK_UP (R217). An idle core picks an eligible ready record and restores its context. -/
  | pickUp (core : Nat)
  /-- TRAP_ENTRY (R356). Writes back a trapping continuation as faulted and delivers the trap. -/
  | trapEntry (t : Trap)
  /-- HOME_SLICE_ATOMIC (R127). An atomic is performed indivisibly at its home slice. -/
  | homeSliceAtomic (k : Nat)
  /-- STORE_PERFORM (R237). A published store is performed at its point of coherence. -/
  | storePerform (k : Nat)
  /-- MONITOR_REREAD (R132). A fallen-back waiter re-reads its word every 256 cc and retries registration. -/
  | monitorReread (k : Nat)
  /-- ATOMIC_REPLY (R129). An atomic reply lands in its register, or in the resume block of a written-back record. -/
  | atomicReply (k : Nat) (reply : Option FabricMsg)
  /-- ATOMIC_TIMEOUT (R311). A pending atomic without reply raises X_ATOMIC_LOST at its timeout. -/
  | atomicTimeout (k : Nat)
  /-- COMBINING_REQUEST (R308). An AADD request at a stage port joins or opens a decombining record or passes. -/
  | combiningRequest (stage port : Nat) (req : CombReq)
  /-- DECOMBINE_REPLY (R309). A merged reply is split into per-entry replies and the record is freed. -/
  | decombineReply (k : Nat) (old : Word)
  /-- WATCHDOG_CORE_TIMER (R362). A core timer reaching the watchdog period raises X_WATCHDOG. -/
  | watchdogCoreTimer (core : Nat)
  /-- WATCHDOG_HEARTBEAT_TIMER (R362). A task's heartbeat timer reaching the period ends the task ST_WATCHDOG. -/
  | watchdogHeartbeatTimer (part idx : Nat)
  /-- BUDGET_OVERRUN (R344). A task's charge passing its budget applies its overrun policy. -/
  | budgetOverrun (part idx : Nat)
  /-- RECORD_READ (R254). A copy engine reads the next transfer record of a chain, parking on OWN = 0. -/
  | recordRead (k : Nat)
  /-- RECORD_START (R258). Starts a record, obtaining its parameter block and descriptors by CRC. -/
  | recordStart (k : Nat)
  /-- CHUNK_MOVE (R251). An engine moves one 512-byte destination chunk of a chain. -/
  | chunkMove (k : Nat)
  /-- RECORD_COMPLETE (R255). Writes the record's status, RESUME and OWN = 0 and follows NEXT. -/
  | recordComplete (k : Nat)
  /-- SLOT_WRITE (R269). Once a stream-buffer slot is free the engine fills it and counts it filled. -/
  | slotWrite (k : Nat)
  /-- DECODER_SOURCE_READ (R273). The decoder reads compressed source bytes in address order. -/
  | decoderSourceRead
  /-- HEADER_PARSE (R278). Parses a block header and table once its last byte arrives. -/
  | headerParse
  /-- BLOCK_DECODE (R283). A block decodes into the FIFO once there is room for its bytes. -/
  | blockDecode
  /-- CRC_COMPARE (R281). Compares a block's expanded CRC and applies the block checks. -/
  | crcCompare
  /-- CYCLE_BOUND_CUTOFF (R281). A block exceeding its counted-cycle bound is cut off. -/
  | cycleBoundCutoff
  /-- DECODER_DEST_WRITE (R285). Released bytes are written to tile rows or scratch. -/
  | decoderDestWrite
  /-- POSTED_WRITE_EGRESS (R295). A posted write passes the egress into the send log and its epoch. -/
  | postedWriteEgress (k : Nat)
  /-- WRITE (R298). An arriving WRITE is bounds-checked, performed and counted in its epoch. -/
  | write (m : FabricMsg)
  /-- RELEASE (R298). An arriving RELEASE is held or answered, then acceptance is tried. -/
  | release (m : FabricMsg)
  /-- RELEASE_FLAG_WRITE (R298). After every counted write is performed the receiver writes the flag and sends ACCEPT. -/
  | releaseFlagWrite (k : Nat)
  /-- ACCEPT (R299). An ACCEPT advances ACC, lowers OUT and frees log entries. -/
  | accept (m : FabricMsg)
  /-- RESEND (R301). A RESEND of a new generation makes the source retransmit its log and releases. -/
  | resend (m : FabricMsg)
  /-- RELEASE_TIMEOUT (R300). A receiver slot's timer expiry bumps GEN and sends RESEND. -/
  | releaseTimeout (k : Nat)
  /-- SOURCE_RELEASE_TIMER (R302). Without ACCEPT for twice the timeout the source re-sends outstanding releases. -/
  | sourceReleaseTimer (k : Nat)
  /-- ATOMIC (R293). An arriving fabric ATOMIC is performed at the home slice and answered. -/
  | atomic (m : FabricMsg)
  /-- READ (R293). An arriving READ is answered with a READ_REPLY. -/
  | read (m : FabricMsg)
  /-- READ_REPLY (R305). A READ_REPLY delivers uncached peer data to the waiting access. -/
  | readReply (m : FabricMsg)
  /-- READ_RETRY (R305). A READ without reply within the release timeout is sent again. -/
  | readRetry (k : Nat)
  /-- KEY_ROTATION (R306). The management core installs a new link key on one station direction. -/
  | keyRotation (station : Nat) (key : Nat)
  /-- PREVIOUS_KEY_DROP (R306). After 512 flits under the new key the receiver drops the previous key. -/
  | previousKeyDrop (station : Nat)
  /-- COLLECTIVE_COMMAND_READ (R315). Opal reads and checks a collective command and its route record. -/
  | collectiveCommandRead (k : Nat)
  /-- BLOCK_ISSUE (R321). The origin issues a command's next block when an origin slot is free. -/
  | blockIssue (k : Nat)
  /-- COLL_PACKET (R318). An Opal checks, performs one hop of and forwards a collective packet. -/
  | collPacket (m : FabricMsg)
  /-- COLLECTIVE_TIMEOUT (R320). A block not returned in time is reissued with a higher attempt. -/
  | collectiveTimeout (k : Nat)
  /-- TASK_TAKE (R337). The scheduler takes a queue entry and admits or rejects it. -/
  | taskTake (part q : Nat)
  /-- TASK_DISPATCH (R340). Dispatches an admitted task's ROOT record once no edge remains. -/
  | taskDispatch (part idx : Nat)
  /-- GROUP_HOLD (R228). A pinned task acquires all its group's cores when none is held by another task. -/
  | groupHold (part idx : Nat)
  /-- TASK_COMPLETE (R341). On live count 0, jobs ended and egress passed, the task completes and signals. -/
  | taskComplete (part idx : Nat)
  /-- TASK_RERUN (R346). A RERUNNING task returns to WAITING with charges cleared once drained. -/
  | taskRerun (part idx : Nat)
  /-- PRELOAD (R348). The scheduler names a preload candidate and the core fetches its code and pages. -/
  | preload (core : Nat)
  /-- AGATE_FRAME_WRITE (R354). The die writes a frame held in the Agate store to memory in the background. -/
  | agateFrameWrite (k : Nat)
  /-- RDMA_WRITE (R385). A host RDMA WRITE is performed at device scope under its memory key. -/
  | rdmaWrite (h : HostAccess) (addr : Nat) (data : List Byte)
  /-- RDMA_READ (R385). A host RDMA READ is performed at device scope under its memory key. -/
  | rdmaRead (h : HostAccess) (addr len : Nat)
  /-- FETCH_AND_ADD (R388). A host FETCH_AND_ADD advances a queue's TAIL or another granted word. -/
  | fetchAndAdd (h : HostAccess) (addr : Nat) (v : Word)
  /-- CREATE_PARTITION (R387). Creates a partition with its quotas. -/
  | createPartition (part : Nat) (q : Quotas)
  /-- DESTROY_PARTITION (R386). Frees a partition's clusters, memory and slots. -/
  | destroyPartition (part : Nat)
  /-- SET_GROUP (R223). Writes MEMBERS and KIND of a group-table entry. -/
  | setGroup (part g kind : Nat) (members : Nat)
  /-- CREATE_QUEUE (R334). Creates and opens a submission queue with its control block. -/
  | createQueue (part q : Nat) (attr : QueueAttr)
  /-- QUEUE_RESET (R349). Sets a queue RESETTING and cancels its entries and tasks. -/
  | queueReset (part q : Nat)
  /-- QUEUE_REOPEN (R349). When a resetting queue is drained, HEAD and TAIL go to 0 and it reopens. -/
  | queueReopen (part q : Nat)
  /-- CLOSE_QUEUE (R416). Sets a queue's close mark at its current TAIL. -/
  | closeQueue (part q : Nat)
  /-- QUEUE_CLOSED (R416). When every entry below the mark is taken and done, the queue becomes CLOSED. -/
  | queueClosed (part q : Nat)
  /-- SWAP_OUT (R354). Takes a partition off its cores into the Agate store. -/
  | swapOut (part : Nat)
  /-- SWAP_IN (R355). Reopens a swapped partition's queues and records. -/
  | swapIn (part : Nat)
  /-- SET_CTL (R386). Writes a P-scope control register. -/
  | setCtl (part c : Nat) (v : Word)
  /-- RESUME (R371). Host answer that serves a fault passed on by the page agent. -/
  | resume (part rec : Nat)
  /-- DELIVER (R371). Host answer that declines a passed fault to the task's handler. -/
  | deliver (part rec : Nat)
  /-- OPEN_PAIR (R390). Opens the source or receiver end of a write-channel pair. -/
  | openPair (part : Nat) (o : PairOpen)
  /-- CLOSE_PAIR (R390). Closes one end of a pair. -/
  | closePair (part : Nat) (source : Bool) (peer chn : Nat)
  /-- OPEN_COMM (R390). Opens a communicator entry naming the partition. -/
  | openComm (part comm : Nat)
  /-- CLOSE_COMM (R390). Closes a communicator entry. -/
  | closeComm (comm : Nat)
  /-- SET_REACH (R292). Writes a device's reachability bit, ending outstanding READs when cleared. -/
  | setReach (dev : Nat) (v : Bool)
  /-- QUIESCE (R400). Brings a partition or the module to a consistent cut and writes its image. -/
  | quiesce (part : Nat) (dest key : Nat)
  /-- THAW (R399). Releases a quiesced partition as SWAP_IN and reopens its ingress. -/
  | thaw (part : Nat)
  /-- RESTORE (R407). Checks and loads a state image into a created partition. -/
  | restore (part addr len : Nat) (shift reqsig : Bool)
  /-- SET_POWER_LIMIT (R411). Sets the module power limit. -/
  | setPowerLimit (watts : Nat)
  /-- ATTEST (R413). Returns a signed attestation report over a host nonce. -/
  | attest (nonce : List Byte)
  /-- SET_TRUST (R413). Installs or removes a trusted image public key. -/
  | setTrust (install : Bool) (key : List Byte)
  /-- SHOOTDOWN (R369). Drops translations of a range on every agent and waits for acknowledgements. -/
  | shootdown (part va pages : Nat) (whole : Bool)
  /-- COLLAPSE (R373). The home agent grants a DUP page to a writer and invalidates the other replicas. -/
  | collapse (tag va frame requester : Nat)
  /-- INVALIDATE (R373). A replica device rewrites its leaf to REMOTE_CACHED, shoots down and acknowledges. -/
  | invalidate (tag va owner frame home : Nat)
  /-- GRANT (R373). The writer rewrites its leaf LOCAL, shoots down and serves the fault. -/
  | grant (tag va : Nat)
  /-- OWNED (R375). A COLLAPSE answered OWNED makes the requester decline the fault. -/
  | owned (tag va : Nat)
  /-- NOPART (R372). An agent with no partition of that TAG answers NOPART: a request of a device comes for a TAG that this module does not
  have, or a device's answer to this module's own request. -/
  | nopart (tag va : Nat) (req : AgentReq)
  /-- MIGRATION_THRESHOLD (R376). A page's access count reaching its threshold asks the holder to migrate it. -/
  | migrationThreshold (part va : Nat)
  /-- MIGRATION_REQUEST (R377). The holder migrates the page through in-transit, copy and remap steps; or its answer comes, naming the new
  holder. -/
  | migrationRequest (tag va requester : Nat) (note : MigrationNote)
  /-- ERROR_EVENT (R391). An error check detects an error and corrects, counts or escalates it. -/
  | errorEvent (e : ErrorEvent)
  /-- UNIT_RETIREMENT (R394). A unit whose event count reaches its threshold is retired. -/
  | unitRetirement (u : HwUnit)
  /-- EVENT_WINDOW_END (R394). At each 2^30-cc window boundary the event counts restart. -/
  | eventWindowEnd
  /-- CHANNEL_RETIREMENT (R396). A memory channel is retired once its pages have moved. -/
  | channelRetirement (ch : Nat)
  /-- POWER_MEASUREMENT (R411). Every 10 µs power and temperature are measured and the core clock stepped. -/
  | powerMeasurement (watts temp : Nat)
  /-- RAIL_LOSS (R410). Loss of any main rail drops every rail and all state. -/
  | railLoss
  /-- BRING_UP (R412). Rails rise in order, firmware is verified and the module starts accepting commands. -/
  | bringUp (fw : Firmware) (devId vlan : Nat)
  /-- SCRATCH_PAGE_REFILL (R108). The refill of an unpinned scratch page that is resident on no core completes and ends the freeze of the access waiting for it. -/
  | scratchPageRefill (page : Nat)
  /-- TPOST_COPY_COMPLETE (R209). The copy of a posted descriptor into its queue completes, so TPOST joins the done mask and its gated bundle retires. -/
  | tpostCopyComplete
  /-- COLLAPSE_ACKNOWLEDGEMENT (R373). The home agent receives a replica device's acknowledgement of INVALIDATE and sends GRANT once every acknowledgement has arrived. -/
  | collapseAcknowledgement (tag va dev : Nat)
  /-- MIGRATION_REWRITE (R377). A mapping device asked by the holder rewrites its leaf for a migrating page, to in transit or to MIGRATE at the new holder, shoots it down and acknowledges. -/
  | migrationRewrite (tag va : Nat) (final : Bool) (sender : Nat) (place : PagePlace)
  /-- INVALID_REQUEST (R384). A host RoCEv2 operation other than those supported is answered with an Invalid Request NAK and has no effect. -/
  | invalidRequest (code : Nat)
  deriving DecidableEq, Repr

end Sys2Proof
end

