-- ==== Sys2Proof/WellFormed.lean ====
section
/-! DEFINITION. The ranges of every operand (check 2 of Table 4-6 as far as the word alone decides it): what an op
word may hold, whatever the state. Events carry no encoding; their arguments are unrestricted. -/

namespace Sys2Proof

/-- `v` is an unsigned field of `n` bits. -/
abbrev fits (n v : Nat) : Bool := decide (v < 2 ^ n)

/-- `v` is a signed field of `n` bits (R60). -/
abbrev fitsS (n : Nat) (v : Int) : Bool := decide (-(2 ^ (n - 1) : Nat) ≤ v) && decide (v < (2 ^ (n - 1) : Nat))

/-- A landing count of a load (R60, R114). -/
abbrev landOk (n : Nat) : Bool := decide (1 ≤ n) && fits 7 n

/-- The lane width of an element-type code other than 6 (Table 4-4). -/
def typeWidth : Nat → Nat
  | 0 => 4
  | 1 => 8
  | 2 => 16
  | 3 => 32
  | 4 => 64
  | _ => 16

/-- The lane count of an element-type code other than 6 (R46). -/
def typeLanes (t : Nat) : Nat := 4096 / typeWidth t

/-- Integer element types; 6 only in the long form (R61, R142, R146). -/
def intType (long : Bool) (t : Nat) : Bool := decide (t ≤ 4) || (long && t == 6)

/-- Float element types; 6 only in the long form (R61, R142, R149). -/
def floatType (long : Bool) (t : Nat) : Bool := t == 2 || t == 3 || t == 5 || (long && t == 6)

/-- The lane widths that an element type may name: its own, or any of a format (R27). -/
def typeWidths (t : Nat) : List Nat := if t = 6 then [4, 8, 16, 32] else [typeWidth t]

/-- Is SEL below the ratio of the wider lanes to the narrower ones for some pair of lane widths (R151)? -/
def selOk (ls ld : List Nat) (sel : Nat) : Bool := ls.any fun a => ld.any fun b => decide (sel < max a b / min a b)

/-- Any element type but 7; 6 only in the long form (R148, R156, R158, R159). -/
def anyType (long : Bool) (t : Nat) : Bool := decide (t ≤ 5) || (long && t == 6)

/-- The register fields of a VR word. -/
def VR.regsOk (o : VR) : Bool := fits 5 o.p && fits 3 o.t && fits 5 o.b && fits 5 o.a && fits 5 o.d

/-- The register fields of a VRL word; PX names P0–P95 (R60), and FD is zero unless the element type or the
instruction names it (R60, R140). -/
def VL.regsOk (o : VL) (fdNamed : Bool) : Bool :=
  fits 3 o.t && fits 5 o.b && fits 5 o.a && fits 5 o.d && fits 4 o.fd && fits 5 o.c && decide (o.px ≤ 95) && fits 16 o.hi
    && (fdNamed || o.t == 6 || o.fd == 0)

/-- Bits `lo` to `lo + n - 1` of a number. -/
abbrev bitsOf (v lo n : Nat) : Nat := v / 2 ^ lo % 2 ^ n

/-- U[17] of the second word (R140). -/
def VL.u (o : VL) : Nat := bitsOf o.hi 1 1
/-- FK[18] of the second word (R140). -/
def VL.fk (o : VL) : Nat := bitsOf o.hi 2 1
/-- SEL[31:28] (R151) or CC[31:28] (R147). -/
def VL.sel (o : VL) : Nat := bitsOf o.hi 12 4
/-- PD[22:16] (R147) or SP[22:16] (R148). -/
def VL.pd (o : VL) : Nat := bitsOf o.hi 0 7
/-- FS[27:24] of VCVT (Table 7-5). -/
def VL.fs (o : VL) : Nat := bitsOf o.hi 8 4
/-- SD[22:17] of VQNT, SS[22:17] of VDQNT (Table 7-5). -/
def VL.sd (o : VL) : Nat := bitsOf o.hi 1 6
/-- TF[26:24] of VI2F and VF2I (Table 7-5). -/
def VL.tf (o : VL) : Nat := bitsOf o.hi 8 3
/-- U[23] of VI2F and VF2I (Table 7-5). -/
def VL.uc (o : VL) : Nat := bitsOf o.hi 7 1
/-- K[26:16] of VSLIDE, LN[26:16] of the single-element moves. -/
def VL.k (o : VL) : Nat := bitsOf o.hi 0 11
/-- UP, SRC or SX at [27]. -/
def VL.x (o : VL) : Nat := bitsOf o.hi 11 1

/-- The lane index or slide distance is within the lanes of the word's own type; with T = 6 the format register
decides, and the meaning checks it. -/
def VL.laneOk (o : VL) : Bool := o.t == 6 || decide (o.k < typeLanes o.t)

/-- An integer word with B unused, in the short form. -/
def VR.int (o : VR) (unary : Bool) : Bool := o.regsOk && intType false o.t && (!unary || o.b == 0)
def VR.float (o : VR) (unary : Bool) : Bool := o.regsOk && floatType false o.t && (!unary || o.b == 0)
/-- An integer word of the long form: `useU` when U is listed, `useC` when C names a source. U must be zero with
T = 6 (R142). -/
def VL.int (o : VL) (unary useU useC : Bool) : Bool :=
  o.regsOk false && intType true o.t && (!unary || o.b == 0) && (useC || o.c == 0)
    && (o.hi == 0 || (useU && o.hi == 2 && o.t != 6))
def VL.float (o : VL) (unary useC : Bool) : Bool :=
  o.regsOk false && floatType true o.t && (!unary || o.b == 0) && (useC || o.c == 0) && o.hi == 0

/-- FK, U and the type of VRMAX, VRMIN and VSCAN (R160, R161). -/
def VL.fkOk (o : VL) : Bool :=
  o.regsOk false && o.b == 0 && o.c == 0 &&
    ((o.hi == 4 && floatType true o.t) || (o.hi == 0 && intType true o.t) || (o.hi == 2 && intType true o.t && o.t != 6))

def AT.ok (o : AT) (useC sz0 : Bool) : Bool :=
  fits 1 o.nr && fits 1 o.sz && fits 7 o.land && fits 6 o.a && fits 6 o.d && fits 6 o.b && fits 6 o.c && fitsS 20 o.off
    && (if o.nr == 0 then decide (1 ≤ o.land) else o.d == 0 && o.land == 0) && (useC || o.c == 0) && (!sz0 || o.sz == 0)

/-- A scope code of Table 4-5. -/
abbrev scopeOk (n : Nat) : Bool := decide (n ≤ 4)

/-- The control register indexes that Table 3-2 lists (R47). -/
def ctlListed (c : Nat) : Bool :=
  decide (c ≤ 0x05) || (decide (0x08 ≤ c) && decide (c ≤ 0x11)) || (decide (0x20 ≤ c) && decide (c ≤ 0x26))
    || (decide (0x40 ≤ c) && decide (c ≤ 0x4F))

/-- The operand ranges of every op word; an event has none. -/
def Instr.wellFormed : Instr → Bool
  | .add d a b | .sub d a b | .mul d a b | .mulh d a b | .mulhu d a b | .div d a b | .divu d a b | .rem d a b
  | .remu d a b | .and d a b | .or d a b | .xor d a b | .andn d a b | .shl d a b | .shr d a b | .sra d a b
  | .rotr d a b | .min d a b | .max d a b | .minu d a b | .maxu d a b | .seq d a b | .slt d a b | .sltu d a b =>
    fits 6 d && fits 6 a && fits 6 b
  | .clz d a | .ctz d a | .popc d a => fits 6 d && fits 6 a
  | .sext d a f | .zext d a f => fits 6 d && fits 6 a && decide (f ≤ 2)
  | .sel d a b c => fits 6 d && fits 6 a && fits 6 b && fits 6 c
  | .bfx d a pos len sx => fits 6 d && fits 6 a && fits 6 pos && decide (1 ≤ len) && decide (len ≤ 64) && fits 1 sx
  | .bfi d a b pos len => fits 6 d && fits 6 a && fits 6 b && fits 6 pos && decide (1 ≤ len) && decide (len ≤ 64)
  | .addi d a imm | .andi d a imm | .ori d a imm | .xori d a imm => fits 6 d && fits 6 a && fitsS 11 imm
  | .shli d a imm | .shri d a imm | .srai d a imm | .shliLong d a imm | .shriLong d a imm | .sraiLong d a imm =>
    fits 6 d && fits 6 a && decide (0 ≤ imm) && decide (imm ≤ 63)
  | .addiLong d a imm | .andiLong d a imm | .oriLong d a imm | .xoriLong d a imm =>
    fits 6 d && fits 6 a && fitsS 32 imm
  | .movi d md imm => fits 6 d && decide (md ≤ 1) && fits 32 imm
  | .moviHi d imm => fits 6 d && fits 32 imm
  | .step slot src a imm =>
    decide (slot ≤ 4) && ((src == 0 && a == 0 && fitsS 12 imm) || (src == 1 && fits 6 a && imm == 0))
  | .beq a b off | .bne a b off | .blt a b off | .bge a b off | .bltu a b off | .bgeu a b off =>
    fits 6 a && fits 6 b && fitsS 11 off
  | .beqLong a b off | .bneLong a b off | .bltLong a b off | .bgeLong a b off | .bltuLong a b off | .bgeuLong a b off =>
    fits 6 a && fits 6 b && fitsS 32 off
  | .bpany p lc off | .bpnone p lc off => fits 6 p && decide (lc ≤ 4) && fitsS 11 off
  | .bpanyLong p lc off | .bpnoneLong p lc off => fits 6 p && decide (lc ≤ 4) && fitsS 32 off
  | .jmp off => fitsS 11 off
  | .jmpLong off => fitsS 32 off
  | .jmpi a | .ret a => fits 6 a
  | .call a off | .loop a off => fits 6 a && fitsS 11 off
  | .callLong a off | .loopLong a off => fits 6 a && fitsS 32 off
  | .calli a b => fits 6 a && fits 6 b
  | .phase => true
  | .ldb d a land off | .ldbs d a land off | .ldh d a land off | .ldhs d a land off | .ldw d a land off
  | .ldws d a land off | .ldd d a land off => fits 6 d && fits 6 a && landOk land && fitsS 32 off
  | .vld d a land off => fits 5 d && fits 6 a && landOk land && fitsS 32 off
  | .stb d a chn off | .sth d a chn off | .stw d a chn off | .std d a chn off =>
    fits 6 d && fits 6 a && fits 4 chn && fitsS 32 off
  | .vst d a chn off => fits 5 d && fits 6 a && fits 4 chn && fitsS 32 off
  | .vldp land pt d => landOk land && fits 3 pt && fits 5 d
  | .vldpSet land pt a => landOk land && fits 3 pt && fits 6 a
  | .vstp chn pt d => fits 4 chn && fits 3 pt && fits 5 d
  | .vstpSave pt a => fits 3 pt && fits 6 a
  | .vgth esz ix a d land px => fits 2 esz && fits 5 ix && fits 6 a && fits 5 d && landOk land && decide (px ≤ 95)
  | .vsct esz ix a d px chn => fits 2 esz && fits 5 ix && fits 6 a && fits 5 d && decide (px ≤ 95) && fits 4 chn
  | .tld bo t f a land => fits 4 bo && fits 3 t && fits 4 f && fits 6 a && landOk land
  | .tst bo t f a chn => fits 4 bo && fits 3 t && fits 4 f && fits 6 a && fits 4 chn
  | .prf cnt a lv off => fits 4 cnt && fits 6 a && decide (lv ≤ 1) && fitsS 32 off
  | .spin n a | .sprel n a => fits 4 n && fits 6 a
  | .aadd o | .axchg o | .aand o | .aor o | .axor o | .amin o | .amax o | .aminu o | .amaxu o => o.ok false false
  | .acas o => o.ok true false
  | .afadd o | .afmin o | .afmax o => o.ok false true
  | .waita sz a d b off => fits 1 sz && fits 6 a && fits 6 d && fits 6 b && fitsS 20 off
  | .wake sz b a => fits 1 sz && fits 6 b && fits 6 a
  | .vadd o | .vsub o | .vmul o | .vmulh o | .vmin o | .vmax o | .vand o | .vor o | .vxor o | .vshl o | .vshr o
  | .vsra o => o.int false
  | .vabs o | .vneg o | .vnot o | .vpopc o | .vclz o | .vrsum o => o.int true
  | .vrmax o | .vrmin o | .vscan o => o.int true
  | .vmad o => o.int false true true
  | .vaddLong o | .vsubLong o | .vmulLong o | .vmulhLong o | .vminLong o | .vmaxLong o | .vshlLong o =>
    o.int false true false
  | .vandLong o | .vorLong o | .vxorLong o | .vshrLong o | .vsraLong o => o.int false false false
  | .vabsLong o | .vnegLong o | .vnotLong o | .vpopcLong o | .vclzLong o => o.int true false false
  | .vrsumLong o => o.int true true false
  | .vcmp o => o.regsOk false && intType true o.t && o.d == 0 && o.c == 0 && decide (o.sel ≤ 9) && decide (o.pd ≤ 95)
      && bitsOf o.hi 7 5 == 0
  | .vfcmp o => o.regsOk false && floatType true o.t && o.d == 0 && o.c == 0 && decide (o.sel ≤ 7)
      && decide (o.pd ≤ 95) && bitsOf o.hi 7 5 == 0
  | .vsel o => o.regsOk false && anyType true o.t && o.c == 0 && decide (o.pd ≤ 95) && bitsOf o.hi 7 9 == 0
  | .vfadd o | .vfsub o | .vfmul o | .vfmin o | .vfmax o | .vfdiv o => o.float false
  | .vfabs o | .vfneg o | .vfsqrt o | .vrcp o | .vrsq o | .vexp2 o | .vlog2 o | .vtanh o | .vrfsum o => o.float true
  | .vfma o => o.float false true
  | .vfaddLong o | .vfsubLong o | .vfmulLong o | .vfminLong o | .vfmaxLong o | .vfdivLong o => o.float false false
  | .vfabsLong o | .vfnegLong o | .vfsqrtLong o | .vrcpLong o | .vrsqLong o | .vexp2Long o | .vlog2Long o
  | .vtanhLong o | .vrfsumLong o => o.float true false
  | .vcvt o => o.regsOk true && o.t == 0 && o.b == 0 && o.c == 0 && bitsOf o.hi 0 8 == 0
      && selOk (typeWidths 6) (typeWidths 6) o.sel
  | .vqnt o | .vdqnt o => o.regsOk true && floatType false o.t && o.b == 0 && o.c == 0 && bitsOf o.hi 7 5 == 0
      && bitsOf o.hi 0 1 == 0 && selOk [typeWidth o.t] [4, 8] o.sel
  | .vi2f o | .vf2i o => o.regsOk (o.tf == 6) && decide (o.t ≤ 4) && o.b == 0 && o.c == 0 && floatType true o.tf
      && bitsOf o.hi 11 1 == 0 && bitsOf o.hi 0 7 == 0 && selOk [typeWidth o.t] (typeWidths o.tf) o.sel
  | .vperm o => o.regsOk false && anyType true o.t && o.t != 0 && o.t != 1 && o.hi == 0
  | .vshuf o => o.regsOk false && o.t == 1 && o.b == 0 && o.hi == 0
  | .vslide o => o.regsOk && anyType false o.t
  | .vslideLong o => o.regsOk false && anyType true o.t && o.c == 0 && bitsOf o.hi 12 4 == 0
      && (o.t == 6 || decide (o.k ≤ typeLanes o.t))
  | .vbcast o => o.regsOk && anyType false o.t && o.b == 0
  | .vbcastLong o => o.regsOk false && anyType true o.t && o.b == 0 && o.c == 0 && bitsOf o.hi 12 4 == 0
      && (if o.x == 1 then o.laneOk else o.k == 0)
  | .vext o | .vins o => o.regsOk && anyType false o.t && o.p == 0
  | .vextLong o => o.regsOk false && anyType true o.t && o.b == 0 && o.c == 0 && o.px == 0 && bitsOf o.hi 12 4 == 0
      && o.laneOk
  | .vinsLong o => o.regsOk false && anyType true o.t && o.b == 0 && o.c == 0 && o.px == 0 && bitsOf o.hi 11 5 == 0
      && o.laneOk
  | .vcmpr o | .vexpd o => o.regsOk && anyType false o.t && o.b == 0
  | .vcmprLong o | .vexpdLong o => o.regsOk false && anyType true o.t && o.b == 0 && o.c == 0 && o.hi == 0
  | .vrmaxLong o | .vrminLong o | .vscanLong o => o.fkOk
  | .pand d a b | .por d a b | .pxor d a b | .pandn d a b => decide (d ≤ 95) && decide (a ≤ 95) && decide (b ≤ 95)
  | .pnot d a | .pmov d a => decide (d ≤ 95) && decide (a ≤ 95)
  | .pcnt lc s a | .pfirst lc s a => decide (lc ≤ 4) && fits 6 s && decide (a ≤ 95)
  | .psetn lc s d => decide (lc ≤ 4) && fits 6 s && decide (d ≤ 95)
  | .tzero mk fb fa set => decide (mk ≤ 4) && fits 4 fb && fits 4 fa && fits 1 set
  | .tmma nv seg tb ta set => fits 7 nv && decide (seg ≤ 9) && fits 3 tb && fits 3 ta && fits 1 set
  | .tmsr nv seg tb ta set => decide (nv ≤ 24) && decide (seg ≤ 9) && fits 3 tb && fits 3 ta && fits 1 set
  | .tdrainTile f bo r set => fits 4 f && fits 4 bo && decide (r ≤ 7) && fits 1 set
  | .tdrainVector f row r set => fits 4 f && fits 7 row && decide (r ≤ 31) && fits 1 set
  | .tdrainMemory f r set sc chn off =>
    fits 4 f && fits 6 r && fits 1 set && scopeOk sc && fits 4 chn && fitsS 20 off && (chn == 0 || sc == 4)
  | .twr cv bq f v row tr | .trdr cv bq f v row tr =>
    fits 1 cv && fits 3 bq && fits 4 f && fits 5 v && fits 7 row && fits 3 tr
  | .trdc cv f v j tr => fits 1 cv && fits 4 f && fits 5 v && fits 10 j && fits 3 tr
  | .tchk sd v bo f tr => fits 6 sd && decide (v ≤ 30) && fits 4 bo && fits 4 f && fits 3 tr
  | .tgen v bo f tr => decide (v ≤ 30) && fits 4 bo && fits 4 f && fits 3 tr
  | .safe idx | .join idx | .yield idx => fits 16 idx
  | .spawn a b => fits 6 a && fits 6 b
  | .suspend a idx => fits 6 a && fits 16 idx
  | .exit | .decpl | .rejn | .cpinv => true
  | .fuse a n => fits 6 a && fits 1 n
  | .trap code | .brk code => fits 16 code
  | .tret a | .tretNext a | .hbeat a | .dcfg a | .coll a | .injectArm a => fits 6 a
  | .ctlr c d => ctlListed c && fits 6 d
  | .ctlw c a => ctlListed c && fits 6 a && c != 0x11 && !(decide (0x40 ≤ c) && decide (c ≤ 0x4F))
  | .sbDescriptorWrite n a => fits 4 n && fits 6 a
  | .getid k d => decide (k ≤ 8) && fits 6 d
  | .time d => fits 6 d
  | .fmtset f a => fits 4 f && fits 6 a
  | .fence sc => scopeOk sc
  | .bar g => fits 8 g
  | .flset f | .flclr f => fits 6 f
  | .flwait f v => fits 6 f && fits 1 v
  | .sbacq d sb => fits 6 d && fits 4 sb
  | .sbrel sb => fits 4 sb
  | .cpost ch a => fits 3 ch && fits 6 a
  | .cwait a b => fits 6 a && fits 6 b
  | .ctest f a b => fits 6 f && fits 6 a && fits 6 b
  | .cqry ch d => fits 3 ch && fits 6 d
  | .vldx land d => landOk land && fits 5 d
  | .vldxWait d => fits 6 d
  | .frel chn b a d => fits 4 chn && fits 6 b && fits 6 a && fits 6 d
  | .fchq chn a d => fits 4 chn && fits 6 a && fits 6 d
  | .tpost b a d => fits 6 b && fits 6 a && fits 6 d
  | .tcancel a d => fits 6 a && fits 6 d
  | .guardReissue | .queueStallReissue | .resultLanding _ | .loadLanding _ | .loadDataReturn _ | .tableWalk _ _
  | .scratchPageMove _ | .arrayExecute | .drainComparison | .windowWrite _ | .heldWindowWrite _
  | .preemptionRequest _ | .writeBack | .pickUp _ | .trapEntry _ | .homeSliceAtomic _ | .storePerform _
  | .monitorReread _ | .atomicReply _ _ | .atomicTimeout _ | .combiningRequest _ _ _ | .decombineReply _ _
  | .watchdogCoreTimer _ | .watchdogHeartbeatTimer _ _ | .budgetOverrun _ _ | .recordRead _ | .recordStart _
  | .chunkMove _ | .recordComplete _ | .slotWrite _ | .decoderSourceRead | .headerParse | .blockDecode
  | .crcCompare | .cycleBoundCutoff | .decoderDestWrite | .postedWriteEgress _ | .write _ | .release _
  | .releaseFlagWrite _ | .accept _ | .resend _ | .releaseTimeout _ | .sourceReleaseTimer _ | .atomic _ | .read _
  | .readReply _ | .readRetry _ | .keyRotation _ _ | .previousKeyDrop _ | .collectiveCommandRead _ | .blockIssue _
  | .collPacket _ | .collectiveTimeout _ | .taskTake _ _ | .taskDispatch _ _ | .groupHold _ _ | .taskComplete _ _
  | .taskRerun _ _ | .preload _ | .agateFrameWrite _ | .rdmaWrite _ _ _ | .rdmaRead _ _ _ | .fetchAndAdd _ _ _
  | .createPartition _ _ | .destroyPartition _ | .setGroup _ _ _ _ | .createQueue _ _ _ | .queueReset _ _
  | .queueReopen _ _ | .closeQueue _ _ | .queueClosed _ _ | .swapOut _ | .swapIn _ | .setCtl _ _ _ | .resume _ _
  | .deliver _ _ | .openPair _ _ | .closePair _ _ _ _ | .openComm _ _ | .closeComm _ | .setReach _ _
  | .quiesce _ _ _ | .thaw _ | .restore _ _ _ _ _ | .setPowerLimit _ | .attest _ | .setTrust _ _
  | .shootdown _ _ _ _ | .collapse _ _ _ _ | .invalidate _ _ _ _ _ | .grant _ _ | .owned _ _ | .nopart _ _ _
  | .migrationThreshold _ _ | .migrationRequest _ _ _ _ | .errorEvent _ | .unitRetirement _ | .eventWindowEnd
  | .channelRetirement _ | .powerMeasurement _ _ | .railLoss | .bringUp _ _ _ | .scratchPageRefill _
  | .tpostCopyComplete | .collapseAcknowledgement _ _ _ | .migrationRewrite _ _ _ _ _ | .invalidRequest _ => true

end Sys2Proof
end

