-- ==== Sys2Proof/Decode.lean ====
section
/-! DEFINITION. Decoding: bytes to words (R6, R56), a word to the op word of its slot class (Tables 4-3, 4-7 to
4-11 and each instruction's layout), the words of a bundle to its slots with their prefixes (R57–R65), total and
rejecting by name; and the encoder, written from the same layouts. -/

namespace Sys2Proof

noncomputable section

/-- The slot classes, each with its own opcode space (Tables 4-7 to 4-11). -/
inductive Cls where
  | I | M | V | X | E
  deriving DecidableEq, Repr

/-- Why a word or a bundle is refused. Every one is X_ILLEGAL (Table 4-6, checks 1 to 3). -/
inductive DecErr where
  | unassignedOp | wrongKind | nonZeroField | fieldRange | notHeader | reservedHeader | wordCount | structure
  | slotClass | prefixKind | prefixArg | prefixPlace | twicePrefixed | repForbidden | channelScope | operands
  deriving DecidableEq, Repr

/-! ## Fields, least significant first -/

/-- Lay values out as consecutive fields (width, value), the first at bit 0. -/
def pack : List (Nat × Nat) → Nat
  | [] => 0
  | (w, v) :: r => v % 2 ^ w + 2 ^ w * pack r

/-- Read consecutive fields of the given widths, the first at bit 0. -/
def unpack : List Nat → Nat → List Nat
  | [], _ => []
  | w :: r, n => n % 2 ^ w :: unpack r (n / 2 ^ w)

/-- The two's-complement reading of an n-bit field (R60). -/
def sgn (n v : Nat) : Int := if v < 2 ^ (n - 1) then (v : Int) else (v : Int) - (2 ^ n : Nat)

/-- The n-bit field of a signed value. -/
def usg (n : Nat) (v : Int) : Nat := (v % ((2 ^ n : Nat) : Int)).toNat

abbrev DecResult := Except DecErr Instr

/-- A decoded word stands when its operands lie in their ranges (check 2 of Table 4-6). -/
def checked (i : Instr) : DecResult := if i.wellFormed then .ok i else .error .fieldRange

/-- Refuse a word whose unused fields are not zero (R60). -/
def zeros (zs : List Nat) (i : Instr) : DecResult :=
  if zs.all (· == 0) then checked i else .error .nonZeroField

/-- The major opcode OP[8:2] (R60). -/
def opOf (w : Nat) : Nat := w / 4 % 128

/-! ## Layouts of the first and second words -/

def decIR (w : Nat) (k : Nat → Nat → Nat → Nat → DecResult) : DecResult :=
  match unpack [9, 6, 6, 6, 5] w with
  | [_, d, a, b, f] => k d a b f
  | _ => .error .operands

def decRRR (w : Nat) (k : Nat → Nat → Nat → Instr) : DecResult := decIR w fun d a b f => zeros [f] (k d a b)
def decRR (w : Nat) (k : Nat → Nat → Instr) : DecResult := decIR w fun d a b f => zeros [b, f] (k d a)

/-- Formats II and IL: the immediate is signed, 11 or 32 bits (R60, R85). -/
def decImm (w : Nat) (w2 : Option Nat) (k kl : Nat → Nat → Int → Instr) : DecResult :=
  match unpack [9, 6, 6, 11] w, w2 with
  | [_, d, a, i], none => checked (k d a (sgn 11 i))
  | [_, d, a, z], some i => zeros [z] (kl d a (sgn 32 i))
  | _, _ => .error .operands

/-- Formats IB and IBL: A, B and the signed offset in words (R60). -/
def decB (w : Nat) (w2 : Option Nat) (k kl : Nat → Nat → Int → DecResult) : DecResult :=
  match unpack [9, 6, 6, 11] w, w2 with
  | [_, a, b, o], none => k a b (sgn 11 o)
  | [_, a, b, z], some o => if z = 0 then kl a b (sgn 32 o) else .error .nonZeroField
  | _, _ => .error .operands

def decML (w w2 : Nat) (k : Nat → Nat → Nat → Nat → Int → DecResult) : DecResult :=
  match unpack [9, 6, 6, 7, 4] w with
  | [_, d, a, land, fn] => k d a land fn (sgn 32 w2)
  | _ => .error .operands

def decLoad (w w2 : Nat) (k : Nat → Nat → Nat → Int → Instr) : DecResult :=
  decML w w2 fun d a land fn off => zeros [fn] (k d a land off)
def decStore (w w2 : Nat) (k : Nat → Nat → Nat → Int → Instr) : DecResult :=
  decML w w2 fun d a land fn off => zeros [land] (k d a fn off)

def decAT (w w2 : Nat) (k : AT → DecResult) : DecResult :=
  match unpack [9, 6, 6, 7, 2, 1, 1] w, unpack [20, 6, 6] w2 with
  | [_, d, a, land, z, sz, nr], [off, c, b] =>
    if z = 0 then k ⟨nr, sz, land, a, d, b, c, sgn 20 off⟩ else .error .nonZeroField
  | _, _ => .error .operands

def decVR (w : Nat) : VR :=
  match unpack [9, 5, 5, 5, 3, 5] w with
  | [_, d, a, b, t, p] => ⟨p, t, b, a, d⟩
  | _ => ⟨0, 7, 0, 0, 0⟩

/-- A V-class word of either kind; PM of a VRL first word is zero (R60). -/
def decV (w : Nat) (w2 : Option Nat) (k : Option (VR → Instr)) (kl : Option (VL → Instr)) : DecResult :=
  match w2, k, kl with
  | none, some k, _ => checked (k (decVR w))
  | some w2, _, some kl =>
    match unpack [7, 5, 4, 16] w2 with
    | [px, c, fd, hi] =>
      let o := decVR w
      zeros [o.p] (kl ⟨o.t, o.b, o.a, o.d, fd, c, px, hi⟩)
    | _ => .error .operands
  | _, _, _ => .error .wrongKind

def decPL (w : Nat) (k : Nat → Nat → Nat → DecResult) : DecResult :=
  match unpack [9, 7, 7, 7, 2] w with
  | [_, b, a, d, z] => if z = 0 then k d a b else .error .nonZeroField
  | _ => .error .operands

def decPC (w : Nat) (k : Nat → Nat → Nat → Instr) : DecResult :=
  match unpack [9, 7, 7, 6, 3] w with
  | [_, z, p, s, lc] => zeros [z] (k lc s p)
  | _ => .error .operands

/-- E-class words: the fields from bit 9 up, then bits that must be zero. -/
def decE (w : Nat) (ws : List Nat) (k : List Nat → DecResult) : DecResult :=
  let fs := unpack (9 :: ws) w
  if w / 2 ^ (9 + ws.sum) = 0 then k fs.tail else .error .nonZeroField

/-! ## The classes -/

/-- I-class words (Table 4-7). -/
def decI (w : Nat) (w2 : Option Nat) : DecResult :=
  match opOf w, w2 with
  | 0x01, none => decRRR w .add
  | 0x02, none => decRRR w .sub
  | 0x03, none => decRRR w .mul
  | 0x04, none => decRRR w .mulh
  | 0x05, none => decRRR w .mulhu
  | 0x06, none => decRRR w .div
  | 0x07, none => decRRR w .divu
  | 0x08, none => decRRR w .rem
  | 0x09, none => decRRR w .remu
  | 0x0A, none => decRRR w .and
  | 0x0B, none => decRRR w .or
  | 0x0C, none => decRRR w .xor
  | 0x0D, none => decRRR w .andn
  | 0x0E, none => decRRR w .shl
  | 0x0F, none => decRRR w .shr
  | 0x10, none => decRRR w .sra
  | 0x11, none => decRRR w .rotr
  | 0x12, none => decRR w .clz
  | 0x13, none => decRR w .ctz
  | 0x14, none => decRR w .popc
  | 0x15, none => decRRR w .min
  | 0x16, none => decRRR w .max
  | 0x17, none => decRRR w .minu
  | 0x18, none => decRRR w .maxu
  | 0x19, none => decRRR w .seq
  | 0x1A, none => decRRR w .slt
  | 0x1B, none => decRRR w .sltu
  | 0x1C, none => decIR w fun d a b f => zeros [b] (.sext d a f)
  | 0x1D, none => decIR w fun d a b f => zeros [b] (.zext d a f)
  | 0x1E, some v => decIR w fun d a b f =>
      match unpack [6, 26] v with
      | [c, z] => zeros [f, z] (.sel d a b c)
      | _ => .error .operands
  | 0x1F, some v => decIR w fun d a b f =>
      match unpack [6, 7, 1, 18] v with
      | [pos, len, sx, z] => zeros [f, b, z] (.bfx d a pos len sx)
      | _ => .error .operands
  | 0x20, some v => decIR w fun d a b f =>
      match unpack [6, 7, 19] v with
      | [pos, len, z] => zeros [f, z] (.bfi d a b pos len)
      | _ => .error .operands
  | 0x21, v => decImm w v .addi .addiLong
  | 0x22, v => decImm w v .andi .andiLong
  | 0x23, v => decImm w v .ori .oriLong
  | 0x24, v => decImm w v .xori .xoriLong
  | 0x25, v => decImm w v .shli .shliLong
  | 0x26, v => decImm w v .shri .shriLong
  | 0x27, v => decImm w v .srai .sraiLong
  | 0x28, some v =>
      match unpack [9, 6, 6, 2, 9] w with
      | [_, d, z, md, z'] => zeros [z, z'] (if md = 2 then .moviHi d v else .movi d md v)
      | _ => .error .operands
  | 0x29, none =>
      match unpack [9, 1, 6, 1, 3, 12] w with
      | [_, z, a, src, slot, i] => zeros [z] (.step slot src a (sgn 12 i))
      | _ => .error .operands
  | 0x40, v => decB w v (fun a b o => checked (.beq a b o)) (fun a b o => checked (.beqLong a b o))
  | 0x41, v => decB w v (fun a b o => checked (.bne a b o)) (fun a b o => checked (.bneLong a b o))
  | 0x42, v => decB w v (fun a b o => checked (.blt a b o)) (fun a b o => checked (.bltLong a b o))
  | 0x43, v => decB w v (fun a b o => checked (.bge a b o)) (fun a b o => checked (.bgeLong a b o))
  | 0x44, v => decB w v (fun a b o => checked (.bltu a b o)) (fun a b o => checked (.bltuLong a b o))
  | 0x45, v => decB w v (fun a b o => checked (.bgeu a b o)) (fun a b o => checked (.bgeuLong a b o))
  | 0x46, v => decB w v (fun a b o => zeros [b / 8] (.bpany a (b % 8) o)) (fun a b o => zeros [b / 8] (.bpanyLong a (b % 8) o))
  | 0x47, v => decB w v (fun a b o => zeros [b / 8] (.bpnone a (b % 8) o)) (fun a b o => zeros [b / 8] (.bpnoneLong a (b % 8) o))
  | 0x48, v => decB w v (fun a b o => zeros [a, b] (.jmp o)) (fun a b o => zeros [a, b] (.jmpLong o))
  | 0x49, none => decB w none (fun a b o => zeros [b, o.natAbs] (.jmpi a)) (fun _ _ _ => .error .wrongKind)
  | 0x4A, v => decB w v (fun a b o => zeros [b] (.call a o)) (fun a b o => zeros [b] (.callLong a o))
  | 0x4B, none => decB w none (fun a b o => zeros [o.natAbs] (.calli a b)) (fun _ _ _ => .error .wrongKind)
  | 0x4C, none => decB w none (fun a b o => zeros [b, o.natAbs] (.ret a)) (fun _ _ _ => .error .wrongKind)
  | 0x4D, v => decB w v (fun a b o => zeros [b] (.loop a o)) (fun a b o => zeros [b] (.loopLong a o))
  | _, _ => .error .unassignedOp

/-- M-class words (Table 4-8). -/
def decM (w : Nat) (w2 : Option Nat) : DecResult :=
  match opOf w, w2 with
  | 0x01, some v => decLoad w v .ldb
  | 0x02, some v => decLoad w v .ldbs
  | 0x03, some v => decLoad w v .ldh
  | 0x04, some v => decLoad w v .ldhs
  | 0x05, some v => decLoad w v .ldw
  | 0x06, some v => decLoad w v .ldws
  | 0x07, some v => decLoad w v .ldd
  | 0x08, some v => decStore w v .stb
  | 0x09, some v => decStore w v .sth
  | 0x0A, some v => decStore w v .stw
  | 0x0B, some v => decStore w v .std
  | 0x10, some v => decLoad w v .vld
  | 0x11, some v => decStore w v .vst
  | 0x12, none =>
      match unpack [9, 5, 6, 3, 2, 7] w with
      | [_, d, a, pt, md, land] =>
        if md = 0 then zeros [a] (.vldp land pt d)
        else if md = 1 then zeros [d] (.vldpSet land pt a) else .error .fieldRange
      | _ => .error .operands
  | 0x13, none =>
      match unpack [9, 5, 6, 3, 2, 3, 4] w with
      | [_, d, a, pt, md, z, chn] =>
        if md = 0 then zeros [a, z] (.vstp chn pt d)
        else if md = 1 then zeros [d, z, chn] (.vstpSave pt a) else .error .fieldRange
      | _ => .error .operands
  | 0x14, some v =>
      match unpack [9, 5, 6, 5, 2, 5] w, unpack [14, 4, 7, 7] v with
      | [_, d, a, ix, esz, z], [z', chn, px, land] => zeros [z, z', chn] (.vgth esz ix a d land px)
      | _, _ => .error .operands
  | 0x15, some v =>
      match unpack [9, 5, 6, 5, 2, 5] w, unpack [14, 4, 7, 7] v with
      | [_, d, a, ix, esz, z], [z', chn, px, land] => zeros [z, z', land] (.vsct esz ix a d px chn)
      | _, _ => .error .operands
  | 0x18, some v =>
      match unpack [9, 6, 6, 4, 3, 4] w, unpack [21, 4, 7] v with
      | [_, z, a, f, t, bo], [z', chn, land] => zeros [z, z', chn] (.tld bo t f a land)
      | _, _ => .error .operands
  | 0x19, some v =>
      match unpack [9, 6, 6, 4, 3, 4] w, unpack [21, 4, 7] v with
      | [_, z, a, f, t, bo], [z', chn, land] => zeros [z, z', land] (.tst bo t f a chn)
      | _, _ => .error .operands
  | 0x1A, some v =>
      match unpack [9, 6, 6, 7, 4] w with
      | [_, lv, a, z, cnt] => zeros [z] (.prf cnt a lv (sgn 32 v))
      | _ => .error .operands
  | 0x1B, none =>
      match unpack [9, 6, 6, 4, 7] w with
      | [_, z, a, n, z'] => zeros [z, z'] (.spin n a)
      | _ => .error .operands
  | 0x1C, none =>
      match unpack [9, 6, 6, 4, 7] w with
      | [_, z, a, n, z'] => zeros [z, z'] (.sprel n a)
      | _ => .error .operands
  | 0x20, some v => decAT w v fun o => checked (.aadd o)
  | 0x21, some v => decAT w v fun o => checked (.afadd o)
  | 0x22, some v => decAT w v fun o => checked (.axchg o)
  | 0x23, some v => decAT w v fun o => checked (.acas o)
  | 0x24, some v => decAT w v fun o => checked (.aand o)
  | 0x25, some v => decAT w v fun o => checked (.aor o)
  | 0x26, some v => decAT w v fun o => checked (.axor o)
  | 0x27, some v => decAT w v fun o => checked (.amin o)
  | 0x28, some v => decAT w v fun o => checked (.amax o)
  | 0x29, some v => decAT w v fun o => checked (.aminu o)
  | 0x2A, some v => decAT w v fun o => checked (.amaxu o)
  | 0x2B, some v => decAT w v fun o => checked (.afmin o)
  | 0x2C, some v => decAT w v fun o => checked (.afmax o)
  | 0x30, some v => decAT w v fun o => zeros [o.nr, o.land, o.c] (.waita o.sz o.a o.d o.b o.off)
  | 0x31, none =>
      match unpack [9, 6, 6, 6, 1, 4] w with
      | [_, z, a, b, sz, z'] => zeros [z, z'] (.wake sz b a)
      | _ => .error .operands
  | _, _ => .error .unassignedOp

/-- V-class words (Table 4-9). -/
def decVc (w : Nat) (w2 : Option Nat) : DecResult :=
  match opOf w with
  | 0x01 => decV w w2 (some .vadd) (some .vaddLong)
  | 0x02 => decV w w2 (some .vsub) (some .vsubLong)
  | 0x03 => decV w w2 (some .vmul) (some .vmulLong)
  | 0x04 => decV w w2 (some .vmulh) (some .vmulhLong)
  | 0x05 => decV w w2 none (some .vmad)
  | 0x06 => decV w w2 (some .vmin) (some .vminLong)
  | 0x07 => decV w w2 (some .vmax) (some .vmaxLong)
  | 0x08 => decV w w2 (some .vabs) (some .vabsLong)
  | 0x09 => decV w w2 (some .vneg) (some .vnegLong)
  | 0x0A => decV w w2 (some .vand) (some .vandLong)
  | 0x0B => decV w w2 (some .vor) (some .vorLong)
  | 0x0C => decV w w2 (some .vxor) (some .vxorLong)
  | 0x0D => decV w w2 (some .vnot) (some .vnotLong)
  | 0x0E => decV w w2 (some .vshl) (some .vshlLong)
  | 0x0F => decV w w2 (some .vshr) (some .vshrLong)
  | 0x10 => decV w w2 (some .vsra) (some .vsraLong)
  | 0x11 => decV w w2 none (some .vcmp)
  | 0x12 => decV w w2 none (some .vsel)
  | 0x13 => decV w w2 (some .vpopc) (some .vpopcLong)
  | 0x14 => decV w w2 (some .vclz) (some .vclzLong)
  | 0x20 => decV w w2 (some .vfadd) (some .vfaddLong)
  | 0x21 => decV w w2 (some .vfsub) (some .vfsubLong)
  | 0x22 => decV w w2 (some .vfmul) (some .vfmulLong)
  | 0x23 => decV w w2 none (some .vfma)
  | 0x24 => decV w w2 (some .vfmin) (some .vfminLong)
  | 0x25 => decV w w2 (some .vfmax) (some .vfmaxLong)
  | 0x26 => decV w w2 (some .vfabs) (some .vfabsLong)
  | 0x27 => decV w w2 (some .vfneg) (some .vfnegLong)
  | 0x28 => decV w w2 none (some .vfcmp)
  | 0x29 => decV w w2 (some .vfdiv) (some .vfdivLong)
  | 0x2A => decV w w2 (some .vfsqrt) (some .vfsqrtLong)
  | 0x2B => decV w w2 (some .vrcp) (some .vrcpLong)
  | 0x2C => decV w w2 (some .vrsq) (some .vrsqLong)
  | 0x2D => decV w w2 (some .vexp2) (some .vexp2Long)
  | 0x2E => decV w w2 (some .vlog2) (some .vlog2Long)
  | 0x2F => decV w w2 (some .vtanh) (some .vtanhLong)
  | 0x30 => decV w w2 none (some .vcvt)
  | 0x31 => decV w w2 none (some .vqnt)
  | 0x32 => decV w w2 none (some .vdqnt)
  | 0x33 => decV w w2 none (some .vi2f)
  | 0x34 => decV w w2 none (some .vf2i)
  | 0x38 => decV w w2 none (some .vperm)
  | 0x39 => decV w w2 none (some .vshuf)
  | 0x3A => decV w w2 (some .vslide) (some .vslideLong)
  | 0x3B => decV w w2 (some .vbcast) (some .vbcastLong)
  | 0x3C => decV w w2 (some .vext) (some .vextLong)
  | 0x3D => decV w w2 (some .vins) (some .vinsLong)
  | 0x3E => decV w w2 (some .vcmpr) (some .vcmprLong)
  | 0x3F => decV w w2 (some .vexpd) (some .vexpdLong)
  | 0x40 => decV w w2 (some .vrsum) (some .vrsumLong)
  | 0x41 => decV w w2 (some .vrfsum) (some .vrfsumLong)
  | 0x42 => decV w w2 (some .vrmax) (some .vrmaxLong)
  | 0x43 => decV w w2 (some .vrmin) (some .vrminLong)
  | 0x44 => decV w w2 (some .vscan) (some .vscanLong)
  | op =>
    if w2.isSome then (if 0x50 ≤ op ∧ op ≤ 0x58 then .error .wrongKind else .error .unassignedOp)
    else match op with
      | 0x50 => decPL w fun d a b => checked (.pand d a b)
      | 0x51 => decPL w fun d a b => checked (.por d a b)
      | 0x52 => decPL w fun d a b => checked (.pxor d a b)
      | 0x53 => decPL w fun d a b => zeros [b] (.pnot d a)
      | 0x54 => decPL w fun d a b => checked (.pandn d a b)
      | 0x55 => decPC w .pcnt
      | 0x56 => decPC w .pfirst
      | 0x57 => decPC w .psetn
      | 0x58 => decPL w fun d a b => zeros [b] (.pmov d a)
      | _ => .error .unassignedOp

/-- X-class words (Table 4-10). -/
def decX (w : Nat) (w2 : Option Nat) : DecResult :=
  match opOf w, w2 with
  | 0x01, none =>
      match unpack [9, 1, 4, 4, 3, 11] w with
      | [_, set, fa, fb, mk, z] => zeros [z] (.tzero mk fb fa set)
      | _ => .error .operands
  | 0x02, none =>
      match unpack [9, 1, 3, 3, 4, 7, 5] w with
      | [_, set, ta, tb, seg, nv, z] => zeros [z] (.tmma nv seg tb ta set)
      | _ => .error .operands
  | 0x03, none =>
      match unpack [9, 1, 3, 3, 4, 7, 5] w with
      | [_, set, ta, tb, seg, nv, z] => zeros [z] (.tmsr nv seg tb ta set)
      | _ => .error .operands
  | 0x04, none =>
      match unpack [9, 1, 2, 6, 7, 4, 1, 2] w with
      | [_, set, z, r, arg, f, z', dk] =>
        if dk = 0 then zeros [z, z', arg % 8] (.tdrainTile f (arg / 8) r set)
        else if dk = 1 then zeros [z, z'] (.tdrainVector f arg r set) else .error .wrongKind
      | _ => .error .operands
  | 0x04, some v =>
      match unpack [9, 1, 2, 6, 7, 4, 1, 2] w, unpack [20, 5, 4, 3] v with
      | [_, set, z, r, arg, f, z', dk], [off, z'', chn, sc] =>
        if dk = 2 then zeros [z, z', arg, z''] (.tdrainMemory f r set sc chn (sgn 20 off)) else .error .wrongKind
      | _, _ => .error .operands
  | 0x05, none =>
      match unpack [9, 3, 7, 5, 4, 3, 1] w with
      | [_, tr, row, v, f, bq, cv] => checked (.twr cv bq f v row tr)
      | _ => .error .operands
  | 0x06, none =>
      match unpack [9, 3, 7, 5, 4, 3, 1] w with
      | [_, tr, row, v, f, bq, cv] => checked (.trdr cv bq f v row tr)
      | _ => .error .operands
  | 0x07, none =>
      match unpack [9, 3, 10, 5, 4, 1] w with
      | [_, tr, j, v, f, cv] => checked (.trdc cv f v j tr)
      | _ => .error .operands
  | 0x08, none =>
      match unpack [9, 3, 4, 4, 5, 6, 1] w with
      | [_, tr, f, bo, v, sd, z] => zeros [z] (.tchk sd v bo f tr)
      | _ => .error .operands
  | 0x09, none =>
      match unpack [9, 3, 4, 4, 5, 7] w with
      | [_, tr, f, bo, v, z] => zeros [z] (.tgen v bo f tr)
      | _ => .error .operands
  | _, _ => .error .unassignedOp

/-- CTLW by its register: CTL.INJECT and CTL.SBn have rows of their own in the opcode table (R49, R50, R104). -/
def ctlwOf (c a : Nat) : Instr :=
  if c = 0x11 then .injectArm a
  else if 0x40 ≤ c ∧ c ≤ 0x4F then .sbDescriptorWrite (c - 0x40) a
  else .ctlw c a

/-- E-class words (Table 4-11), every one of 32 bits. -/
def decEc (w : Nat) : DecResult :=
  match opOf w with
  | 0x01 => decE w [16] fun | [i] => checked (.safe i) | _ => .error .operands
  | 0x02 => decE w [6, 6, 6] fun | [z, a, b] => zeros [z] (.spawn a b) | _ => .error .operands
  | 0x03 => decE w [16] fun | [i] => checked (.join i) | _ => .error .operands
  | 0x04 => decE w [16, 6] fun | [i, a] => zeros [w / 2 ^ 31] (.suspend a i) | _ => .error .operands
  | 0x05 => decE w [16] fun | [i] => checked (.yield i) | _ => .error .operands
  | 0x06 => decE w [] fun _ => checked .exit
  | 0x07 => decE w [1, 6] fun | [n, a] => checked (.fuse a n) | _ => .error .operands
  | 0x08 => decE w [] fun _ => checked .decpl
  | 0x09 => decE w [] fun _ => checked .rejn
  | 0x10 => decE w [16] fun | [c] => checked (.trap c) | _ => .error .operands
  | 0x11 => decE w [6, 1] fun | [a, nx] => checked (if nx = 0 then .tret a else .tretNext a) | _ => .error .operands
  | 0x12 => decE w [6, 10] fun | [d, c] => checked (.ctlr c d) | _ => .error .operands
  | 0x13 => decE w [6, 10] fun | [a, c] => checked (ctlwOf c a) | _ => .error .operands
  | 0x14 => decE w [6, 4] fun | [d, k] => checked (.getid k d) | _ => .error .operands
  | 0x15 => decE w [6] fun | [d] => checked (.time d) | _ => .error .operands
  | 0x16 => decE w [6] fun | [a] => checked (.hbeat a) | _ => .error .operands
  | 0x17 => decE w [6, 4] fun | [a, f] => checked (.fmtset f a) | _ => .error .operands
  | 0x18 => decE w [16] fun | [c] => checked (.brk c) | _ => .error .operands
  | 0x20 => decE w [3] fun | [s] => checked (.fence s) | _ => .error .operands
  | 0x21 => decE w [8] fun | [g] => checked (.bar g) | _ => .error .operands
  | 0x22 => decE w [6] fun | [f] => checked (.flset f) | _ => .error .operands
  | 0x23 => decE w [6] fun | [f] => checked (.flclr f) | _ => .error .operands
  | 0x24 => decE w [6, 1] fun | [f, v] => checked (.flwait f v) | _ => .error .operands
  | 0x25 => decE w [4, 2, 6] fun | [sb, z, d] => zeros [z] (.sbacq d sb) | _ => .error .operands
  | 0x26 => decE w [4] fun | [sb] => checked (.sbrel sb) | _ => .error .operands
  | 0x30 => decE w [3, 6] fun | [ch, a] => checked (.cpost ch a) | _ => .error .operands
  | 0x31 => decE w [6, 6] fun | [a, b] => checked (.cwait a b) | _ => .error .operands
  | 0x32 => decE w [6, 6, 6] fun | [a, b, f] => checked (.ctest f a b) | _ => .error .operands
  | 0x33 => decE w [] fun _ => checked .cpinv
  | 0x34 => decE w [3, 6] fun | [ch, d] => checked (.cqry ch d) | _ => .error .operands
  | 0x38 => decE w [6] fun | [a] => checked (.dcfg a) | _ => .error .operands
  | 0x39 => decE w [6, 9, 1, 7] fun
      | [d, z, md, land] => if md = 0 then zeros [z] (.vldx land d) else zeros [z, land] (.vldxWait d)
      | _ => .error .operands
  | 0x3A => decE w [6] fun | [a] => checked (.coll a) | _ => .error .operands
  | 0x3C => decE w [6, 6, 6, 4] fun | [d, a, b, chn] => checked (.frel chn b a d) | _ => .error .operands
  | 0x3D => decE w [6, 6, 6, 4] fun | [d, a, z, chn] => zeros [z] (.fchq chn a d) | _ => .error .operands
  | 0x3E => decE w [6, 6, 6] fun | [d, a, b] => checked (.tpost b a d) | _ => .error .operands
  | 0x3F => decE w [6, 6] fun | [d, a] => checked (.tcancel a d) | _ => .error .operands
  | _ => .error .unassignedOp

/-- Bits [1:0] of a word (Table 4-1). -/
def kindOf (w : Nat) : Nat := w % 4

/-- One op word of a class: `w2` is the operand word of a 64-bit op word (R56, R77). -/
def decodeOp (c : Cls) (w : Nat) (w2 : Option Nat) : DecResult :=
  if (kindOf w = 0 ∧ w2 = none) ∨ (kindOf w = 1 ∧ w2.isSome) then
    match c with
    | .I => decI w w2
    | .M => decM w w2
    | .V => decVc w w2
    | .X => decX w w2
    | .E => if w2.isSome then .error .wrongKind else decEc w
  else .error .wrongKind

/-! ## Bundles -/

/-- The eight slots, in mask order (Table 4-2). -/
inductive Slot where
  | i1 | i2 | m1 | m2 | v1 | v2 | x | e
  deriving DecidableEq, Repr

def Slot.all : List Slot := [.i1, .i2, .m1, .m2, .v1, .v2, .x, .e]

def Slot.cls : Slot → Cls
  | .i1 | .i2 => .I
  | .m1 | .m2 => .M
  | .v1 | .v2 => .V
  | .x => .X
  | .e => .E

/-- The bundle header (Table 4-2). -/
structure Header where
  mask : Nat
  rep : Nat
  stk : Bool
  ph : Bool
  wc : Nat
  deriving DecidableEq, Repr

/-- The prefixes of one op word: RND mode, SAT and GUARD flag (Table 4-5). -/
structure Pfx where
  rnd : Option Nat := none
  sat : Bool := false
  guard : Option Nat := none
  deriving DecidableEq, Repr

/-- One op word of a bundle in its slot, with its prefixes. -/
structure SlotOp where
  slot : Slot
  instr : Instr
  pfx : Pfx
  deriving DecidableEq, Repr

/-- A decoded bundle: header, the scope of its M slots (0 where no SCOPE prefix stands, R64), whether SCOPE was
given, its op words in mask order, and whether some prefix is orphaned (R65). -/
structure Bundle where
  header : Header
  scope : Nat
  hasScope : Bool
  ops : List SlotOp
  orphan : Bool
  deriving DecidableEq, Repr

/-- Decode a header word (R57, check 1 of Table 4-6). -/
def decodeHeader (w : Nat) : Except DecErr Header :=
  match unpack [2, 8, 4, 1, 1, 6, 10] w with
  | [k, mask, rep, stk, ph, wc, z] =>
    if k ≠ 3 then .error .notHeader
    else if z ≠ 0 then .error .reservedHeader
    else if wc = 0 then .error .wordCount
    else .ok ⟨mask, rep, stk == 1, ph == 1, wc⟩
  | _ => .error .notHeader

/-- The slots whose mask bits are set, from bit 2 upward (R58). -/
def Header.slots (h : Header) : List Slot :=
  (Slot.all.zip (List.range 8)).filterMap fun (s, k) => if h.mask / 2 ^ k % 2 = 1 then some s else none

/-- One item of the words after the header: a prefix word, or an op word with its operand word (R58). -/
inductive Item where
  | pfx (w : Nat)
  | op (w : Nat) (w2 : Option Nat)
  deriving DecidableEq, Repr

/-- Cut the words of a bundle into prefixes and op words; a header among them, or a 64-bit op word cut off, is
malformed (R58). -/
def items : List Nat → Except DecErr (List Item)
  | [] => .ok []
  | w :: rest =>
    match kindOf w, rest with
    | 3, _ => .error .structure
    | 2, r => (items r).map (Item.pfx w :: ·)
    | 1, v :: r => (items r).map (Item.op w (some v) :: ·)
    | 1, [] => .error .structure
    | _, r => (items r).map (Item.op w none :: ·)

def Item.isOp : Item → Bool
  | .op _ _ => true
  | .pfx _ => false

/-- Control instructions issue only in I2 (R88, Table 4-7). -/
def Instr.isControl : Instr → Bool
  | .beq .. | .bne .. | .blt .. | .bge .. | .bltu .. | .bgeu .. | .bpany .. | .bpnone .. | .jmp .. | .jmpi .. | .call ..
  | .calli .. | .ret .. | .loop .. | .beqLong .. | .bneLong .. | .bltLong .. | .bgeLong .. | .bltuLong .. | .bgeuLong ..
  | .bpanyLong .. | .bpnoneLong .. | .jmpLong .. | .callLong .. | .loopLong .. => true
  | _ => false

/-- Instructions refused in a bundle with REP ≠ 0 (R73). -/
def Instr.noRepeat : Instr → Bool
  | .spawn .. | .join .. | .suspend .. | .yield .. | .exit | .fuse .. | .decpl | .rejn | .trap .. | .tret ..
  | .tretNext .. | .brk .. => true
  | _ => false

/-- The write channel of the stores (R115). -/
def Instr.channel : Instr → Nat
  | .stb _ _ chn _ | .sth _ _ chn _ | .stw _ _ chn _ | .std _ _ chn _ | .vst _ _ chn _ => chn
  | .vstp chn _ _ => chn
  | .vsct _ _ _ _ _ chn => chn
  | .tst _ _ _ _ chn => chn
  | _ => 0

/-- Instructions that accept RND (Table 7-1, R127, R172, R175, R176, R185). -/
def Instr.acceptsRnd : Instr → Bool
  | .vfadd _ | .vfsub _ | .vfmul _ | .vfma _ | .vfdiv _ | .vfsqrt _ | .vrcp _ | .vrsq _ | .vexp2 _ | .vlog2 _ | .vtanh _
  | .vfaddLong _ | .vfsubLong _ | .vfmulLong _ | .vfdivLong _ | .vfsqrtLong _ | .vrcpLong _ | .vrsqLong _ | .vexp2Long _
  | .vlog2Long _ | .vtanhLong _ | .vcvt _ | .vi2f _ | .vdqnt _ | .vf2i _ | .vqnt _ | .vrfsum _ | .vrfsumLong _
  | .afadd _ | .tmma .. | .tmsr .. | .tdrainTile .. | .tdrainVector .. | .tdrainMemory .. | .twr .. | .trdr ..
  | .trdc .. => true
  | .vscanLong o => o.fk == 1
  | _ => false

/-- Instructions that accept SAT (Table 7-1, R176, R185). -/
def Instr.acceptsSat : Instr → Bool
  | .vadd _ | .vsub _ | .vmul _ | .vmad _ | .vabs _ | .vneg _ | .vshl _ | .vrsum _ | .vscan _ | .vaddLong _
  | .vsubLong _ | .vmulLong _ | .vabsLong _ | .vnegLong _ | .vshlLong _ | .vrsumLong _ | .vfadd _ | .vfsub _ | .vfmul _
  | .vfma _ | .vfdiv _ | .vfaddLong _ | .vfsubLong _ | .vfmulLong _ | .vfdivLong _ | .vcvt _ | .vi2f _ | .vdqnt _
  | .vf2i _ | .vqnt _ | .tdrainTile .. | .tdrainVector .. | .tdrainMemory .. | .twr .. | .trdr .. | .trdc .. => true
  | .vscanLong o => o.fk == 0
  | _ => false

/-- Instructions on which RND with SR raises X_ILLEGAL (R127, Table 7-1). -/
def Instr.refusesSr : Instr → Bool
  | .afadd _ | .vrfsum _ | .vrfsumLong _ => true
  | .vscanLong o => o.fk == 1
  | _ => false

/-- Check 2 of Table 4-6 for one op word in its slot of its bundle. -/
def decodeSlot (h : Header) (fabric : Bool) (s : Slot) (w : Nat) (w2 : Option Nat) : DecResult := do
  let i ← decodeOp s.cls w w2
  if i.isControl && s == .i1 then .error .slotClass
  else if i.noRepeat && h.rep ≠ 0 then .error .repForbidden
  else if i.channel ≠ 0 && !fabric then .error .channelScope
  else .ok i

/-- Decode the op words in slot order (check 2), leaving prefixes aside. -/
def decodeOps (h : Header) (fabric : Bool) : List Item → List Slot → Except DecErr (List Instr)
  | [], _ => .ok []
  | .pfx _ :: r, ss => decodeOps h fabric r ss
  | .op w w2 :: r, s :: ss => do
    let i ← decodeSlot h fabric s w w2
    let is ← decodeOps h fabric r ss
    .ok (i :: is)
  | .op _ _ :: _, [] => .error .structure

/-- KIND and ARG of a prefix word (R63, check 3). -/
def pfxFields (w : Nat) : Except DecErr (Nat × Nat) :=
  match unpack [2, 3, 6, 21] w with
  | [_, k, arg, z] =>
    if z ≠ 0 then .error .nonZeroField
    else match k with
      | 0 => if arg ≤ 5 then .ok (k, arg) else .error .prefixArg
      | 1 => if arg = 0 then .ok (k, arg) else .error .prefixArg
      | 2 => .ok (k, arg)
      | 3 => if arg ≤ 4 then .ok (k, arg) else .error .prefixArg
      | _ => .error .prefixKind
  | _ => .error .operands

/-- Gather prefixes over their op words (R63–R65). Answers the prefixes of each op word and whether prefixes stand
after the last one. A SCOPE that is not the first word is misplaced; a second prefix of one kind is refused. -/
def gather : List Item → Pfx → Bool → Except DecErr (List Pfx × Bool)
  | [], p, _ => .ok ([], decide (p ≠ {}))
  | .pfx w :: r, p, first => do
    let (k, arg) ← pfxFields w
    match k with
    | 0 => if p.rnd.isSome then .error .twicePrefixed else gather r { p with rnd := some arg } false
    | 1 => if p.sat then .error .twicePrefixed else gather r { p with sat := true } false
    | 2 => if p.guard.isSome then .error .twicePrefixed else gather r { p with guard := some arg } false
    | _ => if first then gather r p false else .error .prefixPlace
  | .op _ _ :: r, p, _ => do
    let (ps, o) ← gather r {} false
    .ok (p :: ps, o)

/-- The SCOPE prefix right after the header, if there is one (R64). -/
def scopeOf : List Item → Option Nat
  | .pfx w :: _ => if w / 4 % 8 = 3 then some (w / 32 % 64) else none
  | _ => none

/-- Does the op word leave one of its prefixes orphaned (R65)? -/
def orphaned (i : Instr) (p : Pfx) : Bool := (p.rnd.isSome && !i.acceptsRnd) || (p.sat && !i.acceptsSat)

/-- Decode the words of one bundle, header first: checks 1 to 3 of Table 4-6 in their order, with the answer to
check 5 (orphaned prefixes) in the bundle, since check 4 comes before it. -/
def decodeBundle : List Nat → Except DecErr Bundle
  | [] => .error .notHeader
  | hw :: words => do
    let h ← decodeHeader hw
    let its ← items words
    if words.length + 1 ≠ h.wc then .error .wordCount
    else if (its.filter Item.isOp).length ≠ h.slots.length then .error .structure
    else do
      let sc := scopeOf its
      let is ← decodeOps h (sc == some 4) its h.slots
      let (ps, trailing) ← gather its {} true
      if (is.zip ps).any (fun (i, p) => i.refusesSr && p.rnd == some 5) then .error .prefixArg
      else
        let ops := (h.slots.zip (is.zip ps)).map fun (s, i, p) => SlotOp.mk s i p
        let scopeOrphan := sc.isSome && !(ops.any fun o => o.slot.cls == .M)
        .ok ⟨h, sc.getD 0, sc.isSome, ops, trailing || scopeOrphan || (is.zip ps).any fun (i, p) => orphaned i p⟩

/-- A little-endian value of bytes (R6). -/
def leValue : List Byte → Nat
  | [] => 0
  | b :: r => b.toNat + 256 * leValue r

/-- The 32-bit words of a byte stream; bytes after the last whole word are left (R56). -/
def wordsOf : List Byte → List Nat
  | a :: b :: c :: d :: r => leValue [a, b, c, d] :: wordsOf r
  | _ => []

/-- Bytes of a bundle to the bundle. -/
def decodeBytes (bs : List Byte) : Except DecErr Bundle := decodeBundle (wordsOf bs)

/-! ## The encoder -/

/-- The words of a well-formed op word: its class, the first word, and the operand word of a 64-bit one. Events
have no encoding. -/
structure Enc where
  cls : Cls
  w : Nat
  w2 : Option Nat
  deriving DecidableEq, Repr

def e32 (c : Cls) (op : Nat) (fs : List (Nat × Nat)) : Option Enc := some ⟨c, pack ((2, 0) :: (7, op) :: fs), none⟩
def e64 (c : Cls) (op : Nat) (fs gs : List (Nat × Nat)) : Option Enc :=
  some ⟨c, pack ((2, 1) :: (7, op) :: fs), some (pack gs)⟩

def encRRR (op d a b : Nat) : Option Enc := e32 .I op [(6, d), (6, a), (6, b), (5, 0)]
def encII (op d a : Nat) (i : Int) : Option Enc := e32 .I op [(6, d), (6, a), (11, usg 11 i)]
def encIL (op d a : Nat) (i : Int) : Option Enc := e64 .I op [(6, d), (6, a), (11, 0)] [(32, usg 32 i)]
def encML (op d a land fn : Nat) (off : Int) : Option Enc :=
  e64 .M op [(6, d), (6, a), (7, land), (4, fn)] [(32, usg 32 off)]
def encAT (op : Nat) (o : AT) : Option Enc :=
  e64 .M op [(6, o.d), (6, o.a), (7, o.land), (2, 0), (1, o.sz), (1, o.nr)] [(20, usg 20 o.off), (6, o.c), (6, o.b)]
def encVR (op : Nat) (o : VR) : Option Enc := e32 .V op [(5, o.d), (5, o.a), (5, o.b), (3, o.t), (5, o.p)]
def encVL (op : Nat) (o : VL) : Option Enc :=
  e64 .V op [(5, o.d), (5, o.a), (5, o.b), (3, o.t), (5, 0)] [(7, o.px), (5, o.c), (4, o.fd), (16, o.hi)]
def encPL (op d a b : Nat) : Option Enc := e32 .V op [(7, b), (7, a), (7, d), (2, 0)]
def encPC (op lc s p : Nat) : Option Enc := e32 .V op [(7, 0), (7, p), (6, s), (3, lc)]

/-- The encoding of every op word (Tables 4-3, 4-7 to 4-11, 5-2, 5-6, 5-7, 6-4, 6-8, 7-5, 7-8, 8-5, 8-6, 9-2, 9-7 and the
layouts of R86, R87, R117, R119, R121, R124, R125, R126, R131, R167, R172, R176, R187, R202–R210). PHASE is a header
word and stands in no slot (R58). -/
def encode : Instr → Option Enc
  | .add d a b => encRRR 0x01 d a b
  | .sub d a b => encRRR 0x02 d a b
  | .mul d a b => encRRR 0x03 d a b
  | .mulh d a b => encRRR 0x04 d a b
  | .mulhu d a b => encRRR 0x05 d a b
  | .div d a b => encRRR 0x06 d a b
  | .divu d a b => encRRR 0x07 d a b
  | .rem d a b => encRRR 0x08 d a b
  | .remu d a b => encRRR 0x09 d a b
  | .and d a b => encRRR 0x0A d a b
  | .or d a b => encRRR 0x0B d a b
  | .xor d a b => encRRR 0x0C d a b
  | .andn d a b => encRRR 0x0D d a b
  | .shl d a b => encRRR 0x0E d a b
  | .shr d a b => encRRR 0x0F d a b
  | .sra d a b => encRRR 0x10 d a b
  | .rotr d a b => encRRR 0x11 d a b
  | .clz d a => encRRR 0x12 d a 0
  | .ctz d a => encRRR 0x13 d a 0
  | .popc d a => encRRR 0x14 d a 0
  | .min d a b => encRRR 0x15 d a b
  | .max d a b => encRRR 0x16 d a b
  | .minu d a b => encRRR 0x17 d a b
  | .maxu d a b => encRRR 0x18 d a b
  | .seq d a b => encRRR 0x19 d a b
  | .slt d a b => encRRR 0x1A d a b
  | .sltu d a b => encRRR 0x1B d a b
  | .sext d a f => e32 .I 0x1C [(6, d), (6, a), (6, 0), (5, f)]
  | .zext d a f => e32 .I 0x1D [(6, d), (6, a), (6, 0), (5, f)]
  | .sel d a b c => e64 .I 0x1E [(6, d), (6, a), (6, b), (5, 0)] [(6, c), (26, 0)]
  | .bfx d a pos len sx => e64 .I 0x1F [(6, d), (6, a), (6, 0), (5, 0)] [(6, pos), (7, len), (1, sx), (18, 0)]
  | .bfi d a b pos len => e64 .I 0x20 [(6, d), (6, a), (6, b), (5, 0)] [(6, pos), (7, len), (19, 0)]
  | .addi d a i => encII 0x21 d a i
  | .addiLong d a i => encIL 0x21 d a i
  | .andi d a i => encII 0x22 d a i
  | .andiLong d a i => encIL 0x22 d a i
  | .ori d a i => encII 0x23 d a i
  | .oriLong d a i => encIL 0x23 d a i
  | .xori d a i => encII 0x24 d a i
  | .xoriLong d a i => encIL 0x24 d a i
  | .shli d a i => encII 0x25 d a i
  | .shliLong d a i => encIL 0x25 d a i
  | .shri d a i => encII 0x26 d a i
  | .shriLong d a i => encIL 0x26 d a i
  | .srai d a i => encII 0x27 d a i
  | .sraiLong d a i => encIL 0x27 d a i
  | .movi d md i => e64 .I 0x28 [(6, d), (6, 0), (2, md), (9, 0)] [(32, i)]
  | .moviHi d i => e64 .I 0x28 [(6, d), (6, 0), (2, 2), (9, 0)] [(32, i)]
  | .step slot src a i => e32 .I 0x29 [(1, 0), (6, a), (1, src), (3, slot), (12, usg 12 i)]
  | .beq a b f => encII 0x40 a b f
  | .beqLong a b f => encIL 0x40 a b f
  | .bne a b f => encII 0x41 a b f
  | .bneLong a b f => encIL 0x41 a b f
  | .blt a b f => encII 0x42 a b f
  | .bltLong a b f => encIL 0x42 a b f
  | .bge a b f => encII 0x43 a b f
  | .bgeLong a b f => encIL 0x43 a b f
  | .bltu a b f => encII 0x44 a b f
  | .bltuLong a b f => encIL 0x44 a b f
  | .bgeu a b f => encII 0x45 a b f
  | .bgeuLong a b f => encIL 0x45 a b f
  | .bpany p lc f => encII 0x46 p lc f
  | .bpanyLong p lc f => encIL 0x46 p lc f
  | .bpnone p lc f => encII 0x47 p lc f
  | .bpnoneLong p lc f => encIL 0x47 p lc f
  | .jmp f => encII 0x48 0 0 f
  | .jmpLong f => encIL 0x48 0 0 f
  | .jmpi a => encII 0x49 a 0 0
  | .call a f => encII 0x4A a 0 f
  | .callLong a f => encIL 0x4A a 0 f
  | .calli a b => encII 0x4B a b 0
  | .ret a => encII 0x4C a 0 0
  | .loop a f => encII 0x4D a 0 f
  | .loopLong a f => encIL 0x4D a 0 f
  | .phase => none
  | .ldb d a l f => encML 0x01 d a l 0 f
  | .ldbs d a l f => encML 0x02 d a l 0 f
  | .ldh d a l f => encML 0x03 d a l 0 f
  | .ldhs d a l f => encML 0x04 d a l 0 f
  | .ldw d a l f => encML 0x05 d a l 0 f
  | .ldws d a l f => encML 0x06 d a l 0 f
  | .ldd d a l f => encML 0x07 d a l 0 f
  | .stb d a c f => encML 0x08 d a 0 c f
  | .sth d a c f => encML 0x09 d a 0 c f
  | .stw d a c f => encML 0x0A d a 0 c f
  | .std d a c f => encML 0x0B d a 0 c f
  | .vld d a l f => encML 0x10 d a l 0 f
  | .vst d a c f => encML 0x11 d a 0 c f
  | .vldp l p d => e32 .M 0x12 [(5, d), (6, 0), (3, p), (2, 0), (7, l)]
  | .vldpSet l p a => e32 .M 0x12 [(5, 0), (6, a), (3, p), (2, 1), (7, l)]
  | .vstp c p d => e32 .M 0x13 [(5, d), (6, 0), (3, p), (2, 0), (3, 0), (4, c)]
  | .vstpSave p a => e32 .M 0x13 [(5, 0), (6, a), (3, p), (2, 1), (3, 0), (4, 0)]
  | .vgth e x a d l p => e64 .M 0x14 [(5, d), (6, a), (5, x), (2, e), (5, 0)] [(14, 0), (4, 0), (7, p), (7, l)]
  | .vsct e x a d p c => e64 .M 0x15 [(5, d), (6, a), (5, x), (2, e), (5, 0)] [(14, 0), (4, c), (7, p), (7, 0)]
  | .tld b t f a l => e64 .M 0x18 [(6, 0), (6, a), (4, f), (3, t), (4, b)] [(21, 0), (4, 0), (7, l)]
  | .tst b t f a c => e64 .M 0x19 [(6, 0), (6, a), (4, f), (3, t), (4, b)] [(21, 0), (4, c), (7, 0)]
  | .prf c a l f => e64 .M 0x1A [(6, l), (6, a), (7, 0), (4, c)] [(32, usg 32 f)]
  | .spin n a => e32 .M 0x1B [(6, 0), (6, a), (4, n), (7, 0)]
  | .sprel n a => e32 .M 0x1C [(6, 0), (6, a), (4, n), (7, 0)]
  | .aadd o => encAT 0x20 o
  | .afadd o => encAT 0x21 o
  | .axchg o => encAT 0x22 o
  | .acas o => encAT 0x23 o
  | .aand o => encAT 0x24 o
  | .aor o => encAT 0x25 o
  | .axor o => encAT 0x26 o
  | .amin o => encAT 0x27 o
  | .amax o => encAT 0x28 o
  | .aminu o => encAT 0x29 o
  | .amaxu o => encAT 0x2A o
  | .afmin o => encAT 0x2B o
  | .afmax o => encAT 0x2C o
  | .waita z a d b f => encAT 0x30 ⟨0, z, 0, a, d, b, 0, f⟩
  | .wake z b a => e32 .M 0x31 [(6, 0), (6, a), (6, b), (1, z), (4, 0)]
  | .vadd o => encVR 0x01 o
  | .vaddLong o => encVL 0x01 o
  | .vsub o => encVR 0x02 o
  | .vsubLong o => encVL 0x02 o
  | .vmul o => encVR 0x03 o
  | .vmulLong o => encVL 0x03 o
  | .vmulh o => encVR 0x04 o
  | .vmulhLong o => encVL 0x04 o
  | .vmad o => encVL 0x05 o
  | .vmin o => encVR 0x06 o
  | .vminLong o => encVL 0x06 o
  | .vmax o => encVR 0x07 o
  | .vmaxLong o => encVL 0x07 o
  | .vabs o => encVR 0x08 o
  | .vabsLong o => encVL 0x08 o
  | .vneg o => encVR 0x09 o
  | .vnegLong o => encVL 0x09 o
  | .vand o => encVR 0x0A o
  | .vandLong o => encVL 0x0A o
  | .vor o => encVR 0x0B o
  | .vorLong o => encVL 0x0B o
  | .vxor o => encVR 0x0C o
  | .vxorLong o => encVL 0x0C o
  | .vnot o => encVR 0x0D o
  | .vnotLong o => encVL 0x0D o
  | .vshl o => encVR 0x0E o
  | .vshlLong o => encVL 0x0E o
  | .vshr o => encVR 0x0F o
  | .vshrLong o => encVL 0x0F o
  | .vsra o => encVR 0x10 o
  | .vsraLong o => encVL 0x10 o
  | .vcmp o => encVL 0x11 o
  | .vsel o => encVL 0x12 o
  | .vpopc o => encVR 0x13 o
  | .vpopcLong o => encVL 0x13 o
  | .vclz o => encVR 0x14 o
  | .vclzLong o => encVL 0x14 o
  | .vfadd o => encVR 0x20 o
  | .vfaddLong o => encVL 0x20 o
  | .vfsub o => encVR 0x21 o
  | .vfsubLong o => encVL 0x21 o
  | .vfmul o => encVR 0x22 o
  | .vfmulLong o => encVL 0x22 o
  | .vfma o => encVL 0x23 o
  | .vfmin o => encVR 0x24 o
  | .vfminLong o => encVL 0x24 o
  | .vfmax o => encVR 0x25 o
  | .vfmaxLong o => encVL 0x25 o
  | .vfabs o => encVR 0x26 o
  | .vfabsLong o => encVL 0x26 o
  | .vfneg o => encVR 0x27 o
  | .vfnegLong o => encVL 0x27 o
  | .vfcmp o => encVL 0x28 o
  | .vfdiv o => encVR 0x29 o
  | .vfdivLong o => encVL 0x29 o
  | .vfsqrt o => encVR 0x2A o
  | .vfsqrtLong o => encVL 0x2A o
  | .vrcp o => encVR 0x2B o
  | .vrcpLong o => encVL 0x2B o
  | .vrsq o => encVR 0x2C o
  | .vrsqLong o => encVL 0x2C o
  | .vexp2 o => encVR 0x2D o
  | .vexp2Long o => encVL 0x2D o
  | .vlog2 o => encVR 0x2E o
  | .vlog2Long o => encVL 0x2E o
  | .vtanh o => encVR 0x2F o
  | .vtanhLong o => encVL 0x2F o
  | .vcvt o => encVL 0x30 o
  | .vqnt o => encVL 0x31 o
  | .vdqnt o => encVL 0x32 o
  | .vi2f o => encVL 0x33 o
  | .vf2i o => encVL 0x34 o
  | .vperm o => encVL 0x38 o
  | .vshuf o => encVL 0x39 o
  | .vslide o => encVR 0x3A o
  | .vslideLong o => encVL 0x3A o
  | .vbcast o => encVR 0x3B o
  | .vbcastLong o => encVL 0x3B o
  | .vext o => encVR 0x3C o
  | .vextLong o => encVL 0x3C o
  | .vins o => encVR 0x3D o
  | .vinsLong o => encVL 0x3D o
  | .vcmpr o => encVR 0x3E o
  | .vcmprLong o => encVL 0x3E o
  | .vexpd o => encVR 0x3F o
  | .vexpdLong o => encVL 0x3F o
  | .vrsum o => encVR 0x40 o
  | .vrsumLong o => encVL 0x40 o
  | .vrfsum o => encVR 0x41 o
  | .vrfsumLong o => encVL 0x41 o
  | .vrmax o => encVR 0x42 o
  | .vrmaxLong o => encVL 0x42 o
  | .vrmin o => encVR 0x43 o
  | .vrminLong o => encVL 0x43 o
  | .vscan o => encVR 0x44 o
  | .vscanLong o => encVL 0x44 o
  | .pand d a b => encPL 0x50 d a b
  | .por d a b => encPL 0x51 d a b
  | .pxor d a b => encPL 0x52 d a b
  | .pandn d a b => encPL 0x54 d a b
  | .pnot d a => encPL 0x53 d a 0
  | .pmov d a => encPL 0x58 d a 0
  | .pcnt l s p => encPC 0x55 l s p
  | .pfirst l s p => encPC 0x56 l s p
  | .psetn l s p => encPC 0x57 l s p
  | .tzero m fb fa s => e32 .X 0x01 [(1, s), (4, fa), (4, fb), (3, m), (11, 0)]
  | .tmma v g tb ta s => e32 .X 0x02 [(1, s), (3, ta), (3, tb), (4, g), (7, v), (5, 0)]
  | .tmsr v g tb ta s => e32 .X 0x03 [(1, s), (3, ta), (3, tb), (4, g), (7, v), (5, 0)]
  | .tdrainTile f b r s => e32 .X 0x04 [(1, s), (2, 0), (6, r), (7, 8 * b), (4, f), (1, 0), (2, 0)]
  | .tdrainVector f w r s => e32 .X 0x04 [(1, s), (2, 0), (6, r), (7, w), (4, f), (1, 0), (2, 1)]
  | .tdrainMemory f r s c n x => e64 .X 0x04 [(1, s), (2, 0), (6, r), (7, 0), (4, f), (1, 0), (2, 2)] [(20, usg 20 x), (5, 0), (4, n), (3, c)]
  | .twr c q f v r t => e32 .X 0x05 [(3, t), (7, r), (5, v), (4, f), (3, q), (1, c)]
  | .trdr c q f v r t => e32 .X 0x06 [(3, t), (7, r), (5, v), (4, f), (3, q), (1, c)]
  | .trdc c f v j t => e32 .X 0x07 [(3, t), (10, j), (5, v), (4, f), (1, c)]
  | .tchk s v b f t => e32 .X 0x08 [(3, t), (4, f), (4, b), (5, v), (6, s), (1, 0)]
  | .tgen v b f t => e32 .X 0x09 [(3, t), (4, f), (4, b), (5, v), (7, 0)]
  | .safe i => e32 .E 0x01 [(16, i)]
  | .spawn a b => e32 .E 0x02 [(6, 0), (6, a), (6, b)]
  | .join i => e32 .E 0x03 [(16, i)]
  | .suspend a i => e32 .E 0x04 [(16, i), (6, a)]
  | .yield i => e32 .E 0x05 [(16, i)]
  | .exit => e32 .E 0x06 []
  | .fuse a n => e32 .E 0x07 [(1, n), (6, a)]
  | .decpl => e32 .E 0x08 []
  | .rejn => e32 .E 0x09 []
  | .trap c => e32 .E 0x10 [(16, c)]
  | .tret a => e32 .E 0x11 [(6, a), (1, 0)]
  | .tretNext a => e32 .E 0x11 [(6, a), (1, 1)]
  | .ctlr c d => e32 .E 0x12 [(6, d), (10, c)]
  | .ctlw c a => e32 .E 0x13 [(6, a), (10, c)]
  | .injectArm a => e32 .E 0x13 [(6, a), (10, 0x11)]
  | .sbDescriptorWrite n a => e32 .E 0x13 [(6, a), (10, 0x40 + n)]
  | .getid k d => e32 .E 0x14 [(6, d), (4, k)]
  | .time d => e32 .E 0x15 [(6, d)]
  | .hbeat a => e32 .E 0x16 [(6, a)]
  | .fmtset f a => e32 .E 0x17 [(6, a), (4, f)]
  | .brk c => e32 .E 0x18 [(16, c)]
  | .fence s => e32 .E 0x20 [(3, s)]
  | .bar g => e32 .E 0x21 [(8, g)]
  | .flset f => e32 .E 0x22 [(6, f)]
  | .flclr f => e32 .E 0x23 [(6, f)]
  | .flwait f v => e32 .E 0x24 [(6, f), (1, v)]
  | .sbacq d b => e32 .E 0x25 [(4, b), (2, 0), (6, d)]
  | .sbrel b => e32 .E 0x26 [(4, b)]
  | .cpost h a => e32 .E 0x30 [(3, h), (6, a)]
  | .cwait a b => e32 .E 0x31 [(6, a), (6, b)]
  | .ctest f a b => e32 .E 0x32 [(6, a), (6, b), (6, f)]
  | .cpinv => e32 .E 0x33 []
  | .cqry h d => e32 .E 0x34 [(3, h), (6, d)]
  | .dcfg a => e32 .E 0x38 [(6, a)]
  | .vldx l d => e32 .E 0x39 [(6, d), (9, 0), (1, 0), (7, l)]
  | .vldxWait d => e32 .E 0x39 [(6, d), (9, 0), (1, 1), (7, 0)]
  | .coll a => e32 .E 0x3A [(6, a)]
  | .frel c b a d => e32 .E 0x3C [(6, d), (6, a), (6, b), (4, c)]
  | .fchq c a d => e32 .E 0x3D [(6, d), (6, a), (6, 0), (4, c)]
  | .tpost b a d => e32 .E 0x3E [(6, d), (6, a), (6, b)]
  | .tcancel a d => e32 .E 0x3F [(6, d), (6, a)]
  | .guardReissue | .queueStallReissue | .resultLanding _ | .loadLanding _ | .loadDataReturn _ | .tableWalk _ _
  | .scratchPageMove _ | .arrayExecute | .drainComparison | .windowWrite _ | .heldWindowWrite _
  | .preemptionRequest _ | .writeBack | .pickUp _ | .trapEntry _ | .homeSliceAtomic _ | .storePerform _
  | .monitorReread _ | .atomicReply _ _ | .atomicTimeout _ | .combiningRequest _ _ _ | .decombineReply _ _
  | .watchdogCoreTimer _ | .watchdogHeartbeatTimer _ _ | .budgetOverrun _ _ | .recordRead _ | .recordStart _
  | .chunkMove _ | .recordComplete _ | .slotWrite _ | .decoderSourceRead | .headerParse | .blockDecode
  | .crcCompare | .cycleBoundCutoff | .decoderDestWrite | .postedWriteEgress _ | .write _ | .release _
  | .releaseFlagWrite _ | .accept _ | .resend _ | .releaseTimeout _ | .sourceReleaseTimer _ | .atomic _ | .read _
  | .readReply _ | .readRetry _ | .keyRotation _ _ | .previousKeyDrop _ | .collectiveCommandRead _ | .blockIssue _
  | .collPacket _ | .collectiveTimeout _ | .taskTake _ _ | .taskDispatch _ _ | .groupHold _ _ | .taskComplete _ _
  | .taskRerun _ _ | .preload _ | .agateFrameWrite _ | .rdmaWrite _ _ _ | .rdmaRead _ _ _ | .fetchAndAdd _ _ _
  | .createPartition _ _ | .destroyPartition _ | .setGroup _ _ _ _ | .createQueue _ _ _ | .queueReset _ _
  | .queueReopen _ _ | .closeQueue _ _ | .queueClosed _ _ | .swapOut _ | .swapIn _ | .setCtl _ _ _ | .resume _ _
  | .deliver _ _ | .openPair _ _ | .closePair _ _ _ _ | .openComm _ _ | .closeComm _ | .setReach _ _
  | .quiesce _ _ _ | .thaw _ | .restore _ _ _ _ _ | .setPowerLimit _ | .attest _ | .setTrust _ _
  | .shootdown _ _ _ _ | .collapse _ _ _ _ | .invalidate _ _ _ _ _ | .grant _ _ | .owned _ _ | .nopart _ _ _
  | .migrationThreshold _ _ | .migrationRequest _ _ _ _ | .errorEvent _ | .unitRetirement _ | .eventWindowEnd
  | .channelRetirement _ | .powerMeasurement _ _ | .railLoss | .bringUp _ _ _ | .scratchPageRefill _
  | .tpostCopyComplete | .collapseAcknowledgement _ _ _ | .migrationRewrite _ _ _ _ _ | .invalidRequest _ => none

/-- The header word of a bundle (Table 4-2). -/
def encodeHeader (h : Header) : Nat :=
  pack [(2, 3), (8, h.mask), (4, h.rep), (1, if h.stk then 1 else 0), (1, if h.ph then 1 else 0), (6, h.wc), (10, 0)]

/-- An op word as a sticky history keeps it (R72): its slot, its words and its prefixes. -/
structure OpWord where
  slot : Slot
  w : Nat
  w2 : Option Nat
  pfx : Pfx
  deriving DecidableEq, Repr

def SlotOp.word (o : SlotOp) : OpWord :=
  let e := encode o.instr
  ⟨o.slot, (e.map (·.w)).getD 0, e.bind (·.w2), o.pfx⟩

def OpWord.read (x : OpWord) : Option SlotOp := (decodeOp x.slot.cls x.w x.w2).toOption.map fun i => ⟨x.slot, i, x.pfx⟩

/-- The slot mask bit of a class's first legal slot: I2 for control words, the first slot of the class otherwise. -/
def firstSlot (c : Cls) (i : Instr) : Nat :=
  match c with
  | .I => if i.isControl then 1 else 0
  | .M => 2
  | .V => 4
  | .X => 6
  | .E => 7

/-- The words of a bundle of one op word and no prefix. -/
def encodeSingle (i : Instr) : Option (List Nat) :=
  (encode i).map fun e =>
    let ws := e.w :: e.w2.toList
    encodeHeader ⟨2 ^ firstSlot e.cls i, 0, false, false, ws.length + 1⟩ :: ws

/-- The instruction that the bits `w` stand for, numbered as the opcode table numbers them (bit 0 of the first word
first; the second word of a 64-bit op word follows, zero above `nbits`). A word does not say which slot class it
stands in (R77), so the classes are tried in the order I, M, V, X, E, and the first that accepts the word answers;
a header word is the empty bundle with PH = 1 (PHASE, R58). -/
def decodeTableWord (nbits w : Nat) : Option Instr :=
  let w := w % 2 ^ nbits
  let lo := w % 2 ^ 32
  if kindOf lo = 3 then (if lo = 0x18003 then some .phase else none)
  else
    let w2 := if kindOf lo = 1 then some (w / 2 ^ 32 % 2 ^ 32) else none
    [Cls.I, .M, .V, .X, .E].findSome? fun c => (decodeOp c lo w2).toOption

end

end Sys2Proof
end

