-- ==== Sys2Proof/Machine/Bank.lean ====
section
/-! DEFINITION. Sparse storage as plain data: a bank is a list of (key, value) pairs, keys strictly rising, no entry
equal to the default, so that equal contents are equal data. Memory is a bank of bytes over physical addresses. -/

namespace Sys2Proof.Machine

/-- A bank of values by number; what is not listed reads as a default that the reader names. -/
abbrev Bank (α : Type) := List (Nat × α)

/-- The entry at a key, the default where none is listed. -/
def bankGet {α : Type} (d : α) : Bank α → Nat → α
  | [], _ => d
  | (k, v) :: r, n => if k = n then v else if n < k then d else bankGet d r n

/-- The bank with no entry at a key. -/
def bankDrop {α : Type} : Bank α → Nat → Bank α
  | [], _ => []
  | (k, v) :: r, n => if k = n then r else if n < k then (k, v) :: r else (k, v) :: bankDrop r n

/-- The bank with a value at a key, kept in rising order. -/
def bankPut {α : Type} : Bank α → Nat → α → Bank α
  | [], n, x => [(n, x)]
  | (k, v) :: r, n, x => if k = n then (n, x) :: r else if n < k then (n, x) :: (k, v) :: r else (k, v) :: bankPut r n x

/-- Write a value: the default removes the entry. -/
def bankSet {α : Type} [DecidableEq α] (d : α) (b : Bank α) (n : Nat) (x : α) : Bank α :=
  if x = d then bankDrop b n else bankPut b n x

/-- The canonical form: keys strictly rising from a lower bound, no value equal to the default. -/
def bankWfFrom {α : Type} [DecidableEq α] (d : α) : Nat → Bank α → Bool
  | _, [] => true
  | lo, (k, v) :: r => decide (lo ≤ k) && decide (v ≠ d) && bankWfFrom d (k + 1) r

def bankWf {α : Type} [DecidableEq α] (d : α) (b : Bank α) : Bool := bankWfFrom d 0 b

/-- Memory by physical address (R363): 48 bits of address, one byte a cell. -/
abbrev Memory := List Host.Cell

/-- What a byte of memory that nothing has written reads as (DESIGN CHOICE, log entry 1). -/
def Memory.blank : Byte := 0

def Memory.read (m : Memory) (a : Nat) : Byte := bankGet Memory.blank m a
def Memory.write (m : Memory) (a : Nat) (b : Byte) : Memory := bankSet Memory.blank m a b
def Memory.wf (m : Memory) : Bool := bankWf Memory.blank m

/-- The next `n` bytes from an address, of cells that start at or after it. -/
def cellsRead : List Host.Cell → Nat → Nat → List Byte
  | _, _, 0 => []
  | [], a, n + 1 => Memory.blank :: cellsRead [] (a + 1) n
  | (k, v) :: r, a, n + 1 => if k = a then v :: cellsRead r (a + 1) n else Memory.blank :: cellsRead ((k, v) :: r) (a + 1) n

/-- `n` bytes from an address up. -/
def Memory.readN (m : Memory) (a n : Nat) : List Byte := cellsRead (m.dropWhile fun c => decide (c.1 < a)) a n

/-- Bytes as cells from an address up; a byte that reads as blank needs none. -/
def cellsOf : Nat → List Byte → List Host.Cell
  | _, [] => []
  | a, b :: r => if b = Memory.blank then cellsOf (a + 1) r else (a, b) :: cellsOf (a + 1) r

/-- Write bytes from an address up. -/
def Memory.writeN (m : Memory) (a : Nat) (bs : List Byte) : Memory :=
  (m.takeWhile fun c => decide (c.1 < a)) ++ cellsOf a bs ++ m.dropWhile fun c => decide (c.1 < a + bs.length)

/-- Bytes of a value, least significant first (R6). -/
def leBytes : Nat → Nat → List Byte
  | 0, _ => []
  | n + 1, v => BitVec.ofNat 8 v :: leBytes n (v / 256)

/-- The value of bytes, least significant first (R6). -/
def leNat : List Byte → Nat
  | [] => 0
  | b :: r => b.toNat + 256 * leNat r

end Sys2Proof.Machine
end

