-- ==== Sys2Proof/Config.lean ====
section
/-! DEFINITION. What an implementation fixes and the manual leaves to it: free values, opaque so that no proof can
know them. The machine uses each of them only within the set of outcomes the manual names (R2). -/

namespace Sys2Proof

/-- The result a special function proposes: function number, operand width code, operand. It is taken only where it
lies within the error bound of Table 2-9 (R39). -/
opaque Config.specialCode : Nat → Nat → Nat → Nat

/-- The emax of an MX format whose largest finite value is zero: R154 takes the logarithm of zero there and states no
result. Width, exponent width and bias of the format. -/
opaque Config.emaxOfZero : Nat → Nat → Int → Int

/-- The home-slice hash (R12): the healthy slices' count and a 64-byte line number; taken modulo the count. -/
opaque Config.sliceHash : Nat → Nat → Nat

/-- A signature over a digest with the module's device key (R413, R414): SLH-DSA is a standard outside the manual. -/
opaque Config.sign : List Byte → List Byte

/-- Whether a signature over bytes verifies under a public key (R407, R412, R413): a standard outside the manual. -/
opaque Config.verifies : List Byte → List Byte → List Byte → Bool

/-- The measurement digest of bytes (R413): SHA-256, a standard outside the manual. -/
opaque Config.digest : List Byte → List Byte

/-- The module's device public key and the certificate that its flash holds (R413). -/
opaque Config.deviceKey : List Byte
opaque Config.certificate : List Byte

/-- The measurement of the boot code in read-only memory (R412, R413). -/
opaque Config.bootCode : List Byte

/-- The core cycles of the n-th Opal hop, charged to its task (R318, R344). -/
opaque Config.opalCycles : Nat → Nat

/-- The cycles beyond the least that an engine takes for its n-th chunk, charged to the task (R251, R343). -/
opaque Config.copyCycles : Nat → Nat

/-- Whether the compressor of a stack finds the contents of a 256-byte block compressible 4:1 or 2:1 (R288): the contents
as a number, and 4 or 2. -/
opaque Config.compressible : Nat → Nat → Bool

/-- The number of bytes a compressed line takes in memory is not visible; the metadata cache hits of the n-th write
are (R290). -/
opaque Config.metadataHit : Nat → Bool

/-- How many reads that a stack serves in a core cycle hit, or miss, its metadata cache (R289, R290): the stack, hits or misses,
the cycle. Which reads the L2 slices leave to the stack is not given. -/
opaque Config.stackReads : Nat → Bool → Nat → Nat

/-- Byte i of the n-th area that the machine writes in a layout which the manual does not give (R218, R272, R296). -/
opaque Config.layoutByte : Nat → Nat → Byte

/-- The FRAME of a restored leaf of a peer's page, by its address: an image holds no physical address (R404). -/
opaque Config.restoredFrame : Nat → Nat

/-- Which of the entries of a full cache gives way at the n-th eviction (R235, R258). -/
opaque Config.evicted : Nat → Nat

end Sys2Proof
end

