-- ==== Sys2Proof/Machine/Numfmt.lean ====
section
/-! DEFINITION. Number formats and their arithmetic (file 02): the value of every code (R19–R29), rounding (R30–R31),
storing a value into a format with its flags (R33–R35), exact sums and products, minimum and maximum (R41), and
the special functions within their bounds (R39, R40). -/

namespace Sys2Proof.Machine

/-- The six arithmetic flags, at the bit positions of CTL.FSTAT (Table 3-3). -/
abbrev Flags := BitVec 6

def Flags.nv : Flags := 1
def Flags.dz : Flags := 2
def Flags.of : Flags := 4
def Flags.uf : Flags := 8
def Flags.nx : Flags := 16
def Flags.sa : Flags := 32

/-- A flag when a condition holds. -/
def flagIf (c : Bool) (f : Flags) : Flags := if c then f else 0

/-- A format descriptor (Table 2-2). SPEC: 0 NONE, 1 NAN1, 2 IEEE. -/
structure Fmt where
  scale : Nat
  nzr : Bool
  spec : Nat
  sgn : Bool
  bias : Int
  ebits : Nat
  width : Nat
  deriving DecidableEq, Repr

/-- Bits `lo` to `lo + n - 1` of a number. -/
abbrev field (v lo n : Nat) : Nat := v / 2 ^ lo % 2 ^ n

/-- The two's-complement reading of the low `w` bits of a number (R19). -/
def toSigned (w v : Nat) : Int :=
  let v := v % 2 ^ w
  if v < 2 ^ (w - 1) then (v : Int) else (v : Int) - (2 ^ w : Nat)

/-- The low `w` bits of an integer (R19, R20). -/
def toBits (w : Nat) (v : Int) : Nat := (v % ((2 ^ w : Nat) : Int)).toNat

def Fmt.ofWord (d : Nat) : Fmt :=
  { scale := field d 30 2, nzr := field d 29 1 == 1, spec := field d 27 2, sgn := field d 26 1 == 1
    bias := toSigned 8 (field d 16 8), ebits := field d 8 4, width := field d 0 6 }

/-- The reserved fields of a descriptor word are zero (R23). -/
def descReservedZero (d : Nat) : Bool := field d 24 2 == 0 && field d 12 4 == 0 && field d 6 2 == 0

/-- Well-formed descriptors (R25). -/
def descWellFormed (d : Nat) : Bool :=
  let f := Fmt.ofWord d
  descReservedZero d && f.scale != 3 && f.spec != 3
    && ((decide (2 ≤ f.width) && decide (f.width ≤ 8)) || f.width == 16 || f.width == 32)
    && (!f.nzr || f.sgn)
    && decide (f.ebits ≤ 8)
    && (if f.ebits = 0 then f.spec == 0 && (decide (f.width ≤ 8) || (f.bias == 0 && f.scale == 0))
        else if f.width ≤ 8 then decide ((if f.sgn then 1 else 0) + f.ebits ≤ f.width) && (f.spec != 2 || decide (2 ≤ f.ebits))
        else if f.width = 16 then f.sgn && f.spec == 2 && !f.nzr && f.scale == 0
          && ((f.ebits == 5 && f.bias == 15) || (f.ebits == 8 && f.bias == 127))
        else f.sgn && f.spec == 2 && !f.nzr && f.scale == 0 && f.ebits == 8 && f.bias == 127)

def Fmt.fp32 : Fmt := ⟨0, false, 2, true, 127, 8, 32⟩
def Fmt.bf16 : Fmt := ⟨0, false, 2, true, 127, 8, 16⟩
def Fmt.f16 : Fmt := ⟨0, false, 2, true, 15, 5, 16⟩
def Fmt.int (sgn : Bool) (w : Nat) : Fmt := ⟨0, false, 0, sgn, 0, 0, w⟩

/-- The descriptor words of R26: FMT0–FMT5 and the FP32 descriptor of FMT6–FMT15. -/
def fmtPreset (n : Nat) : Nat :=
  match n with
  | 1 => 0x147F0810
  | 2 => 0x4C070408
  | 3 => 0x540F0508
  | 4 => 0x44010204
  | 5 => 0x04000008
  | _ => 0x147F0820

def Fmt.isInt (f : Fmt) : Bool := f.ebits == 0
def Fmt.hasNan (f : Fmt) : Bool := !f.isInt && f.spec != 0
/-- Mantissa bits m of a float format (R21). -/
def Fmt.man (f : Fmt) : Nat := f.width - (if f.sgn then 1 else 0) - f.ebits
/-- The width of the lane that holds one element (R27). -/
def Fmt.lane (f : Fmt) : Nat := if f.width ≤ 4 then 4 else if f.width ≤ 8 then 8 else f.width

/-- An exact value: sign, magnitude `m × 2^e`, the infinities, the NaNs and the reserved code (R24). -/
inductive Val where
  | nan (signalling : Bool)
  | inf (neg : Bool)
  | fin (neg : Bool) (m : Nat) (e : Int)
  | reserved
  deriving DecidableEq, Repr

def Val.zero : Val := .fin false 0 0
def Val.ofInt (i : Int) : Val := .fin (decide (i < 0)) i.natAbs 0

/-- The value of a code (R24). -/
def Fmt.value (f : Fmt) (code : Nat) : Val :=
  let c := code % 2 ^ f.width
  if f.nzr && c == 2 ^ (f.width - 1) then .reserved
  else if f.isInt then
    let v : Int := if f.sgn then toSigned f.width c else c
    .fin (decide (v < 0)) v.natAbs (-f.bias)
  else
    let m := f.man
    let s := f.sgn && c / 2 ^ (f.width - 1) == 1
    let ef := field c m f.ebits
    let fr := c % 2 ^ m
    let emax := 2 ^ f.ebits - 1
    if f.spec = 2 ∧ ef = emax then
      (if fr = 0 then .inf s else .nan (decide (fr < 2 ^ (m - 1))))
    else if f.spec = 1 ∧ ef = emax ∧ fr = 2 ^ m - 1 then .nan false
    else if ef = 0 then .fin s fr (1 - f.bias - m)
    else .fin s (2 ^ m + fr) (ef - f.bias - m)

/-- The canonical qNaN of a float format; +0 with NV where the format has no NaN code (R22, Table 2-8). -/
def Fmt.canon (f : Fmt) : Nat × Flags :=
  let m := f.man
  let emax := 2 ^ f.ebits - 1
  if f.isInt ∨ f.spec = 0 ∨ (f.spec = 2 ∧ m = 0) then (0, Flags.nv)
  else if f.spec = 1 then (emax * 2 ^ m + (2 ^ m - 1), 0)
  else (emax * 2 ^ m + 2 ^ (m - 1), 0)

/-- The code, without sign, of the largest finite value of a float format (Table 2-3). -/
def Fmt.maxCode (f : Fmt) : Nat :=
  let m := f.man
  let emax := 2 ^ f.ebits - 1
  match f.spec with
  | 2 => (emax - 1) * 2 ^ m + (2 ^ m - 1)
  | 1 => if m = 0 then (emax - 1) * 2 ^ m else emax * 2 ^ m + (2 ^ m - 2)
  | _ => emax * 2 ^ m + (2 ^ m - 1)

/-- The position of the leading one. -/
def topBit (n : Nat) : Nat := Nat.log2 n

/-- Round the magnitude `m × 2^e` (with something beyond it when `sticky`) to a multiple of `2^q`: the multiple and
whether it is exact (R30, R31). Modes are those of Table 2-7. In a float format without mantissa bits every multiple above
0 counts as odd, so that a tie between two powers of two goes to the greater: DESIGN CHOICE (log entry 68). -/
def roundTo (mode : Nat) (draw : Nat) (neg : Bool) (m : Nat) (e q : Int) (sticky : Bool) : Nat × Bool :=
  if q ≤ e then (m * 2 ^ (e - q).toNat, !sticky)
  else
    let k := (q - e).toNat
    let lo := m / 2 ^ k
    let rem := m % 2 ^ k
    if rem = 0 ∧ !sticky then (lo, true)
    else
      let twice := 2 * rem
      let above := decide (2 ^ k < twice) || (twice == 2 ^ k && sticky)
      let tie := twice == 2 ^ k && !sticky
      let up := match mode with
        | 0 => above || (tie && lo % 2 == 1)
        | 1 => false
        | 2 => !neg
        | 3 => neg
        | 4 => above || tie
        | _ => decide (draw % 2 ^ 24 < rem * 2 ^ 24 / 2 ^ k)
      (if up then lo + 1 else lo, false)

/-- The sign bit of a code. -/
def Fmt.signed (f : Fmt) (neg : Bool) (code : Nat) : Nat := if neg && f.sgn then code + 2 ^ (f.width - 1) else code

/-- The exact magnitude of an unsigned finite code, in units of `2^(1 - bias - man)`. -/
def Fmt.units (f : Fmt) (code : Nat) : Nat :=
  let m := f.man
  let ef := code / 2 ^ m
  if ef = 0 then code else (2 ^ m + code % 2 ^ m) * 2 ^ (ef - 1)

/-- Store a finite value into a float format (R30, R33, R35). -/
def Fmt.storeFloat (f : Fmt) (mode : Nat) (sat : Bool) (draw : Nat) (neg : Bool) (m : Nat) (e : Int) (sticky : Bool) :
    Nat × Flags :=
  if m = 0 ∧ !sticky then (if f.nzr then 0 else f.signed neg 0, 0)
  else if neg ∧ !f.sgn then (0, Flags.nv)
  else
    let mb : Int := f.man
    let q0 : Int := 1 - f.bias - mb
    let qu : Int := (topBit m : Int) + e - mb
    let q := if qu < q0 then q0 else qu
    let (r, exact) := roundTo mode draw neg m e q sticky
    let code := (q - q0).toNat * 2 ^ f.man + r
    if f.maxCode < code then
      let largest := (f.signed neg f.maxCode, Flags.of ||| Flags.nx ||| flagIf sat Flags.sa)
      if f.spec ≠ 2 ∨ sat then largest
      else
        let toInf := match mode with
          | 1 => false
          | 2 => !neg
          | 3 => neg
          | _ => true
        if toInf then (f.signed neg ((2 ^ f.ebits - 1) * 2 ^ f.man), Flags.of ||| Flags.nx)
        else (f.signed neg f.maxCode, Flags.of ||| Flags.nx)
    else
      let (ru, _) := roundTo mode draw neg m e qu sticky
      let tiny := decide (qu < q0) && decide (ru < 2 ^ f.man * 2 ^ (q0 - qu).toNat)
      let c := if code = 0 ∧ f.nzr then 0 else f.signed neg code
      (c, flagIf (!exact) Flags.nx ||| flagIf (!exact && tiny) Flags.uf)

/-- The least and greatest code values of an integer format (R19, R24). -/
def Fmt.intMin (f : Fmt) : Int := if f.sgn then -(2 ^ (f.width - 1) : Nat) + (if f.nzr then 1 else 0) else 0
def Fmt.intMax (f : Fmt) : Int := if f.sgn then (2 ^ (f.width - 1) : Nat) - 1 else (2 ^ f.width : Nat) - 1

/-- Store a finite value into an integer format, saturating (R33). -/
def Fmt.storeInt (f : Fmt) (mode : Nat) (draw : Nat) (neg : Bool) (m : Nat) (e : Int) (sticky : Bool) : Nat × Flags :=
  if neg ∧ !f.sgn ∧ (m ≠ 0 ∨ sticky) then (0, Flags.nv)
  else
    let (r, exact) := roundTo mode draw neg m e (-f.bias) sticky
    let v : Int := if neg then -(r : Int) else r
    if v < f.intMin then (toBits f.width f.intMin, Flags.nv)
    else if f.intMax < v then (toBits f.width f.intMax, Flags.nv)
    else (toBits f.width v, flagIf (!exact) Flags.nx)

/-- Store a value into a format (Table 2-8). -/
def Fmt.store (f : Fmt) (mode : Nat) (sat : Bool) (draw : Nat) (x : Val) (sticky : Bool := false) : Nat × Flags :=
  match x with
  | .nan sig =>
    if f.isInt ∨ f.spec = 0 then (0, Flags.nv)
    else let (c, fl) := f.canon; (c, fl ||| flagIf sig Flags.nv)
  | .reserved =>
    if f.isInt ∨ f.spec = 0 then (0, Flags.nv) else let (c, fl) := f.canon; (c, fl)
  | .inf neg =>
    if f.isInt then (toBits f.width (if neg then f.intMin else f.intMax), Flags.nv)
    else if neg ∧ !f.sgn then (0, Flags.nv)
    else if f.spec = 2 then (f.signed neg ((2 ^ f.ebits - 1) * 2 ^ f.man), 0)
    else (f.signed neg f.maxCode, Flags.of)
  | .fin neg m e =>
    if f.isInt then f.storeInt mode draw neg m e sticky else f.storeFloat mode sat draw neg m e sticky

/-- An operand as arithmetic in format `f` reads it: a reserved code is the quiet NaN or zero, with NV (R34). R34 names formats with NaN
and integer formats: in a float format without NaN it is read as a quiet NaN too, DESIGN CHOICE (log entry 36). -/
def Fmt.operand (f : Fmt) (code : Nat) : Val × Flags :=
  match f.value code with
  | .reserved => (if f.isInt then .zero else .nan false, Flags.nv)
  | v => (v, 0)

/-! ## Exact arithmetic -/

def Val.isNan : Val → Bool
  | .nan _ | .reserved => true
  | _ => false
def Val.isSig : Val → Bool
  | .nan true => true
  | _ => false
def Val.isInf : Val → Bool
  | .inf _ => true
  | _ => false
def Val.isFinite : Val → Bool
  | .fin .. => true
  | _ => false
def Val.neg? : Val → Bool
  | .inf n | .fin n _ _ => n
  | _ => false
def Val.isZero : Val → Bool
  | .fin _ 0 _ => true
  | _ => false

def Val.negate : Val → Val
  | .inf n => .inf (!n)
  | .fin n m e => .fin (!n) m e
  | v => v
def Val.abs : Val → Val
  | .inf _ => .inf false
  | .fin _ m e => .fin false m e
  | v => v

/-- The integer of a finite value in units of `2^q`, `q` not above its exponent. -/
def Val.scaled (q : Int) : Val → Int
  | .fin n m e => let i : Int := m * 2 ^ (e - q).toNat; if n then -i else i
  | _ => 0
def Val.exp : Val → Option Int
  | .fin _ (_ + 1) e => some e
  | _ => none

/-- The least exponent among the non-zero finite values. -/
def minExp (vs : List Val) : Int :=
  match vs.filterMap Val.exp with
  | [] => 0
  | e :: r => r.foldl min e

/-- The exact sum of values; an exact zero of mixed signs is +0, −0 under RDN (R30). -/
def Val.sum (mode : Nat) (vs : List Val) : Val × Flags :=
  if vs.any Val.isNan then (.nan false, flagIf (vs.any Val.isSig) Flags.nv)
  else
    let infs := vs.filter Val.isInf
    match infs with
    | i :: r => if r.any (·.neg? != i.neg?) then (.nan false, Flags.nv) else (.inf i.neg?, 0)
    | [] =>
      let q := minExp vs
      let s : Int := vs.foldl (fun a v => a + v.scaled q) 0
      if s = 0 then
        let allNeg := vs.all Val.neg?
        let mixed := !allNeg && vs.any Val.neg?
        (.fin (allNeg || (mixed && mode == 3)) 0 0, 0)
      else (.fin (decide (s < 0)) s.natAbs q, 0)

/-- The exact product of two values (R28, R37). -/
def Val.mul (a b : Val) : Val × Flags :=
  if a.isNan || b.isNan then (.nan false, flagIf (a.isSig || b.isSig) Flags.nv)
  else
    let n := a.neg? != b.neg?
    match a, b with
    | .fin _ m e, .fin _ m' e' => (.fin n (m * m') (e + e'), 0)
    | _, _ => if a.isZero || b.isZero then (.nan false, Flags.nv) else (.inf n, 0)

/-- Order of two values that are not NaN, −0 below +0 when `zeros` (R41); −0 equals +0 otherwise. -/
def Val.less (zeros : Bool) (a b : Val) : Bool :=
  match a, b with
  | .inf true, .inf true => false
  | .inf true, _ => true
  | .inf false, _ => false
  | .fin .., .inf n => !n
  | .fin n .., .fin n' .. =>
    let q := minExp [a, b]
    let x := a.scaled q
    let y := b.scaled q
    decide (x < y) || (zeros && x == 0 && y == 0 && n && !n')
  | _, _ => false

/-- Equality of two values that are not NaN. -/
def Val.eqv (a b : Val) : Bool := !a.isNan && !b.isNan && !a.less false b && !b.less false a

/-- minimumNumber or maximumNumber of two codes of one format: the code and the flags (R41, R34). -/
def Fmt.minMax (f : Fmt) (isMax : Bool) (a b : Nat) : Nat × Flags :=
  let (x, fx) := f.operand a
  let (y, fy) := f.operand b
  let nv := fx ||| fy ||| flagIf (x.isSig || y.isSig) Flags.nv
  let num (c : Nat) : Nat := c % 2 ^ f.width
  if x.isNan && y.isNan then let (c, fl) := f.canon; (c, nv ||| fl)
  else if x.isNan then (num b, nv)
  else if y.isNan then (num a, nv)
  else
    let pickB := if isMax then x.less true y else y.less true x
    (if pickB then num b else num a, nv)

/-- The least or the greatest of the numbers among some codes, R41 taken pairwise: a NaN or reserved code gives way to any
number, and without a number the result is the canonical qNaN. With no code at all it is the canonical qNaN with no flag,
also where R22 writes that as +0 (log entry 68). Of one signalling NaN alone the pairwise table names no flag: NV is set, DESIGN CHOICE
(log entry 68). -/
def Fmt.extreme (f : Fmt) (isMax : Bool) (cs : List Nat) : Nat × Flags :=
  let vs := cs.map f.operand
  let nv := vs.foldl (fun g v => g ||| v.2 ||| flagIf v.1.isSig Flags.nv) 0
  match cs.filter fun c => !(f.operand c).1.isNan with
  | a :: r => (r.foldl (fun a b => (f.minMax isMax a b).1) (a % 2 ^ f.width), nv)
  | [] => let (c, g) := f.canon; (c, if cs.isEmpty then 0 else nv ||| g)

/-! ## Scales -/

/-- The value of an E8M0 scale code (R28). -/
def scaleValue (x : Nat) : Val := if x % 256 = 255 then .nan false else .fin false 1 ((x % 256 : Nat) - 127)

/-! ## Stochastic-rounding generators -/

/-- One step of a Galois generator (R31). -/
def genStep (g : Nat) : Nat := if g % 2 = 1 then (g / 2) ^^^ 0x80200003 else g / 2

def genSteps : Nat → Nat → Nat
  | 0, g => g
  | k + 1, g => genSteps k (genStep g)

/-- The seed of generator j (R32). -/
def genSeed (srseed task j : Nat) : Nat :=
  let x := (srseed % 2 ^ 32 ^^^ task * 0x01000193 % 2 ^ 32 ^^^ j * 0x9E3779B9 % 2 ^ 32) % 2 ^ 32
  if x = 0 then 1 else x

/-- A 32-bit value rotated left (R31). -/
def rotl32 (v k : Nat) : Nat := let k := k % 32; v * 2 ^ k % 2 ^ 32 + v / 2 ^ (32 - k)

/-! ## Division, square root and the special functions (R39, R40) -/

/-- The special functions whose results have an error bound (Table 2-9). -/
inductive SpecialFn where
  | rcp | rsq | exp2 | log2 | tanh
  deriving DecidableEq, Repr

def SpecialFn.no : SpecialFn → Nat
  | .rcp => 0
  | .rsq => 1
  | .exp2 => 2
  | .log2 => 3
  | .tanh => 4

/-- A quotient of magnitudes as magnitude, exponent and sticky, with 96 bits more than the divisor. -/
def divMag (m : Nat) (e : Int) (m' : Nat) (e' : Int) : Nat × Int × Bool :=
  let k := 96 + topBit m'
  (m * 2 ^ k / m', e - e' - k, m * 2 ^ k % m' != 0)

/-- The integer square root by bisection over bits. -/
def isqrt (n : Nat) : Nat :=
  (List.range (topBit n / 2 + 1)).reverse.foldl (fun r b => let c := r + 2 ^ b; if c * c ≤ n then c else r) 0

/-- A square root as magnitude, exponent and sticky. -/
def sqrtMag (m : Nat) (e : Int) : Nat × Int × Bool :=
  let k : Nat := 128 + (if (e - 128) % 2 = 0 then 0 else 1)
  let n := m * 2 ^ k
  let r := isqrt n
  (r, (e - k) / 2, r * r != n)

/-- The fixed-point unit of the approximations below: `2^fixBits`. -/
def fixBits : Nat := 200

/-- ln 2 in units of `2^-fixBits`, as the sum of 1 / (k 2^k). -/
def ln2Fix : Nat := (List.range 220).foldl (fun a k => a + 2 ^ fixBits / ((k + 1) * 2 ^ (k + 1))) 0

/-- e^x − 1 for 0 ≤ x < 1 in fixed point, by its power series. -/
def expm1Fix (x : Nat) : Nat :=
  ((List.range 60).foldl (fun (t, a) k => let t := t * x / 2 ^ fixBits / (k + 1); (t, a + t)) (2 ^ fixBits, 0)).2

/-- 2^f for 0 ≤ f < 1 in fixed point. -/
def exp2Fix (f : Nat) : Nat := 2 ^ fixBits + expm1Fix (f * ln2Fix / 2 ^ fixBits)

/-- The binary logarithm of 1 ≤ y < 2 in fixed point with `n` bits, by repeated squaring. -/
def log2Fix : Nat → Nat → Nat
  | 0, _ => 0
  | n + 1, y =>
    let y2 := y * y / 2 ^ fixBits
    if 2 * 2 ^ fixBits ≤ y2 then 2 ^ n + log2Fix n (y2 / 2) else log2Fix n y2

/-- A finite value as an integer part and a fraction in fixed point. -/
def toFix (neg : Bool) (m : Nat) (e : Int) : Int :=
  let k := e + fixBits
  let a : Nat := if 0 ≤ k then m * 2 ^ k.toNat else m / 2 ^ (-k).toNat
  if neg then -(a : Int) else a

/-- 2^x for a finite x, to far more bits than any format: magnitude, exponent, sticky. Operands beyond ±2000 are beyond
every format's range and are clamped there. -/
def exp2Approx (neg : Bool) (m : Nat) (e : Int) : Nat × Int × Bool :=
  let x := if 2000 * 2 ^ fixBits ≤ (if e < 0 then (m : Int) * 2 ^ fixBits / 2 ^ (-e).toNat else m * 2 ^ (min e 64).toNat * 2 ^ fixBits)
    then (if neg then -2000 else 2000) * 2 ^ fixBits else toFix neg m e
  let i := x / (2 ^ fixBits : Nat)
  let f := (x % (2 ^ fixBits : Nat)).toNat
  if f = 0 ∧ (e ≥ 0 ∨ m % 2 ^ (-e).toNat = 0) then (1, i, false) else (exp2Fix f, i - fixBits, true)

/-- log2 of a positive finite value: sign, magnitude, exponent, sticky. -/
def log2Approx (m : Nat) (e : Int) : Bool × Nat × Int × Bool :=
  let k := topBit m
  let i : Int := k + e
  if m = 2 ^ k then (decide (i < 0), i.natAbs, 0, false)
  else
    let v : Int := i * (2 ^ 160 : Nat) + log2Fix 160 (m * 2 ^ fixBits / 2 ^ k)
    (decide (v < 0), v.natAbs, -160, true)

/-- tanh of a positive finite value: near 0 the series x − x³/3 + 2x⁵/15, else (1 − y) / (1 + y) with y = e^(−2x). -/
def tanhApprox (m : Nat) (e : Int) : Nat × Int × Bool :=
  let top := (topBit m : Int) + e
  if top < -24 then
    let x2n := m * m
    let k : Nat := 200
    -- x (1 − x²/3): the next term is below 2^-90 of the result
    let xs := (2 ^ k : Int) - (x2n * 2 ^ k : Nat) / (3 * 2 ^ (-2 * e).toNat : Nat)
    ((m * xs.toNat), e - k, true)
  else if 7 ≤ top then (2 ^ 200 - 1, -200, true)
  else
    let x := (toFix false m e).toNat
    let z := 2 * x * 2 ^ fixBits / ln2Fix
    let i := z / 2 ^ fixBits
    let y := exp2Fix (z % 2 ^ fixBits)
    -- w = e^(2x) = y · 2^i
    let w := y * 2 ^ i
    divMag (w - 2 ^ fixBits) 0 (w + 2 ^ fixBits) 0

/-- The exact or nearly exact result of a special function of a finite operand that is in its domain. -/
def SpecialFn.approx (fn : SpecialFn) (neg : Bool) (m : Nat) (e : Int) : Bool × Nat × Int × Bool :=
  match fn with
  | .rcp => let (r, x, s) := divMag 1 0 m e; (neg, r, x, s)
  | .rsq =>
    let (r, x, s) := sqrtMag m e
    let (r', x', s') := divMag 1 0 r x
    (false, r', x', s || s')
  | .exp2 => let (r, x, s) := exp2Approx neg m e; (false, r, x, s)
  | .log2 => log2Approx m e
  | .tanh => let (r, x, s) := tanhApprox m e; (neg, r, x, s)

/-- Whether a code lies within the error bound of Table 2-9, of its FP32 column or of its other one (R149), around the exact magnitude `r × 2^x` of sign `n`, for a
function of the magnitude `m × 2^e`. The reference is kept exact to far below the bound; a code is taken only when it
is inside by a margin of 2^-60 of a unit in the last place. -/
def SpecialFn.within (fn : SpecialFn) (fp32 : Bool) (f : Fmt) (m : Nat) (e : Int) (n : Bool) (r : Nat) (x : Int) (code : Nat) : Bool :=
  match f.value code with
  | .fin cn cm ce =>
    let mb : Int := f.man
    let q0 : Int := 1 - f.bias - mb
    let qu : Int := (topBit r : Int) + x - mb
    let ulp := if qu < q0 then q0 else qu
    let lg := (topBit m : Int) + e
    let inside := fn == .log2 && (lg == -1 || lg == 0 || (lg == 1 && m == 2 ^ topBit m))
    let twoUlp := fp32 && ((fn == .exp2) || (fn == .log2) || (fn == .tanh && decide (-6 ≤ lg)))
    let (bound, be) : Nat × Int :=
      if inside then (1, if fp32 then -22 else -8) else (if twoUlp then 2 else 1, ulp)
    let q := min (min x (if cm = 0 then x else ce)) be - 64
    let d := (Val.fin cn cm ce).scaled q - (Val.fin n r x).scaled q
    let lim : Int := (bound : Int) * 2 ^ (be - q).toNat
    decide ((d.natAbs : Int) ≤ lim - lim / 2 ^ 60)
  | _ => false

/-- A special function (R39, R40): special operands by Table 2-10; exact results exactly; otherwise the code that the
implementation proposes where it lies within the bound of Table 2-9, and the correctly rounded one where it does not; UF is that of
the exact value (R35). The FP32 column holds for T = 3 only (R149). Of VRCP Table 2-10 names +infinity only: of −infinity it is −0
with no flag, DESIGN CHOICE (log entry 68). -/
def SpecialFn.run (fn : SpecialFn) (fp32 : Bool) (f : Fmt) (code : Nat) : Nat × Flags :=
  let (v, fl) := f.operand code
  let out (v : Val) (g : Flags) : Nat × Flags := let (c, h) := f.store 0 false 0 v; (c, fl ||| g ||| h)
  match v with
  | .nan sig => out (.nan false) (flagIf sig Flags.nv)
  | .reserved => out (.nan false) Flags.nv
  | .inf neg =>
    match fn with
    | .rcp => out (.fin neg 0 0) 0
    | .rsq | .log2 =>
      if neg then out (.nan false) Flags.nv
      else if fn = .rsq then out .zero 0 else out (.inf false) 0
    | .exp2 => if neg then out .zero 0 else out (.inf false) 0
    | .tanh => out (.fin neg 1 0) 0
  | .fin neg m e =>
    if m = 0 then
      match fn with
      | .rcp | .rsq => out (.inf neg) Flags.dz
      | .exp2 => out (.fin false 1 0) 0
      | .log2 => out (.inf true) Flags.dz
      | .tanh => out v 0
    else if neg ∧ (fn = .rsq ∨ fn = .log2) then out (.nan false) Flags.nv
    else
      let (n, r, x, sticky) := fn.approx neg m e
      let (c, h) := f.store 0 false 0 (.fin n r x) sticky
      if !sticky ∨ h &&& Flags.of ≠ 0 then (c, fl ||| h)
      else
        let cand := Config.specialCode fn.no f.width code % 2 ^ f.width
        if fn.within fp32 f m e n r x cand then (cand, fl ||| Flags.nx ||| (h &&& Flags.uf)) else (c, fl ||| h)

/-- VFDIV on two values: the exact quotient or its special result (R39, R40). -/
def divVal (a b : Val) : Val × Bool × Flags :=
  if a.isNan || b.isNan then (.nan false, false, flagIf (a.isSig || b.isSig) Flags.nv)
  else
    let n := a.neg? != b.neg?
    match a, b with
    | .inf _, .inf _ => (.nan false, false, Flags.nv)
    | .inf _, _ => (.inf n, false, 0)
    | _, .inf _ => (.fin n 0 0, false, 0)
    | .fin _ m e, .fin _ m' e' =>
      if m' = 0 then (if m = 0 then (.nan false, false, Flags.nv) else (.inf n, false, Flags.dz))
      else if m = 0 then (.fin n 0 0, false, 0)
      else let (r, x, s) := divMag m e m' e'; (.fin n r x, s, 0)
    | _, _ => (.nan false, false, 0)

/-- VFSQRT on a value (R39, R40). -/
def sqrtVal (a : Val) : Val × Bool × Flags :=
  match a with
  | .nan sig => (.nan false, false, flagIf sig Flags.nv)
  | .reserved => (.nan false, false, Flags.nv)
  | .inf true => (.nan false, false, Flags.nv)
  | .inf false => (.inf false, false, 0)
  | .fin n m e =>
    if m = 0 then (a, false, 0)
    else if n then (.nan false, false, Flags.nv)
    else let (r, x, s) := sqrtMag m e; (.fin false r x, s, 0)

end Sys2Proof.Machine
end

