-- ==== Sys2Proof/Machine/State.lean ====
section
/-! DEFINITION. The state of the machine as plain data: one module (device) with its memory, the context of every core,
the engines of the dies, the fabric, the tables of the hub, the partitions with their queues and tasks, and what the
management core keeps. Each field names its width, the rule that gives it, and its value at reset. What stands for
the outside world (which agent acts next, how much time passes) is plain data too: `agenda`, `turn` and `pace`. -/

namespace Sys2Proof.Machine

/-- Why a step can stop the machine. -/
inductive Fault where
  /-- Raised by `step` when a walk would start at a root pointer outside the 48-bit physical address space (R363): there
  is no such address. Safe: the machine stops where the manual gives no memory. -/
  | noSuchAddress (addr : Nat)
  deriving DecidableEq, Repr

/-- Why an instruction has no meaning. -/
inductive Refusal where
  /-- Raised by an arm of `exec` whose instruction has no meaning in the model yet. Safe. -/
  | notModelled (mnemonic : String)
  deriving DecidableEq, Repr

/-! ## The core context (file 03) -/

/-- One write of a result to a register; masks select the bits written (R68, R140). -/
inductive RegWrite where
  | s (r : Nat) (x : Word)
  | v (r : Nat) (x mask : VWord)
  | p (r : Nat) (x mask : PWord)
  | t (t row : Nat) (x mask : VWord)
  | fl (f : Nat) (b : Bool)
  | fls (x : Word)
  | fmt (f : Nat) (x : W32)
  | pat (k : Nat) (x : BitVec 512)
  | step (k : Nat) (x : BitVec 32)
  deriving DecidableEq, Repr

/-- A fixed-latency result in flight (R68): its writes, the issue cycles left until its bound, its place in issue order
(R70), and whether it has landed before its bound. -/
structure Landing where
  writes : List RegWrite
  left : Nat
  seq : Nat
  landed : Bool
  deriving DecidableEq, Repr

/-- Where an access goes: this device's memory (`peer = none`) or a peer's (R112, R365), by physical address. -/
structure Loc where
  peer : Option Nat
  pa : Nat
  deriving DecidableEq, Repr

/-- One piece of a load: virtual address, place, size in bytes, byte offset in the destination, the bytes of the core's
own earlier stores over it (R110), the tag of its READ to a peer once it has been sent (R305), whether it goes through the
snapshot (R111), and whether it was read at issue, as the scratch segment is (R244). -/
structure LoadPart where
  va : Nat
  loc : Loc
  size : Nat
  dst : Nat
  own : List (Option Byte)
  tag : Option Nat
  cached : Bool
  fixed : Bool
  deriving DecidableEq, Repr

/-- The destination of a variable-latency result (R69); a tile says whether its image has been read again (R122), a pop takes the
stream's bytes from position `pos` on. -/
inductive LoadDest where
  | s (r size : Nat) (sx : Bool)
  | v (r : Nat)
  | pat (k : Nat)
  | tile (t bo f : Nat) (again : Bool)
  | atomic (r : Nat) (id : Nat)
  | pop (r pos : Nat)
  deriving DecidableEq, Repr

/-- A landing load not yet written (R69, R76): pieces, destination, issue cycles left, whether it reads the snapshot
(R111) or a scope's point of coherence (R238), the address of its bundle, its place in issue order (R70), the phase in
which it was issued (R110), and its data once fixed. -/
structure LoadLanding where
  parts : List LoadPart
  dest : LoadDest
  left : Nat
  scope : Nat
  pc : Nat
  seq : Nat
  phase : Nat
  data : Option (List Byte)
  deriving DecidableEq, Repr

/-- A store issued in the current phase and not yet published (R111, R133): what it writes within one aligned 64-byte unit,
or in one line of it, with a gap where it leaves a byte (R233); `whole` says that its instruction writes the whole 256-byte
block (R392). -/
structure OwnStore where
  va : Nat
  loc : Loc
  bytes : List (Option Byte)
  scope : Nat
  chn : Nat
  whole : Bool
  deriving DecidableEq, Repr

/-- A sticky history (R72): the op word last decoded for the slot with its prefixes and scope, and its offset o. -/
structure Sticky where
  op : Option OpWord
  scope : Nat
  off : Int
  deriving DecidableEq, Repr

/-- What the op word that acts now reads besides its operands: its slot, RND, SAT, the bundle's scope, its offset o
(0 outside sticky bundles), WC and REP of its bundle, whether every other op word of the bundle has executed, and whether the
bundle holds a TZERO, so that all of it counts as inside the group (R169). -/
structure OpCtx where
  slot : Nat
  rnd : Nat
  sat : Bool
  scope : Nat
  off : Int
  wc : Nat
  rep : Nat
  full : Bool
  opens : Bool
  deriving DecidableEq, Repr

/-- STATUS of an accumulator set (Table 8-2). -/
inductive AccStatus where
  | idle | opened | checked
  deriving DecidableEq, Repr, Inhabited

/-- The kinds of a tile group (R167). -/
inductive GroupKind where
  | ring | minPlus | maxPlus | maxTimes | orAnd
  deriving DecidableEq, Repr, Inhabited

/-- A cell that an injection has upset (R49): its number, the value that it would have without the upset, and the flags that
the steps since have raised on that value and on the wrong one, of which R36 keeps one. -/
structure Upset where
  cell : Nat
  truth : W32
  right : Flags
  wrong : Flags
  deriving DecidableEq, Repr

/-- The set state of an accumulator set (Table 8-2): data cell (i, j) at 128 i + j, 32 bits each; checksums and
magnitude shadows, 128 of 32 bits each; STEPS 64 bits; the latched descriptors; WIDE; GFL 6 bits; REPLAYS and the
replay-pending bit; `upsets` the cells whose flags are not in GFL yet (R36). All zero and IDLE when not live (Table 3-1). -/
structure AccSet where
  status : AccStatus
  data : Bank W32
  cr : Bank W32
  mr : Bank W32
  cc : Bank W32
  mc : Bank W32
  steps : Word
  fa : W32
  fb : W32
  kind : GroupKind
  wide : Bool
  gfl : Flags
  replays : Nat
  pending : Bool
  upsets : List Upset
  deriving DecidableEq, Repr, Inhabited

def AccSet.empty : AccSet := ⟨.idle, [], [], [], [], [], 0, 0, 0, .ring, false, 0, 0, false, []⟩

/-- The generators of stochastic rounding (R31, R32): 128 of the vector unit, 129 of the array, 32 bits each. -/
structure Gens where
  vec : List Nat
  arr : List Nat
  deriving DecidableEq, Repr

/-- A matrix instruction in the array's queue (R174), with the injection bound to it and whether its end clears ARM (R49). -/
structure MatrixOp where
  tmsr : Bool
  nv : Nat
  seg : Nat
  tb : Nat
  ta : Nat
  set : Nat
  mode : Nat
  inject : Option Word
  disarms : Bool
  deriving DecidableEq, Repr

/-- The restart snapshot of the open group (R168) with its restart point; `own` marks the flags that the core's own
instructions have written since (R179). -/
structure Snapshot where
  pc : Nat
  s : Bank Word
  fl : Word
  fstat : Flags
  pat : Bank (BitVec 512)
  fmt : Bank W32
  stepr : Bank (BitVec 32)
  hist : Bank Sticky
  safecnt : Nat
  gens : Gens
  loads : List LoadLanding
  lands : List Landing
  own : Nat
  deriving DecidableEq, Repr

/-- An armed CTEST test (R198), with the place of its CTEST in issue order. -/
structure ArmedTest where
  va : Nat
  loc : Loc
  mask : Word
  fl : Nat
  seq : Nat
  deriving DecidableEq, Repr

/-- A tandem fusion (R99–R101): 2 or 4 members, member index, stride, and the lead's record. -/
structure Fusion where
  size : Nat
  m : Nat
  stride : Int
  lead : Nat
  deriving DecidableEq, Repr

/-- The register classes of a safe-table entry (Table 5-5), one mask a class. -/
structure LiveMask where
  s : Nat
  fl : Nat
  p : Nat
  v : Nat
  t : Nat
  acc : Nat
  pat : Nat
  sb : Nat
  deriving DecidableEq, Repr

def LiveMask.none : LiveMask := ⟨0, 0, 0, 0, 0, 0, 0, 0⟩

/-- The decoder configuration (Table 9-5). -/
structure DecCfg where
  src : Nat
  nblk : Nat
  ratio : Nat
  codec : Nat
  dest : Nat
  daddr : Nat
  dtile : Nat
  drow : Nat
  dfmt : Nat
  dbo : Nat
  first : Nat
  lane : Nat
  deriving DecidableEq, Repr

/-- Where the block in decode stands (R278, R280). -/
inductive DecPhase where
  | reading | parsed | decoded | done
  deriving DecidableEq, Repr

/-- The decoder stream (Table 13-1): configuration; address of the next unread source byte; the block in decode with
the bytes read of it (header, payload); the bytes read of the next block's header, or the status of one of them that cannot be
read (R274); the block's phase, its yield, running CRC and counted cycles; the released bytes in the FIFO from
position `taken` of the expanded stream on, of which those before `written` have been written (R283); the position of the next
pop; where released blocks end; blocks completed; and the fault of a failed stream: block, row of Table 13-3, STAT. -/
structure Stream where
  cfg : DecCfg
  next : Nat
  blk : Nat
  buf : List Byte
  ahead : List Byte
  aheadFail : Option Nat
  phase : DecPhase
  yield : List Byte
  crc : Nat
  cycles : Nat
  fifo : List Byte
  taken : Nat
  written : Nat
  popNext : Nat
  ends : List Nat
  completed : Nat
  fail : Option (Nat × Nat × Nat)
  deriving DecidableEq, Repr

/-- The bounded queue on which an E-slot instruction stalls (Table 9-1). -/
inductive Stall where
  | chan (ch : Nat) | tests | coll | pair (dev chn : Nat) | queue (q : Nat)
  deriving DecidableEq, Repr

/-- A TPOST copy in progress (R209): queue, descriptor, destination register, flag for the notice. -/
structure Posting where
  q : Nat
  desc : List Byte
  d : Nat
  notice : Option Nat
  deriving DecidableEq, Repr

/-- Why a core's clock is frozen (R69, R108, R118, R177, R202, R378); `order`: until earlier memory operations of the core
have been performed (R110, R237), `publish`: until all of them have, the publications before it included (R133); `place`: until the page of a load that is to be performed again is no longer in transit
(R76, R378); `reads`: until the bytes at (device, physical
address, length, virtual address) have come from peers; `retire`: the core retires at a TZERO that does not act (R183); `poison`: the
walk of an access reads a poisoned entry (R392). -/
inductive Freeze where
  | load | order | publish | refill (pages : List Nat) | array | drain | transit (va : Nat) | place (va : Nat) | log | retire | poison (pa : Nat) | reads (rs : List (Nat × Nat × Nat × Nat))
  deriving DecidableEq, Repr

/-- How a continuation leaves its core once the bundle's results have landed (R92–R98, R352), or its fused set (R101); `pc` is
the address of a safe-point bundle, which X_OVERRUN names (R344). -/
inductive Leave where
  | join (pc : Nat) | suspend (va pa pc : Nat) | yield | exit | preempt (pc : Nat) | decouple
  deriving DecidableEq, Repr

/-- A core with the context that runs on it. -/
structure Core where
  /-- Physical core number, 8 bits (R11); its own number. -/
  phys : Nat
  /-- Partition of the running continuation, 4 bits (R386); 0. -/
  part : Nat
  /-- A continuation runs on the core (R216); false. -/
  running : Bool
  /-- Address of the running record, CTL.CONT, 64 bits (R47); 0. -/
  cont : Nat
  /-- Task index of the running continuation, CTL.TASKIDX, 32 bits (R47); 0. -/
  task : Nat
  /-- DEADLINE of the running record, 64 bits (R212); 0. -/
  deadline : Nat
  /-- SCRATCH of the running record, 64 bits (R212); 0. -/
  scratch : Nat
  /-- FRAME of the running record, 64 bits (R212); 0. -/
  frame : Nat
  /-- PARENT of the running record, 64 bits (R212); 0. -/
  parent : Nat
  /-- Address of the bundle to issue, 52 bits (R59); 0. -/
  pc : Nat
  /-- Repetitions of the bundle already issued, 4 bits (R73); 0. -/
  rep : Nat
  /-- Done mask of the bundle, 8 bits (R74); 0. -/
  done : Nat
  /-- The bundle in issue, from its first issue until it retires: fetch is gated meanwhile (R74); none. -/
  current : Option Bundle
  /-- The bundle waits for op words outside its done mask (R74, R75); false. -/
  gated : Bool
  /-- Freeze of the clock domain (R69); none. -/
  frozen : Option Freeze
  /-- The cycle after a taken branch (R67); false. -/
  bubble : Bool
  /-- Target of a branch taken in the current repetition (R67); none. -/
  branch : Option Nat
  /-- The continuation leaves the core after this bundle (R92–R98); none. -/
  leave : Option Leave
  /-- The op word now acting must wait: it stays outside the done mask (R74, R194); false. The model's own. -/
  waiting : Bool
  /-- What the acting op word reads besides its operands. The model's own; slot 0, no prefix. -/
  ctx : OpCtx
  /-- Slots of the bundle whose op words have begun to wait (R130, R139), 8 bits; 0. -/
  waited : Nat
  /-- A flag changed since the last reissue (R74); false. -/
  flChanged : Bool
  /-- An entry left a queue on which the bundle is stalled (R194); false. -/
  requeue : Bool
  /-- Sticky histories of M1, M2, V1, V2, X as 0–4 (R72); empty. -/
  hist : Bank Sticky
  /-- S0–S63, 64 bits (R45); 0. -/
  s : Bank Word
  /-- V0–V31, 4096 bits (R45, R46); 0. -/
  v : Bank VWord
  /-- P0–P95, 1024 bits (R45, R46); 0 but P0. -/
  p : Bank PWord
  /-- T0–T7, row r of Tn at 128 n + r, 4096 bits each (R45, R164); 0. -/
  t : Bank VWord
  /-- ACC0 and ACC1 (R166); idle, zero. -/
  acc0 : AccSet
  /-- ACC1 (R166); idle, zero. -/
  acc1 : AccSet
  /-- FL63–FL0 (R45); 0. -/
  fl : Word
  /-- FMT0–FMT15, 32 bits, listed where they differ from R26's presets (R25, R26). -/
  fmt : Bank W32
  /-- PAT0–PAT7, 64 bytes (R116); 0. -/
  pat : Bank (BitVec 512)
  /-- STEPM1, STEPM2, STEPV1, STEPV2, STEPX as 0–4, 32 bits signed (R45, R87); 0. -/
  stepr : Bank (BitVec 32)
  /-- CTL.SB0–SB15, 64 bits (R50); 0. -/
  sb : Bank Word
  /-- Read position of each ring, 8 bits (R138); 0. -/
  sbPos : Bank Nat
  /-- Acquired count of each ring, 8 bits (R138); 0. -/
  sbAcq : Bank Nat
  /-- Armed CTEST tests, at most 8 (R198); none. -/
  tests : List ArmedTest
  /-- CTL.FSTAT[5:0] (R48); 0. -/
  fstat : Flags
  /-- CTL.MODE[1:0]: QSTRICT, EARLYTRAP (R48); 0. -/
  mode : BitVec 2
  /-- CTL.SAFECNT, 64 bits (R47, R350); 0. -/
  safecnt : Nat
  /-- CTL.QSTALL0–7, 64 bits (R47, R194); 0. -/
  qstall : Bank Word
  /-- Current safe-table index, 16 bits (R92): SAFEIDX of the next write-back at a safe point; 0xFFFF. -/
  safeIdx : Nat
  /-- The safe point that the bundle in issue is, with its table entry, until its last repetition has ended (R73, R92); none. -/
  point : Option (Nat × LiveMask)
  /-- Written-since masks (R219); none. -/
  written : LiveMask
  /-- The save set of the last safe point or pick-up (R219); none. -/
  saved : LiveMask
  /-- Fixed-latency results in flight, in issue order (R68); none. -/
  lands : List Landing
  /-- Results written at the present bundle boundary, by place in issue order: they stand over an engine's write and over an
  earlier result that lands at the same boundary (R54, R70); none. -/
  here : List (Nat × List RegWrite)
  /-- Landing loads, in issue order (R69); none. -/
  loads : List LoadLanding
  /-- Stores of the current phase, in issue order (R111); none. -/
  stores : List OwnStore
  /-- Number of the current phase (R236); 0. -/
  phase : Nat
  /-- A phase start has happened whose publications need not have been performed yet (R237); false. -/
  unsettled : Bool
  /-- Op words issued, for issue order (R70); 0. The model's own. -/
  issued : Nat
  /-- The L1 snapshot: bytes of a 64-byte line by line number, remote
  lines above 2^42 (R235, R243); empty. -/
  snap : Bank (List Byte)
  /-- Of each line of the snapshot, the virtual 64 KiB page by which it was filled (R369); empty. -/
  filled : Bank Nat
  /-- Stochastic-rounding generators (R31); seeded at pick-up (R32); all 1 before. -/
  gens : Gens
  /-- The array: the matrix instruction executing and the one waiting (R174); none. -/
  array : List MatrixOp
  /-- Which set is open, with the restart snapshot of its group (R168); none. -/
  group : Option (Nat × Snapshot)
  /-- The comparison of the set's drain has passed, so TDRAIN's bundle may issue (R177); false. -/
  drained : Bool
  /-- The bundle in issue has closed a tile group, so that it counts as inside it (R169); false. -/
  closed : Bool
  /-- The first issue of a bundle that holds a TZERO: its place in issue order, and the snapshot as it stands without what the
  bundle itself has written since (R168); none. -/
  start : Option (Nat × Snapshot)
  /-- The decoder stream of the context (R271); none. -/
  stream : Option Stream
  /-- Tandem fusion (R99); none. -/
  fused : Option Fusion
  /-- Size of the last fused set since the continuation started (R101); none. -/
  lastFused : Option Fusion
  /-- N of a FUSE that has arrived, with its stride (R99); none. -/
  fuseArrived : Option (Nat × Int)
  /-- The REJN of this member has arrived (R101); false. -/
  rejoined : Bool
  /-- Group and generation on which a BAR waits (R225, R226); none. -/
  barWait : Option (Nat × Nat)
  /-- Values that releasing evaluations read, by the slot of the waiting op word (R130); none. -/
  released : List (Nat × Word)
  /-- Register writes that the retirement of the bundle makes (R130, R209); none. -/
  late : List RegWrite
  /-- A TPOST copy in progress (R209); none. -/
  posting : Option Posting
  /-- The queue on which the bundle is stalled (R194); none. -/
  stall : Option Stall
  /-- A pre-emption request has reached the core (R352); false. -/
  preempt : Bool
  /-- Landing trap due at the next bundle boundary (R122, R204); none. -/
  landTrap : Option Trap
  /-- X_ATOMIC_LOST due at the next bundle boundary, naming the atomic's bundle (R311); none. -/
  atomLost : Option Nat
  /-- X_WATCHDOG due at the next bundle boundary (R362); false. -/
  watchdog : Bool
  /-- Device time in ns at which the core timer last started (R361); 0. -/
  coreTimer : Nat
  /-- CTL.INJECT, 64 bits: ARM, SET, ROW, COL, BIT (R48, R49); 0. Per physical core. -/
  inject : Word
  /-- Beryl map (R182): events in the window by physical line, columns above 256; 0. Per physical core. -/
  beryl : Bank Nat
  /-- Roles (R182): physical line of a logical line where it is not its own number, columns above 256. -/
  roles : Bank Nat
  /-- Lines marked for retirement (R182); none. -/
  marked : List Nat
  /-- Lines retired (R182); none. -/
  lost : List Nat
  /-- The leaf translations of the micro-TLB: (partition, page) to leaf word and level (R367); none. -/
  tlb : List (Nat × Nat × Nat × Nat)
  /-- The preload candidate's record (R348); none. -/
  preload : Option Nat
  /-- The preload candidate's scratch pages in the idle scratchpad bank, by page number (R348); none. -/
  bank : List Nat
  deriving DecidableEq, Repr

/-! ## Memory side: publications, atomics, waiters (files 06, 11, 14) -/

/-- A published store not yet performed at its home slice (R133, R237): the physical core, its place, bytes and scope, whether its
instruction writes the whole 256-byte block (R392), where
its publication stands in its core's issue order, and whether it has reached its point of coherence. Stores that have are
listed in the order in which they reached it. -/
structure PubStore where
  core : Nat
  task : Nat
  part : Nat
  loc : Loc
  bytes : List (Option Byte)
  scope : Nat
  chn : Nat
  whole : Bool
  seq : Nat
  atPoint : Bool
  deriving DecidableEq, Repr

/-- The atomic operations (Table 6-7) and WAKE. -/
inductive AtomOp where
  | add | fadd | xchg | cas | and | or | xor | min | max | minu | maxu | fmin | fmax | wake
  deriving DecidableEq, Repr

/-- Who waits for an atomic's reply: a core context by its record, or a decombining record (R309). -/
inductive AtomOwner where
  | cont (part rec : Nat)
  | comb (id : Nat)
  | peer (dev tag : Nat)
  | job (key die port : Nat)
  deriving DecidableEq, Repr

/-- An atomic on its way (R127, R242): not yet performed, or performed with its old value and flags and the reply on its
way (`old`). `inRecord` names the decombining record it has joined (R308), `queue` the stage and port it has reached last, and
`after` the requests over its bytes that entered its queues before it; `seq` is its place in its core's issue order, `past`
says that a phase start of its core has come after it (R237), and `sent` that its ATOMIC has gone to the peer. -/
structure Atom where
  id : Nat
  owner : AtomOwner
  core : Nat
  part : Nat
  task : Nat
  op : AtomOp
  sz : Nat
  loc : Loc
  va : Nat
  b : Word
  c : Word
  mode : Nat
  ret : Bool
  fabric : Bool
  pc : Nat
  seq : Nat
  since : Nat
  past : Bool
  sent : Bool
  queue : Option (Nat × Nat)
  after : List Nat
  inRecord : Option Nat
  old : Option (Word × Flags)
  deriving DecidableEq, Repr

/-- An entry of a decombining record (R309): its request, its increment and form, the input port and the hub cycle of its arrival. -/
structure CombEntry where
  atom : Nat
  b : Word
  ret : Bool
  inPort : Nat
  cycle : Nat
  deriving DecidableEq, Repr

/-- A decombining record of a stage port (R307–R309). -/
structure CombRecord where
  id : Nat
  stage : Nat
  port : Nat
  addr : Nat
  dev : Nat
  sz : Nat
  entries : List CombEntry
  opened : Bool
  deriving DecidableEq, Repr

/-- Who waits on a word (R132): a slot of a core's bundle (WAITA, CWAIT), a core's armed test of a flag (CTEST, R198), or a suspended
record (SUSPEND). -/
inductive Waiter where
  | core (n slot : Nat)
  | test (n fl : Nat)
  | record (part rec : Nat)
  deriving DecidableEq, Repr

/-- A wait on a word at its home slice (R132): size in bytes, the compared value or the mask, whether it is a bitmap
wait, whether it has fallen back to re-reading, and whether the core itself evaluates it (a bitmap word in the scratch
segment, R197); its virtual address is what an image names (R404). -/
structure Monitor where
  who : Waiter
  va : Nat
  pa : Nat
  size : Nat
  value : Word
  bitmap : Bool
  fallen : Bool
  inCore : Bool
  deriving DecidableEq, Repr

/-! ## Continuations written back (file 10) -/

/-- The resume block (R76): bundle, repetition, done mask, landing loads, the barrier generation of a waiting BAR
(R226), and the atomics still pending (R129); of a bundle whose done mask is not empty also what its op words have decided, since
they do not execute again: the branch taken, the way in which it leaves the core, the safe point that it is, whether it closed a tile
group, and what its TZERO will hold; and whether the REJN of the waiting bundle has been released (R101). -/
structure Resume where
  pc : Nat
  rep : Nat
  done : Nat
  gated : Bool
  branch : Option Nat
  leave : Option Leave
  point : Option (Nat × LiveMask)
  closed : Bool
  start : Option (Nat × Snapshot)
  passed : Bool
  loads : List LoadLanding
  bar : Option (Nat × Nat)
  late : List RegWrite
  pending : List (Nat × LoadDest × Nat)
  deriving DecidableEq, Repr

/-- A chain head in a channel's queue: its first record, the task that posted it (R190), and whether its records that have not
started are cancelled (R256). -/
structure Head where
  va : Nat
  task : Nat
  cancel : Bool
  deriving DecidableEq, Repr

/-- What the parts of a frame hold whose byte layout the manual does not give (log entry 6): resume block, restart snapshot,
sticky histories, armed tests, the decoder stream, and the small fields of the set states. Their bytes in memory are free.
Keyed by record, and by the number of the write-back that wrote the bytes (`writing`). `queued`: for each copy channel the heads that stand in the frame, with who posted them and whether they are
cancelled (R250, R256). `freed`: TRET or the page agent has released the faulted record, which waits for its last pending reply (R129). `due`: the record of a fused set
would be ready, and waits for the others of its set (R230). `pins`: the scratch pages that were pinned, by page number (R348). -/
structure SavedCtx where
  part : Nat
  cont : Nat
  hist : Bank Sticky
  tests : List ArmedTest
  resume : Option Resume
  group : Option (Nat × Snapshot)
  acc0 : AccSet
  acc1 : AccSet
  stream : Option Stream
  lastFused : Option Fusion
  queued : List (Nat × List Head)
  freed : Bool
  due : Bool
  writing : Nat
  pins : List Nat
  deriving DecidableEq, Repr, Inhabited

end Sys2Proof.Machine

namespace Sys2Proof.Config

/-- What bytes of an area of a frame stand for that no write-back has written there (R214, R218; log entry 6). -/
opaque frameSide : List Byte → Machine.SavedCtx

end Sys2Proof.Config

namespace Sys2Proof.Machine

/-- A record in a ready queue (R215), in the order in which records became ready, and whether it has caused a pre-emption request (R347). -/
structure Ready where
  cont : Nat
  task : Nat
  deadline : Nat
  fus : Nat
  mem : Nat
  lead : Nat
  asked : Bool
  deriving DecidableEq, Repr

/-! ## Engines (files 12, 13, 15) -/

/-- A started transfer record (R258): its parameter block and descriptors as obtained, the headers of the source's and the
destination's owner tables, the entries of them already read (destination, tile, entry), the source tiles whose event has been
counted and those read again (R266), the chunks performed, the slots written, the image that is being written with its number in
touch order, and whether the writes of the current chunk or slot have not all been performed; for a ring, where in the stream its slots
begin, and whether the next slot has been taken (R269). -/
structure Started where
  block : Option (List Byte)
  std : Option (List Byte)
  dtd : Option (List Byte)
  sown : Option (List Byte)
  down : Option (List Byte)
  entries : List (Bool × Nat × Nat)
  counted : List Nat
  retried : List Nat
  pos : Nat
  slots : Nat
  image : Option (Nat × List (Byte × Byte))
  busy : Bool
  base : Nat
  taken : Bool
  deriving DecidableEq, Repr

/-- The walk of a channel's first chain (R254, R255): the engine, the record being walked, the record as read, once it is
started its run, whether it is parked on OWN = 0, the status with which the record is to complete, and, in a chain that is cancelled,
the records already completed (R256). -/
structure Walk where
  engine : Nat
  va : Nat
  bytes : Option (List Byte)
  started : Option Started
  parked : Bool
  final : Option Nat
  seen : List Nat
  deriving DecidableEq, Repr

/-- A copy channel (R250): posting record and channel number, the cluster of its last post or pick-up, its queue of heads with
the chain that is walked first, the walk, and the status of the last record completed and whether the last
chain ended so (R200). `life` is 0 while the record that posted is published; when its address is published anew, chains that
still run have another number (R45). -/
structure Chan where
  part : Nat
  cont : Nat
  ch : Nat
  life : Nat
  cluster : Nat
  heads : List Head
  walk : Option Walk
  last : Nat
  bad : Bool
  deriving DecidableEq, Repr

/-- A ring attached to a started record (R269): the descriptor values that the engine holds, and its slot position; `life`
as of its channel. One that is attached no longer holds the values for the next pick-up of a continuation that is in its frame. -/
structure Ring where
  part : Nat
  cont : Nat
  sb : Nat
  life : Nat
  word : Word
  pos : Nat
  attached : Bool
  deriving DecidableEq, Repr

/-- A write of an engine to a window (R54, R55), within one 64-byte unit: partition and task of the job, logical core,
window offset, bytes with their bit masks, the job that waits for it, whether it is held, and, where the task no longer holds the core
at its landing, the status that it leaves for its job (R52), otherwise 0. -/
structure WinWrite where
  part : Nat
  task : Nat
  core : Nat
  off : Nat
  bytes : List (Byte × Byte)
  job : Nat
  held : Bool
  failed : Nat
  deriving DecidableEq, Repr

/-- One block of a collective command at its origin (R317, R320). -/
structure CollBlock where
  blk : Nat
  att : Nat
  flying : Bool
  done : Bool
  err : Nat
  since : Nat
  deriving DecidableEq, Repr

/-- A collective command at its origin Opal (R315–R322). -/
structure CollCmd where
  cid : Nat
  die : Nat
  part : Nat
  task : Nat
  cont : Nat
  va : Nat
  read : Bool
  cmd : List Byte
  route : List Byte
  blocks : List CollBlock
  cyc : Nat
  deriving DecidableEq, Repr

/-! ## The fabric (file 14) -/

/-- A posted write before the egress (R295); `core` is the storing core, with the place of the publication in its issue order, none
for an engine, whose job is `job`; `va` its virtual address. -/
structure Posted where
  core : Option (Nat × Nat)
  job : Nat
  part : Nat
  task : Nat
  dev : Nat
  chn : Nat
  pa : Nat
  va : Nat
  bytes : List Byte
  src : Option Nat
  deriving DecidableEq, Repr

/-- A send-log entry (R296): inline data, or the source address of an engine write. -/
structure LogEntry where
  pa : Nat
  seq : Nat
  bytes : List Byte
  src : Option Nat
  deriving DecidableEq, Repr

/-- An outstanding release (R295, R302). -/
structure Rel where
  seq : Nat
  cnt : Nat
  addr : Nat
  value : Word
  sent : Nat
  deriving DecidableEq, Repr

/-- Source pair state (Table 14-3) with its send log, whose oldest entry stands in place `head` of its region (R296), its
outstanding releases, while a retransmission is in progress the entries that are still to be sent again (R208, R301), and when its
last ACCEPT came (R302). -/
structure Pair where
  part : Nat
  dev : Nat
  chn : Nat
  nseq : Nat
  acc : Nat
  out : Nat
  opened : Nat
  gen : Nat
  rsnd : Bool
  base : Nat
  cap : Nat
  head : Nat
  log : List LogEntry
  rels : List Rel
  again : List LogEntry
  heard : Nat
  deriving DecidableEq, Repr

/-- A held release (Table 14-4). -/
structure HeldRel where
  seq : Nat
  cnt : Nat
  addr : Nat
  value : Word
  deriving DecidableEq, Repr

/-- An arrival-counter slot (Table 14-4). -/
structure Slot where
  part : Nat
  dev : Nat
  chn : Nat
  gen : Nat
  accd : Nat
  e : List Nat
  held : List HeldRel
  timer : Nat
  viol : Nat
  deriving DecidableEq, Repr

/-- An outstanding READ to a peer (R305): its tag, the reading core and the bytes once they have come. -/
structure ReadReq where
  tag : Nat
  core : Nat
  dev : Nat
  pa : Nat
  len : Nat
  since : Nat
  data : Option (List Byte)
  deriving DecidableEq, Repr

/-- The keys of one station direction (R306): the 1-bit key index that flits carry now, current and previous key, flits received
under the current one. -/
structure LinkKeys where
  index : BitVec 1
  cur : Nat
  prev : Option Nat
  flits : Nat
  deriving DecidableEq, Repr

/-! ## Partitions, queues and tasks (files 10, 18, 22) -/

/-- A group-table entry (Table 10-6). -/
structure Group where
  kind : Nat
  gen : Nat
  members : Nat
  arr : Nat
  next : Nat
  deriving DecidableEq, Repr

def Group.unused : Group := ⟨0, 0, 0, 0, 0⟩

/-- A footprint region (Table 18-3): write, first byte, length in bytes. -/
structure Region where
  w : Bool
  base : Nat
  len : Nat
  deriving DecidableEq, Repr

/-- A task descriptor (Tables 18-1 to 18-3), with the 128 bytes as read; addresses are sign-extended from bit 51 (R332). -/
structure Desc where
  entry : Nat
  arg : Word
  deadline : Nat
  pgroup : Nat
  pin : Bool
  preload : Bool
  persist : Bool
  rerun : Bool
  cls : Nat
  policy : Nat
  budget : Nat
  grace : Nat
  signal : Nat
  handler : Nat
  root : Nat
  regions : List Region
  raw : List Byte
  deriving DecidableEq, Repr

/-- Task states (Table 18-9). -/
inductive TaskState where
  | queued | waiting | running | ending | draining | done | rejected | rerunning
  deriving DecidableEq, Repr

/-- A task of a partition (R332–R349): its queue and ring position, the descriptor once taken, STATE and CODE, the
charge in 1/256 units, poison, DEM, RUNS, the greatest HBEAT value, admission order, incoming edges, class
and budget in force, notice record and flag, when the heartbeat timer started, whether it takes the universal footprint,
whether it holds its group, its safe-table pointer or the trap that reading it gave (R91), and an X_OVERRUN that waits
to be delivered (R344). -/
structure Task where
  idx : Nat
  q : Nat
  pos : Nat
  desc : Option Desc
  state : TaskState
  code : Nat
  charge : Nat
  poison : Bool
  dem : Bool
  runs : Nat
  hbeat : Nat
  adm : Nat
  edges : List Nat
  cls : Nat
  budget : Nat
  graced : Bool
  notice : Option (Nat × Nat)
  hbTimer : Nat
  universal : Bool
  holds : Bool
  safePtr : Option Nat
  safeTrap : Option TrapNo
  overrun : Bool
  deriving DecidableEq, Repr

/-- Queue states (R334). -/
inductive QState where
  | opened | resetting | closed
  deriving DecidableEq, Repr

/-- A submission queue (Tables 18-4 and 22-3): attributes, state, close mark, TAIL and HEAD, and the task indices of the
entries from HEAD to TAIL (R335). The control block in the reserved region shows TAIL, HEAD and STATE. -/
structure Queue where
  q : Nat
  attr : QueueAttr
  ctl : Nat
  state : QState
  mark : Option Nat
  tail : Nat
  head : Nat
  idx : List Nat
  completions : Nat
  deriving DecidableEq, Repr

/-- A fault that the page agent holds (R371): record, trap, faulting address, and whether the host has been asked. -/
structure AgentHold where
  cont : Nat
  trap : Trap
  va : Nat
  asked : Bool
  deriving DecidableEq, Repr

/-- A page for which a home agent has granted a collapse (R373): grantee, its frame, devices that have not acknowledged,
and whether GRANT has been sent. -/
structure Collapse where
  va : Nat
  taker : Nat
  frame : Nat
  waits : List Nat
  granted : Bool
  deriving DecidableEq, Repr

/-- A page that its holder migrates, or moves on this device (R377, R396): requester, its frame, devices that have not acknowledged, the
step. -/
structure Migration where
  va : Nat
  taker : Nat
  frame : Nat
  waits : List Nat
  stage : Nat
  deriving DecidableEq, Repr

/-- What a page agent cannot finish at once and takes up again (R372–R378), with page addresses: a COLLAPSE and a migration request, which
wait for their page's turn; an INVALIDATE, with the replica frame that it has given up where accesses to it are not yet performed; a
rewrite of a migration's step, first or final, with the device that asks for it, the new holder and its frame. -/
inductive AgentMail where
  | collapse (va frame requester : Nat)
  | request (va requester frame : Nat)
  | invalidate (va owner frame home : Nat) (left : Option Nat)
  | rewrite (va : Nat) (final : Bool) (sender holder frame : Nat)
  deriving DecidableEq, Repr

/-- A partition (R386–R390): quotas, P-scope control registers (R47), the group table (R223), the physical core of each
logical core (none: vacant, R397), published records with their tasks (R214), ready queues (R215), the round-robin position (R216), the next task index (R335),
queues, tasks, next admission number, memory ranges, flags, and the page agent's tables (R371–R378): the free frames of the pool and the
next free 256-byte table in a frame begun (`nextTable`, none where it is a multiple of a frame), what waits at the agent, the leaves of
pages in transit as they stood before, and what the shootdowns that have not completed wait for. -/
structure Partition where
  no : Nat
  quotas : Quotas
  srseed : Word
  ulim : Nat
  premin : Nat
  wcore : Nat
  wcopy : Nat
  wcoll : Nat
  monfull : Nat
  groups : Bank Group
  cores : List (Option Nat)
  recs : List (Nat × Nat)
  ready : List Ready
  rr : Nat
  nextIdx : Nat
  queues : List Queue
  tasks : List Task
  nextAdm : Nat
  lo : Nat
  hi : Nat
  handlers : List (Nat × Nat)
  swapped : Bool
  quiesced : Bool
  cut : Bool
  fatal : Bool
  holds : List AgentHold
  pool : List Nat
  replicas : List (Nat × List Nat)
  collapses : List Collapse
  migrations : List Migration
  moved : List (Nat × Nat)
  mappers : List (Nat × List Nat)
  mail : List AgentMail
  nextTable : Nat
  moving : List (Nat × Nat)
  shots : List (List (Option Nat × Nat))
  deriving DecidableEq, Repr

/-- What the host or a peer's agent is sent: answers of management commands (R386), completion records (R389), notices
(R393), replies of RDMA operations (R384), attestation reports (R413), state images (R403), messages between page
agents (R372): destination, TAG, address, frame, the device that the message names, and which message; and the contents of
a page that moves to a peer's frame (R377). -/
inductive Notice where
  | ok | busy | refused | admGroup | rst (code : Nat)
  | completion (part q addr key : Nat) (signal status : Word)
  | fatal (part unit : Nat)
  | data (bytes : List Byte)
  | old (v : Word)
  | accessNak | invalidNak
  | report (bytes : List Byte)
  | image (dest key : Nat) (bytes : List Byte)
  | fault (part rec : Nat) (t : Trap)
  | viol (part : Nat)
  | agent (dev tag va frame who msg : Nat)
  | page (dev frame : Nat) (bytes : List Byte)
  deriving DecidableEq, Repr

/-- What the management core is set to or told: the release timeout in ns (R300), one of the 16 migration thresholds (R376), the
threshold of a row of Table 23-2 (R394), a device that holds a replica of a page whose home is here (R372), or that maps a page (R377). -/
inductive Setting where
  | relTimeout (ns : Nat) | migration (k n : Nat) | events (row n : Nat) | replica (part va dev : Nat) | mapper (part va dev : Nat)
  deriving DecidableEq, Repr

/-- The state of the module. -/
structure State where
  /-- The core whose context acts now (R11); physical core 0 at reset, idle. -/
  core : Core
  /-- The contexts of the other cores by physical number, strictly rising; an unlisted core is as at reset; none. -/
  others : List (Nat × Core)
  /-- Memory by 48-bit physical address, one byte a cell (R6, R363); nothing listed. -/
  mem : Memory
  /-- Published stores on their way to their home slices, in publication order (R237); none. -/
  pubs : List PubStore
  /-- Atomics on their way (R127); none. -/
  atoms : List Atom
  /-- Next atomic tag (Table 14-2), 32 bits; 0. -/
  nextAtom : Nat
  /-- Decombining records of the combining stages (R307); none. -/
  combs : List CombRecord
  /-- Monitor tables and overflow lists of the home slices (R132); none. -/
  monitors : List Monitor
  /-- Scratch pages resident in a scratchpad: (partition, page) keyed 2^48·partition + page, to core number and pin
  (R125, R244); none. -/
  pages : Bank (Nat × Bool)
  /-- Frames of continuations written back, as far as the manual gives no byte layout (Table 10-4); none. -/
  saved : List SavedCtx
  /-- Partitions (R386), up to 16; none. -/
  parts : List Partition
  /-- Copy channels (R250); none. -/
  chans : List Chan
  /-- The channel, by the key of its job, whose chunk each copy engine moved last (R251); none. -/
  served : Bank Nat
  /-- Stream-buffer rings attached to records (R269); none. -/
  rings : List Ring
  /-- Engine writes to windows that have not landed (R54, R55, R229); none. -/
  windows : List WinWrite
  /-- Parameter caches: engine, pointer, CRC, bytes (R258); empty. -/
  params : List (Nat × Nat × Nat × List Byte)
  /-- Collective commands at their origin Opals (R315); none. -/
  colls : List CollCmd
  /-- Next collective tag (Table 15-4), 32 bits; 0. -/
  nextCid : Nat
  /-- Transit slots taken at each Opal, 512 each (R321); none. -/
  transit : List (Nat × FabricMsg)
  /-- Packets that wait in origin slots, by Opal (R321); none. -/
  issuing : List (Nat × FabricMsg)
  /-- Communicator entries: number to partition (R313); none. -/
  comms : List (Nat × Nat)
  /-- Posted writes that have not passed the egress (R295); none. -/
  egress : List Posted
  /-- Source ends of pairs (Table 14-3); none. -/
  pairs : List Pair
  /-- Arrival-counter slots (Table 14-4); none. -/
  slots : List Slot
  /-- Outstanding READs (R305); none. -/
  reads : List ReadReq
  /-- Messages handed to the stations, in order (R291): what peers are sent; none. -/
  outbox : List FabricMsg
  /-- Answers and notices to the host and to other modules' agents (R386); none. -/
  notices : List Notice
  /-- Reachability table, one bit a device ID, 1024 bits (R292); 0. -/
  reach : Nat
  /-- Release timeout in ns (R300); 50,000. -/
  relTimeout : Nat
  /-- Settings that the management core makes and that the module has not taken yet (R300, R376, R394); none. -/
  settings : List Setting
  /-- The management VLAN, set at bring-up (R384); none. -/
  mgmtVlan : Option Nat
  /-- The verified source tiles in each Opal's staging SRAM, least recently used first: Opal, physical address, bytes (R321); none. -/
  staged : List (Nat × Nat × Nat)
  /-- Keys of each station direction (R306); none. -/
  keys : Bank LinkKeys
  /-- Hub statistics (Table 14-7), 64 bits each: FAB_DROP, COLL_DROP, COLL_BUSY, VIOL; 0. -/
  fabDrop : Nat
  /-- COLL_DROP (Table 14-7); 0. -/
  collDrop : Nat
  /-- COLL_BUSY (Table 14-7); 0. -/
  collBusy : Nat
  /-- VIOL (Table 14-7); 0. -/
  viol : Nat
  /-- Metadata codes of 256-byte blocks of HBM4, 4 bits (Table 13-6); 1 (zero) for a block never written. -/
  blockMeta : Bank Nat
  /-- Compression statistics (Table 13-7) of each controller: BLKWR, BLKCMP, MCHIT, MCMISS at 4c to 4c + 3; 0. -/
  compress : Bank Nat
  /-- Access counters of MIGRATE pages placed at peers: partition, page, count (R376); none. -/
  access : List (Nat × Nat × Nat)
  /-- The 16 migration thresholds, 16 bits each (R376); 0. -/
  thresholds : List Nat
  /-- The TLB of each die, 4,096 leaf translations: die, partition, page, leaf word, level (R367); none. -/
  dieTlb : List (Nat × Nat × Nat × Nat × Nat)
  /-- The walk cache of each die, 256 table entries: die, partition, level, address above the level's index, entry (R367); none. -/
  walkCache : List (Nat × Nat × Nat × Nat × Nat)
  /-- The Agate stores' directories: record, partition, die, bytes held (R354); none. -/
  agate : List (Nat × Nat × Nat × Nat)
  /-- Event counts of units in the current window (R394); none. -/
  events : List (HwUnit × Nat)
  /-- The number of the event window (R394); 0. -/
  window : Nat
  /-- Units retired since reset (R394); none. -/
  retired : List HwUnit
  /-- Cores to be retired at the write-back of the continuation that runs on them (R394); none. -/
  doomed : List Nat
  /-- Thresholds that the management core has set, by the row of Table 23-2 (R394); none. -/
  limits : Bank Nat
  /-- Poisoned 256-byte blocks (R392); none. -/
  poisoned : List Nat
  /-- Of a poisoned block, the 64-byte units that a write covering the block has written, 4 bits (R392); none. -/
  renewed : Bank Nat
  /-- Health record CORR: events since reset, 64 bits (Table 23-3); 0. -/
  corr : Nat
  /-- Device time in core cycles since reset (R9); 0. -/
  cc : Nat
  /-- Device time in ns, 64 bits (R9); 0. -/
  now : Nat
  /-- The 10-bit device ID (R292); 0 before bring-up. -/
  devId : Nat
  /-- The main rails are up (R410); false. -/
  rails : Bool
  /-- BOOT of the sideband register, 4 bits (Table 25-4); 0. -/
  boot : Nat
  /-- Power limit in W (R411); 1600. -/
  powerLimit : Nat
  /-- POWER of the last measurement in W (Table 25-4); 0. -/
  power : Nat
  /-- TEMP in °C (Table 25-4); 0. -/
  temp : Nat
  /-- CCLK in units of 100 MHz (Table 25-4); 14. -/
  cclk : Nat
  /-- SHA-256 measurement of the firmware as a number (R412); 0. -/
  firmware : Nat
  /-- Trusted image public keys, up to 16 (R413); none. -/
  trusted : List (List Byte)
  /-- Dump slots: partition to dump bytes (R409); none. -/
  dumps : List (Nat × List Byte)
  /-- A QUIESCE in progress: its partitions, image destination and memory key (R399, R400); none. -/
  cutting : Option (List Nat × Nat × Nat)
  /-- Memory channels whose pages are being moved: HBM4 channels, LPDDR-6 channels from 256 on (R396); none. -/
  retiring : List Nat
  /-- The trap that the last instruction took, for the bundle that holds it. The model's own; none. -/
  trapTaken : Option Trap
  /-- The next free value's number. The model's own; 0 (DESIGN CHOICE). -/
  fresh : Nat
  /-- What other agents do before the next core cycle, in order: the schedule of the outside world. The model's own;
  none (DESIGN CHOICE, log entry 3). -/
  agenda : List Instr
  /-- Which physical core acts in each coming step. The model's own; none: the same core goes on. -/
  turn : List Nat
  /-- Core cycles that pass before each coming step besides its own. The model's own; none. -/
  pace : List Nat
  deriving DecidableEq, Repr

/-! ## Reset -/

def OpCtx.none : OpCtx := ⟨0, 0, false, 0, 0, 1, 0, true, false⟩

/-- A core at reset: idle, every register at its value of Table 3-1. -/
def Core.reset (n : Nat) : Core where
  phys := n
  part := 0
  running := false
  cont := 0
  task := 0
  deadline := 0
  scratch := 0
  frame := 0
  parent := 0
  pc := 0
  rep := 0
  done := 0
  current := none
  gated := false
  frozen := none
  bubble := false
  branch := none
  leave := none
  waiting := false
  ctx := OpCtx.none
  waited := 0
  flChanged := false
  requeue := false
  hist := []
  s := []
  v := []
  p := []
  t := []
  acc0 := AccSet.empty
  acc1 := AccSet.empty
  fl := 0
  fmt := []
  pat := []
  stepr := []
  sb := []
  sbPos := []
  sbAcq := []
  tests := []
  fstat := 0
  mode := 0
  safecnt := 0
  qstall := []
  safeIdx := 0xFFFF
  point := none
  written := LiveMask.none
  saved := LiveMask.none
  lands := []
  here := []
  loads := []
  stores := []
  phase := 0
  unsettled := false
  issued := 0
  snap := []
  filled := []
  gens := ⟨[], []⟩
  array := []
  group := none
  drained := false
  closed := false
  start := none
  stream := none
  fused := none
  lastFused := none
  fuseArrived := none
  rejoined := false
  barWait := none
  released := []
  late := []
  posting := none
  stall := none
  preempt := false
  landTrap := none
  atomLost := none
  watchdog := false
  coreTimer := 0
  inject := 0
  beryl := []
  roles := []
  marked := []
  lost := []
  tlb := []
  preload := none
  bank := []

/-- The module right after reset: rails down, no partition, every core idle, every table empty; the values the manual
gives for reset (Tables 3-2, 14-4, 23-3, 25-4) and, where it gives none, those of the assumption log. -/
def State.reset : State where
  core := Core.reset 0
  others := []
  mem := []
  pubs := []
  atoms := []
  nextAtom := 0
  combs := []
  monitors := []
  pages := []
  saved := []
  parts := []
  chans := []
  served := []
  rings := []
  windows := []
  params := []
  colls := []
  nextCid := 0
  transit := []
  issuing := []
  comms := []
  egress := []
  pairs := []
  slots := []
  reads := []
  outbox := []
  notices := []
  reach := 0
  relTimeout := 50000
  settings := []
  mgmtVlan := none
  staged := []
  keys := []
  fabDrop := 0
  collDrop := 0
  collBusy := 0
  viol := 0
  blockMeta := []
  compress := []
  access := []
  thresholds := []
  dieTlb := []
  walkCache := []
  agate := []
  events := []
  window := 0
  retired := []
  doomed := []
  limits := []
  poisoned := []
  renewed := []
  corr := 0
  cc := 0
  now := 0
  devId := 0
  rails := false
  boot := 0
  powerLimit := 1600
  power := 0
  temp := 0
  cclk := 14
  firmware := 0
  trusted := []
  dumps := []
  cutting := none
  retiring := []
  trapTaken := none
  fresh := 0
  agenda := []
  turn := []
  pace := []

end Sys2Proof.Machine
end

