-- ==== Sys2Proof/Machine/Regs.lean ====
section
/-! DEFINITION. Reading and writing the registers of a core context: the hard-wired S0 and P0 (Table 3-1), the marks of
the written-since masks (R219), and results in flight with their landing (R68–R70). -/

namespace Sys2Proof.Machine

def allOnesP : PWord := BitVec.allOnes 1024
def allOnesV : VWord := BitVec.allOnes 4096

/-- S[r]; S0 reads 0 (Table 3-1). -/
def Core.rs (c : Core) (r : Nat) : Word := if r = 0 then 0 else bankGet 0 c.s r
/-- V[r]. -/
def Core.rv (c : Core) (r : Nat) : VWord := bankGet 0 c.v r
/-- P[r]; P0 reads all ones (Table 3-1). -/
def Core.rp (c : Core) (r : Nat) : PWord := if r = 0 then allOnesP else bankGet 0 c.p r
/-- Row `row` of T[t]. -/
def Core.rt (c : Core) (t row : Nat) : VWord := bankGet 0 c.t (128 * t + row)
/-- FMT[f], R26's preset where nothing else is listed. -/
def Core.rf (c : Core) (f : Nat) : W32 := bankGet (BitVec.ofNat 32 (fmtPreset f)) c.fmt f
/-- The format that FMT[f] describes. -/
def Core.rfmt (c : Core) (f : Nat) : Fmt := Fmt.ofWord (c.rf f).toNat
/-- FL[f]. -/
def Core.flag (c : Core) (f : Nat) : Bool := c.fl.getLsbD f
/-- PAT[k]. -/
def Core.rpat (c : Core) (k : Nat) : BitVec 512 := bankGet 0 c.pat k
/-- A step register: STEPM1, STEPM2, STEPV1, STEPV2, STEPX as 0–4 (R87). -/
def Core.rstep (c : Core) (k : Nat) : Int := (bankGet 0 c.stepr k).toInt

def Core.setFl (c : Core) (x : Word) : Core :=
  { c with fl := x, flChanged := c.flChanged || c.fl != x }

/-- One flag of the flag word set to a value. -/
def flagSet (fl : Word) (f : Nat) (b : Bool) : Word :=
  if b then fl ||| (1#64 <<< f) else fl &&& ~~~(1#64 <<< f)

/-- Mark a register as written since the last safe point (R219). -/
def LiveMask.mark (m : LiveMask) : RegWrite → LiveMask
  | .s r _ => { m with s := m.s ||| 2 ^ r }
  | .v r _ _ => { m with v := m.v ||| 2 ^ r }
  | .p r _ _ => { m with p := m.p ||| 2 ^ r }
  | .t t _ _ _ => { m with t := m.t ||| 2 ^ t }
  | .fl f _ => { m with fl := m.fl ||| 2 ^ f }
  | .fls _ => { m with fl := 2 ^ 64 - 1 }
  | .pat k _ => { m with pat := m.pat ||| 2 ^ k }
  | .fmt _ _ | .step _ _ => m

/-- One register write. Writes to S0 and P0 are ignored (Table 3-1). -/
def Core.write (c : Core) (w : RegWrite) : Core :=
  let c := { c with written := c.written.mark w }
  match w with
  | .s r x => if r = 0 then c else { c with s := bankSet 0 c.s r x }
  | .v r x m => { c with v := bankSet 0 c.v r ((c.rv r &&& ~~~m) ||| (x &&& m)) }
  | .p r x m => if r = 0 then c else { c with p := bankSet 0 c.p r ((c.rp r &&& ~~~m) ||| (x &&& m)) }
  | .t t row x m => { c with t := bankSet 0 c.t (128 * t + row) ((c.rt t row &&& ~~~m) ||| (x &&& m)) }
  | .fl f b => c.setFl (flagSet c.fl f b)
  | .fls x => c.setFl x
  | .fmt f x => { c with fmt := bankSet (BitVec.ofNat 32 (fmtPreset f)) c.fmt f x }
  | .pat k x => { c with pat := bankSet 0 c.pat k x }
  | .step k x => { c with stepr := bankSet 0 c.stepr k x }

def Core.writes (c : Core) (ws : List RegWrite) : Core := ws.foldl Core.write c

/-- The flags that writes change, one bit each. -/
def flagsOf (ws : List RegWrite) : Nat := ws.foldl (fun m w => match w with
  | .fl f _ => m ||| 2 ^ f
  | .fls _ => 2 ^ 64 - 1
  | _ => m) 0

/-- A snapshot whose flags count some writes as the core's own instructions' (R179). -/
def Snapshot.owning (g : Snapshot) (ws : List RegWrite) : Snapshot := { g with own := g.own ||| flagsOf ws }

/-- Put a result in flight: it lands at the latest when `bound` issue cycles have passed (R68). A flag that it writes
counts as written by the core's own instructions (R179). -/
def Core.result (c : Core) (bound : Nat) (ws : List RegWrite) : Core :=
  { c with
    lands := c.lands ++ [⟨ws, bound, c.issued, false⟩]
    issued := c.issued + 1
    group := c.group.map fun g => (g.1, g.2.owning ws)
    start := c.start.map fun g => (g.1, g.2.owning ws) }

/-- One register write upon what a snapshot holds (R168). -/
def Snapshot.write (g : Snapshot) (w : RegWrite) : Snapshot :=
  match w with
  | .s r x => if r = 0 then g else { g with s := bankSet 0 g.s r x }
  | .fl f b => { g with fl := flagSet g.fl f b }
  | .fls x => { g with fl := x }
  | .fmt f x => { g with fmt := bankSet (BitVec.ofNat 32 (fmtPreset f)) g.fmt f x }
  | .pat k x => { g with pat := bankSet 0 g.pat k x }
  | .step k x => { g with stepr := bankSet 0 g.stepr k x }
  | .v .. | .p .. | .t .. => g

/-- Writes that are not of the bundle in issue reach the values kept since its first issue (R168). -/
def Core.follow (c : Core) (ws : List RegWrite) : Core := { c with start := c.start.map fun g => (g.1, ws.foldl Snapshot.write g.2) }

/-- The registers of one write. -/
def RegWrite.place : RegWrite → Nat × Nat
  | .s r _ => (0, r)
  | .v r _ _ => (1, r)
  | .p r _ _ => (2, r)
  | .t n row _ _ => (3, 128 * n + row)
  | .fl .. | .fls _ => (4, 0)
  | .fmt f _ => (5, f)
  | .pat k _ => (6, k)
  | .step k _ => (7, k)

/-- Make the writes of a result of place `seq`; what later-issued results wrote to the same registers at this boundary stands over
them (R70). -/
def Core.land (c : Core) (seq : Nat) (ws : List RegWrite) : Core :=
  let above := ((c.here.filter fun x => decide (seq < x.1)).flatMap (·.2)).filter fun w => ws.any fun v => v.place == w.place
  let c := (c.writes ws).writes above
  match c.start with
  | some (n, _) => if seq < n then c.follow (ws ++ above) else c
  | none => c

/-- Apply a change to the core that acts. -/
def State.onCore (s : State) (f : Core → Core) : State := { s with core := f s.core }

/-- The result of an instruction of latency bound `bound`. -/
def State.result (s : State) (bound : Nat) (ws : List RegWrite) : State := s.onCore (·.result bound ws)

/-- OR arithmetic flags into CTL.FSTAT (R35). -/
def State.raiseFlags (s : State) (f : Flags) : State := s.onCore fun c => { c with fstat := c.fstat ||| f }

def State.rs (s : State) (r : Nat) : Word := s.core.rs r

/-- A vector register number moved by the sticky offset, modulo 32 (R73). -/
def State.vnum (s : State) (r : Nat) : Nat := (((r : Int) + s.core.ctx.off) % 32).toNat

/-- Insert a write group by place in issue order. -/
def insertSeq (x : Nat × List RegWrite) : List (Nat × List RegWrite) → List (Nat × List RegWrite)
  | [] => [x]
  | y :: r => if x.1 < y.1 then x :: y :: r else y :: insertSeq x r

/-- Let one result land now (R68): its writes are made and it keeps only its bound. -/
def Core.landAt (c : Core) (k : Nat) : Core :=
  match c.lands[k]? with
  | some l => if l.landed then c
    else { c.land l.seq l.writes with lands := c.lands.set k { l with landed := true }, here := insertSeq (l.seq, l.writes) c.here }
  | none => c

/-- The bytes of a load placed over its destination's register width: value and mask in bytes (R114, R119). -/
def loadImage (parts : List LoadPart) (bs : List Byte) : Nat × Nat :=
  (parts.foldl (fun (acc : (Nat × Nat) × List Byte) p =>
    let ((v, m), rest) := acc
    ((v + leNat (rest.take p.size) * 256 ^ p.dst, m + (256 ^ p.size - 1) * 256 ^ p.dst), rest.drop p.size)) ((0, 0), bs)).1

/-- A pattern record's reserved bits are its last ones, which read as zero (R8, Table 6-3). -/
def patWidth : Nat := 2 ^ 483

/-- The register writes of a landing load with its data; tiles and pops are placed elsewhere (R122, R203). -/
def LoadLanding.regWrites (l : LoadLanding) (bs : List Byte) : List RegWrite :=
  match l.dest with
  | .s r size sx =>
    let n := leNat bs
    [.s r (if sx then BitVec.ofInt 64 (toSigned (8 * size) n) else BitVec.ofNat 64 n)]
  | .v r => let (v, m) := loadImage l.parts bs; [.v r (BitVec.ofNat 4096 v) (BitVec.ofNat 4096 m)]
  | .pop r _ => [.v r (BitVec.ofNat 4096 (leNat bs)) allOnesV]
  | .pat k => [.pat k (BitVec.ofNat 512 (leNat bs % patWidth))]
  | .atomic r _ => [.s r (BitVec.ofNat 64 (leNat bs))]
  | .tile .. => []

/-- The results due at this boundary, in issue order: fixed ones whose bound has come and loads whose count has run
down (R68–R70). -/
def Core.dueWrites (c : Core) (tileWrites : Core → LoadLanding → List Byte → List RegWrite) : List (Nat × List RegWrite) :=
  let fixed := (c.lands.filter fun l => l.left == 0 && !l.landed).map fun l => (l.seq, l.writes)
  let loads := (c.loads.filter fun l => l.left == 0).map fun l =>
    let bs := l.data.getD []
    (l.seq, match l.dest with
      | .tile .. => tileWrites c l bs
      | _ => l.regWrites bs)
  (fixed ++ loads).foldl (fun acc x => insertSeq x acc) []

/-- Whether every load due at this boundary has its data (R69). -/
def Core.dataReady (c : Core) : Bool := c.loads.all fun l => l.left != 0 || l.data.isSome

/-- Write everything due at this boundary (R70). -/
def Core.landDue (c : Core) (tileWrites : Core → LoadLanding → List Byte → List RegWrite) : Core :=
  let ws := c.dueWrites tileWrites
  let c := { c with lands := c.lands.filter (·.left != 0), loads := c.loads.filter (·.left != 0) }
  ws.foldl (fun c x => { c.land x.1 x.2 with here := insertSeq x c.here }) c

/-- One issue cycle passes: every latency and landing count runs down by one (R75), and the boundary before it is over. -/
def Core.countDown (c : Core) : Core :=
  { c with
    here := []
    lands := c.lands.map fun l => { l with left := l.left - 1 }
    loads := c.loads.map fun l => { l with left := l.left - 1 } }

/-- Let every fixed-latency result land (the in-flight drain of R353): by bound, then in issue order. -/
def Core.drain (c : Core) : Core :=
  let rec go : Nat → Core → Core
    | 0, c => { c with lands := [] }
    | n + 1, c =>
      let due := (c.lands.filter fun l => l.left == 0 && !l.landed).foldl
        (fun acc l => insertSeq (l.seq, l.writes) acc) ([] : List (Nat × List RegWrite))
      let c := due.foldl (fun c x => c.land x.1 x.2) { c with lands := c.lands.filter (·.left != 0) }
      go n { c with lands := c.lands.map fun l => { l with left := l.left - 1 }, here := [] }
  go 145 c

end Sys2Proof.Machine
end

