-- ==== Sys2Proof/Machine/Array.lean ====
section
/-! DEFINITION. The systolic array: operand rows (R164, R165), accumulation with its checksum lines (R37, R173, R175),
the drain comparison with correction (R42, R43, R178), and the generators of stochastic rounding (R31, R32). -/

namespace Sys2Proof.Machine

/-! ## Generators (R31, R32) -/

def genAt (g : List Nat) (j : Nat) : Nat := g.getD j 1
/-- The first `n` generators step once; the others keep their states. -/
def stepGens (n : Nat) (g : List Nat) : List Nat :=
  (List.range (max n g.length)).map fun j => if j < n then genStep (genAt g j) else genAt g j

/-- The generators seeded for a task (R32). -/
def Gens.seeded (srseed task : Nat) : Gens :=
  ⟨(List.range 128).map (genSeed srseed task), (List.range 129).map (genSeed srseed task)⟩

/-! ## Dense views of banks -/

def dense {α : Type} (d : α) (b : Bank α) (n : Nat) : Array α :=
  b.foldl (fun a x => if x.1 < n then a.setIfInBounds x.1 x.2 else a) (Array.replicate n d)

def sparse {α : Type} [DecidableEq α] (d : α) (a : Array α) : Bank α :=
  (a.toList.zipIdx.filter fun x => x.1 ≠ d).map fun x => (x.2, x.1)

/-! ## Operand rows (R164, R165, R28, R34) -/

/-- Elements per K segment and dot width of a lane width (Table 8-1). -/
def segOf (l : Nat) : Nat × Nat := if l = 4 then (96, 4) else if l = 8 then (48, 2) else (24, 1)

/-- INT32 accumulation: both formats integer with BIAS 0 and SCALE 0 (R37). -/
def intAcc (fa fb : Fmt) : Bool := fa.isInt && fb.isInt && fa.bias == 0 && fb.bias == 0 && fa.scale == 0 && fb.scale == 0

/-- Does the array accept the formats for a kind (R165)? -/
def arrayAccepts (kind : GroupKind) (fa fb : Fmt) : Bool :=
  decide (fa.width ≤ 16) && decide (fb.width ≤ 16) && fa.lane == fb.lane
    && match kind with
      | .ring => true
      | .orAnd => fa.isInt && fb.isInt && fa.width == 16 && fb.width == 16
      | _ => !fa.isInt && !fb.isInt && fa.width == 16 && fb.width == 16

/-- Byte `b` of a row as a number. -/
def rowByte (row b : Nat) : Nat := field row (8 * b) 8

/-- The scale of element k of a row, with NV where a NaN scale code is used; a per-row scale behaves as the value that it
is (R28, R164). -/
def scaleOf (f : Fmt) (row k : Nat) : Option (Val × Flags) :=
  if f.scale = 1 then
    let v := scaleValue (rowByte row (480 + k / 32))
    some (v, flagIf v.isNan Flags.nv)
  else if f.scale = 2 then
    some (Fmt.fp32.value (field row (8 * 508) 32), 0)
  else none

/-- The value of a code with its scale; a reserved code is zero for an integer operation and the quiet NaN else, with
NV (R24, R28, R34). -/
def scaledValue (f : Fmt) (intOp : Bool) (scale : Option (Val × Flags)) (code : Nat) : Val × Flags :=
  let v := f.value code
  let (v, g) := if v = .reserved then ((if intOp then Val.zero else .nan false), Flags.nv) else (v, 0)
  match scale with
  | none => (v, g)
  | some (s, h) => let (p, k) := v.mul s; (p, g ||| h ||| k)

/-- Element k of an operand row as the array decodes it. -/
def operandElem (f : Fmt) (intOp : Bool) (row k : Nat) : Val × Flags :=
  let l := f.lane
  scaledValue f intOp (scaleOf f row k) (field row (l * k) l)

/-- The elements lo to lo + n - 1 of an operand row, with the flags of decoding them. -/
def operandRow (f : Fmt) (intOp : Bool) (row lo n : Nat) : Array Val × Flags :=
  let es := (List.range n).map fun t => operandElem f intOp row (lo + t)
  ((es.map (·.1)).toArray, es.foldl (fun g x => g ||| x.2) 0)

/-! ## Accumulation (R37, R173) -/

/-- One accumulation into FP32 or INT32 with the values exact (R37). -/
def accumulate (ints : Bool) (mode draw : Nat) (acc : W32) (ps : List Val) : W32 × Flags :=
  if ints then
    let s : Int := ps.foldl (fun a v => a + v.scaled 0) (toSigned 32 acc.toNat)
    (BitVec.ofNat 32 (toBits 32 s), 0)
  else
    let (v, f) := Val.sum mode (Fmt.fp32.value acc.toNat :: ps)
    let (c, g) := Fmt.fp32.store mode false draw v
    (BitVec.ofNat 32 c, f ||| g)

/-- One accumulation of magnitudes, rounded toward +infinity (R42). -/
def shadow (m : W32) (ps : List Val) : W32 × Flags :=
  let (v, f) := Val.sum 2 (Fmt.fp32.value m.toNat :: ps.map Val.abs)
  let (c, g) := Fmt.fp32.store 2 false 0 v
  (BitVec.ofNat 32 c, f ||| g)

/-- A set with its cells dense: what the steps of one matrix instruction work on. -/
structure Grid where
  data : Array W32
  cr : Array W32
  mr : Array W32
  cc : Array W32
  mc : Array W32
  gfl : Flags
  upsets : List Upset
  deriving Inhabited

def orFlags (xs : List (W32 × Flags)) : Flags := xs.foldl (fun g x => g ||| x.2) 0
def codes (xs : List (W32 × Flags)) : Array W32 := (xs.map (·.1)).toArray

/-- The exact products of one dot of cell (i, j) (R37). -/
def dotProducts (a b : Array (Array Val)) (i j lo d n : Nat) : List (Val × Flags) :=
  (List.range d).map fun t =>
    let k := lo + t
    if k < n then ((a.getD i #[]).getD k .zero).mul ((b.getD j #[]).getD k .zero) else (.zero, 0)

/-- One accumulation step of a ring group over every cell, row and column (R173). `gen` is the array's generators after
their step. The flags of an upset cell are kept apart (R36). -/
def ringStep (ints : Bool) (mode : Nat) (gen : List Nat) (a b : Array (Array Val)) (lo d n : Nat) (g : Grid) : Grid :=
  let ps : Array (List (Val × Flags)) := ((List.range 16384).map fun c => dotProducts a b (c / 128) (c % 128) lo d n).toArray
  let row (i : Nat) : List Val := (List.range 128).flatMap fun j => (ps.getD (128 * i + j) []).map (·.1)
  let col (j : Nat) : List Val := (List.range 128).flatMap fun i => (ps.getD (128 * i + j) []).map (·.1)
  let data := (List.range 16384).map fun c =>
    accumulate ints mode (rotl32 (genAt gen (c % 128)) (c / 128 % 32)) (g.data.getD c 0) ((ps.getD c []).map (·.1))
  let cr := (List.range 128).map fun i => accumulate ints mode (rotl32 (genAt gen 128) (i % 32)) (g.cr.getD i 0) (row i)
  let mr := (List.range 128).map fun i => shadow (g.mr.getD i 0) (row i)
  let cc := (List.range 128).map fun j => accumulate ints mode (genAt gen j) (g.cc.getD j 0) (col j)
  let mc := (List.range 128).map fun j => shadow (g.mc.getD j 0) (col j)
  let pf := ps.foldl (fun f l => l.foldl (fun f x => f ||| x.2) f) 0
  let df := data.zipIdx.foldl (fun f x => if g.upsets.any (·.cell == x.2) then f else f ||| x.1.2) 0
  let ups := g.upsets.map fun u =>
    let (w, f) := accumulate ints mode (rotl32 (genAt gen (u.cell % 128)) (u.cell / 128 % 32)) u.truth ((ps.getD u.cell []).map (·.1))
    { u with truth := w, right := u.right ||| f, wrong := u.wrong ||| (data.getD u.cell (0, 0)).2 }
  ⟨codes data, codes cr, codes mr, codes cc, codes mc,
    g.gfl ||| pf ||| df ||| orFlags cr ||| orFlags mr ||| orFlags cc ||| orFlags mc, ups⟩

/-- One cell of a semiring step (Table 8-4). -/
def semiringCell (kind : GroupKind) (mode draw : Nat) (acc : W32) (a b : Val) : W32 × Flags :=
  let combine (isMax : Bool) (r : Val × Flags) : W32 × Flags :=
    let (c, g) := Fmt.fp32.store mode false draw r.1
    let (m, h) := Fmt.fp32.minMax isMax acc.toNat c
    (BitVec.ofNat 32 m, r.2 ||| g ||| h)
  match kind with
  | .minPlus => combine false (Val.sum mode [a, b])
  | .maxPlus => combine true (Val.sum mode [a, b])
  | .maxTimes => combine true (a.mul b)
  | _ => ((if acc ≠ 0 ∨ (!a.isZero ∧ !b.isZero) then 1 else 0), 0)

/-- One step of a semiring group at position k, on columns 0–63 and again on columns 64–127 (R175). -/
def semiringStep (kind : GroupKind) (mode : Nat) (gen : List Nat) (a b : Array (Array Val)) (k : Nat) (g : Grid) : Grid :=
  let data := (List.range 16384).map fun c =>
    let i := c / 128
    let j := c % 128
    semiringCell kind mode (rotl32 (genAt gen j) (i % 32)) (g.data.getD c 0)
      ((a.getD i #[]).getD k .zero) ((b.getD (j % 64) #[]).getD k .zero)
  { g with data := codes data, gfl := g.gfl ||| orFlags data }

def AccSet.grid (s : AccSet) : Grid :=
  ⟨dense 0 s.data 16384, dense 0 s.cr 128, dense 0 s.mr 128, dense 0 s.cc 128, dense 0 s.mc 128, s.gfl, s.upsets⟩

def AccSet.ofGrid (s : AccSet) (g : Grid) : AccSet :=
  { s with data := sparse 0 g.data, cr := sparse 0 g.cr, mr := sparse 0 g.mr, cc := sparse 0 g.cc, mc := sparse 0 g.mc, gfl := g.gfl, upsets := g.upsets }

def AccSet.fmtA (s : AccSet) : Fmt := Fmt.ofWord s.fa.toNat
def AccSet.fmtB (s : AccSet) : Fmt := Fmt.ofWord s.fb.toNat
def AccSet.ints (s : AccSet) : Bool := s.kind == .orAnd || (s.kind == .ring && intAcc s.fmtA s.fmtB)

/-- Steps 0 to 23 of a matrix instruction (R173, R175). The generators step once a step, in every mode (R31). -/
def matrixSteps (set : AccSet) (m : MatrixOp) (a b : Array (Array Val)) (n : Nat) : Nat → Grid × List Nat → Grid × List Nat
  | 0, x => x
  | left + 1, (g, gen) =>
    let s := 23 - left
    let gen := stepGens 129 gen
    let d := (segOf set.fmtA.lane).2
    let g := if m.tmsr then (if s < n then semiringStep set.kind m.mode gen a b s g else g)
      else ringStep set.ints m.mode gen a b (d * s) d n g
    matrixSteps set m a b n left (g, gen)

def Core.acc (c : Core) (n : Nat) : AccSet := if n = 0 then c.acc0 else c.acc1
def Core.setAcc (c : Core) (n : Nat) (a : AccSet) : Core := if n = 0 then { c with acc0 := a } else { c with acc1 := a }

/-- The bit that CTL.INJECT flips once in the cell it names (R49). In a ring set the cell counts as upset from then on
(R36). -/
def injectInto (word : Word) (a : AccSet) : AccSet :=
  let w := word.toNat
  let cell := 128 * field w 23 7 + field w 16 7
  { a with
    data := bankSet 0 a.data cell (bankGet 0 a.data cell ^^^ (1#32 <<< field w 0 5))
    upsets := if a.kind ≠ .ring ∨ a.upsets.any (·.cell == cell) then a.upsets else a.upsets ++ [⟨cell, bankGet 0 a.data cell, 0, 0⟩] }

/-- The flags of a tile group, those of the steps on wrong values among them (R36). -/
def AccSet.flags (a : AccSet) : Flags := a.upsets.foldl (fun g u => g ||| u.wrong) a.gfl

/-- The element of a cell is corrected: of its flags those of its correct value stay (R36). -/
def AccSet.corrected (a : AccSet) (cell : Nat) (w : W32) : AccSet :=
  { a with
    data := bankSet 0 a.data cell w
    gfl := (a.upsets.filter (·.cell == cell)).foldl (fun g u => g ||| u.right) a.gfl
    upsets := a.upsets.filter (·.cell != cell) }

/-- Does CTL.INJECT wait for this set? -/
def injectDue (word : Word) (n : Nat) : Bool := field word.toNat 31 1 == 1 && field word.toNat 30 1 == n

/-- Run one matrix instruction (R173, R175, R49). Tile writes still within their bound complete before the array reads
an operand (R167). -/
def Core.runMatrix (c : Core) (m : MatrixOp) : Core :=
  let set := c.acc m.set
  let tiles := c.drain
  let (e, _) := segOf set.fmtA.lane
  let n := if m.nv = 0 then e else m.nv
  let ops (f : Fmt) (t : Nat) : List (Array Val × Flags) :=
    (List.range 128).map fun i => operandRow f set.ints (tiles.rt t i).toNat (e * m.seg) n
  let ra := ops set.fmtA m.ta
  let rb := ops set.fmtB m.tb
  let rb := if m.tmsr then rb.take 64 else rb
  let fl := (ra ++ rb).foldl (fun g x => g ||| x.2) (0 : Flags)
  let (g, gen) := matrixSteps set m (ra.map (·.1)).toArray (rb.map (·.1)).toArray n 24 (set.grid, c.gens.arr)
  let set := { set.ofGrid { g with gfl := g.gfl ||| fl } with
    steps := set.steps + 24, wide := set.wide || (!set.ints && (m.mode == 1 || m.mode == 2 || m.mode == 3 || m.mode == 5)) }
  let set := match m.inject with
    | some w => injectInto w set
    | none => set
  let c := { c with gens := { c.gens with arr := gen }, inject := if m.disarms then c.inject &&& ~~~(1#64 <<< 31) else c.inject }
  c.setAcc m.set set

/-- The array runs its first matrix instruction to its end (R174). -/
def Core.arrayRun (c : Core) : Core :=
  match c.array with
  | [] => c
  | m :: r => { c with array := r }.runMatrix m

/-- Complete the matrix instructions in flight (R174, R184). -/
def Core.arrayDrain (c : Core) : Core := c.array.foldl (fun c _ => c.arrayRun) c

/-! ## The drain comparison (R42, R43, R178) -/

/-- A line: the values of its cells, its checksum and shadow. -/
structure Line where
  cells : List W32
  sum : W32
  mag : W32

def AccSet.line (s : AccSet) (isRow : Bool) (n : Nat) : Line :=
  let g := s.grid
  ⟨(List.range 128).map fun k => g.data.getD (if isRow then 128 * n + k else 128 * k + n) 0,
    if isRow then g.cr.getD n 0 else g.cc.getD n 0, if isRow then g.mr.getD n 0 else g.mc.getD n 0⟩

def intSum (ws : List W32) : Int := ws.foldl (fun a w => a + toSigned 32 w.toNat) 0
def floatSum (ws : List W32) : Val := (Val.sum 0 (ws.map fun w => Fmt.fp32.value w.toNat)).1

/-- The tolerance of Table 2-12 for a shadow. -/
def AccSet.tolerance (s : AccSet) (mag : W32) : Val :=
  (Val.mul (.fin false (s.steps.toNat + 129) (if s.wide then -23 else -24)) (Fmt.fp32.value mag.toNat)).1

/-- |x − y| ≤ tolerance, for finite x and y. -/
def within (tol x y : Val) : Bool :=
  x.isFinite && y.isFinite && !tol.isNan && !tol.less false (Val.sum 0 [x, y.negate]).1.abs

/-- Does a line pass (Table 2-12, R43)? -/
def AccSet.linePasses (s : AccSet) (l : Line) : Bool :=
  if s.ints then toBits 32 (intSum l.cells) == l.sum.toNat
  else
    let t := floatSum l.cells
    let c := Fmt.fp32.value l.sum.toNat
    if t.isFinite && c.isFinite then
      (if (Fmt.fp32.value l.mag.toNat).isZero then t.eqv c else within (s.tolerance l.mag) t c)
    else (t.isNan && c.isNan) || (t.isInf && c.isInf && t.neg? == c.neg?)

/-- What the comparison answers: the set that passes with the number of corrections, or a replay; with the lines
counted in the Beryl map, rows as (true, i) (R182). -/
inductive Compared where
  | pass (s : AccSet) (corrections : Nat) (events : List (Bool × Nat))
  | replay (events : List (Bool × Nat))

/-- The correction of the one element at row r and column c (R178). -/
def AccSet.correct (s : AccSet) (r c : Nat) : Option AccSet :=
  let row := s.line true r
  let col := s.line false c
  let others (l : Line) (k : Nat) : List W32 := (l.cells.zipIdx.filter fun x => x.2 ≠ k).map (·.1)
  let x : Option W32 :=
    if s.ints then
      let x := toBits 32 (toSigned 32 row.sum.toNat - intSum (others row c))
      let est := toBits 32 (toSigned 32 col.sum.toNat - intSum (others col r))
      if x = est then some (BitVec.ofNat 32 x) else none
    else
      let diff (sum : W32) (o : List W32) : Val :=
        (Val.sum 0 (Fmt.fp32.value sum.toNat :: o.map fun w => (Fmt.fp32.value w.toNat).negate)).1
      let code := (Fmt.fp32.store 0 false 0 (diff row.sum (others row c))).1
      if within (s.tolerance col.mag) (Fmt.fp32.value code) (diff col.sum (others col r)) then some (BitVec.ofNat 32 code)
      else none
  x.bind fun w =>
    let s' := s.corrected (128 * r + c) w
    if s'.linePasses (s'.line true r) && s'.linePasses (s'.line false c) then some s' else none

/-- The drain comparison of a set (R178). -/
def AccSet.compare (s : AccSet) : Compared :=
  if s.kind = .ring then
    let bad (isRow : Bool) : List Nat := (List.range 128).filter fun n => !s.linePasses (s.line isRow n)
    let rows := bad true
    let cols := bad false
    let ev := rows.map (true, ·) ++ cols.map (false, ·)
    match rows, cols with
    | [], [] => .pass s 0 []
    | [r], [c] => match s.correct r c with
      | some s' => .pass s' 1 ev
      | none => .replay ev
    | [r], [] =>
      let l := s.line true r
      let x := if s.ints then toBits 32 (intSum l.cells) else (Fmt.fp32.store 0 false 0 (floatSum l.cells)).1
      .pass { s with cr := bankSet 0 s.cr r (BitVec.ofNat 32 x) } 1 ev
    | [], [c] =>
      let l := s.line false c
      let x := if s.ints then toBits 32 (intSum l.cells) else (Fmt.fp32.store 0 false 0 (floatSum l.cells)).1
      .pass { s with cc := bankSet 0 s.cc c (BitVec.ofNat 32 x) } 1 ev
    | _, _ => .replay ev
  else
    let g := s.grid
    let differ (j : Nat) : Bool := (List.range 128).any fun i => g.data.getD (128 * i + j) 0 != g.data.getD (128 * i + j + 64) 0
    let bad := (List.range 64).filter differ
    if bad.isEmpty then .pass s 0 [] else .replay (bad.flatMap fun j => [(false, j), (false, j + 64)])

/-! ## The Beryl map (R182, R183) -/

/-- The physical line of a logical one: rows 0–130, columns from 256 (R182). -/
def lineBase (isRow : Bool) : Nat := if isRow then 0 else 256
def Core.physLine (c : Core) (isRow : Bool) (n : Nat) : Nat := lineBase isRow + bankGet n c.roles (lineBase isRow + n)
def Core.lineEvents (c : Core) (isRow : Bool) (n : Nat) : Nat := bankGet 0 c.beryl (c.physLine isRow n)

/-- Count events on logical lines; a line whose count reaches the threshold is marked (R182). -/
def Core.countLine (threshold : Nat) (c : Core) (e : Bool × Nat) : Core :=
  let p := c.physLine e.1 e.2
  let k := bankGet 0 c.beryl p + 1
  { c with beryl := bankSet 0 c.beryl p k, marked := if threshold ≤ k ∧ !c.marked.contains p then c.marked ++ [p] else c.marked }

/-- The logical lines of a kind that are in service: 0–127 and the checksum line 128. -/
def Core.logicalOf (c : Core) (p : Nat) : Option (Bool × Nat) :=
  let isRow := decide (p < 256)
  ((List.range 129).find? fun n => c.physLine isRow n == p).map fun n => (isRow, n)

/-- A spare of a kind: a physical line that serves no role and is not retired (R182). -/
def Core.spare (c : Core) (isRow : Bool) : Option Nat :=
  ((List.range 131).map (lineBase isRow + ·)).find? fun p => (c.logicalOf p).isNone && !c.lost.contains p

/-- Move the role of a physical line to a spare of its kind; `none` where no spare remains (R182, R183). -/
def Core.swapLine (c : Core) (p : Nat) : Option Core :=
  match c.logicalOf p with
  | none => some { c with marked := c.marked.filter (· != p) }
  | some (isRow, n) =>
    (c.spare isRow).map fun q =>
      { c with
        roles := bankPut c.roles (lineBase isRow + n) (q - lineBase isRow)
        marked := c.marked.filter (· != p)
        lost := c.lost ++ [p] }

/-- Apply every pending retirement (R182); `none` where one has no spare left. -/
def Core.applyRetirements (c : Core) : Option Core := c.marked.foldl (fun o p => o.bind (·.swapLine p)) (some c)

/-- Is a failing line more suspect than another (R179): by its events, rows before columns, then by the lower physical index? -/
def Core.worse (c : Core) (e b : Bool × Nat) : Bool :=
  let x := c.lineEvents e.1 e.2
  let y := c.lineEvents b.1 b.2
  decide (y < x) || (x == y && ((e.1 && !b.1) || (e.1 == b.1 && decide (c.physLine e.1 e.2 < c.physLine b.1 b.2))))

/-- The suspect line among the failing ones (R179); of each failing pair of a semiring set the column with more events, the duplicate
one on a tie. -/
def Core.suspect (c : Core) (semiring : Bool) (ev : List (Bool × Nat)) : Option (Bool × Nat) :=
  let lines := if !semiring then ev else (ev.map fun e => e.2 % 64).eraseDups.map fun j =>
    (false, if c.lineEvents false (j + 64) < c.lineEvents false j then j else j + 64)
  lines.foldl (fun best e =>
    match best with
    | none => some e
    | some b => if c.worse e b then some e else best) none

end Sys2Proof.Machine
end

