-- ==== Sys2Proof/Machine/Mem.lean ====
section
/-! DEFINITION. Memory as agents see it: translation (R363–R368), access checks (R108, R112), the coherent memory with
its monitors (R132, R233), publication and what a load reads (R111, R232–R240), atomics at the home slice (R127). -/

namespace Sys2Proof.Machine

/-! ## Finding things -/

def State.part? (s : State) (n : Nat) : Option Partition := s.parts.find? (·.no == n)
def State.onPart (s : State) (n : Nat) (f : Partition → Partition) : State :=
  { s with parts := s.parts.map fun p => if p.no = n then f p else p }
/-- A task that is DONE or REJECTED has finished (R336). -/
def Task.finished (t : Task) : Bool := t.state == .done || t.state == .rejected

/-- Does an index of a partition name this task: an unfinished task before a finished one (R336)? -/
def Partition.named (p : Partition) (i : Nat) (t : Task) : Bool :=
  t.idx == i && (!t.finished || p.tasks.all fun u => u.idx != i || u.finished)

def Partition.task? (p : Partition) (i : Nat) : Option Task := p.tasks.find? (p.named i)

/-- Change the first element that a test finds. -/
def changeFirst {α : Type} (p : α → Bool) (f : α → α) : List α → List α
  | [] => []
  | x :: r => if p x then f x :: r else x :: changeFirst p f r

def State.task? (s : State) (n i : Nat) : Option Task := (s.part? n).bind (·.task? i)
def State.onTask (s : State) (n i : Nat) (f : Task → Task) : State :=
  s.onPart n fun p => { p with tasks := changeFirst (p.named i) f p.tasks }

/-- The physical core that carries a logical core number (R51); none where it is vacant. -/
def Partition.physical (p : Partition) (l : Nat) : Option Nat := (p.cores[l]?).join
/-- The logical number of a physical core. -/
def Partition.logical (p : Partition) (n : Nat) : Option Nat := p.cores.findIdx? (· == some n)

/-- The core with a physical number. -/
def State.coreOf (s : State) (n : Nat) : Core :=
  if s.core.phys = n then s.core
  else match s.others.find? (·.1 == n) with
    | some (_, c) => c
    | none => Core.reset n

/-- Change the core with a physical number. -/
def State.onCoreN (s : State) (n : Nat) (f : Core → Core) : State :=
  if s.core.phys = n then { s with core := f s.core }
  else { s with others := bankPut s.others n (f (s.coreOf n)) }

/-- Change every core, the acting one and the others. -/
def State.onCores (s : State) (f : Core → Core) : State :=
  { s with core := f s.core, others := s.others.map fun x => (x.1, f x.2) }

def State.allCores (s : State) : List Core := s.core :: s.others.map (·.2)

/-- The core that runs a record of a partition. -/
def State.runner (s : State) (part rec : Nat) : Option Nat :=
  (s.allCores.find? fun c => c.running && c.part == part && c.cont == rec).map (·.phys)

def dieOf (core : Nat) : Nat := core / 64
def clusterOf (core : Nat) : Nat := core / 4

/-! ## Addresses -/

/-- An effective address is canonical: bits 63–52 equal bit 51 (R108). -/
def canonical (a : Nat) : Bool := let hi := a / 2 ^ 51 % 2 ^ 13; hi == 0 || hi == 2 ^ 13 - 1
/-- The 52-bit virtual address. -/
def va52 (a : Nat) : Nat := a % 2 ^ 52

/-- The range reserved for window addresses (R53). -/
def inWindow (va : Nat) : Bool := decide (0x00F000000000 ≤ va) && decide (va < 0x00F200000000)

/-- The reserved region of a partition stands at the start of its HBM grant, or of its LPDDR grant where it has no HBM
(log entry 7). -/
def Partition.reserved (p : Partition) : Nat := if p.quotas.hbm = 0 then p.hi else p.lo

/-- The reserved region (Table 22-2): what its grant holds from there on, and, where the HBM part is too small for all of it, the start of
the LPDDR part (log entry 7). -/
def Partition.reservedParts (p : Partition) : List (Nat × Nat) :=
  let first := if p.quotas.hbm = 0 then p.quotas.reserved else min p.quotas.reserved (p.quotas.hbm * 2 ^ 30)
  (p.reserved, first) :: (if first = p.quotas.reserved then [] else [(p.hi, p.quotas.reserved - first)])

/-- Does a range meet the reserved region? -/
def Partition.meetsReserved (p : Partition) (a n : Nat) : Bool :=
  p.reservedParts.any fun x => decide (a < x.1 + x.2) && decide (x.1 < a + n)

/-- The partition whose grant holds a byte. -/
def Partition.owns (p : Partition) (pa : Nat) : Bool :=
  (decide (p.lo ≤ pa) && decide (pa < p.lo + p.quotas.hbm * 2 ^ 30)) || (decide (p.hi ≤ pa) && decide (pa < p.hi + p.quotas.lpddr * 2 ^ 30))

/-- Is a full address a window address: canonical, and in that range (R53, R108)? -/
def windowAt (a : Nat) : Bool := canonical a && inWindow (va52 a)

/-- The record references above the virtual address space name the reserved region by offset (log entry 5). -/
def reservedRef (a : Nat) : Bool := decide (2 ^ 52 ≤ a) && decide (a < 2 ^ 53)

def State.read64 (s : State) (pa : Nat) : Nat := leNat (s.mem.readN pa 8)

/-! ## Walks (R363–R368) -/

inductive Walked where
  | leaf (e level : Nat)
  | transit (e level : Nat)
  | fail
  deriving DecidableEq, Repr

/-- The number of address bits below a leaf of a level. -/
def leafBits : Nat → Nat
  | 1 => 30
  | 2 => 21
  | _ => 16

structure Leaf where
  mode : Nat
  peer : Nat
  thr : Nat
  x : Bool
  w : Bool
  r : Bool
  frame : Nat
  deriving DecidableEq, Repr

/-- The fields of a leaf (Table 20-3). -/
def leafFields (e : Nat) : Leaf :=
  ⟨field e 59 3, field e 49 10, field e 45 4, field e 44 1 == 1, field e 43 1 == 1, field e 42 1 == 1, field e 0 32⟩

/-- A leaf entry from its fields. -/
def leafWord (v : Bool) (l : Leaf) : Nat :=
  (if v then 2 ^ 63 else 0) + 2 ^ 62 + l.mode * 2 ^ 59 + l.peer * 2 ^ 49 + l.thr * 2 ^ 45 + (if l.x then 2 ^ 44 else 0)
    + (if l.w then 2 ^ 43 else 0) + (if l.r then 2 ^ 42 else 0) + l.frame

/-- The conditions of R366 on a valid leaf found at a level for an address. -/
def leafOk (e level va : Nat) : Bool :=
  let l := leafFields e
  let bits := leafBits level
  let lo := va / 2 ^ bits * 2 ^ bits
  decide (l.mode ≤ 4) && field e 32 10 == 0
    && (l.mode != 0 || l.peer == 0) && (l.mode == 4 || l.thr == 0)
    && (level != 2 || l.frame % 2 ^ 5 == 0) && (level != 1 || l.frame % 2 ^ 14 == 0)
    && (level != 1 || (l.mode != 3 && l.mode != 4))
    && !(decide (lo < 0x00F200000000) && decide (0x00F000000000 < lo + 2 ^ bits))

/-- What an entry read at a level means. -/
def classify (e level va : Nat) : Walked ⊕ Nat :=
  if field e 62 1 = 1 then
    if field e 63 1 = 0 then .inl (if field e 59 3 = 4 ∧ 2 ≤ level ∧ leafOk e level va then .transit e level else .fail)
    else if level = 0 then .inl .fail
    else .inl (if leafOk e level va then .leaf e level else .fail)
  else if field e 63 1 = 0 then .inl .fail
  else if level = 3 then .inl .fail
  else if field e 40 22 ≠ 0 then .inl .fail
  else if level < 2 ∧ field e 0 4 ≠ 0 then .inl .fail
  else .inr (field e 0 40 * 256)

/-- The index of a level (R363). -/
def levelIndex (va : Nat) : Nat → Nat
  | 0 => field va 39 13
  | 1 => field va 30 9
  | 2 => field va 21 9
  | _ => field va 16 5

/-- The table walk from a level on (R363, R366), given what reads the entry of a level at an address: memory, 8 bytes a level (R368),
or a walk cache in front of it. -/
def walkFrom (read : Nat → Nat → Nat) (va : Nat) : Nat → Nat → Nat → Walked
  | 0, _, _ => .fail
  | fuel + 1, level, base =>
    match classify (read level (base + 8 * levelIndex va level)) level va with
    | .inl w => w
    | .inr next => walkFrom read va fuel (level + 1) next

def State.walkWith (s : State) (read : Nat → Nat → Nat) (part va : Nat) : Walked :=
  match s.part? part with
  | some p => walkFrom read va 4 0 p.quotas.root
  | none => .fail

/-- A walk in memory. -/
def State.walk (s : State) (part va : Nat) : Walked := s.walkWith (fun _ a => s.read64 a) part va

/-- The table entries that a walk reads before its last, with their levels. -/
def walkTables (read : Nat → Nat → Nat) (va : Nat) : Nat → Nat → Nat → List (Nat × Nat)
  | 0, _, _ => []
  | fuel + 1, level, base =>
    let e := read level (base + 8 * levelIndex va level)
    match classify e level va with
    | .inl _ => []
    | .inr next => (level, e) :: walkTables read va fuel (level + 1) next

/-- The number of address bits below the entry of a level (R363). -/
def levelBits : Nat → Nat
  | 0 => 39
  | 1 => 30
  | 2 => 21
  | _ => 16

/-- The bits of an address that select the entry of a level. -/
def walkPrefix (va level : Nat) : Nat := va / 2 ^ levelBits level

/-- The entry of a level as the walk cache of a die holds it, else as memory does (R367). -/
def State.tableEntry (s : State) (die part va level a : Nat) : Nat :=
  match s.walkCache.find? fun x => x.1 == die && x.2.1 == part && x.2.2.1 == level && x.2.2.2.1 == walkPrefix va level with
  | some x => x.2.2.2.2
  | none => s.read64 a

/-- A walk by a walker of a die (R367). -/
def State.walkOn (s : State) (die part va : Nat) : Walked := s.walkWith (s.tableEntry die part va) part va

/-- A TLB entry that serves an address: a leaf of the partition whose range holds it (R367). -/
def tlbFind (tlb : List (Nat × Nat × Nat × Nat)) (part va : Nat) : Option Walked :=
  (tlb.find? fun e => e.1 == part && e.2.1 / 2 ^ (leafBits e.2.2.2 - 16) == va / 2 ^ leafBits e.2.2.2).map
    fun e => .leaf e.2.2.1 e.2.2.2

/-- Translation for an agent of a die, but for a core's micro-TLB: the die TLB, then a walk (R367). -/
def State.lookupEngine (s : State) (die part va : Nat) : Walked :=
  match tlbFind ((s.dieTlb.filter (·.1 == die)).map (·.2)) part va with
  | some w => w
  | none => s.walkOn die part va

/-- Translation for a core: micro-TLB, die TLB, walk (R367). -/
def State.lookup (s : State) (core part va : Nat) : Walked :=
  match tlbFind (s.coreOf core).tlb part va with
  | some w => w
  | none => s.lookupEngine (dieOf core) part va

/-- Where a walk reads entries in memory: not where the walk cache holds them (R367). -/
def State.walkReads (s : State) (die part va : Nat) : Nat → Nat → Nat → List Nat
  | 0, _, _ => []
  | fuel + 1, level, base =>
    let a := base + 8 * levelIndex va level
    let cached := s.walkCache.any fun x => x.1 == die && x.2.1 == part && x.2.2.1 == level && x.2.2.2.1 == walkPrefix va level
    let rest := match classify (s.tableEntry die part va level a) level va with
      | .inl _ => []
      | .inr next => s.walkReads die part va fuel (level + 1) next
    if cached then rest else a :: rest

/-- The poisoned entry that a walk of a die reads, in the grant of a partition that has not failed yet (R392). -/
def State.walkPoison (s : State) (die part va : Nat) : Option Nat :=
  if s.poisoned.isEmpty then none
  else match s.part? part with
    | none => none
    | some p => (s.walkReads die part va 4 0 p.quotas.root).find? fun a =>
      s.poisoned.contains (a / 256) && s.parts.any fun q => q.owns a && !q.fatal

/-- The same for an agent of a die, and for a core, where no TLB serves the address. -/
def State.enginePoison (s : State) (die part va : Nat) : Option Nat :=
  if (tlbFind ((s.dieTlb.filter (·.1 == die)).map (·.2)) part va).isSome then none else s.walkPoison die part va
def State.corePoison (s : State) (core part va : Nat) : Option Nat :=
  if (tlbFind (s.coreOf core).tlb part va).isSome then none else s.enginePoison (dieOf core) part va

/-- How a translated page is accessed (R112, R292, R365). -/
inductive Mode where
  | here
  | direct (peer : Nat)
  | cached (peer : Nat)
  | dup
  deriving DecidableEq, Repr

def State.modeOf (s : State) (l : Leaf) : Mode :=
  match l.mode with
  | 0 => .here
  | 3 => .dup
  | m => if l.peer = s.devId then .here else if m = 2 then .cached l.peer else .direct l.peer

def State.reachable (s : State) (dev : Nat) : Bool := dev == s.devId || s.reach / 2 ^ dev % 2 == 1

/-- The kinds of access and what each needs (R108, R112, R206, R365); `record`: SPAWN's record (R94). -/
inductive Access where
  | read | write | atomic | watched | exec | rw | frel | fchq | record
  deriving DecidableEq, Repr

/-- The trap of an access on a translated page, if it raises one (R108, R112, R206, R292, R365). A fetch is refused by the page
before anything is asked of a peer (R365). A record on a page that the task may not write raises X_WPROT (R94, log entry 80). -/
def State.denied (s : State) (a : Access) (scope : Nat) (l : Leaf) : Option TrapNo :=
  let m := s.modeOf l
  let gone := match m with
    | .direct p | .cached p => !s.reachable p
    | _ => false
  if gone && a != .exec then some .page
  else match a with
    | .read =>
      if !l.r then some .perm
      else match m with
        | .direct _ => if scope = 4 then none else some .perm
        | _ => none
    | .write | .atomic | .rw =>
      match m with
      | .cached _ => some .wprot
      | .dup => some (if l.w then .wprot else .perm)
      | .here => if l.w && (a != .rw || l.r) then none else some .perm
      | .direct _ => if l.w && scope == 4 && (a != .rw || l.r) then none else some .perm
    | .record => if m == .here && l.w then none else some .wprot
    | .watched => if !l.r then some .perm else if m = .here then none else some .perm
    | .exec => if l.x && (m == .here || m == .dup) then none else some .perm
    | .frel => match m with
      | .direct _ => if l.w then none else some .perm
      | _ => some .perm
    | .fchq => match m with
      | .direct _ => if l.r then none else some .perm
      | _ => some .perm

inductive Xlat where
  | ok (loc : Loc) (cached : Bool)
  | trap (t : TrapNo)
  | transit
  deriving DecidableEq, Repr

def State.place (s : State) (e level va : Nat) : Loc × Bool :=
  let l := leafFields e
  let pa := l.frame * 2 ^ 16 + va % 2 ^ leafBits level
  match s.modeOf l with
  | .here | .dup => (⟨none, pa⟩, false)
  | .direct p => (⟨some p, pa⟩, false)
  | .cached p => (⟨some p, pa⟩, true)

def State.xlatOf (s : State) (w : Walked) (a : Access) (scope va : Nat) : Xlat :=
  match w with
  | .fail => .trap .page
  | .transit .. => .transit
  | .leaf e level =>
    match s.denied a scope (leafFields e) with
    | some t => .trap t
    | none => let (l, c) := s.place e level va; .ok l c

/-- Translate one address for the acting core (R108): the canonical form, the window range, the walk, the checks. -/
def State.xlat (s : State) (a : Access) (scope ea : Nat) : Xlat :=
  if !canonical ea then .trap .page
  else if inWindow (va52 ea) then .trap .perm
  else s.xlatOf (s.lookup s.core.phys s.core.part (va52 ea)) a scope (va52 ea)

/-- Translate one address for an engine of a die for a partition (R313, R371): a DUP or REMOTE_CACHED page refuses a store with
the code of a missing permission. -/
def State.xlatEngine (s : State) (die part : Nat) (a : Access) (va : Nat) : Xlat :=
  if !canonical va then .trap .page
  else s.xlatOf (s.lookupEngine die part (va52 va)) a 4 (va52 va)

/-- The physical address of a record or frame byte for the hub: the reserved region by reference, else through the
partition's tables, on this device. While the page is in transit the hub's own accesses go to the frame that is being left:
nothing else reads it until it has been copied, so each is performed before the copy (R377, R378; log entry 73). Where the page has
moved to a peer, the hub finds no address: DESIGN CHOICE (log entry 73). -/
def State.recPa (s : State) (part a : Nat) : Option Nat :=
  let here (e level : Nat) : Option Nat :=
    let loc := (s.place e level (va52 a)).1
    if loc.peer.isNone then some loc.pa else none
  if reservedRef a then (s.part? part).map fun p => p.reserved + a % 2 ^ 48
  else match s.walk part (va52 a) with
    | .leaf e level => here e level
    | .transit e level => here e level
    | .fail => none

/-- Pieces of an access cut at 64-byte lines: address, size, offset (R233). -/
def pieces : Nat → Nat → Nat → Nat → List (Nat × Nat × Nat)
  | 0, _, _, _ => []
  | fuel + 1, a, n, off =>
    if n = 0 then [] else
    let k := min n (64 - a % 64)
    (a, k, off) :: pieces fuel (a + k) (n - k) (off + k)

def cut (a n : Nat) : List (Nat × Nat × Nat) := pieces (n / 64 + 2) a n 0

/-! ## The coherent memory (R233) and compression (R288–R290) -/

/-- HBM4 stands at physical 0 on: eight stacks of 64 GiB less the 128 MiB of each that hold metadata, which no address maps (R289).
LPDDR-6 stands at 1 TiB to 2 TiB (log entry 4). -/
def stackSize : Nat := 2 ^ 36 - 2 ^ 27
def hbmSize : Nat := 8 * stackSize
def stackOf (pa : Nat) : Option Nat := if pa < hbmSize then some (pa / stackSize) else none

/-- The metadata code the controller chooses for a block's contents (R288). -/
def blockKind (bs : List Byte) : Nat :=
  if bs.all (· == 0) then 1
  else if (List.range 64).all (fun k => (bs.drop (4 * k)).take 4 == bs.take 4) then 2
  else if Config.compressible (leNat bs) 4 then 4
  else if Config.compressible (leNat bs) 2 then 3
  else 0

/-- A write meets a block: `units` are the 64-byte units of it that a write covering the block has written, 15 all of it. A covered
block is no longer poisoned (R392). -/
def State.renew (s : State) (blk units : Nat) : State :=
  if !s.poisoned.contains blk then s
  else
    let m := bankGet 0 s.renewed blk ||| units
    if m = 15 then { s with poisoned := s.poisoned.filter (· != blk), renewed := bankDrop s.renewed blk }
    else { s with renewed := bankSet 0 s.renewed blk m }

/-- The controller's work for one block of a write (R288–R290, R392). -/
def State.touchBlock (s : State) (blk units : Nat) : State :=
  let s := s.renew blk units
  match stackOf (blk * 256) with
  | none => s
  | some c =>
    let poisoned := s.poisoned.contains blk
    let kind := if poisoned then 5 else blockKind (s.mem.readN (blk * 256) 256)
    let add (b : Bank Nat) (k : Nat) (d : Nat) : Bank Nat := bankSet 0 b k ((bankGet 0 b k + d) % 2 ^ 64)
    let st := add s.compress (4 * c) 1
    let st := add st (4 * c + 1) (if 1 ≤ kind ∧ kind ≤ 4 then 1 else 0)
    let st := if Config.metadataHit s.fresh then add st (4 * c + 2) 1 else add st (4 * c + 3) 1
    { s with
      blockMeta := bankSet 1 s.blockMeta blk kind
      compress := st
      fresh := s.fresh + 1 }

/-- The units of block `b` that bytes `pa` to `pa + n` cover: all, or those of a piece of a write that covers the block. -/
def unitsOf (pa n b : Nat) (whole : Bool) : Nat :=
  let covers (lo k : Nat) : Bool := decide (pa ≤ lo) && decide (lo + k ≤ pa + n)
  if covers (b * 256) 256 then 15
  else if whole then ((List.range 4).filter fun k => covers (b * 256 + 64 * k) 64).foldl (fun m k => m + 2 ^ k) 0
  else 0

def State.touchBlocks (s : State) (pa n : Nat) (whole : Bool) : State :=
  if n = 0 then s else
  (List.range ((pa + n - 1) / 256 - pa / 256 + 1)).foldl
    (fun s k => let b := pa / 256 + k; s.touchBlock b (unitsOf pa n b whole)) s

/-- Bytes reach memory; `whole`: they are a piece of a write that covers its 256-byte block. -/
def State.put (s : State) (pa : Nat) (bs : List Byte) (whole : Bool := false) : State :=
  ({ s with mem := s.mem.writeN pa bs }).touchBlocks pa bs.length whole

/-- Does a contiguous write of n bytes, whose byte `off` goes to `pa`, cover the block of that byte? -/
def covering (pa off n : Nat) : Bool := decide (pa % 256 ≤ off) && decide (off + (256 - pa % 256) ≤ n)

def overlaps (a n b k : Nat) : Bool := decide (a < b + k) && decide (b < a + n)

/-- Bytes of an area whose layout the manual does not give. -/
def freeBytes (k off n : Nat) : List Byte := (List.range n).map fun i => Config.layoutByte k (off + i)

/-! ## Ready records (R213–R216) -/

def State.readRec (s : State) (part rec off n : Nat) : Nat :=
  match s.recPa part (rec + off) with
  | some pa => leNat (s.mem.readN pa n)
  | none => 0

/-- A hub write of a record or frame field at device scope. -/
def State.writeRec (s : State) (part rec off n v : Nat) : State :=
  match s.recPa part (rec + off) with
  | some pa => s.put pa (leBytes n v)
  | none => s

def State.recState (s : State) (part rec : Nat) : Nat := s.readRec part rec 32 4
/-- ST of a record's state word (Table 10-2). -/
def State.recSt (s : State) (part rec : Nat) : Nat := s.recState part rec % 16

/-- Replace bits `lo` to `lo + n - 1` of a number. -/
def setField (v lo n x : Nat) : Nat := v - field v lo n * 2 ^ lo + x % 2 ^ n * 2 ^ lo

/-- Write ST and WAIT of a record's state word. -/
def State.setSt (s : State) (part rec st wait : Nat) : State :=
  s.writeRec part rec 32 4 (setField (setField (s.recState part rec) 0 4 st) 4 2 wait)

/-- The class of a task: BACKGROUND records carry no deadline (R340). -/
def State.background (s : State) (part task : Nat) : Bool := ((s.task? part task).map (·.cls == 2)).getD false

/-! ## Eligibility and picking (R216, R228, R347) -/

def Partition.group (p : Partition) (g : Nat) : Group := bankGet Group.unused p.groups g
/-- The members of a task's placement group, one bit a logical core. -/
def Partition.placement (p : Partition) (t : Task) : Nat := ((t.desc.map fun d => (p.group d.pgroup).members)).getD 0
def Task.pinned (t : Task) : Bool := (t.desc.map (·.pin)).getD false
def hasBit (m n : Nat) : Bool := m / 2 ^ n % 2 == 1

/-- The task that holds a logical core (R228). -/
def Partition.holder (p : Partition) (l : Nat) : Option Nat :=
  (p.tasks.find? fun t => t.holds && hasBit (p.placement t) l).map (·.idx)

/-- The set of cores of a fused shape that holds core n: the pair or quad of its cluster (R99). -/
def fusedSet (size n : Nat) : List Nat := (List.range size).map (n / size * size + ·)

/-- Is a core eligible for a ready record (R216)? -/
def State.eligible (s : State) (p : Partition) (n : Nat) (r : Ready) : Bool :=
  match p.logical n, p.task? r.task with
  | some l, some t =>
    hasBit (p.placement t) l && !p.swapped && !p.quiesced && !s.retired.contains (.core n)
      && (match p.holder l with
        | some h => h == r.task
        | none => !t.pinned)
      && (r.fus == 0 ||
        let size := if r.fus = 1 then 2 else 4
        n % size == r.mem
          && (fusedSet size n).all (fun k => !(s.coreOf k).running && match p.logical k with
            | some l' => p.holder l' == some r.task
            | none => false)
          && (List.range size).all fun m => p.ready.any fun q => q.fus == r.fus && q.lead == r.lead && q.mem == m)
  | _, _ => false

/-- Pick order of two deadline records (R216): DEADLINE, then admission, then readiness (the list's order). -/
def Partition.before (p : Partition) (a b : Ready) : Bool :=
  let adm (r : Ready) : Nat := ((p.task? r.task).map (·.adm)).getD 0
  decide (a.deadline < b.deadline) || (a.deadline == b.deadline && decide (adm a < adm b))

/-- A ready record with FUS, MEM and its set's lead as its state word and its frame hold them now (R214, R230). -/
def State.asNow (s : State) (part : Nat) (r : Ready) : Ready :=
  let w := s.recState part r.cont
  let fus := field w 10 2
  { r with fus := fus, mem := field w 12 2, lead := if fus = 0 then 0 else s.readRec part (s.readRec part r.cont 8 8) 0x288 8 }

def State.readyNow (s : State) (p : Partition) : Partition := { p with ready := p.ready.map (s.asNow p.no) }

/-- The record that an idle core picks (R216), with the round-robin position after it. -/
def State.choose (s : State) (p : Partition) (n : Nat) : Option (Ready × Nat) :=
  let p := s.readyNow p
  let mine := p.ready.filter (s.eligible p n)
  let back (r : Ready) : Bool := s.background p.no r.task
  match (mine.filter fun r => !back r).foldl (fun best r =>
      match best with
      | none => some r
      | some b => if p.before r b then some r else best) none with
  | some r => some (r, p.rr)
  | none =>
    let qOf (r : Ready) : Nat := ((p.task? r.task).map (·.q)).getD 0
    ((List.range 64).map fun k => (p.rr + k) % 64).findSome? fun q =>
      (mine.find? fun r => back r && qOf r == q).map fun r => (r, (q + 1) % 64)

/-- Request pre-emption for a record that became ready and finds no idle eligible core (R347); one record causes at most one request. -/
def State.askFor (s : State) (part : Nat) (r : Ready) : State :=
  match s.part? part with
  | none => s
  | some p =>
    let able := (p.cores.filterMap id).filter fun n => s.eligible (s.readyNow p) n r
    if s.background part r.task || able.any fun n => !(s.coreOf n).running then s else
    let lateness (n : Nat) : Nat :=
      let c := s.coreOf n
      if s.background part c.task then 2 ^ 65 else c.deadline
    let target := (able.filter fun n => !(s.coreOf n).preempt).foldl (fun best n =>
      match best with
      | none => some n
      | some b => if lateness b < lateness n then some n else best) (none : Option Nat)
    match target with
    | some n =>
      if r.deadline + p.premin < lateness n then
        (s.onCoreN n fun c => { c with preempt := true }).onPart part fun p => { p with
          ready := p.ready.map fun x => if x.cont = r.cont then { x with asked := true } else x }
      else s
    | none => s

/-- A record enters its ready queue: ST 1 and its entry at the end of the ready order (R215, R222, R347). -/
def State.enterReady (s : State) (part rec : Nat) : State :=
  let s := s.setSt part rec 1 0
  let r := s.asNow part ⟨rec, s.readRec part rec 20 4, s.readRec part rec 24 8, 0, 0, 0, false⟩
  let s := s.onPart part fun p => { p with ready := p.ready ++ [r] }
  s.askFor part r

/-- How many records its set has, and those written back with it, by their state words and frames (R230). -/
def State.fellows (s : State) (part rec : Nat) : Nat × List Nat :=
  let look (c : Nat) : Ready := s.asNow part ⟨c, 0, 0, 0, 0, 0, true⟩
  let me := look rec
  if me.fus = 0 || !(s.saved.any fun x => x.part == part && x.cont == rec) then (1, [rec])
  else (if me.fus = 1 then 2 else 4,
    (s.saved.filter fun x => x.part == part && (look x.cont).fus == me.fus && (look x.cont).lead == me.lead).map (·.cont))

/-- A record becomes ready (R222); the records of a fused set do so together, once each of them would (R230). -/
def State.makeReady (s : State) (part rec : Nat) : State :=
  let (size, all) := s.fellows part rec
  let mark (b : Bool) (l : List Nat) : State := { s with saved := s.saved.map fun x => if x.part = part ∧ l.contains x.cont then { x with due := b } else x }
  let due (c : Nat) : Bool := c == rec || s.saved.any fun x => x.part == part && x.cont == c && x.due
  if size ≤ all.length ∧ all.all due then all.foldl (fun s c => s.enterReady part c) (mark false all)
  else if s.recSt part rec = 2 then (mark true [rec]).setSt part rec 3 3
  else mark true [rec]

/-! ## Fatal errors (R392, R393) -/

/-- A core stops, nothing of its continuation being written back (R393). -/
def Core.stopped (c : Core) : Core := { c with running := false, gated := false, frozen := none }

/-- A fatal error of a partition begins (R393): its cores stop at their next bundle boundary, those at once of whose bundle no op word has
executed; nothing is written back, and its queues take nothing more. -/
def State.fatalPart (s : State) (part : Nat) : State :=
  let s := s.onPart part fun p => { p with fatal := true }
  s.onCores fun c => if c.part = part ∧ c.running ∧ c.done = 0 then c.stopped else c

/-- A read of a byte of a poisoned block is fatal to the partition whose grant holds it (R392). -/
def State.poisonRead (s : State) (pa n : Nat) : State :=
  (s.poisoned.filter fun b => overlaps pa n (b * 256) 256).foldl (fun s b =>
    match s.parts.find? (·.owns (b * 256)) with
    | some p => s.fatalPart p.no
    | none => s) s

/-! ## Evaluations (R132, R198) -/

/-- The value a monitor's word holds. -/
def State.watchedValue (s : State) (m : Monitor) : Word := BitVec.ofNat 64 (leNat (s.mem.readN m.pa m.size))

/-- Does an evaluation that reads `v` release the wait (R96, R130, R197)? -/
def Monitor.met (m : Monitor) (v : Word) : Bool := if m.bitmap then v &&& m.value == m.value else v != m.value

/-- The write of an armed test whose mask is complete, which disarms it (R198); the 0 that its CTEST wrote came first. -/
def Core.fireTest (c : Core) (f : Nat) : Core :=
  match c.tests.find? (·.fl == f) with
  | some t => { (c.write (.fl f true)).follow [.fl f true] with
      tests := c.tests.filter (·.fl != f), requeue := c.requeue || c.stall == some .tests
      lands := c.lands.map fun l => if l.seq = t.seq ∧ l.writes = [.fl f false] then { l with landed := true } else l }
  | none => c

/-- Release one waiter with the value that the evaluation read. -/
def State.releaseWaiter (s : State) (m : Monitor) (v : Word) : State :=
  match m.who with
  | .core n k => s.onCoreN n fun c => { c with released := c.released ++ [(k, v)] }
  | .test n f => s.onCoreN n fun c => c.fireTest f
  | .record part rec => if s.recSt part rec = 3 then s.makeReady part rec else s

/-- Every registered waiter on bytes just written is evaluated (R132), which reads its word (R392). -/
def State.evaluate (s : State) (pa n : Nat) : State :=
  let (hit, rest) := s.monitors.partition fun m => !m.fallen && overlaps pa n m.pa m.size && m.met (s.watchedValue m)
  let seen := s.monitors.filter fun m => !m.fallen && overlaps pa n m.pa m.size
  seen.foldl (fun s m => s.poisonRead m.pa m.size) (hit.foldl (fun s m => s.releaseWaiter m (s.watchedValue m)) { s with monitors := rest })

/-- A write performed at its home slice (R233): memory, the controller's work, the evaluations. -/
def State.perform (s : State) (pa : Nat) (bs : List Byte) (whole : Bool := false) : State :=
  (s.put pa bs whole).evaluate pa bs.length

/-- The home slice of an address (R12): the hash over the healthy slices. With all 128 retired the hash has none to name; it then
gives slice 0: DESIGN CHOICE (log entry 81). -/
def State.sliceOf (s : State) (pa : Nat) : Nat :=
  let healthy := (List.range 128).filter fun n => !s.retired.contains (.slice n)
  let k := Config.sliceHash healthy.length (pa / 64) % healthy.length
  healthy.getD k 0

/-- Are the 64 entries of the word's home slice taken (R132)? Words of a scratch segment take none (R197). -/
def State.tableFull (s : State) (pa : Nat) : Bool :=
  decide (64 ≤ (s.monitors.filter fun m => !m.fallen && !m.inCore && s.sliceOf m.pa == s.sliceOf pa).length)

/-- Register a wait at the word's home slice (R132): the table holds 64 entries a slice; a wait beyond them falls back
and counts in CTL.MONFULL. -/
def State.register (s : State) (part : Nat) (m : Monitor) : State :=
  let full := !m.inCore && s.tableFull m.pa
  let s := { s with monitors := s.monitors ++ [{ m with fallen := full }] }
  if full then s.onPart part fun p => { p with monfull := (p.monfull + 1) % 2 ^ 64 } else s

/-- Free the monitor entries of a core (R139), those of its armed tests among them (R198). -/
def State.unregister (s : State) (core : Nat) : State :=
  { s with monitors := s.monitors.filter fun m => match m.who with
      | .core n _ => n != core
      | .test n _ => n != core
      | _ => true }

/-- Free the entry of a core's armed test. -/
def State.disarm (s : State) (core f : Nat) : State := { s with monitors := s.monitors.filter (·.who != .test core f) }

/-! ## Accesses to MIGRATE pages placed at peers (R376) -/

/-- An access to a page counts where its leaf is MIGRATE and placed at a peer: saturating, the least recently used of
32,768 entries giving way. -/
def State.countAccess (s : State) (part va : Nat) : State :=
  match s.walk part (va52 va) with
  | .leaf e _ =>
    let l := leafFields e
    if l.mode ≠ 4 ∨ l.peer = s.devId then s
    else
      let page := va52 va / 2 ^ 16
      let n := ((s.access.find? fun x => x.1 == part && x.2.1 == page).map (·.2.2)).getD 0
      let rest := s.access.filter fun x => !(x.1 == part && x.2.1 == page)
      { s with access := rest.drop (rest.length - 32767) ++ [(part, page, min 0xFFFF (n + 1))] }
  | _ => s

/-! ## Publication and visibility (R111, R232–R238) -/

/-- The path of an access to its home slice (Table 11-1): the core that makes it with the access's place in that core's issue
order, the cluster whose port it passes, and the die whose crossbar it passes. -/
structure Path where
  core : Option (Nat × Nat)
  port : Option Nat
  die : Option Nat
  deriving DecidableEq, Repr

/-- The path of an operation of a core at a place in its issue order. -/
def Path.ofCore (n seq : Nat) : Path := ⟨some (n, seq), some (clusterOf n), some (dieOf n)⟩
/-- The path from a cluster's port, for its copy engines and decoders. -/
def Path.ofCluster (k : Nat) : Path := ⟨none, some k, some (k / 16)⟩
/-- The path from a die's crossbar, for its Opal. -/
def Path.ofDie (d : Nat) : Path := ⟨none, none, some d⟩
/-- The hub stands at the home slices. -/
def Path.ofHub : Path := ⟨none, none, none⟩

/-- Is a published store held at a cluster port of a path (Table 11-1)? -/
def PubStore.atPort (p : PubStore) (r : Path) : Bool := p.atPoint && p.scope == 1 && r.port == some (clusterOf p.core)
/-- Is it held in a die crossbar of a path? -/
def PubStore.atDie (p : PubStore) (r : Path) : Bool := p.atPoint && p.scope == 2 && r.die == some (dieOf p.core)
/-- Is it a store of the path's own core, of an earlier publication, that has not left the core's store path? -/
def PubStore.atCore (p : PubStore) (r : Path) : Bool :=
  (!p.atPoint || p.scope == 0) && match r.core with
    | some (n, seq) => p.core == n && decide (p.seq < seq)
    | none => false

/-- Do the bytes of a published store meet a range? -/
def PubStore.meets (p : PubStore) (pa n : Nat) : Bool := overlaps p.loc.pa p.bytes.length pa n

/-- What a published store writes to a byte. -/
def PubStore.byte? (p : PubStore) (pa : Nat) : Option Byte := if p.loc.pa ≤ pa then (p.bytes[pa - p.loc.pa]?).join else none

/-- The read-only pages that the host may map stand at physical addresses beyond every memory (log entry 11): compression
statistics (Table 13-7), hub statistics (Table 14-7), the health record (Table 23-3). -/
def statsBase : Nat := 2 ^ 47

/-- The 32 bytes of the health record as a number (R398, Table 23-3). -/
def State.health (s : State) : Nat :=
  let count (us : List HwUnit) : Nat := (us.filter fun u => !s.retired.contains u).length
  let lines := (s.allCores.map fun c => c.lost.length).foldl (· + ·) 0
  s.corr * 2 ^ 192 + (s.retired.length + lines) % 2 ^ 32 * 2 ^ 160 + count ((List.range 256).map .core) * 2 ^ 151
    + count ((List.range 256).map .hbmChannel) * 2 ^ 142 + count ((List.range 64).map .lane) * 2 ^ 135
    + count ((List.range 128).map .engine) * 2 ^ 127 + count ((List.range 128).map .slice) * 2 ^ 119 + count ((List.range 64).map .lpChannel) * 2 ^ 112

/-- The 64-bit counter at place k of the compression statistics page (Table 13-7): four a controller; those of the metadata cache
count the reads that the stack has served too. -/
def State.compressCount (s : State) (k : Nat) : Nat :=
  let reads := if k % 4 < 2 then 0 else (List.range s.cc).foldl (fun n t => n + Config.stackReads (k / 4) (k % 4 == 2) t) 0
  (bankGet 0 s.compress k + reads) % 2 ^ 64

/-- A byte of a statistics page, by its page and offset; beyond its fields a page reads as zero (R290, R312, R398). -/
def State.statistic (s : State) (page off : Nat) : Nat :=
  let word (l : List Nat) : Nat := l.getD (off / 8) 0 / 2 ^ (8 * (off % 8)) % 256
  match page with
  | 0 => if off < 256 then s.compressCount (off / 8) / 2 ^ (8 * (off % 8)) % 256 else 0
  | 1 => word [s.fabDrop, s.collDrop, s.collBusy, s.viol]
  | 2 => if off < 32 then s.health / 2 ^ (8 * off) % 256 else 0
  | _ => 0

/-- The byte that a device-scope read finds at a physical address: memory, or a statistics page. -/
def State.deviceByte (s : State) (pa : Nat) : Byte :=
  if statsBase ≤ pa then BitVec.ofNat 8 (s.statistic ((pa - statsBase) / 65536) (pa % 65536)) else s.mem.read pa

/-- The last byte that the published stores of one place of a path write. -/
def State.heldByte (s : State) (place : PubStore → Bool) (pa : Nat) : Option Byte :=
  ((s.pubs.filter place).filterMap (·.byte? pa)).getLast?

/-- A byte as an access finds it on its path: the first place that holds a published store to it forwards the latest one, the
core's own stores, its cluster's port, its die's crossbar; then the home slice answers (R232, R238). -/
def State.seen (s : State) (r : Path) (pa : Nat) : Byte :=
  (((s.heldByte (·.atCore r) pa).or (s.heldByte (·.atPort r) pa)).or (s.heldByte (·.atDie r) pa)).getD (s.deviceByte pa)

def State.seenN (s : State) (r : Path) (pa : Nat) : Nat → List Byte
  | 0 => []
  | n + 1 => s.seen r pa :: State.seenN s r (pa + 1) n

/-- The bytes of a store over those that its unit holds. -/
def laidOver (old : List Byte) (bs : List (Option Byte)) : List Byte := bs.zipIdx.map fun b => b.1.getD (old.getD b.2 0)

/-- Posted writes of a store to a peer, one for each aligned 64-byte unit (R295). -/
def postedOf (core : Option (Nat × Nat)) (job part task : Nat) (dev chn pa va : Nat) (bs : List Byte) (src : Option Nat) : List Posted :=
  (cut pa bs.length).map fun (a, k, off) => ⟨core, job, part, task, dev, chn, a, va + off, (bs.drop off).take k, src.map (· + off)⟩

/-- Publish one store of a core at a phase start (R133, R243). A store to a peer has no gaps. -/
def State.publish (s : State) (c : Core) (widen : Nat) (st : OwnStore) : State :=
  match st.loc.peer with
  | some d => { s with egress := s.egress ++ postedOf (some (c.phys, c.issued)) 0 c.part c.task d st.chn st.loc.pa st.va (laidOver [] st.bytes) none }
  | none => { s with pubs := s.pubs ++ [⟨c.phys, c.task, c.part, st.loc, st.bytes, max st.scope widen, st.chn, st.whole, c.issued, false⟩] }

/-! ## Errors met by a read (R392, R393) -/

/-- What a channel of HBM4 holds besides its share of the stack's metadata: 2 GiB less 4 MiB (R289). -/
def hbmChannelSize : Nat := stackSize / 32

/-- The unit of memory that holds a physical address: channels of 2 GiB of HBM4 and of 16 GiB of LPDDR-6 (Table 23-2,
log entry 4). -/
def channelOf (pa : Nat) : HwUnit := if pa < hbmSize then .hbmChannel (pa / hbmChannelSize) else .lpChannel ((pa - 2 ^ 40) / 2 ^ 34)

/-- Count one event on a unit, in its window and in CORR (R394, R398). -/
def State.countUnit (s : State) (u : HwUnit) : State :=
  let n := ((s.events.find? (·.1 == u)).map (·.2)).getD 0
  { s with events := s.events.filter (·.1 != u) ++ [(u, n + 1)], corr := (s.corr + 1) % 2 ^ 64 }

/-- The event of a checksummed tile (R122, R266): counted on the memory channel that holds it; that of a tile at a peer or in a window
is on no unit of this module's memory and enters CORR only (log entry 79). -/
def State.countTile (s : State) (loc : Option Loc) : State :=
  match loc with
  | some ⟨none, pa⟩ => s.countUnit (channelOf pa)
  | _ => { s with corr := (s.corr + 1) % 2 ^ 64 }

def blankMsg : FabricMsg := ⟨1, 0, 0, 0, 0, 0, false, 0, 0, 0, 0, []⟩

/-- Hand a message to a station (R291). -/
def State.send (s : State) (m : FabricMsg) : State := { s with outbox := s.outbox ++ [m] }

/-! ## Atomics at the home slice (R127, R128, R242) -/

/-- The new value and flags of an atomic (Table 6-7). -/
def AtomOp.apply (op : AtomOp) (sz mode : Nat) (old b c : Nat) : Nat × Flags :=
  let n := if sz = 0 then 32 else 64
  match op with
  | .add => ((old + b) % 2 ^ n, 0)
  | .fadd =>
    let (x, f1) := Fmt.fp32.operand old
    let (y, f2) := Fmt.fp32.operand b
    let (v, f3) := Val.sum mode [x, y]
    let (r, f4) := Fmt.fp32.store mode false 0 v
    (r, f1 ||| f2 ||| f3 ||| f4)
  | .xchg | .wake => (b, 0)
  | .cas => (if old = c then b else old, 0)
  | .and => (old &&& b, 0)
  | .or => (old ||| b, 0)
  | .xor => (old ^^^ b, 0)
  | .min => (if toSigned n b < toSigned n old then b else old, 0)
  | .max => (if toSigned n old < toSigned n b then b else old, 0)
  | .minu => (if b < old then b else old, 0)
  | .maxu => (if old < b then b else old, 0)
  | .fmin => Fmt.fp32.minMax false old b
  | .fmax => Fmt.fp32.minMax true old b

/-- OR flags into the CTL.FSTAT of a continuation: of the core that runs it, or of its frame (R35, R129). -/
def State.flagsTo (s : State) (part rec : Nat) (f : Flags) : State :=
  if f = 0 then s else
  match s.runner part rec with
  | some n => s.onCoreN n fun c => { c with
      fstat := c.fstat ||| f, start := c.start.map fun g => (g.1, { g.2 with fstat := g.2.fstat ||| f }) }
  | none =>
    let frame := s.readRec part rec 8 8
    s.writeRec part frame 0 8 (s.readRec part frame 0 8 ||| f.toNat)

/-- The ATOMIC_REPLY to a peer's request, which is done with it (R293). -/
def State.answerPeer (s : State) (a : Atom) (dev tag : Nat) (old : Word) (f : Flags) : State :=
  ({ s with atoms := s.atoms.filter (·.id != a.id) }).send { blankMsg with
    kind := 5, dst := dev, src := s.devId, seq := tag
    payload := leBytes 8 (if a.ret then old.toNat else 0) ++ leBytes 1 f.toNat ++ leBytes 7 0 }

/-- Perform an atomic at its home slice, indivisibly (R127): memory is written unless a compare fails, and the old value
is on its way to the requester. Non-returning ones are done with it (R309). -/
def State.performAtom (s : State) (a : Atom) : State :=
  let n := if a.sz = 0 then 4 else 8
  let s := s.poisonRead a.loc.pa n
  let old := leNat (s.mem.readN a.loc.pa n)
  let b := a.b.toNat % 2 ^ (8 * n)
  let c := a.c.toNat % 2 ^ (8 * n)
  let (new, f) := a.op.apply a.sz a.mode old b c
  let s := if a.op = .cas ∧ old ≠ c then s else s.perform a.loc.pa (leBytes n new)
  let done (s : State) (keep : Bool) : State :=
    { s with atoms := if keep then s.atoms.map fun x => if x.id = a.id then { x with old := some (BitVec.ofNat 64 old, f) } else x
        else s.atoms.filter (·.id != a.id) }
  match a.owner with
  | .cont part rec => done (s.flagsTo part rec f) a.ret
  | .comb _ => done s true
  | .job .. => done s false
  | .peer dev tag => s.answerPeer a dev tag (BitVec.ofNat 64 old) f

/-- The reply of an atomic among landing loads: in the core, and in what a restart of its tile group restores (R179). -/
def LoadLanding.answered (id : Nat) (v : Word) (l : LoadLanding) : LoadLanding :=
  match l.dest with
  | .atomic _ j => if j = id then { l with data := some (leBytes 8 v.toNat) } else l
  | _ => l

def Snapshot.answered (id : Nat) (v : Word) (g : Snapshot) : Snapshot := { g with loads := g.loads.map (·.answered id v) }

def Core.answered (id : Nat) (v : Word) (c : Core) : Core :=
  { c with loads := c.loads.map (·.answered id v), group := c.group.map fun g => (g.1, g.2.answered id v) }

/-- An atomic answered with its old value: a returning one waits for its landing, another is done with (R309). -/
def State.answerAtom (s : State) (a : Atom) (v : Word) : State :=
  match a.owner with
  | .peer dev tag => s.answerPeer a dev tag v 0
  | _ => { s with atoms := if a.ret then s.atoms.map fun x => if x.id = a.id then { x with old := some (v, 0), inRecord := none } else x
      else s.atoms.filter (·.id != a.id) }

/-- The merged request of a decombining record. -/
def State.merged (s : State) (id : Nat) : Option Atom := s.atoms.find? fun a => a.owner == .comb id

/-- Split the reply of a record's merged request over its entries, in record order, and free the record; an entry that
is a record of an earlier stage splits its own (R309). There are three stages. -/
def State.splitReply : Nat → State → Nat → Word → State
  | 0, s, _, _ => s
  | fuel + 1, s, id, v =>
    match s.combs.find? (·.id == id) with
    | none => s
    | some r =>
      let n := if r.sz = 0 then 32 else 64
      let s := { s with combs := s.combs.filter (·.id != id) }
      (r.entries.foldl (fun (acc : State × Nat) e =>
        let (s, x) := acc
        let w := BitVec.ofNat 64 x
        let s := match s.atoms.find? (·.id == e.atom) with
          | none => s
          | some a => match a.owner with
            | .comb k => State.splitReply fuel { s with atoms := s.atoms.filter (·.id != e.atom) } k w
            | _ => s.answerAtom a w
        (s, (x + e.b.toNat) % 2 ^ n)) (s, v.toNat)).1

/-- The request that carries an atomic now: itself, or the merged request of its record (R309). -/
def State.carrier (s : State) : Nat → Atom → Option Atom
  | 0, a => some a
  | fuel + 1, a => match a.inRecord with
    | none => some a
    | some id => (s.merged id).bind (s.carrier fuel)

/-- Perform a request that stands alone and answer everything it carries. -/
def State.performAlone (s : State) (m : Atom) : State :=
  let s := s.performAtom m
  match m.owner with
  | .comb id =>
    let v := (((s.atoms.find? (·.id == m.id)).bind (·.old)).map (·.1)).getD 0
    ({ s with atoms := s.atoms.filter (·.id != m.id) }).splitReply 3 id v
  | _ => s

/-! ## Order (R110, R232, R237, R242) -/

def Atom.size (a : Atom) : Nat := if a.sz = 0 then 4 else 8

/-- Does a load answer from memory: neither an atomic's reply nor a pop? -/
def LoadLanding.isAtomic (l : LoadLanding) : Bool := match l.dest with
  | .atomic .. => true
  | .pop .. => true
  | _ => false

/-- Has a posted write been published by a core before a place in its issue order? -/
def Posted.before (w : Posted) (n seq : Nat) : Bool :=
  match w.core with
  | some (k, q) => k == n && decide (q < seq)
  | none => false

/-- Must an operation of a core at a place in its issue order still wait: for an earlier load whose value is not fixed (R110),
or for an operation before a phase start that has not been performed or, to a peer, has not left (R237)? -/
def State.held (s : State) (n seq : Nat) : Bool :=
  ((s.coreOf n).loads.any fun l => decide (l.seq < seq) && l.data.isNone && !l.isAtomic)
    || (s.atoms.any fun a => a.core == n && decide (a.seq < seq) && a.past && a.old.isNone)
    || (s.pubs.any fun p => p.core == n && decide (p.seq < seq) && !p.atPoint)
    || s.egress.any fun w => w.before n seq

/-- The atomics whose requests one request carries: itself, or the entries of its records (R309). -/
def State.carries (s : State) : Nat → Atom → List Atom
  | 0, _ => []
  | fuel + 1, a => match a.owner with
    | .comb id => (((s.combs.find? (·.id == id)).map (·.entries)).getD []).flatMap fun e =>
        match s.atoms.find? (·.id == e.atom) with
        | some b => State.carries s fuel b
        | none => []
    | _ => [a]

/-- A published store or an atomic that has not been performed. -/
abbrev Pending := PubStore ⊕ Atom

/-- What is performed before an access of a path to a range: what its core issued earlier to those bytes, and the published
stores held on the path (R110, R232). -/
def State.ahead (s : State) (r : Path) (pa n : Nat) : List Pending :=
  (match r.core with
    | some (k, seq) =>
      (s.atoms.filter fun a => a.core == k && decide (a.seq < seq) && a.old.isNone && overlaps a.loc.pa a.size pa n).map .inr
        ++ (s.pubs.filter fun p => p.core == k && decide (p.seq < seq) && p.meets pa n).map .inl
    | none => [])
  ++ (s.pubs.filter fun p => (p.atPort r || p.atDie r) && p.meets pa n).map .inl

/-- The rest of a published store's path: from its core, from its cluster's port, or from its die's crossbar. -/
def PubStore.path (p : PubStore) : Path :=
  if !p.atPoint || p.scope = 0 then Path.ofCore p.core p.seq else if p.scope = 1 then Path.ofDie (dieOf p.core) else Path.ofHub

/-- What is performed before a published store: the same for its path, and the stores that overlap it, of its own core or held at
the same point, that stand before it. -/
def State.aheadOf (s : State) (p : PubStore) : List Pending :=
  s.ahead p.path p.loc.pa p.bytes.length
    ++ ((s.pubs.takeWhile (· != p)).filter fun q =>
        (q.core == p.core || (p.atPoint && q.atPoint && q.scope == p.scope
            && (if p.scope = 1 then clusterOf q.core == clusterOf p.core else dieOf q.core == dieOf p.core)))
          && q.meets p.loc.pa p.bytes.length).map .inl

/-- Is a request on its way on its own: not performed, in no record, and not gone to a peer? -/
def Atom.alone (a : Atom) : Bool := a.old.isNone && a.inRecord.isNone && !a.sent

/-- The path of a request. -/
def Atom.path (a : Atom) : Path :=
  match a.owner with
  | .cont .. => Path.ofCore a.core a.seq
  | .job _ die port => if 64 ≤ port ∧ port < 96 then Path.ofCluster (die * 16 + (port - 64) / 2) else Path.ofDie die
  | _ => Path.ofHub

/-- The die that a request comes from; none where it has come through the hub. -/
def State.sourceDie (s : State) (a : Atom) : Option Nat :=
  match a.owner with
  | .cont .. => some (dieOf a.core)
  | .job _ die _ => some die
  | .peer .. => none
  | .comb id => (s.combs.find? (·.id == id)).bind fun c => if c.stage = 1 then some (c.port / 256) else none

/-- How far a request has come: 0 before the first stage, 1 at its die's crossbar, 2 in the Garnet network, 3 at the fabric egress or
at the crossbar of its home slice's die. -/
def State.rank (s : State) (a : Atom) : Nat :=
  match a.queue with
  | none => 0
  | some (1, port) => if s.sourceDie a = some (port / 256) then 1 else 3
  | some (k, _) => k

/-- The places where a request is queued from here on (Table 14-5), each with its rank, its stage and its port: at stage 1 the die's
number times 256 plus the home slice, or 128 toward the hub; at stage 2 the home slice's die; at stage 3 the station. Which station
carries a message to a peer is not stated, so it may be any of the 16. -/
def State.portsLeft (s : State) (a : Atom) : List (Nat × Nat × Nat) :=
  let slice := s.sliceOf a.loc.pa
  let home := slice / 32
  let from_ := s.sourceDie a
  let here := a.loc.peer.isNone && from_ == some home
  let first := match from_ with
    | some d => [(1, 1, d * 256 + (if here then slice else 128))]
    | none => []
  let rest := if a.loc.peer.isSome then (List.range 16).map fun k => (3, 3, k)
    else if here then [] else [(2, 2, home), (3, 1, home * 256 + slice)]
  (first ++ rest).filter fun x => decide (s.rank a < x.1)

/-- What stands in a queue, over the bytes of a request that enters it. -/
def State.standing (s : State) (stage port : Nat) (a : Atom) : List Nat :=
  (s.atoms.filter fun x => x.queue == some (stage, port) && x.alone && x.id != a.id && x.loc.peer == a.loc.peer
    && overlaps x.loc.pa x.size a.loc.pa a.size).map (·.id)

/-- The requests over its bytes that entered a queue of a combining stage before a request, or stand in one that it has still to pass,
and have not been performed or gone to a peer: they leave each queue before it (R308). -/
def State.queuedAhead (s : State) (m : Atom) : List Atom :=
  (m.after ++ (s.portsLeft m).flatMap fun x => s.standing x.2.1 x.2.2 m).filterMap fun id =>
    ((s.atoms.find? (·.id == id)).bind (s.carrier 3)).filter fun x => x.alone && x.id != m.id

/-- What is performed before a request: what its core issued earlier to those bytes, what is held on the paths of those whose
requests it carries, and what stands before it in a queue. -/
def State.aheadAtom (s : State) (m : Atom) : List Pending :=
  (match m.owner with
    | .comb _ => (s.carries 4 m).flatMap fun (x : Atom) => s.ahead { x.path with core := none } m.loc.pa m.size
    | _ => s.ahead m.path m.loc.pa m.size)
  ++ (s.queuedAhead m).map .inr

/-- Need nothing that a request carries wait for an earlier operation of its core? -/
def State.mayGo (s : State) (m : Atom) : Bool := (s.carries 4 m).all fun (x : Atom) => !s.held x.core x.seq

/-- Perform a published store at its home slice, or the request that carries an atomic, after everything that precedes it.
Nothing happens to what is performed already, to a request to a peer, to one whose record is lost (R311), or to one that must
wait for a peer. -/
def State.complete : Nat → State → Pending → State
  | 0, s, _ => s
  | fuel + 1, s, .inl p =>
    let s := (s.aheadOf p).foldl (State.complete fuel) s
    if s.pubs.contains p then
      let s := { s with pubs := s.pubs.erase p }
      s.perform p.loc.pa (laidOver (s.mem.readN p.loc.pa p.bytes.length) p.bytes) p.whole
    else s
  | fuel + 1, s, .inr a =>
    match s.carrier 3 a with
    | none => s
    | some m =>
      if m.loc.peer.isSome || m.old.isSome || m.inRecord.isSome || !s.mayGo m then s
      else
        let s := (s.aheadAtom m).foldl (State.complete fuel) s
        match s.atoms.find? (·.id == m.id) with
        | some m => if m.old.isNone then s.performAlone m else s
        | none => s

/-- Perform one published store or atomic. -/
def State.finish (s : State) (x : Pending) : State := s.complete (s.pubs.length + s.atoms.length + 1) x

/-- Perform published stores that have been named before. -/
def State.finishPubs (s : State) (ps : List PubStore) : State := ps.foldl (fun s p => s.finish (.inl p)) s

/-- Perform what precedes an access of a path to a range of this device's memory. -/
def State.clear (s : State) (r : Path) (pa n : Nat) : State := (s.ahead r pa n).foldl State.finish s

/-- A write of an agent that passes the points of coherence of its path, in order with what they hold (R232, R233). -/
def State.performVia (s : State) (r : Path) (pa : Nat) (bs : List (Option Byte)) (whole : Bool) : State :=
  let s := s.clear r pa bs.length
  s.perform pa (laidOver (s.mem.readN pa bs.length) bs) whole

/-- Perform atomics that have been named before, where they have not been performed since. -/
def State.finishAtoms (s : State) (l : List Atom) : State :=
  l.foldl (fun s a =>
    match s.atoms.find? (·.id == a.id) with
    | some a => if a.old.isNone then s.finish (.inr a) else s
    | none => s) s

/-- The atomics that a core issued before a place in its issue order are performed, in that order (R110, R242). -/
def State.performOwn (s : State) (n before : Nat) : State :=
  s.finishAtoms (s.atoms.filter fun a => a.core == n && decide (a.seq < before))

/-- A published store reaches its point of coherence (R237): the store path of a core, a cluster's port or a die's crossbar
holds it from then on; at device scope that is its home slice. What its core issued earlier to its bytes has passed before it, and
so have the stores held at a port that it passes. -/
def State.toPoint (s : State) (p : PubStore) : State :=
  if p.atPoint || !s.pubs.contains p || s.held p.core p.seq then s
  else if 3 ≤ p.scope then s.finish (.inl p)
  else
    let mine := (s.pubs.takeWhile (· != p)).filter fun q => q.core == p.core && q.meets p.loc.pa p.bytes.length
    if mine.any (!·.atPoint) then s
    else
      let s := ((s.ahead { p.path with port := none, die := none } p.loc.pa p.bytes.length).filter (·.isRight)).foldl State.finish s
      let s := s.finishPubs (mine.filter (·.scope != p.scope))
      let s := if p.scope = 2 then
          s.finishPubs (s.pubs.filter fun q => q.atPort p.path && q.meets p.loc.pa p.bytes.length)
        else s
      { s with pubs := s.pubs.erase p ++ [{ p with atPoint := true }] }

/-! ## The value of a load (R110, R111, R234, R235, R238) -/

/-- The key of a 64-byte line in the snapshot: a peer's lines stand above 2^42 (R243). -/
def lineKey (l : Loc) : Nat :=
  match l.peer with
  | none => l.pa / 64
  | some d => 2 ^ 42 * (d + 1) + l.pa / 64

/-- The number of 64-byte lines that the snapshot holds (Table 1-2). -/
def snapLines : Nat := 2048

/-- A line filled into the snapshot of a core by an access to a virtual address; a full snapshot evicts a line that the
implementation chooses (R235). -/
def State.fillLine (s : State) (n key va : Nat) (line : List Byte) : State :=
  let c := s.coreOf n
  let put (m : Bank (List Byte)) (c : Core) : Core :=
    { c with snap := bankSet [] m key line, filled := bankSet 0 c.filled key (va52 va / 2 ^ 16) }
  if c.snap.length < snapLines then s.onCoreN n (put c.snap)
  else
    let k := Config.evicted s.fresh % snapLines
    { s with fresh := s.fresh + 1 }.onCoreN n (put (c.snap.eraseIdx k))

/-- The READ that a piece waits for (R305). -/
def State.readFor (s : State) (tag : Nat) : Option ReadReq := s.reads.find? (·.tag == tag)

/-- The replies that reads at issue of the acting core have used are done with; those of landing loads stay. -/
def State.dropUsed (s : State) : State :=
  let tags := s.core.loads.flatMap fun l => l.parts.filterMap (·.tag)
  { s with reads := s.reads.filter fun r => r.core != s.core.phys || r.data.isNone || tags.contains r.tag }

/-- The READ of a core at issue (R118, R202): one that no landing load has sent. -/
def State.issueRead (s : State) (n dev pa len : Nat) : Option ReadReq :=
  let tags := (s.coreOf n).loads.flatMap fun l => l.parts.filterMap (·.tag)
  s.reads.find? fun r => r.core == n && (r.dev, r.pa, r.len) == (dev, pa, len) && !tags.contains r.tag

/-- Does a load read its tile's image once more, from its home slices (R122)? -/
def LoadLanding.rereads (l : LoadLanding) : Bool := match l.dest with
  | .tile _ _ _ again => again
  | _ => false

/-- Does a piece of a load read the snapshot (R111, R243)? -/
def LoadLanding.plain (l : LoadLanding) (p : LoadPart) : Bool := (l.scope == 0 || p.cached) && !l.rereads

/-- A load of an ended phase whose line has been filled reads the filled bytes, whatever the snapshot holds later (R110, R235). -/
def LoadLanding.pinned (phase : Nat) (line : Nat → List Byte) (l : LoadLanding) : LoadLanding :=
  if l.data.isSome || l.isAtomic || l.phase != phase then l
  else { l with parts := l.parts.map fun p =>
    let b := line (lineKey p.loc)
    if p.fixed || !l.plain p || b.isEmpty then p
    else { p with fixed := true, own := (List.range p.size).map fun i => ((p.own[i]?).join).or (some (b.getD (p.loc.pa % 64 + i) 0)) } }

/-- The bytes of one piece as the load's scope gives them, filling the snapshot where it is the load's own (R235); none
where a peer has not replied. -/
def State.pieceBytes (s : State) (n : Nat) (l : LoadLanding) (p : LoadPart) : Option (List Byte × State) :=
  let c := s.coreOf n
  let plain := l.plain p
  let current := plain && l.phase == c.phase
  let line := if current then bankGet [] c.snap (lineKey p.loc) else []
  let at? (line : List Byte) : List Byte := (line.drop (p.loc.pa % 64)).take p.size
  let fill (s : State) (line : List Byte) : State :=
    if current then s.fillLine n (lineKey p.loc) p.va line
    else if plain then s.onCoreN n fun c => { c with
      loads := c.loads.map (·.pinned l.phase fun k => if k = lineKey p.loc then line else []) }
    else s
  let path := Path.ofCore n l.seq
  if line ≠ [] then some (at? line, s)
  else match p.loc.peer with
    | none =>
      let base := p.loc.pa / 64 * 64
      let s := match l.dest with
        | .tile .. => s
        | _ => s.poisonRead p.loc.pa p.size
      if plain then let bs := s.seenN path base 64; some (at? bs, fill s bs)
      else some (s.seenN path p.loc.pa p.size, s)
    | some _ =>
      match (p.tag.bind s.readFor).bind (·.data) with
      | none => none
      | some bs => if p.cached then some (at? bs, fill s bs) else some (bs.take p.size, s)

/-- A piece with the core's own earlier stores over it (R110). -/
def overlay (own : List (Option Byte)) (bs : List Byte) : List Byte :=
  if own.isEmpty then bs else own.zipIdx.map fun o => o.1.getD (bs.getD o.2 0)

/-- All pieces of a load, or none while a peer has not replied. -/
def State.partsBytes (s : State) (n : Nat) (l : LoadLanding) : List LoadPart → Option (List Byte × State)
  | [] => some ([], s)
  | p :: r =>
    let here : Option (List Byte × State) :=
      if p.fixed then some (List.replicate p.size 0, s) else s.pieceBytes n l p
    match here with
    | none => none
    | some (bs, s) =>
      match s.partsBytes n l r with
      | none => none
      | some (rest, s) => some (overlay p.own bs ++ rest, s)

/-! ## READs to peers (R112, R305) -/

/-- Send a READ to a peer for a core (R112, R305), an access that counts (R376): its tag and the state. -/
def State.sendRead (s : State) (n dev pa len va : Nat) : Nat × State :=
  let s := s.countAccess (s.coreOf n).part va
  let tag := s.nextAtom
  let s := { s with
    nextAtom := (tag + 1) % 2 ^ 32
    reads := s.reads ++ [ReadReq.mk tag n dev pa len s.now none] }
  (tag, s.send { blankMsg with kind := 6, dst := dev, src := s.devId, seq := tag, len := len - 1, addr := pa })

/-- Send the READs that a load of a core still lacks: for its bytes, or for a line of a page read through the snapshot that the
phase's snapshot does not hold (R243). -/
def State.sendReads (s : State) (n : Nat) (l : LoadLanding) : List LoadPart × State :=
  l.parts.foldl (fun (acc : List LoadPart × State) p =>
    let (ps, s) := acc
    let c := s.coreOf n
    match p.loc.peer with
    | none => (ps ++ [p], s)
    | some d =>
      if p.fixed || p.tag.isSome || (p.cached && l.phase == c.phase && bankGet [] c.snap (lineKey p.loc) != []) then (ps ++ [p], s)
      else
        let (tag, s) := if p.cached then s.sendRead n d (p.loc.pa / 64 * 64) 64 p.va else s.sendRead n d p.loc.pa p.size p.va
        (ps ++ [{ p with tag := some tag }], s)) ([], s)

/-- Does an earlier atomic of a core that has not been performed stand before a load: one to a byte that the load reads at its
scope's point of coherence (R110, R128)? -/
def State.behindAtom (s : State) (n : Nat) (l : LoadLanding) : Bool :=
  l.scope != 0 && s.atoms.any fun a => a.core == n && decide (a.seq < l.seq) && a.old.isNone
    && l.parts.any fun p => p.loc.peer == a.loc.peer && overlaps p.loc.pa p.size a.loc.pa a.size

/-- Fix the value of load k of a core once everything before it has been performed (R69, R110, R234, R237): READs that it needs
are sent, and with their data its bytes are taken. -/
def State.fixLoad (s : State) (n k : Nat) : State :=
  match (s.coreOf n).loads[k]? with
  | none => s
  | some l =>
    if l.data.isSome || l.isAtomic then s
    else
      let s := if s.behindAtom n l then s.performOwn n l.seq else s
      if s.held n l.seq || s.behindAtom n l then s
      else
        let (ps, s) := s.sendReads n l
        let l := { l with parts := ps }
        match s.partsBytes n l ps with
        | none => s.onCoreN n fun c => { c with loads := c.loads.set k l }
        | some (bs, s) =>
          let tags := ps.filterMap (·.tag)
          let s := { s with reads := s.reads.filter fun r => !tags.contains r.tag }
          s.onCoreN n fun c => { c with loads := c.loads.set k { l with data := some bs } }

/-- Fix the loads of a core up to number k, in issue order (R110). -/
def State.fixLoadsTo (s : State) (n k : Nat) : State := (List.range (k + 1)).foldl (fun s j => s.fixLoad n j) s

/-- Fix the loads of a core in issue order, each after the atomics that the core issued before it (R110). -/
def State.fixLoads (s : State) (n : Nat) : State :=
  (List.range (s.coreOf n).loads.length).foldl (fun s j =>
    match (s.coreOf n).loads[j]? with
    | some l => if l.data.isSome || l.isAtomic then s else (s.performOwn n l.seq).fixLoad n j
    | none => s) s

end Sys2Proof.Machine
end

