-- ==== Sys2Proof/Machine/Egress.lean ====
section
/-! DEFINITION. The source side of the fabric: messages handed to a station (R291, R293), pairs with their send logs
(R294–R296), a posted write passing the egress (R295), and a core's phase starts with what they publish (R133, R236, R237). -/

namespace Sys2Proof.Machine

/-- Compare sequence numbers modulo 2^32 (R298, R303). -/
def precedes (x y : Nat) : Bool := x != y && decide ((y + 2 ^ 32 - x % 2 ^ 32) % 2 ^ 32 < 2 ^ 31)

/-- The header of a message as one 128-bit value (Table 14-1). -/
def headerWord (m : FabricMsg) : Nat :=
  m.ver + 2 ^ 4 * m.kind + 2 ^ 8 * m.chn + 2 ^ 12 * m.dst + 2 ^ 22 * m.src + 2 ^ 32 * m.seq + 2 ^ 64 * m.rsv.toNat + 2 ^ 65 * m.epo
    + 2 ^ 68 * m.gen + 2 ^ 70 * m.len + 2 ^ 76 * m.addr

/-- A message on a station: its header, little-endian, and its payload (R6, R293). -/
def wireOf (m : FabricMsg) : List Byte := leBytes 16 (headerWord m) ++ m.payload

/-- The message that bytes of a station are (R293). -/
def ofWire (bs : List Byte) : FabricMsg :=
  let h := leNat (bs.take 16)
  ⟨field h 0 4, field h 4 4, field h 8 4, field h 12 10, field h 22 10, field h 32 32, field h 64 1 == 1, field h 65 3, field h 68 2,
    field h 70 6, field h 76 52, bs.drop 16⟩

/-- Has a payload a reserved bit that is not zero (Table 14-2)? -/
def padded (m : FabricMsg) : Bool :=
  let any (lo n : Nat) : Bool := ((m.payload.drop lo).take n).any (· != 0)
  let top (i bit : Nat) : Bool := decide (2 ^ bit ≤ (m.payload.getD i 0).toNat)
  match m.kind with
  | 1 => any 4 4
  | 4 => top 1 5 || any 2 6
  | 5 => top 8 6 || any 9 7
  | _ => false

/-- Does the receiver drop a message: by its header, or for a reserved bit (R292, R293)? -/
def State.dropsHeader (s : State) (m : FabricMsg) : Bool :=
  m.rsv || padded m || m.ver != 1 || decide (9 ≤ m.kind) || m.dst != s.devId

/-- A dropped message is counted (R298). -/
def State.countDrop (s : State) : State := { s with fabDrop := (s.fabDrop + 1) % 2 ^ 64 }

/-- Act on a message of a kind unless its header drops it; a message of another kind is not this event. -/
def State.arriving (s : State) (m : FabricMsg) (kind : Nat) (k : State → State) : State :=
  if s.dropsHeader m then s.countDrop else if m.kind = kind then k s else s

/-- The source end of a pair: a destination device and a channel (R294). -/
def State.pair? (s : State) (dev chn : Nat) : Option Pair := s.pairs.find? fun p => p.dev == dev && p.chn == chn
def State.onPair (s : State) (dev chn : Nat) (f : Pair → Pair) : State :=
  { s with pairs := s.pairs.map fun p => if p.dev = dev ∧ p.chn = chn then f p else p }

def writeMsg (src : Nat) (p : Pair) (e : LogEntry) (bs : List Byte) : FabricMsg :=
  ⟨1, 0, p.chn, p.dev, src, 0, false, e.seq % 8, p.gen, bs.length - 1, e.pa, bs⟩

def releaseMsg (src : Nat) (p : Pair) (r : Rel) : FabricMsg :=
  ⟨1, 1, p.chn, p.dev, src, r.seq, false, 0, p.gen, 0, r.addr, leBytes 4 r.cnt ++ leBytes 4 0 ++ leBytes 8 r.value.toNat⟩

/-- Does the send log of a pair hold no room (R296)? -/
def Pair.full (p : Pair) : Bool := decide (p.cap ≤ p.log.length)

/-- Where the next entry of a send log goes: 128 bytes each, round its region (R296). -/
def Pair.place (p : Pair) : Nat := p.base + 128 * ((p.head + p.log.length) % max 1 p.cap)

/-- An entry enters the send log in memory (R296): bytes 0–15 hold ADDR, LEN and EPO in a layout that the manual does not give
(log entry 42); the data of an inline entry stands at byte 16, or the source address of a reference entry. -/
def State.logEntry (s : State) (p : Pair) (e : LogEntry) : State :=
  let s : State := ({ s with fresh := s.fresh + 1 }).put p.place (freeBytes s.fresh 0 16)
  s.put (p.place + 16) (match e.src with
    | some a => leBytes 8 a
    | none => e.bytes)

/-- A posted write passes the egress (R295, R296): its entry enters the send log in the open epoch, OPEN increments, and
the message goes to a station. -/
def State.passPosted (s : State) (w : Posted) : State :=
  let s := { s with egress := s.egress.erase w }
  match s.pair? w.dev w.chn with
  | none => s
  | some p =>
    let e : LogEntry := ⟨w.pa, p.nseq, w.bytes, w.src⟩
    let s := (s.logEntry p e).onPair w.dev w.chn fun p => { p with log := p.log ++ [e], opened := (p.opened + 1) % 2 ^ 32 }
    (s.countAccess w.part w.va).send (writeMsg s.devId p e w.bytes)

/-- Is it a posted write of a core? -/
def Posted.by (w : Posted) (n : Nat) : Bool := (w.core.map (·.1)) == some n

/-- May a posted write pass the egress: is nothing of its core before it that must be performed first, an atomic or an earlier write
to its bytes included (R110, R128, R237)? -/
def State.mayPass (s : State) (w : Posted) : Bool :=
  match w.core with
  | none => true
  | some (n, seq) =>
    let meets (dev : Option Nat) (pa k : Nat) : Bool := dev == some w.dev && overlaps pa k w.pa w.bytes.length
    !s.held n seq
      && (s.atoms.all fun a => !(a.core == n && decide (a.seq < seq) && a.old.isNone && meets a.loc.peer a.loc.pa a.size))
      && (s.egress.takeWhile (· != w)).all fun x => !(x.by n && meets (some x.dev) x.pa x.bytes.length)

/-- The posted writes of a core that may pass the egress do. -/
def State.passOwn (s : State) (n : Nat) : State :=
  (s.egress.filter (·.by n)).foldl (fun s w => if s.egress.contains w && s.mayPass w then s.passPosted w else s) s

/-- Every posted write of a task in a partition passes the egress (R241, R341). -/
def State.passAll (s : State) (part task : Nat) : State :=
  (s.egress.filter fun w => w.part == part && w.task == task).foldl State.passPosted s

/-- Writes on their way to a pair's log: before the egress, or stored in a current phase (R296). -/
def State.pendingOn (s : State) (dev chn : Nat) : Nat :=
  (s.egress.filter fun w => w.dev == dev && w.chn == chn).length
    + (s.allCores.map fun c =>
        ((c.stores.filter fun st => st.loc.peer == some dev && st.chn == chn).map fun st =>
          (cut st.loc.pa st.bytes.length).length).foldl (· + ·) 0).foldl (· + ·) 0

/-- May a fabric-scope store of `n` messages issue on a pair (R294, R296)? A trap, a freeze until an acceptance frees
entries, or yes. -/
inductive LogRoom where
  | room | wait | trap (t : Trap)
  deriving DecidableEq, Repr

def State.logRoom (s : State) (dev chn n : Nat) : LogRoom :=
  match s.pair? dev chn with
  | none => .trap { no := .fabChannel }
  | some p =>
    if p.log.length + s.pendingOn dev chn + n ≤ p.cap then .room
    else if p.out = 0 then .trap { no := .fabChannel, arg := 1 }
    else .wait

/-! ## Phase starts (R133, R236) -/

/-- A new phase of a core starts (R236): its earlier loads have their values, its stores are published, at least at scope
`widen`, and its snapshot is empty. A publication of at least one store is a progress event (R360). -/
def State.phaseStartOf (s : State) (n widen : Nat) : State :=
  let s := s.fixLoads n
  let c := s.coreOf n
  let s := c.stores.foldl (fun s st => s.publish c widen st) s
  let s := { s with atoms := s.atoms.map fun (a : Atom) => if a.core = n ∧ a.old.isNone then { a with past := true } else a }
  s.onCoreN n fun c =>
    { c with
      issued := c.issued + 1
      loads := c.loads.map (·.pinned c.phase fun k => bankGet [] c.snap k)
      stores := []
      snap := []
      filled := []
      phase := c.phase + 1
      unsettled := true
      coreTimer := if c.stores.isEmpty then c.coreTimer else s.now }

/-- A phase start of the acting core. -/
def State.phaseStart (s : State) (widen : Nat) : State := s.phaseStartOf s.core.phys widen

/-- Insert by place in issue order, after what stands at the same place. -/
def insertOwed (x : Nat × Pending) : List (Nat × Pending) → List (Nat × Pending)
  | [] => [x]
  | y :: r => if x.1 < y.1 then x :: y :: r else y :: insertOwed x r

/-- What the ended phases of a core have not performed, in issue order. -/
def State.owed (s : State) (n : Nat) : List Pending :=
  let atoms := (s.atoms.filter fun a => a.core == n && a.past && a.old.isNone).map fun a => (a.seq, (.inr a : Pending))
  let pubs := (s.pubs.filter fun p => p.core == n && !p.atPoint).map fun p => (p.seq, (.inl p : Pending))
  ((atoms ++ pubs).foldl (fun l x => insertOwed x l) []).map (·.2)

/-- Perform what the ended phases of a core still owe before a later operation of that core (R237): in issue order, its atomics are
performed, its published stores reach their points of coherence, those of device scope and wider their home slices, and its posted
writes pass the egress. What must wait for a peer remains owed. -/
def State.settleOf (s : State) (n : Nat) : State :=
  let s := ((s.owed n).foldl (fun s x => match x with
    | .inl p => (s.passOwn n).toPoint p
    | .inr a => (s.passOwn n).finish (.inr a)) s).passOwn n
  s.onCoreN n fun c => { c with unsettled := !(s.owed n).isEmpty || s.egress.any (·.by n) }

/-- Before a memory operation, atomic, barrier arrival or engine post of the acting core (R133, R237). -/
def State.settle (s : State) : State := if s.core.unsettled then s.settleOf s.core.phys else s

/-- Everything that the acting core issued before is performed or has its value, but for what waits for a peer (R110, R237). -/
def State.finishOwn (s : State) : State :=
  let s := s.settle.fixLoads s.core.phys
  s.performOwn s.core.phys s.core.issued

/-- Must an operation of the acting core still wait for something issued before it (R110, R237)? -/
def State.mustWait (s : State) : Bool := s.held s.core.phys s.core.issued

/-- Does the acting core owe anything at all that it has issued: a load's value, an atomic, a publication? -/
def State.owing (s : State) : Bool := s.mustWait || s.atoms.any fun a => a.core == s.core.phys && a.old.isNone

end Sys2Proof.Machine
end

