-- ==== Sys2Proof/Machine/Frame.lean ====
section
/-! DEFINITION. Frames and records: memory by virtual address for the core and the hub (R108, R214), the mask block
(Table 5-5), the areas of a frame (Table 10-4), safe tables (R91), and the record's fields (R212, R213). -/

namespace Sys2Proof.Machine

/-! ## The acting core -/

/-- Make another core the one that acts. -/
def State.focus (s : State) (n : Nat) : State :=
  if s.core.phys = n then s
  else
    let c := s.coreOf n
    { s with core := c, others := bankDrop (bankSet (Core.reset s.core.phys) s.others s.core.phys s.core) n }

/-- A core without a continuation: what a physical core keeps across continuations (scope K and the Beryl map) and its
micro-TLB stay (R47, R182, R367). -/
def Core.idled (c : Core) : Core :=
  { Core.reset c.phys with
    inject := c.inject, beryl := c.beryl, roles := c.roles, marked := c.marked, lost := c.lost, tlb := c.tlb, preload := c.preload, bank := c.bank }

/-! ## Memory by virtual address at device scope -/

/-- Where each 64-byte piece of a range lies, or the trap, with its address, that a core access raises there (R108). -/
def State.spans (s : State) (part : Nat) (a : Access) (va n : Nat) : Except Trap (List (Loc × Nat × Nat)) :=
  (cut (va % 2 ^ 64) n).foldl (fun acc x =>
    match acc with
    | .error t => .error t
    | .ok l =>
      let (ea, k, off) := x
      if !canonical ea then .error { no := .page, addr := ea }
      else if inWindow (va52 ea) then .error { no := .perm, addr := ea }
      else match s.xlatOf (s.lookup s.core.phys part (va52 ea)) a 3 (va52 ea) with
        | .ok loc _ => .ok (l ++ [(loc, k, off)])
        | .trap t => .error { no := t, addr := ea }
        | .transit => .error { no := .page, addr := ea, arg := 2 ^ 32 }) (.ok [])

/-- A read of a partition's own memory meets poison (R392). -/
def State.poisonRange (s : State) (part : Nat) (a : Access) (va n : Nat) : State :=
  match s.spans part a va n with
  | .ok l => l.foldl (fun s x => if x.1.peer.isNone then s.poisonRead x.1.pa x.2.1 else s) s
  | .error _ => s

/-- Is the answer of `spans` that a page is in transit (R378)? It then waits and raises nothing. -/
def inTransit (t : Trap) : Bool := t.arg == 2 ^ 32

/-- The answer of a read that bytes must come from a peer first (R112, R243): device, physical address, length. -/
def needTrap (va dev pa n : Nat) : Trap := { no := .page, addr := va, arg := 2 ^ 33 + ((dev * 2 ^ 52 + pa) * 64 + (n - 1)) }

/-- The READ that such an answer names, with its virtual address. -/
def trapNeeds (t : Trap) : Option (Nat × Nat × Nat × Nat) :=
  if t.arg < 2 ^ 33 then none
  else
    let x := t.arg - 2 ^ 33
    some (x / 2 ^ 58, x / 64 % 2 ^ 52, x % 64 + 1, t.addr)

/-- Does an answer of a read raise nothing, the reader having to wait? -/
def trapWaits (t : Trap) : Bool := inTransit t || (trapNeeds t).isSome

/-- A read at device scope by a reader: a core, or 65536 for the hub. What a REMOTE_CACHED page holds comes from its peer (R243). -/
def State.readWith (s : State) (reader part : Nat) (a : Access) (va n : Nat) : Except Trap (List Byte) := do
  let l ← s.spans part a va n
  l.foldl (fun acc x => do
    let bs ← acc
    match x.1.peer with
    | none => .ok (bs ++ s.mem.readN x.1.pa x.2.1)
    | some d => match (s.issueRead reader d x.1.pa x.2.1).bind (·.data) with
      | some b => .ok (bs ++ b)
      | none => .error (needTrap ((va + x.2.2) % 2 ^ 64) d x.1.pa x.2.1)) (.ok [])

def State.readVa (s : State) (part : Nat) (a : Access) (va n : Nat) : Except Trap (List Byte) := s.readWith s.core.phys part a va n

def State.writeVa (s : State) (part : Nat) (va : Nat) (bs : List Byte) : Except Trap State :=
  match s.spans part .write va bs.length with
  | .error t => .error t
  | .ok l => .ok (l.foldl (fun s x => s.perform x.1.pa ((bs.drop x.2.2).take x.2.1) (covering x.1.pa x.2.2 bs.length)) s)

/-! ## The mask block and safe tables (Table 5-5, R91) -/

def LiveMask.union (a b : LiveMask) : LiveMask :=
  ⟨a.s ||| b.s, a.fl ||| b.fl, a.p ||| b.p, a.v ||| b.v, a.t ||| b.t, a.acc ||| b.acc, a.pat ||| b.pat, a.sb ||| b.sb⟩

def LiveMask.bytes (m : LiveMask) : List Byte :=
  leBytes 8 m.s ++ leBytes 8 m.fl ++ leBytes 12 m.p ++ leBytes 4 m.v ++ leBytes 1 m.t ++ leBytes 1 m.acc
    ++ leBytes 1 m.pat ++ [0] ++ leBytes 2 m.sb ++ leBytes 26 0

def LiveMask.ofBytes (bs : List Byte) : LiveMask :=
  let n := leNat bs
  ⟨field n 0 64, field n 64 64, field n 128 96, field n 224 32, field n 256 8, field n 264 2, field n 272 8, field n 288 16⟩

/-- Bytes of the task's safe table from an offset on; a task without one has none. -/
def State.safeBytes (s : State) (part task off n : Nat) : Except Trap (List Byte) :=
  match (s.task? part task).bind (·.safePtr) with
  | some p => s.readVa part .read (p + off) n
  | none => .ok []

/-- The number of entries of the task's safe table, at most 65,534; 0 where the table cannot be read (log entry 29). -/
def State.safeCount (s : State) (part task : Nat) : Nat :=
  match s.safeBytes part task 0 4 with
  | .ok bs => min (leNat bs) 65534
  | .error _ => 0

/-- Entry i of the task's safe table, or the trap of reading it. -/
def State.readEntry (s : State) (part task i : Nat) : Except Trap LiveMask :=
  match s.safeBytes part task (64 + 64 * i) 64 with
  | .ok bs => .ok (LiveMask.ofBytes bs)
  | .error t => .error t

/-- What a safe point takes entry i to name: no register where its bytes cannot be read, the model's choice (log entry 29). -/
def State.safeEntry (s : State) (part task i : Nat) : LiveMask :=
  match s.readEntry part task i with
  | .ok m => m
  | .error _ => LiveMask.none

/-- What the safe point waits for before it has the count and entry i of the safe table, if anything: a page in transit (R378), or
bytes of a peer. -/
def State.safeMoves (s : State) (part task i : Nat) : Option Freeze :=
  let moving {α : Type} : Except Trap α → Option Freeze
    | .error t => if inTransit t then some (.transit t.addr) else (trapNeeds t).map fun r => .reads [r]
    | .ok _ => none
  (moving (s.safeBytes part task 0 4)).or (if i < s.safeCount part task then moving (s.readEntry part task i) else none)

/-- The read of the count and of entry i of a safe table meets poison (R392). -/
def State.safePoison (s : State) (part task i : Nat) : State :=
  match (s.task? part task).bind (·.safePtr) with
  | some p =>
    let s := s.poisonRange part .read p 4
    if i < s.safeCount part task then s.poisonRange part .read (p + 64 + 64 * i) 64 else s
  | none => s

/-- Does R92 refuse a safe-table index? -/
def State.badSafeIdx (s : State) (idx : Nat) : Bool :=
  decide (s.safeCount s.core.part s.core.task ≤ idx) || idx == 0xFFFE || idx == 0xFFFF

/-! ## Set state in a frame (R218) -/

def wordsBytes (a : Array W32) : List Byte := a.toList.flatMap fun w => leBytes 4 w.toNat

/-- The bytes of a set-state area at the offsets of R51, but for the 64 bytes at 0x10840 (log entry 6). -/
def AccSet.image (a : AccSet) : List Byte :=
  let g := a.grid
  wordsBytes g.data ++ wordsBytes g.cc ++ wordsBytes g.cr ++ wordsBytes g.mc ++ wordsBytes g.mr ++ leBytes 8 a.steps.toNat

def bytesWords : List Byte → List W32
  | a :: b :: c :: d :: r => BitVec.ofNat 32 (leNat [a, b, c, d]) :: bytesWords r
  | _ => []

/-- A set from its area and from the fields kept aside. -/
def AccSet.ofImage (side : AccSet) (bs : List Byte) : AccSet :=
  let part (lo n : Nat) : Bank W32 := sparse 0 (bytesWords ((bs.drop lo).take (4 * n))).toArray
  { side with
    data := part 0 16384, cc := part 0x10000 128, cr := part 0x10200 128, mc := part 0x10400 128, mr := part 0x10600 128
    steps := BitVec.ofNat 64 (leNat ((bs.drop 0x10800).take 8)) }

/-- The fields of a set that have no byte layout in a frame. -/
def AccSet.side (a : AccSet) : AccSet := { a with data := [], cr := [], mr := [], cc := [], mc := [], steps := 0 }

/-! ## Areas (Table 10-4) -/

def signExt (n : Nat) (v : BitVec n) : Nat := toBits 64 v.toInt

def bitsIn (m : Nat) (n : Nat) : List Nat := (List.range n).filter (hasBit m)

/-- A set-state area stands at 0x1_0000 or 0x2_1000. -/
def accArea (n : Nat) : Nat := if n = 0 then 0x10000 else 0x21000

/-- The decoder configuration of 64 bytes (Table 9-5); the lane width is that of FMT[DFMT] at DCFG (R202). -/
def DecCfg.of (bs : List Byte) (lane : Nat) : DecCfg :=
  let n := leNat bs
  { src := field n 0 64, nblk := field n 64 32, ratio := field n 96 16, codec := field n 112 8, dest := field n 120 8
    daddr := field n 128 64, dtile := field n 192 8, drow := field n 200 8, dfmt := field n 208 8, dbo := field n 216 8
    first := field n 224 32, lane := lane }

/-- The configuration as DCFG read it (Table 13-1); its reserved bytes were zero (R202). -/
def DecCfg.bytes (d : DecCfg) : List Byte :=
  leBytes 8 d.src ++ leBytes 4 d.nblk ++ leBytes 2 d.ratio ++ leBytes 1 d.codec ++ leBytes 1 d.dest ++ leBytes 8 d.daddr
    ++ leBytes 1 d.dtile ++ leBytes 1 d.drow ++ leBytes 1 d.dfmt ++ leBytes 1 d.dbo ++ leBytes 4 d.first ++ leBytes 32 0

/-- The FIFO image of a decoder area: byte i of the expanded stream stands at position i mod 8,192 (R272); the other positions hold
no byte of the FIFO. -/
def Stream.image (st : Stream) (other : List Byte) : List Byte :=
  other.zipIdx.map fun b =>
    let j := (b.2 + 8192 - st.taken % 8192) % 8192
    if j < st.fifo.length then st.fifo.getD j 0 else b.1

/-- A stream's FIFO taken from its image. -/
def Stream.ofImage (st : Stream) (bs : List Byte) : Stream :=
  { st with fifo := (List.range st.fifo.length).map fun j => bs.getD ((st.taken + j) % 8192) 0 }

/-- The areas whose bytes the manual does not lay out, with what it says of them (Tables 10-4 and 13-1, log entry 6): armed tests,
histories, the resume block, the state of the decoder stream, the restart snapshot, and the 64 bytes of each set state. The bytes
of the k-th write-back are free; of a stream's area the configuration and the FIFO image are its own. -/
def Core.freeAreas (c : Core) (save : LiveMask) (resume : Bool) (k : Nat) : List (Nat × List Byte) :=
  let free (off n : Nat) : List Byte := freeBytes k off n
  [(0xC0, free 0xC0 128), (0x160, free 0x160 160)]
  ++ (if resume then [(0x8000, free 0x8000 4096)] else [])
  ++ (match c.stream with
    | some st => [(0x9000, st.cfg.bytes ++ free 0x9040 704 ++ leBytes 256 0 ++ st.image (free 0x9400 8192))]
    | none => [])
  ++ (if c.group.isSome then [(0xC000, free 0xC000 8192)] else [])
  ++ ((List.range 2).filter fun n => hasBit save.acc n || c.group.map (·.1) == some n).map fun n =>
      (accArea n + 0x10840, free (accArea n + 0x10840) 64)

/-- The areas that a write-back writes: offset and bytes. `heads` are the queues of CH0–CH7. -/
def Core.areas (c : Core) (heads : Nat → List Head) (save : LiveMask) (resume : Bool) (k : Nat) : List (Nat × List Byte) :=
  let opened := c.group.map (·.1)
  [ (0x00, leBytes 8 c.fstat.toNat ++ leBytes 8 c.mode.toNat
      ++ (List.range 8).flatMap (fun n => leBytes 8 (bankGet 0 c.qstall n).toNat)
      ++ (List.range 5).flatMap (fun k => leBytes 8 (signExt 32 (bankGet 0 c.stepr k)))),
    (0x80, (List.range 16).flatMap fun f => leBytes 4 (c.rf f).toNat) ]
  ++ (bitsIn save.sb 16).map (fun n => (0x140 + 2 * n, leBytes 1 (bankGet 0 c.sbPos n) ++ leBytes 1 (bankGet 0 c.sbAcq n)))
  ++ [(0x200, save.bytes)]
  ++ (match c.fused with
    | some f => [(0x280, leBytes 8 (toBits 64 f.stride) ++ leBytes 8 f.lead)]
    | none => [])
  ++ (List.range 8).map (fun ch => (0x400 + 128 * ch, ((heads ch).flatMap (fun h => leBytes 8 h.va) ++ leBytes 128 0).take 128))
  ++ (bitsIn save.s 64).map (fun n => (0x800 + 8 * n, leBytes 8 (c.rs n).toNat))
  ++ (if save.fl = 0 then [] else [(0xA00, leBytes 8 (c.fl.toNat &&& save.fl))])
  ++ (bitsIn save.pat 8).map (fun n => (0xA40 + 64 * n, leBytes 64 (c.rpat n).toNat))
  ++ (bitsIn save.sb 16).map (fun n => (0xC40 + 8 * n, leBytes 8 (bankGet 0 c.sb n).toNat))
  ++ (bitsIn save.p 96).map (fun n => (0x1000 + 128 * n, leBytes 128 (c.rp n).toNat))
  ++ (bitsIn save.v 32).map (fun n => (0x4000 + 512 * n, leBytes 512 (c.rv n).toNat))
  ++ ((List.range 2).filter fun n => hasBit save.acc n || opened == some n).map (fun n => (accArea n, (c.acc n).image))
  ++ (bitsIn save.t 8).flatMap (fun n => (List.range 128).map fun r =>
      (0x40000 + 0x10000 * n + 512 * r, leBytes 512 (c.rt n r).toNat))
  ++ c.freeAreas save resume k

/-- Write the areas to a frame; nothing where some area cannot be written (R221). -/
def State.writeAreas (s : State) (part frame : Nat) (areas : List (Nat × List Byte)) : Except Trap State :=
  match areas.findSome? fun a => match s.spans part .write (frame + a.1) a.2.length with
      | .error t => some t
      | .ok _ => none with
  | some t => .error t
  | none => .ok (areas.foldl (fun s a => match s.writeVa part (frame + a.1) a.2 with
      | .ok s => s
      | .error _ => s) s)

/-! ## Records -/

def trapCode : TrapNo → Nat
  | .illegal => 0x01 | .prefixOrphan => 0x02 | .target => 0x03 | .align => 0x04 | .page => 0x05 | .wprot => 0x06
  | .perm => 0x07 | .qfull => 0x08 | .format => 0x09 | .groupViolation => 0x0A | .tileUnrecoverable => 0x0B
  | .decRatio => 0x0C | .decCheck => 0x0D | .decLength => 0x0E | .fabChannel => 0x0F | .atomicLost => 0x10
  | .overrun => 0x11 | .watchdog => 0x12 | .safeDistance => 0x13 | .earlyRead => 0x14 | .brk => 0x15 | .syscall => 0x16

/-- The trap-cause word (Table 10-3). -/
def trapCause (t : Trap) : Nat := t.arg % 2 ^ 32 * 2 ^ 32 + t.stat % 256 * 256 + trapCode t.no

/-- The faulting address is recorded for the address traps only (R356). -/
def trapRecorded (t : Trap) : Nat :=
  match t.no with
  | .align | .page | .wprot | .perm | .target => t.addr
  | _ => 0

def State.recFrame (s : State) (part rec : Nat) : Nat := s.readRec part rec 8 8
def State.recCode (s : State) (part rec : Nat) : Nat := s.readRec part rec 0 8

/-- A hub write of a record or frame field, performed at its home slice (R214, R233). -/
def State.hubWrite (s : State) (part rec off n v : Nat) : State :=
  match s.recPa part (rec + off) with
  | some pa => s.perform pa (leBytes n v)
  | none => s

/-- Change bits of a record's state word. -/
def State.setRecBits (s : State) (part rec lo n x : Nat) : State :=
  s.hubWrite part rec 32 4 (setField (s.recState part rec) lo n x)

/-- ST and WAIT of a record's state word. -/
def State.setRecSt (s : State) (part rec st wait : Nat) : State := s.setRecBits part rec 0 6 (16 * wait + st)

/-- A record becomes ready, its new state word being an evaluation (R132, R222). -/
def State.readyRec (s : State) (part rec : Nat) : State :=
  (s.fellows part rec).2.foldl (fun s c => match s.recPa part (c + 32) with
    | some pa => s.evaluate pa 4
    | none => s) (s.makeReady part rec)

def State.savedOf (s : State) (part rec : Nat) : Option SavedCtx := s.saved.find? fun x => x.part == part && x.cont == rec
def State.dropSaved (s : State) (part rec : Nat) : State :=
  { s with saved := s.saved.filter fun x => !(x.part == part && x.cont == rec) }
def State.onSaved (s : State) (part rec : Nat) (f : SavedCtx → SavedCtx) : State :=
  { s with saved := s.saved.map fun x => if x.part = part ∧ x.cont = rec then f x else x }

/-- Is it a channel of the record as it is published now (R45, R250)? -/
def Chan.of (c : Chan) (part cont : Nat) : Bool := c.part == part && c.cont == cont && c.life == 0
def Chan.is (c : Chan) (part cont ch : Nat) : Bool := c.of part cont && c.ch == ch

/-- The heads that wait on a context's channel, the one being walked apart: a write-back leaves them in the frame (R250). -/
def State.chanHeads (s : State) (part rec ch : Nat) : List Head :=
  match s.chans.find? (·.is part rec ch) with
  | some c => if c.walk.isSome then c.heads.drop 1 else c.heads
  | none => []

/-- The heads of a context have gone to its frame: its channels keep the chains that are walked. -/
def State.headsOut (s : State) (part rec : Nat) : State :=
  { s with chans := s.chans.map fun c => if c.of part rec then { c with heads := if c.walk.isSome then c.heads.take 1 else [] } else c }

/-- Heads come back to their channels, from a frame at a pick-up, or at the end of a record that is written back (R250). -/
def State.headsIn (s : State) (part rec cluster : Nat) (qs : List (Nat × List Head)) : State :=
  (qs.filter fun q => !q.2.isEmpty).foldl (fun (s : State) q =>
    if s.chans.any (·.is part rec q.1) then
      { s with chans := s.chans.map fun c => if c.is part rec q.1 then { c with heads := c.heads ++ q.2 } else c }
    else { s with chans := s.chans ++ [⟨part, rec, q.1, 0, cluster, q.2, none, 0, false⟩] }) s

/-- Is it a ring of the record as it is published now? -/
def Ring.of (x : Ring) (part cont : Nat) : Bool := x.part == part && x.cont == cont && x.life == 0

/-- A record is published anew: chains that run on from its former life are no channels of it (R45). -/
def State.orphanChans (s : State) (part rec : Nat) : State :=
  let life := s.chans.foldl (fun n c => max n (c.life + 1)) 1
  { s with
    chans := (s.chans.filter fun c => !(c.of part rec && c.heads.isEmpty)).map fun c => if c.of part rec then { c with life := life } else c
    rings := s.rings.map fun x => if x.of part rec then { x with life := life } else x }

/-! ## The life of a record and its task (R222, R340–R345) -/

/-- The live count of a task: its published records (R340). -/
def Partition.live (p : Partition) (task : Nat) : Nat := (p.recs.filter fun r => r.2 == task).length

/-- A task whose live count is 0 moves to DRAINING (Table 18-9). -/
def State.settleTask (s : State) (part task : Nat) : State :=
  match s.part? part with
  | none => s
  | some p =>
    if p.live task ≠ 0 then s
    else s.onTask part task fun t =>
      if t.state = .running ∨ t.state = .ending then { t with state := .draining } else t

/-- Does the core's decoder stream or any other part of the module still refer to a record? Free what it held. -/
def State.forget (s : State) (part rec : Nat) : State :=
  let s := match s.savedOf part rec with
    | some x => s.headsIn part rec 0 x.queued
    | none => s
  let s := s.dropSaved part rec
  let s := s.onPart part fun p => { p with
    recs := p.recs.filter (·.1 != rec)
    ready := p.ready.filter (·.cont != rec)
    handlers := p.handlers.filter (·.1 != rec)
    holds := p.holds.filter (·.cont != rec) }
  { s with
    monitors := s.monitors.filter fun m => m.who != .record part rec
    rings := s.rings.filter fun x => x.attached || !x.of part rec }

/-- A record ends: cancelled (5) or finished (6) (R222). -/
def State.endRec (s : State) (part rec st : Nat) : State :=
  let task := ((s.part? part).bind fun p => (p.recs.find? (·.1 == rec)).map (·.2)).getD 0
  ((s.setRecSt part rec st 0).forget part rec).settleTask part task

/-- Cancel the records of a task: those that run are marked and asked to leave, the others end (R345). -/
def State.cancelRecords (s : State) (part task : Nat) : State :=
  match s.part? part with
  | none => s
  | some p =>
    (p.recs.filter fun r => r.2 == task).foldl (fun s r =>
      match s.runner part r.1 with
      | some n => (s.setRecBits part r.1 8 1 1).onCoreN n fun c => { c with preempt := true }
      | none => s.endRec part r.1 5) s

def State.queue? (s : State) (part q : Nat) : Option Queue := (s.part? part).bind fun p => p.queues.find? (·.q == q)

/-- Copy records of a task that have not started are cancelled (R256). -/
def State.cancelCopies (s : State) (part task : Nat) : State :=
  let mark (h : Head) : Head := if h.task = task then { h with cancel := true } else h
  { s with
    chans := s.chans.map fun c => if c.part = part then { c with heads := c.heads.map mark } else c
    saved := s.saved.map fun x => if x.part = part then { x with queued := x.queued.map fun q => (q.1, q.2.map mark) } else x }

/-- The dependants of a task that ends with a code lose their edge from it (R247, R334, R345): after ST_CANCELLED or ST_ATOMIC_LOST each
is cancelled, or under ONCANCEL released poisoned, which it is always after ST_OVERRUN or ST_WATCHDOG. -/
def State.freeDeps (s : State) (cancel : State → Nat → State) (part idx q code : Nat) : State :=
  let poison := code == 0x20 || code == 0x22 || (code != 0 && ((s.queue? part q).map (·.attr.oncancel)).getD false)
  let deps := ((s.part? part).map fun p => (p.tasks.filter fun u => u.edges.contains idx).map (·.idx)).getD []
  deps.foldl (fun s d =>
    let s := s.onTask part d fun u => { u with edges := u.edges.filter (· != idx), poison := u.poison || poison }
    if poison || code == 0 then s else cancel s d) s

/-- Enter ENDING with a code (R342, R345); dependants by ONCANCEL, or poisoned after an overrun or the watchdog. A cancelled task
holds its group no longer (R228). -/
def State.endTask : Nat → State → Nat → Nat → Nat → State
  | 0, s, _, _, _ => s
  | fuel + 1, s, part, idx, code =>
    match s.task? part idx with
    | none => s
    | some t =>
      if t.state ≠ .queued ∧ t.state ≠ .waiting ∧ t.state ≠ .running then s else
      let s := s.onTask part idx fun t => { t with
        state := .ending, code := if t.code = 0 then code else t.code, holds := t.holds && code != 0x21 }
      let s := s.freeDeps (fun s d => State.endTask fuel s part d 0x21) part idx t.q code
      ((s.cancelCopies part idx).cancelRecords part idx).settleTask part idx

/-- Enter ENDING (R345). -/
def State.ending (s : State) (part idx code : Nat) : State :=
  State.endTask (((s.part? part).map (·.tasks.length)).getD 0 + 1) s part idx code

/-- A dependant is cancelled (R345). -/
def State.endDep (part : Nat) (s : State) (idx : Nat) : State := s.ending part idx 0x21

/-- X_ATOMIC_LOST at the scheduler (R346, Table 18-9): rerun, or the end of the task. -/
def State.atomicLost (s : State) (part idx : Nat) : State :=
  match s.task? part idx with
  | none => s
  | some t =>
    if t.state ≠ .running then s
    else if ((t.desc.map (·.rerun)).getD false) ∧ t.runs < 255 then
      ((s.onTask part idx fun t => { t with state := .rerunning }).cancelCopies part idx).cancelRecords part idx
    else s.ending part idx 0x23

end Sys2Proof.Machine
end

