-- ==== Sys2Proof/Machine/Ops.lean ====
section
/-! DEFINITION. The shared operations of the core: what a write-back saves (R76, R219–R221), taking an exception
(R356–R359) and the return from one (R103), the end of a continuation (R98), and picking a record up (R217). -/

namespace Sys2Proof.Machine

/-! ## Everything in flight lands (R220, R241, R353) -/

def AtomOp.isFloat : AtomOp → Bool
  | .fadd | .fmin | .fmax => true
  | _ => false

def Atom.ownedBy (a : Atom) (part rec : Nat) : Bool := a.owner == .cont part rec

/-- Atomics of the core to this device are performed, and the replies that have come land (R129). -/
def State.landReplies (s : State) : State :=
  let s := s.performOwn s.core.phys s.core.issued
  s.core.loads.foldl (fun s l =>
    match l.dest with
    | .atomic r id =>
      match l.data, (s.atoms.find? (·.id == id)).bind (·.old) with
      | some bs, _ => s.onCore fun c => { c.write (.s r (BitVec.ofNat 64 (leNat bs))) with loads := c.loads.erase l }
      | none, some (v, _) =>
        { s with
          core := { (s.core.answered id v).write (.s r v) with loads := s.core.loads.erase l }
          atoms := s.atoms.filter (·.id != id) }
      | none, none => s
    | _ => s) s

/-- Results land, matrix work ends, the phase ends, and every store of the continuation is performed at its home slice
or has left the egress (R174, R220, R241, R353). -/
def State.quiet (s : State) (widen : Nat) : State :=
  let s := s.onCore fun c => c.arrayDrain.drain
  let s := s.landReplies
  let s := (s.phaseStart widen).settleOf s.core.phys
  let s := s.finishPubs (s.pubs.filter fun p => p.core == s.core.phys)
  (s.passAll s.core.part s.core.task).unregister s.core.phys

/-! ## Write-back (R76, R219–R221) -/

/-- Atomics of a record whose reply is still out and must be recorded as pending (R129). -/
def State.pendingAtoms (s : State) (part rec : Nat) : List Atom :=
  s.atoms.filter fun a => a.ownedBy part rec && a.old.isNone && (a.ret || (a.fabric && a.op.isFloat))

/-- A load that will be performed again (R76). A reply already recorded keeps its data. -/
def LoadLanding.again (l : LoadLanding) : LoadLanding :=
  match l.dest with
  | .atomic .. => l
  | _ => { l with data := none, parts := l.parts.map fun p => { p with own := [], tag := none, fixed := false } }

/-- The save set (R219): the entry at a safe point, else the last save set with what has been written since. -/
def Core.saveSet (c : Core) (safe : Bool) : LiveMask := if safe then c.saved else c.saved.union c.written

/-- The next place in issue order after what a resume block records (R70). -/
def Resume.next (r : Resume) : Nat := r.loads.foldl (fun n l => max n (l.seq + 1)) ((r.start.map (·.1)).getD 0)

/-- What a frame's areas without a byte layout hold (log entry 6), and the heads that stand in it. -/
def Core.aside (c : Core) (resume : Option Resume) (queued : List (Nat × List Head)) (k : Nat) (pins : List Nat) : SavedCtx where
  part := c.part
  cont := c.cont
  hist := c.hist
  tests := c.tests
  resume := resume
  group := c.group
  acc0 := c.acc0.side
  acc1 := c.acc1.side
  stream := c.stream
  lastFused := c.lastFused
  queued := queued
  freed := false
  due := false
  writing := k
  pins := pins

/-- FUS of a fused set (Table 10-2). -/
def Core.fus (c : Core) : Nat :=
  match c.fused with
  | some f => if f.size = 4 then 2 else 1
  | none => 0

/-- The scratch pages with the pins of a core ended (R125). -/
def State.unpinned (s : State) (n : Nat) : Bank (Nat × Bool) :=
  s.pages.map fun (x : Nat × Nat × Bool) => if x.2.1 = n then (x.1, x.2.1, false) else x

/-- The scratch pages that a core has pinned, by page number. -/
def State.pinsOf (s : State) (n : Nat) : List Nat := (s.pages.filter fun x => x.2.1 == n && x.2.2).map (·.1 % 2 ^ 48)

/-- A write-back leaves the values of the attached rings with the engine (R269). -/
def State.ringsOut (s : State) (c : Core) : List Ring :=
  s.rings.map fun x => if x.of c.part c.cont then { x with word := bankGet 0 c.sb x.sb } else x

/-- A pick-up takes the values that the engine holds (R269). -/
def State.ringsIn (s : State) (part cont : Nat) (b : Bank Word) : Bank Word :=
  (s.rings.filter fun x => x.of part cont).foldl (fun b x => bankSet 0 b x.sb x.word) b

def Core.member (c : Core) : Nat :=
  match c.fused with
  | some f => f.m
  | none => 0

/-- The resume block of the acting continuation at a bundle (R76): what its op words have decided is recorded with a done mask. -/
def State.resumeBlock (s : State) (pc rep done : Nat) : Resume :=
  let c := s.core
  let dest (a : Atom) : LoadDest := ((c.loads.find? fun l => match l.dest with
    | .atomic _ id => id == a.id
    | _ => false).map (·.dest)).getD (.atomic 0 a.id)
  { pc := pc, rep := rep, done := done, gated := c.gated
    branch := if done = 0 then none else c.branch
    leave := if done = 0 then none else c.leave
    point := if done = 0 then none else c.point
    closed := c.closed, start := c.start
    passed := c.released.any (·.1 == 7)
    loads := c.loads.map LoadLanding.again
    bar := c.barWait, late := c.late
    pending := (s.pendingAtoms c.part c.cont).map fun a => (a.id, dest a, 0) }

/-- The bytes of a save set. -/
def areaBytes (areas : List (Nat × List Byte)) : Nat := (areas.map fun a => a.2.length).foldl (· + ·) 0

/-- While a partition is swapped out or quiesces, the frames of its write-backs, `n` bytes each, are held in the die's Agate store,
up to 24 MiB (R354, R355, R400). -/
def State.holdFrame (s : State) (c : Core) (n : Nat) : State :=
  let away := ((s.part? c.part).map fun p => p.swapped || p.quiesced).getD false
  let used := ((s.agate.filter fun x => x.2.2.1 == dieOf c.phys).map fun x => x.2.2.2).foldl (· + ·) 0
  let rest := s.agate.filter fun x => !(x.1 == c.cont && x.2.1 == c.part)
  if away ∧ used + n ≤ 24 * 2 ^ 20 then { s with agate := rest ++ [(c.cont, c.part, dieOf c.phys, n)] } else { s with agate := rest }

/-- Write the acting continuation back, so that it resumes at `pc`, repetition `rep` with done mask `done`. The answer
holds the trap of a frame write that failed (R221). The record's ST is left to the caller. The core's READs are forgotten: loads that
wait for them are performed again (R76, R401). -/
def State.writeBackAt (s : State) (safe : Bool) (widen pc rep done : Nat) : State × Option Trap :=
  let s := s.quiet widen
  let c := s.core
  let pend := s.pendingAtoms c.part c.cont
  let bar := c.barWait
  let replaying := c.acc0.pending || c.acc1.pending
  let needed := replaying || !safe && (done != 0 || rep != 0 || c.gated || c.frozen.isSome) || bar.isSome || !c.loads.isEmpty || !pend.isEmpty
  let resume : Option Resume := if needed then some (s.resumeBlock pc rep done) else none
  let heads := s.chanHeads c.part c.cont
  let k := s.fresh
  let pins := s.pinsOf c.phys
  let aside (q : List (Nat × List Head)) (s : State) : State :=
    { s with saved := (s.dropSaved c.part c.cont).saved ++ [c.aside resume q k pins] }
  let s := { s with fresh := k + 1, pages := s.unpinned c.phys, rings := s.ringsOut c, reads := s.reads.filter (·.core != c.phys) }
  let areas := c.areas heads (c.saveSet safe) resume.isSome k
  let (s, fail) := match s.writeAreas c.part c.frame areas with
    | .ok s => (aside ((List.range 8).map fun ch => (ch, heads ch)) (s.headsOut c.part c.cont), none)
    | .error t => (aside [] s, some t)
  let s := s.hubWrite c.part c.cont 0 8 pc
  let s := s.hubWrite c.part c.cont 36 2 (if safe then c.safeIdx else 0xFFFE)
  let w := s.recState c.part c.cont
  let w := setField w 6 1 (if resume.isSome then 1 else 0)
  let w := setField w 7 1 (if c.group.isSome then 1 else 0)
  let w := setField w 9 1 (if fail.isSome then 1 else 0)
  let w := setField w 10 2 c.fus
  let w := setField w 12 2 c.member
  ((s.hubWrite c.part c.cont 32 4 w).holdFrame c (areaBytes areas), fail)

/-- The first bytes of the frame's 0xC_0000 bytes, and of the handler's frame after them, in each of the 64 KiB pages that
they touch. -/
def framePages (frame : Nat) : List Nat :=
  frame % 2 ^ 64 :: ((List.range 13).map fun k => (frame % 2 ^ 64 / 2 ^ 16 + k + 1) * 2 ^ 16).filter (· < frame % 2 ^ 64 + 0xC0800)

/-- Does a page of the frame stand in transit, all pages before it being writable? A write-back that meets one waits (R378). -/
def State.frameInTransit (s : State) : Option Nat :=
  match (framePages s.core.frame).findSome? fun a => match s.spans s.core.part .write a 1 with
      | .error t => some t
      | .ok _ => none with
  | some t => if inTransit t then some t.addr else none
  | none => none

/-! ## Delivery (R356–R358, R371) -/

/-- Handler records stand 1 MiB into the control area, 64 bytes each (log entry 7). -/
def handlerAt (k : Nat) : Nat := 2 ^ 52 + 0x100000 + 64 * k
def Partition.freeHandler (p : Partition) : Nat :=
  ((List.range (p.handlers.length + 1)).map handlerAt).findSome? (fun a => if p.handlers.any (·.1 == a) then none else some a)
    |>.getD (handlerAt p.handlers.length)

/-- End a faulted record with its task (R358): the task enters ENDING, and the record is cancelled even where the task
has ended otherwise. -/
def State.killFaulted (s : State) (part rec task code : Nat) : State :=
  let s := s.ending part task code
  if s.recSt part rec = 4 then s.endRec part rec 5 else s

/-- The handler continuation of a faulted record (R357), or the end of the task where no handler runs (R358). -/
def State.deliver (s : State) (part rec : Nat) (t : TrapNo) : State :=
  match s.part? part with
  | none => s
  | some p =>
    let task := s.readRec part rec 20 4
    let handler := (((s.task? part task).bind (·.desc)).map (·.handler)).getD 0
    let frame := (s.recFrame part rec + 0xC0000) % 2 ^ 64
    match p.handlers.find? (·.1 == rec) with
    | some (_, faulted) => (s.killFaulted part rec task 0x21).killFaulted part faulted task 0x21
    | none =>
      if handler = 0 then s.killFaulted part rec task (if t = .overrun then 0x20 else 0x21)
      else
        let open_ := match s.spans part .write frame 0x800 with
          | .error e => inTransit e
          | .ok _ => true
        if !open_ then (s.setRecBits part rec 9 1 1).killFaulted part rec task 0x21
        else
          let h := p.freeHandler
          let bytes := leBytes 8 handler ++ leBytes 8 frame ++ leBytes 4 0 ++ leBytes 4 task
            ++ leBytes 8 (s.readRec part rec 24 8) ++ leBytes 4 0 ++ leBytes 2 0xFFFF ++ leBytes 2 0 ++ leBytes 8 0
            ++ leBytes 8 (s.readRec part rec 48 8) ++ leBytes 8 0
          let s := ((s.dropSaved part h).orphanChans part h).put (p.reserved + h % 2 ^ 48) bytes
          let s := s.onPart part fun p => { p with handlers := p.handlers ++ [(h, rec)], recs := p.recs ++ [(h, task)] }
          s.readyRec part h

/-- The messages that page agents send one another (R372–R377): the last argument of `Notice.agent`. -/
def msgCollapse : Nat := 0
def msgInvalidate : Nat := 1
def msgGrant : Nat := 2
def msgOwned : Nat := 3
def msgNopart : Nat := 4
def msgMigrate : Nat := 5
def msgInTransit : Nat := 6
def msgRemap : Nat := 7
def msgAck : Nat := 8
def msgMoved : Nat := 9

def State.notify (s : State) (n : Notice) : State := { s with notices := s.notices ++ [n] }

/-- A management command is answered once the module runs, and not before (R412). -/
def State.command (s : State) (k : State → State) : State := if s.boot = 1 then k s else s

/-- The tag by which page agents name a partition (R372). -/
def State.tagOf (s : State) (part : Nat) : Nat := ((s.part? part).map (·.quotas.tag)).getD 0

/-- The physical frame of the 64 KiB page of an address under its leaf. -/
def pageFrame (l : Leaf) (level va : Nat) : Nat := l.frame + va % 2 ^ leafBits level / 2 ^ 16

/-- Hand a faulted record to the page agent (R371, Table 20-4); none where the agent declines at once. -/
def State.offer (s : State) (part rec : Nat) (t : Trap) : Option State :=
  let va := va52 t.addr
  let hold (asked : Bool) : State := s.onPart part fun p => { p with holds := p.holds ++ [⟨rec, t, va, asked⟩] }
  match t.no, s.walk part va with
  | .wprot, .leaf e level =>
    let l := leafFields e
    if s.modeOf l ≠ .dup then none
    else if l.peer = s.devId then some (hold false)
    else some ((hold false).notify (.agent l.peer (s.tagOf part) (va / 2 ^ 16 * 2 ^ 16) (pageFrame l level va) s.devId msgCollapse))
  | .page, .leaf e _ =>
    match s.modeOf (leafFields e) with
    | .direct d | .cached d => if s.reachable d then some ((hold true).notify (.fault part rec t)) else none
    | _ => some ((hold true).notify (.fault part rec t))
  | .page, _ => some ((hold true).notify (.fault part rec t))
  | _, _ => none

/-- A record becomes faulted (R356): the cause word, the fault record of its frame, the state, and delivery by Table
19-2. -/
def State.faultRec (s : State) (part rec : Nat) (t : Trap) (named : Nat) (agent : Bool) : State :=
  let s := s.hubWrite part rec 56 8 (trapCause t)
  let frame := s.recFrame part rec
  let s := match s.writeVa part (frame + 0x240) (leBytes 8 named ++ leBytes 8 (trapRecorded t)) with
    | .ok s => s
    | .error e => if inTransit e then (s.hubWrite part frame 0x240 8 named).hubWrite part frame 0x248 8 (trapRecorded t) else s
  let s := s.setRecSt part rec 4 0
  let task := s.readRec part rec 20 4
  match t.no with
  | .atomicLost =>
    let s := s.atomicLost part task
    if s.recSt part rec = 4 then s.endRec part rec 5 else s
  | .watchdog => s.killFaulted part rec task 0x22
  | _ =>
    match (if agent then s.offer part rec t else none) with
    | some s => s
    | none => s.deliver part rec t.no

/-! ## Taking an exception -/

/-- The members of a fused set are decoupled (R100, R101). -/
def State.decouple (s : State) (c : Core) : State :=
  match c.fused with
  | none => s
  | some f => (fusedSet f.size c.phys).foldl (fun s n => s.onCoreN n fun d =>
      if d.phys = c.phys then d else { d with fused := none, lastFused := d.fused }) s

/-- The acting core leaves its fused set, whose other members go on each for itself (R100, R101). -/
def State.alone (s : State) : State :=
  (s.decouple s.core).onCore fun c => { c with fused := none, lastFused := if c.fused.isSome then c.fused else c.lastFused }

/-- Take a trap at the bundle boundary of the acting core (R356, R357, R359): what is in flight lands, the context is
written back, the record names the resume point and the cause, it is faulted and delivered, and the core is idle. The
answer is marked in `trapTaken`. A frame page in transit freezes the core before anything happens (R378). `safe`: the boundary
is that of a safe point, whose entry is the save set (R219). -/
def State.takeTrapAt (s : State) (safe : Bool) (t : Trap) : State :=
  match s.frameInTransit with
  | some va => { s with core := { s.core with frozen := some (.transit va) } }
  | none =>
    let c := s.core
    let (pc, rep, done) := match t.resume with
      | some a => (a, 0, 0)
      | none => (c.pc, c.rep, c.done)
    let (s, fail) := s.alone.writeBackAt safe 0 pc rep done
    let s := match fail with
      | some f => s.faultRec c.part c.cont f (t.named.getD c.pc) false
      | none => s.faultRec c.part c.cont t (t.named.getD c.pc) true
    { s with core := s.core.idled, trapTaken := some t }

/-- Take a trap away from a safe point. -/
def State.takeTrap (s : State) (t : Trap) : State := s.takeTrapAt false t

/-! ## The return from an exception (R103, R129) -/

/-- A faulted record is released: ready at once, or when its last pending reply has come (R129). -/
def State.releaseFaulted (s : State) (part rec : Nat) : State :=
  let s := s.onPart part fun p => { p with holds := p.holds.filter (·.cont != rec) }
  let pending := (((s.savedOf part rec).bind (·.resume)).map fun r => !r.pending.isEmpty).getD false
  if pending then s.onSaved part rec fun x => { x with freed := true } else s.readyRec part rec

/-- The word at an address as an instruction fetch of a partition reads it (R59, R108). -/
def State.peekWord (s : State) (part va : Nat) : Except Trap Nat :=
  if va % 4 ≠ 0 then .error { no := .target, addr := va }
  else match s.readVa part .exec va 4 with
    | .ok bs => .ok (leNat bs)
    | .error t => .error t

def isHeader (w : Nat) : Bool := w % 4 == 3

/-- The address of the bundle that follows, in memory, the bundle at `code` (R103). -/
def State.bundleAfter (s : State) (part code : Nat) : Option Nat :=
  match s.peekWord part code with
  | .ok w => if isHeader w then some (code + 4 * field w 16 6) else none
  | .error _ => none

/-- Does a fetch at an address meet a page in transit, for which it waits (R378)? -/
def State.codeMoves (s : State) (part code : Nat) : Bool :=
  match s.peekWord part code with
  | .ok _ => false
  | .error e => inTransit e

/-! ## The end of a continuation (R98, R358) -/

/-- The decrement of a join counter at its home slice; reaching 0 makes a parent in JOIN ready (R98). -/
def State.decrementJoin (s : State) (part parent : Nat) : State :=
  let n := s.readRec part parent 16 4
  let s := match s.recPa part (parent + 16) with
    | some pa => s.poisonRead pa 4
    | none => s
  let s := s.hubWrite part parent 16 4 ((n + 2 ^ 32 - 1) % 2 ^ 32)
  if n = 1 ∧ field (s.recState part parent) 0 6 = 16 + 3 then s.readyRec part parent else s

/-- EXIT of the acting continuation (R98, R358). -/
def State.exitNow (s : State) : State :=
  let s := s.quiet 3
  let c := s.core
  let cancelled := field (s.recState c.part c.cont) 8 1 == 1
  let faulted := ((s.part? c.part).bind fun p => p.handlers.find? (·.1 == c.cont)).map (·.2)
  let s : State := { s with
    core := s.core.idled
    pages := s.unpinned c.phys, reads := s.reads.filter (·.core != c.phys) }
  let s := match faulted with
    | some f =>
      if s.recSt c.part f = 4 ∧ !(((s.savedOf c.part f).map SavedCtx.freed).getD false) then
        (s.onTask c.part c.task fun t => { t with code := if t.code = 0 then 0x21 else t.code }).endRec c.part f 5
      else s
    | none => s
  let s := s.endRec c.part c.cont (if cancelled then 5 else 6)
  if c.parent = 0 then s else s.decrementJoin c.part c.parent

/-- Is X_OVERRUN due on the acting core: its task waits for it, and no core of a lower logical number runs the task
(R344)? -/
def State.overrunHere (s : State) : Bool :=
  let c := s.core
  ((s.task? c.part c.task).map (·.overrun)).getD false
    && match s.part? c.part with
      | some p => s.allCores.all fun d => !(d.running && d.part == c.part && d.task == c.task)
          || decide ((p.logical c.phys).getD 256 ≤ (p.logical d.phys).getD 256)
      | none => false

/-! ## Fused sets (R100) -/

/-- The members of the fused set that the acting core belongs to. -/
def Core.members (c : Core) : List Nat :=
  match c.fused with
  | some f => fusedSet f.size c.phys
  | none => [c.phys]

/-- Apply a change to each member of the acting core's set, and act on that core again. -/
def State.eachMember (s : State) (f : State → State) : State :=
  (s.core.members.foldl (fun s n => f (s.focus n)) s).focus s.core.phys

/-- The member of the acting core's set that a test names. -/
def State.memberWhere (s : State) (p : State → Bool) : Option Nat := s.core.members.find? fun n => p (s.focus n)

/-- Has the record been marked by TCANCEL or the end of its task (R345)? -/
def State.cancelMarked (s : State) : Bool := field (s.recState s.core.part s.core.cont) 8 1 == 1

/-- Has a pre-emption request reached a member of the acting core's set, or is a record of it marked (R100, R352)? -/
def State.preempting (s : State) : Bool := (s.memberWhere fun s => s.core.preempt || s.cancelMarked).isSome

/-! ## Barriers (R225) -/

def Partition.vacant (p : Partition) (l : Nat) : Bool := (p.physical l).isNone

/-- Complete generations of a barrier group while every member that is not vacant has arrived (R225). -/
def Partition.advance (p : Partition) (g : Nat) : Partition :=
  let step (p : Partition) : Partition :=
    let e := p.group g
    let present := (List.range 256).filter fun l => hasBit e.members l && !p.vacant l
    if e.kind = 2 ∧ !present.isEmpty ∧ present.all (hasBit e.arr) then
      { p with groups := bankSet Group.unused p.groups g { e with gen := (e.gen + 1) % 2 ^ 30, arr := e.next, next := 0 } }
    else p
  step (step p)

/-- Has a generation of a group completed (R225)? -/
def Group.completed (e : Group) (gen : Nat) : Bool := e.gen != gen && decide ((e.gen + 2 ^ 30 - gen) % 2 ^ 30 < 2 ^ 29)

/-! ## Pick-up (R217) -/

/-- The bits of a descriptor of Table 3-4, and those of a pattern record of Table 6-3, that are not reserved (R8). -/
def sbFields : Word := BitVec.ofNat 64 (2 ^ 64 - 2 ^ 32 + 2 ^ 24 - 2 ^ 6)
def patFields : BitVec 512 := BitVec.ofNat 512 (patWidth - 1)

/-- The bits of a mask in every entry of a bank. -/
def bankAnd {w : Nat} (m : BitVec w) (b : Bank (BitVec w)) : Bank (BitVec w) := b.foldl (fun a x => bankSet 0 a x.1 (x.2 &&& m)) []

/-- What a pick-up restores beyond memory: the sidecar, or an empty one at a first start. -/
def SavedCtx.first (part rec : Nat) : SavedCtx :=
  ⟨part, rec, [], [], none, none, AccSet.empty, AccSet.empty, none, none, [], false, false, 0, []⟩

/-- A frame read that reports its trap. -/
def State.frameNat (s : State) (part frame off n : Nat) : Except Trap Nat :=
  match s.readVa part .read (frame + off) n with
  | .ok bs => .ok (leNat bs)
  | .error t => .error t

/-- Restore a bank of registers named by a mask: register n of `size` bytes at `base + size * n`. -/
def State.restoreBank {w : Nat} (s : State) (part frame base size mask count : Nat) : Except Trap (Bank (BitVec w)) :=
  (bitsIn mask count).foldl (fun acc n =>
    match acc with
    | .error t => .error t
    | .ok b => match s.frameNat part frame (base + size * n) size with
      | .ok v => .ok (bankSet 0 b n (BitVec.ofNat w v))
      | .error t => .error t) (.ok [])

/-- One tile register's rows. -/
def State.restoreTiles (s : State) (part frame mask : Nat) : Except Trap (Bank VWord) :=
  (bitsIn mask 8).foldl (fun acc n =>
    match acc with
    | .error t => .error t
    | .ok b => match s.readVa part .read (frame + 0x40000 + 0x10000 * n) 0x10000 with
      | .ok bs => .ok ((List.range 128).foldl (fun b r =>
          bankSet 0 b (128 * n + r) (BitVec.ofNat 4096 (leNat ((bs.drop (512 * r)).take 512)))) b)
      | .error t => .error t) (.ok [])

def State.restoreAcc (s : State) (part frame n : Nat) (live : Bool) (side : AccSet) : Except Trap AccSet :=
  if live then
    match s.readVa part .read (frame + accArea n) 0x10880 with
    | .ok bs => .ok (side.ofImage bs)
    | .error t => .error t
  else .ok AccSet.empty

/-- The registers of a context restored from its frame (R217, R218). -/
def State.restoreRegs (s : State) (part frame : Nat) (live : LiveMask) (first : Bool) (x : SavedCtx) (c : Core) :
    Except Trap Core := do
  let sregs ← s.restoreBank part frame 0x800 8 live.s 64
  let fl ← if live.fl = 0 then .ok 0 else s.frameNat part frame 0xA00 8
  let pat ← s.restoreBank part frame 0xA40 64 live.pat 8
  let sb ← s.restoreBank part frame 0xC40 8 live.sb 16
  let pos ← s.restoreBank (w := 16) part frame 0x140 2 live.sb 16
  let p ← s.restoreBank part frame 0x1000 128 live.p 96
  let v ← s.restoreBank part frame 0x4000 512 live.v 32
  let t ← s.restoreTiles part frame live.t
  let opened := x.group.map (·.1)
  let a0 ← s.restoreAcc part frame 0 (hasBit live.acc 0 || opened == some 0) x.acc0
  let a1 ← s.restoreAcc part frame 1 (hasBit live.acc 1 || opened == some 1) x.acc1
  let c := { c with
    s := bankDrop sregs 0, fl := BitVec.ofNat 64 (fl &&& live.fl)
    pat := bankAnd patFields pat, sb := bankAnd sbFields sb
    p := bankDrop p 0, v := v, t := t
    sbPos := (bitsIn live.sb 16).foldl (fun b n => bankSet 0 b n ((bankGet 0 pos n).toNat % 256)) []
    sbAcq := (bitsIn live.sb 16).foldl (fun b n => bankSet 0 b n ((bankGet 0 pos n).toNat / 256)) []
    acc0 := a0, acc1 := a1 }
  if first then .ok c
  else do
    let fstat ← s.frameNat part frame 0x00 8
    let mode ← s.frameNat part frame 0x08 8
    let q ← s.restoreBank part frame 0x10 8 0xFF 8
    let st ← s.restoreBank (w := 64) part frame 0x50 8 0x1F 5
    let fm ← s.readVa part .read (frame + 0x80) 64
    let words := bytesWords fm
    let kept := (x.group.map fun g => g.2.fmt.map (·.2)).getD []
    if (words ++ kept).any (fun w => !descWellFormed w.toNat) then .error { no := .format }
    else .ok { c with
      fstat := BitVec.ofNat 6 fstat, mode := BitVec.ofNat 2 mode, qstall := q
      stepr := (List.range 5).foldl (fun b k => bankSet 0 b k ((bankGet 0 st k).setWidth 32)) []
      fmt := words.zipIdx.foldl (fun b w => bankSet (BitVec.ofNat 32 (fmtPreset w.2)) b w.2 w.1) []
      hist := x.hist, tests := x.tests, stream := x.stream, group := x.group, lastFused := x.lastFused }

/-- What a frame read that is to be possible meets: the trap of the first byte that cannot be read. -/
def State.unreadable (s : State) (part frame : Nat) (areas : List (Nat × Nat)) : Option Trap :=
  areas.findSome? fun a => match s.spans part .read (frame + a.1) a.2 with
    | .error t => some t
    | .ok _ => none

/-- What the bytes of an area without a layout stand for (R214, log entry 6): bytes of the record's write-back what it wrote, bytes of
another write-back, copied there, what that one wrote, and other bytes what the machine takes them for. -/
def State.sideOf (s : State) (part rec frame off n : Nat) : Except Trap SavedCtx := do
  let bs ← s.readVa part .read (frame + off) n
  .ok ((((s.savedOf part rec).toList ++ s.saved).find? fun y => bs == freeBytes y.writing off n).getD (Config.frameSide bs))

/-- What a frame's areas without a byte layout hold, as the record's state word and the frame say now (R214, R217): the resume block
when RB, the snapshot when GRP, the stream, where one is configured, with the configuration and the FIFO that its area holds, and the
fields of each set whose state is restored. -/
def State.asideOf (s : State) (part rec frame : Nat) (live : LiveMask) : Except Trap SavedCtx := do
  let w := s.recState part rec
  let x := (s.savedOf part rec).getD (SavedCtx.first part rec)
  let tests ← s.sideOf part rec frame 0xC0 128
  let hist ← s.sideOf part rec frame 0x160 160
  let resume ← if field w 6 1 = 1 then (s.sideOf part rec frame 0x8000 4096).map (·.resume) else .ok none
  let group ← if field w 7 1 = 1 then (s.sideOf part rec frame 0xC000 8192).map (·.group) else .ok none
  let stream ← if x.stream.isNone then .ok none else do
    let y ← s.sideOf part rec frame 0x9040 704
    let cfg ← s.readVa part .read (frame + 0x9000) 64
    let image ← s.readVa part .read (frame + 0x9400) 8192
    .ok (y.stream.map fun st => { st.ofImage image with cfg := DecCfg.of cfg st.cfg.lane })
  let set (n : Nat) (old : AccSet) (f : SavedCtx → AccSet) : Except Trap AccSet :=
    if hasBit live.acc n || group.map (·.1) == some n then (s.sideOf part rec frame (accArea n + 0x10840) 64).map f else .ok old
  let a0 ← set 0 x.acc0 (·.acc0)
  let a1 ← set 1 x.acc1 (·.acc1)
  match s.unreadable part frame [(0, 0x800)] with
  | some t => .error t
  | none => .ok { x with hist := hist.hist, tests := tests.tests, resume := resume, group := group, acc0 := a0, acc1 := a1, stream := stream }

/-- The fusion that a record's state word and its frame's fusion block name (R230, Tables 10-2 and 10-4). -/
def State.fusionOf (s : State) (part rec frame : Nat) : Except Trap (Option Fusion) := do
  let w := s.recState part rec
  if field w 10 2 = 0 then .ok none
  else
    let stride ← s.frameNat part frame 0x280 8
    let lead ← s.frameNat part frame 0x288 8
    .ok (some ⟨if field w 10 2 = 1 then 2 else 4, field w 12 2, toSigned 64 stride, lead⟩)

/-- The heads that stand in a frame (Table 10-4): each with the task that posted it, as the write-back knew it (R190, R250). -/
def State.headsOf (s : State) (part frame task : Nat) (x : SavedCtx) : Except Trap (List (Nat × List Head)) := do
  let bs ← s.readVa part .read (frame + 0x400) 1024
  .ok <| (List.range 8).map fun ch =>
    let known := ((x.queued.find? (·.1 == ch)).map (·.2)).getD []
    let words := ((List.range 16).map fun k => leNat ((bs.drop (128 * ch + 8 * k)).take 8)).filter (· != 0)
    (ch, words.zipIdx.map fun y => match known[y.2]? with
      | some h => { h with va := y.1 }
      | none => ⟨y.1, task, false⟩)

/-- The live mask by SAFEIDX (R217). A table that cannot be read is a failed frame read. -/
def State.liveOf (s : State) (part frame task safeIdx : Nat) : Except Trap LiveMask :=
  if safeIdx = 0xFFFF then .ok LiveMask.none
  else if safeIdx = 0xFFFE then
    match s.readVa part .read (frame + 0x200) 64 with
    | .ok bs => .ok (LiveMask.ofBytes bs)
    | .error t => .error t
  else s.readEntry part task safeIdx

/-- The poison word (R340). -/
def Task.poisonWord (t : Task) : Nat := if t.poison then 1 else 0

/-- The TPOST notices waiting in a frame become flags (R209, R217). -/
def State.takeNotices (s : State) (part frame : Nat) : Except Trap (Word × State) :=
  match s.frameNat part frame 0x78 8 with
  | .error t => .error t
  | .ok n => if n = 0 then .ok (0, s) else .ok (BitVec.ofNat 64 n, s.hubWrite part frame 0x78 8 0)

/-- The start arguments: S1 and S2 (R217), S3 and S4 of a root (R340) or of a handler (R357). They are written after the
written-since masks have been cleared, and count there. -/
def State.startArgs (s : State) (part rec : Nat) (c : Core) : Core :=
  let set (c : Core) (r n : Nat) : Core := c.write (.s r (BitVec.ofNat 64 n))
  let c := set (set c 1 c.frame) 2 rec
  match (s.part? part).bind (fun p => p.handlers.find? (·.1 == rec)), s.task? part c.task with
  | some (_, f), _ => set (set c 3 f) 4 (s.readRec part f 56 8)
  | none, some t =>
    match t.desc with
    | some d => if d.root = rec then set (set c 3 d.arg.toNat) 4 t.poisonWord else c
    | none => c
  | none, none => c

/-- The checks of a pick-up that precede its restores: a failed read of the safe-table pointer (R91), and a CODE that
names no bundle header (R94, R217). -/
def State.pickTrap (s : State) (part rec task : Nat) : Option Trap :=
  let t := s.task? part task
  let code := s.recCode part rec
  let ptr : Option Trap := match t.bind (·.safeTrap), t.bind (·.desc) with
    | some no, some d => if d.root = rec then some { no := no, addr := (d.entry + 2 ^ 64 - 8) % 2 ^ 64 } else none
    | _, _ => none
  match ptr with
  | some tr => some tr
  | none =>
    match s.peekWord part code with
    | .ok w => if isHeader w then none else some { no := .target, addr := code }
    | .error e => if e.no = .target then some e else none

/-- Restore the record `rec` onto the acting core (R217): the core with the context, or the trap that faults it. -/
def State.restored (s : State) (part rec : Nat) : Except Trap (Core × State) := do
  let frame := s.recFrame part rec
  let task := s.readRec part rec 20 4
  let safeIdx := s.readRec part rec 36 2
  let first := safeIdx == 0xFFFF
  match s.pickTrap part rec task with
  | some t => .error t
  | none =>
    let live ← s.liveOf part frame task safeIdx
    let x ← if first then .ok (SavedCtx.first part rec) else s.asideOf part rec frame live
    let fused ← if first then .ok none else s.fusionOf part rec frame
    let heads ← if first then .ok [] else s.headsOf part frame task x
    let c : Core := { s.core.idled with
      part := part, running := true, cont := rec, task := task, frame := frame
      deadline := s.readRec part rec 24 8, parent := s.readRec part rec 40 8, scratch := s.readRec part rec 48 8
      pc := s.recCode part rec, saved := live, safeIdx := safeIdx, coreTimer := s.now, fused := fused
      gens := Gens.seeded (((s.part? part).map (·.srseed.toNat)).getD 1) task }
    let c ← s.restoreRegs part frame live first x c
    let (notes, s) ← s.takeNotices part frame
    let c := { c with fl := c.fl ||| notes, written := { c.written with fl := c.written.fl ||| notes.toNat } }
    let c := if first then s.startArgs part rec c else c
    let c := match x.resume with
      | some r => { c with
        pc := r.pc, rep := r.rep, done := r.done, gated := r.gated, branch := r.branch, leave := r.leave, point := r.point
        closed := r.closed, start := r.start, released := if r.passed then [(7, 0)] else [], issued := r.next, loads := r.loads
        barWait := r.bar, late := r.late }
      | none => c
    let s := (s.dropSaved part rec).headsIn part rec (clusterOf c.phys) heads
    .ok ({ c with sb := s.ringsIn part rec c.sb },
      { s with rings := s.rings.filter fun q => q.attached || !q.of part rec })

/-- The acting core picks up one ready record (R215, R217). An X_OVERRUN that waits is delivered here where no core runs the task
(R344). -/
def State.pickUp (s : State) (part : Nat) (r : Ready) : State :=
  let s := s.onPart part fun p => { p with ready := p.ready.filter (·.cont != r.cont) }
  let late := ((s.task? part r.task).map (·.overrun)).getD false && !(s.allCores.any fun c => c.running && c.part == part && c.task == r.task)
  if late then
    (s.onTask part r.task fun t => { t with overrun := false }).faultRec part r.cont { no := .overrun } (s.recCode part r.cont) true
  else match s.restored part r.cont with
    | .ok (c, s) => { s.setRecSt part r.cont 2 0 with core := c }
    | .error t => (s.onTask part r.task fun k => { k with
        safeTrap := if (k.desc.map (·.root)) = some r.cont then none else k.safeTrap }).faultRec part r.cont t (s.recCode part r.cont) false

end Sys2Proof.Machine
end

