-- ==== Sys2Proof/Machine/Flags.lean ====
section
/-! DEFINITION. Results narrowed and flagged: integer wrap and clamp (R20, R146), the conditions of the comparisons
(Table 7-3), the draws of stochastic rounding (R31, R144), and block quantisation (R154). -/

namespace Sys2Proof.Machine

/-! ## Integer elements -/

/-- How an integer instruction reads and writes an element: width, lane width, signedness, NZR (R142, R146). -/
structure IntElt where
  w : Nat
  lane : Nat
  sgn : Bool
  nzr : Bool
  deriving DecidableEq, Repr

def IntElt.lo (e : IntElt) : Int := if e.sgn then -((2 ^ (e.w - 1) : Nat) : Int) + (if e.nzr then 1 else 0) else 0
def IntElt.hi (e : IntElt) : Int := if e.sgn then ((2 ^ (e.w - 1) : Nat) : Int) - 1 else ((2 ^ e.w : Nat) : Int) - 1

/-- The code of a lane: its low `w` bits; a reserved code reads as 0 with NV (R34). -/
def IntElt.code (e : IntElt) (c : Nat) : Nat × Flags :=
  let c := c % 2 ^ e.w
  if e.nzr && c == 2 ^ (e.w - 1) then (0, Flags.nv) else (c, 0)

/-- The integer that a code stands for. -/
def IntElt.int (e : IntElt) (c : Nat) : Int := if e.sgn then toSigned e.w c else (c % 2 ^ e.w : Nat)

/-- An exact integer narrowed to the element: wrapped, or under SAT clamped with SA (R20, R146). -/
def IntElt.narrow (e : IntElt) (sat : Bool) (x : Int) : Nat × Flags :=
  if sat then
    let y := max e.lo (min x e.hi)
    (toBits e.w y, flagIf (y != x) Flags.sa)
  else (toBits e.w x, 0)

/-! ## Conditions (Table 7-3) -/

/-- The condition `cc` of VCMP on two codes of width w. -/
def intCond (cc w a b : Nat) : Bool :=
  let sa := toSigned w a
  let sb := toSigned w b
  match cc with
  | 0 => a == b
  | 1 => a != b
  | 2 => decide (sa < sb)
  | 3 => decide (sa ≤ sb)
  | 4 => decide (sb < sa)
  | 5 => decide (sb ≤ sa)
  | 6 => decide (a < b)
  | 7 => decide (a ≤ b)
  | 8 => decide (b < a)
  | _ => decide (b ≤ a)

/-- The condition `cc` of VFCMP on two values, with NV (R147). -/
def floatCond (cc : Nat) (a b : Val) : Bool × Flags :=
  if a.isNan || b.isNan then
    (cc == 1 || cc == 7, flagIf (a.isSig || b.isSig || (decide (2 ≤ cc) && decide (cc ≤ 5))) Flags.nv)
  else
    let lt := a.less false b
    let gt := b.less false a
    (match cc with
      | 0 => !lt && !gt
      | 1 => lt || gt
      | 2 => lt
      | 3 => !gt
      | 4 => gt
      | 5 => !lt
      | 6 => true
      | _ => false, 0)

/-! ## Draws (R31, R144) -/

/-- Rounds of the first `m` generators: each round's new states serve the next lanes. -/
def drawRounds (m : Nat) : Nat → List Nat → List Nat × List Nat
  | 0, g => ([], g)
  | k + 1, g =>
    let g := stepGens m g
    let (ds, g') := drawRounds m k g
    (g.take m ++ ds, g')

/-- The draws of an operation on n lanes or elements, and the generators after it. -/
def vecDraws (n : Nat) (g : List Nat) : List Nat × List Nat := drawRounds (min n 128) ((n + 127) / 128) g

/-- The draws of the acting op word: none unless it rounds stochastically. -/
def State.draws (s : State) (n : Nat) : List Nat × State :=
  if s.core.ctx.rnd = 5 then
    let (ds, g) := vecDraws n s.core.gens.vec
    (ds, s.onCore fun c => { c with gens := { c.gens with vec := g } })
  else ([], s)

/-! ## Quantisation (R154) -/

/-- floor(log2) of the largest finite value of a format (R154); a free value where that value is zero. -/
def Fmt.emax (f : Fmt) : Int :=
  match if f.isInt then Val.fin false f.intMax.toNat (-f.bias) else f.value f.maxCode with
  | .fin _ (m + 1) e => (topBit (m + 1) : Int) + e
  | _ => Config.emaxOfZero f.width f.ebits f.bias

def log2Val : Val → Option Int
  | .fin _ (m + 1) e => some ((topBit (m + 1) : Int) + e)
  | _ => none

/-- The greatest of the block's exponents of magnitude; none when every element is zero. -/
def blockLog (vs : List Val) : Option Int :=
  vs.foldl (fun best v =>
    match best, log2Val v with
    | none, x => x
    | some b, some x => some (max b x)
    | b, none => b) none

/-- A scaled element rounded into the element format of a block (R154): beyond the range it is clamped, with OF, NX and SA. In a format
without a sign a negative element is rounded as with one, and what is not then zero is beyond the range: DESIGN CHOICE (log entry
68). -/
def Fmt.quantised (f : Fmt) (mode draw : Nat) (y : Val) : Nat × Flags :=
  let clamped := Flags.of ||| Flags.nx ||| Flags.sa
  if y.neg? && !f.sgn then
    let (c, g) := ({ f with sgn := true, width := f.width + 1 } : Fmt).store mode true draw y
    (0, if (if f.isInt then c else c % 2 ^ f.width) = 0 then g else clamped)
  else
    let (c, g) := f.store mode true draw y
    (c, if g &&& Flags.nv ≠ 0 then clamped else g)

/-- Quantise one block of at most 32 elements (R154): its scale code, the code of each active element, flags. -/
def quantise (f : Fmt) (mode : Nat) (draws : List Nat) (xs : List (Option Val)) : Nat × List (Option Nat) × Flags :=
  let act := xs.filterMap id
  if act.isEmpty then (127, xs.map fun _ => none, 0)
  else if act.any fun v => !v.isFinite then (0xFF, xs.map (·.map fun _ => 0), Flags.nv)
  else
    let code : Nat := match blockLog act with
      | none => 127
      | some l => (max 0 (min (127 + l - f.emax) 254)).toNat
    let out := xs.zipIdx.map fun x => x.1.map fun v =>
      let y := match v with
        | .fin n m e => Val.fin n m (e + 127 - code)
        | v => v
      f.quantised mode (draws.getD x.2 0) y
    (code, out.map (·.map (·.1)), out.foldl (fun g x => g ||| (x.map (·.2)).getD 0) 0)

/-- Quantise a sequence block by block: scale codes, element codes, flags. -/
def quantiseAll (f : Fmt) (mode : Nat) (draws : List Nat) (xs : List (Option Val)) : List Nat × List (Option Nat) × Flags :=
  let blocks := (List.range (xs.length / 32)).map fun b => quantise f mode ((draws.drop (32 * b)).take 32) ((xs.drop (32 * b)).take 32)
  (blocks.map (·.1), blocks.flatMap (·.2.1), blocks.foldl (fun g x => g ||| x.2.2) 0)

end Sys2Proof.Machine
end

