-- ==== Sys2Proof/Machine/Operands.lean ====
section
/-! DEFINITION. What an op word writes and reads (R62, R68), its effective address (R108), the checks of an access
(R108, R109, R112) and the scratch segment's pages (R108, R125, R244). -/

namespace Sys2Proof.Machine

/-! ## The registers of R62 -/

inductive Reg where
  | s (n : Nat) | v (n : Nat) | p (n : Nat) | t (n : Nat) | acc (n : Nat) | fl (n : Nat) | stp (n : Nat)
  | pat (n : Nat) | fmt (n : Nat)
  deriving DecidableEq, Repr

/-- A vector register number moved by the sticky offset, modulo 32 (R73). -/
def slid (o : Int) (r : Nat) : Nat := (((r : Int) + o) % 32).toNat
/-- A scalar written: S0 counts as no write (R62). -/
def sReg (r : Nat) : List Reg := if r = 0 then [] else [.s r]

/-- The registers that an op word writes (R62), its vector numbers moved by `o`. -/
def writesOf (o : Int) (i : Instr) : List Reg :=
  let v (r : Nat) : List Reg := [.v (slid o r)]
  match i with
  | .add d _ _ | .sub d _ _ | .mul d _ _ | .mulh d _ _ | .mulhu d _ _ | .div d _ _ | .divu d _ _ | .rem d _ _
  | .remu d _ _ | .and d _ _ | .or d _ _ | .xor d _ _ | .andn d _ _ | .shl d _ _ | .shr d _ _ | .sra d _ _
  | .rotr d _ _ | .min d _ _ | .max d _ _ | .minu d _ _ | .maxu d _ _ | .seq d _ _ | .slt d _ _ | .sltu d _ _
  | .clz d _ | .ctz d _ | .popc d _ | .sext d _ _ | .zext d _ _ | .sel d _ _ _ | .bfx d _ _ _ _ | .bfi d _ _ _ _
  | .addi d _ _ | .andi d _ _ | .ori d _ _ | .xori d _ _ | .shli d _ _ | .shri d _ _ | .srai d _ _
  | .addiLong d _ _ | .andiLong d _ _ | .oriLong d _ _ | .xoriLong d _ _ | .shliLong d _ _ | .shriLong d _ _
  | .sraiLong d _ _ | .movi d _ _ | .moviHi d _ => sReg d
  | .step k _ _ _ => [.stp k]
  | .call a _ | .callLong a _ | .calli a _ | .loop a _ | .loopLong a _ => sReg a
  | .ldb d _ _ _ | .ldbs d _ _ _ | .ldh d _ _ _ | .ldhs d _ _ _ | .ldw d _ _ _ | .ldws d _ _ _ | .ldd d _ _ _ => sReg d
  | .vld d _ _ _ => [.v d]
  | .vldp _ _ d => [.v d]
  | .vldpSet _ pt _ => [.pat pt]
  | .vgth _ _ _ d _ _ => [.v d]
  | .tld _ t _ _ _ => [.t t]
  | .aadd x | .afadd x | .axchg x | .acas x | .aand x | .aor x | .axor x | .amin x | .amax x | .aminu x | .amaxu x
  | .afmin x | .afmax x => if x.nr = 0 then sReg x.d else []
  | .waita _ _ d _ _ => sReg d
  | .vadd x | .vsub x | .vmul x | .vmulh x | .vmin x | .vmax x | .vabs x | .vneg x | .vand x | .vor x | .vxor x | .vnot x
  | .vshl x | .vshr x | .vsra x | .vpopc x | .vclz x | .vfadd x | .vfsub x | .vfmul x | .vfmin x | .vfmax x | .vfabs x
  | .vfneg x | .vfdiv x | .vfsqrt x | .vrcp x | .vrsq x | .vexp2 x | .vlog2 x | .vtanh x | .vslide x | .vbcast x
  | .vins x | .vcmpr x | .vexpd x | .vrsum x | .vrfsum x | .vrmax x | .vrmin x | .vscan x => v x.d
  | .vext x => sReg x.d
  | .vmad x | .vsel x | .vaddLong x | .vsubLong x | .vmulLong x | .vmulhLong x | .vminLong x | .vmaxLong x | .vabsLong x
  | .vnegLong x | .vandLong x | .vorLong x | .vxorLong x | .vnotLong x | .vshlLong x | .vshrLong x | .vsraLong x
  | .vpopcLong x | .vclzLong x | .vfma x | .vfaddLong x | .vfsubLong x | .vfmulLong x | .vfminLong x | .vfmaxLong x
  | .vfabsLong x | .vfnegLong x | .vfdivLong x | .vfsqrtLong x | .vrcpLong x | .vrsqLong x | .vexp2Long x | .vlog2Long x
  | .vtanhLong x | .vcvt x | .vdqnt x | .vi2f x | .vf2i x | .vperm x | .vshuf x | .vslideLong x | .vbcastLong x
  | .vinsLong x | .vcmprLong x | .vexpdLong x | .vrsumLong x | .vrfsumLong x | .vrmaxLong x | .vrminLong x
  | .vscanLong x => v x.d
  | .vcmp x | .vfcmp x => [.p x.pd]
  | .vqnt x => .v (slid o x.d) :: sReg x.sd
  | .vextLong x => sReg x.d
  | .pand d _ _ | .por d _ _ | .pxor d _ _ | .pandn d _ _ | .pnot d _ | .pmov d _ | .psetn _ _ d => [.p d]
  | .pcnt _ s _ | .pfirst _ s _ => sReg s
  | .tzero _ _ _ set | .tmma _ _ _ _ set | .tmsr _ _ _ _ set | .tdrainMemory _ _ set _ _ _ => [.acc set]
  | .tdrainTile _ _ r set => [.t r, .acc set]
  | .tdrainVector _ _ r set => [.v r, .acc set]
  | .twr _ _ _ _ _ tr => [.t tr]
  | .trdr _ _ _ v _ _ | .trdc _ _ v _ _ => [.v v]
  | .tchk sd v _ _ tr => sReg sd ++ [.v v, .v (v + 1), .t tr]
  | .tgen v _ _ _ => [.v v, .v (v + 1)]
  | .ctlr _ d | .getid _ d | .time d => sReg d
  | .ctlw c _ => if c = 2 then (List.range 64).map .fl else []
  | .fmtset f _ => [.fmt f]
  | .flset f | .flclr f => [.fl f]
  | .sbacq d _ => sReg d
  | .ctest f _ _ => [.fl f]
  | .cqry _ d | .vldxWait d | .frel _ _ _ d | .fchq _ _ d | .tpost _ _ d | .tcancel _ d => sReg d
  | .vldx _ d => [.v d]
  | _ => []

/-- The registers that an op word reads as source operands, for X_EARLY_READ (R68). Tile rows that the array reads are
not among them: pending tile writes complete before it reads them (R167). -/
def readsOf (o : Int) (i : Instr) : List Reg :=
  let v (r : Nat) : Reg := .v (slid o r)
  match i with
  | .add _ a b | .sub _ a b | .mul _ a b | .mulh _ a b | .mulhu _ a b | .div _ a b | .divu _ a b | .rem _ a b
  | .remu _ a b | .and _ a b | .or _ a b | .xor _ a b | .andn _ a b | .shl _ a b | .shr _ a b | .sra _ a b
  | .rotr _ a b | .min _ a b | .max _ a b | .minu _ a b | .maxu _ a b | .seq _ a b | .slt _ a b | .sltu _ a b
  | .bfi _ a b _ _ | .beq a b _ | .bne a b _ | .blt a b _ | .bge a b _ | .bltu a b _ | .bgeu a b _ | .beqLong a b _
  | .bneLong a b _ | .bltLong a b _ | .bgeLong a b _ | .bltuLong a b _ | .bgeuLong a b _ | .spawn a b
  | .wake _ b a | .cwait a b | .ctest _ a b | .frel _ b a _ | .tpost b a _ => [.s a, .s b]
  | .clz _ a | .ctz _ a | .popc _ a | .sext _ a _ | .zext _ a _ | .bfx _ a _ _ _ | .addi _ a _ | .andi _ a _
  | .ori _ a _ | .xori _ a _ | .shli _ a _ | .shri _ a _ | .srai _ a _ | .addiLong _ a _ | .andiLong _ a _
  | .oriLong _ a _ | .xoriLong _ a _ | .shliLong _ a _ | .shriLong _ a _ | .sraiLong _ a _ | .jmpi a | .ret a
  | .calli _ a | .loop a _ | .loopLong a _ | .ldb _ a _ _ | .ldbs _ a _ _ | .ldh _ a _ _ | .ldhs _ a _ _ | .ldw _ a _ _
  | .ldws _ a _ _ | .ldd _ a _ _ | .vld _ a _ _ | .vldpSet _ _ a | .tld _ _ _ a _ | .prf _ a _ _ | .spin _ a
  | .sprel _ a | .suspend a _ | .fuse a _ | .tret a | .tretNext a | .ctlw _ a | .injectArm a | .sbDescriptorWrite _ a
  | .hbeat a | .fmtset _ a | .cpost _ a | .dcfg a | .coll a | .fchq _ a _ | .tcancel a _ => [.s a]
  | .sel _ a b c => [.s a, .s b, .s c]
  | .moviHi d _ => [.s d]
  | .step _ src a _ => if src = 1 then [.s a] else []
  | .bpany p _ _ | .bpnone p _ _ | .bpanyLong p _ _ | .bpnoneLong p _ _ => [.p p]
  | .stb d a _ _ | .sth d a _ _ | .stw d a _ _ | .std d a _ _ => [.s d, .s a]
  | .vst d a _ _ => [.v d, .s a]
  | .vldp _ pt _ => [.pat pt]
  | .vstp _ pt d => [.pat pt, .v d]
  | .vstpSave pt a => [.pat pt, .s a]
  | .vgth _ ix a _ _ px => [.s a, .v ix, .p px]
  | .vsct _ ix a d px _ => [.s a, .v ix, .v d, .p px]
  | .tst _ t _ a _ => [.t t, .s a]
  | .aadd x | .afadd x | .axchg x | .aand x | .aor x | .axor x | .amin x | .amax x | .aminu x | .amaxu x
  | .afmin x | .afmax x => [.s x.a, .s x.b]
  | .acas x => [.s x.a, .s x.b, .s x.c]
  | .waita _ a _ b _ => [.s a, .s b]
  | .vadd x | .vsub x | .vmul x | .vmulh x | .vmin x | .vmax x | .vand x | .vor x | .vxor x | .vshl x | .vshr x
  | .vsra x | .vfadd x | .vfsub x | .vfmul x | .vfmin x | .vfmax x | .vfdiv x | .vslide x => [v x.a, v x.b, .p x.p]
  | .vabs x | .vneg x | .vnot x | .vpopc x | .vclz x | .vfabs x | .vfneg x | .vfsqrt x | .vrcp x | .vrsq x
  | .vexp2 x | .vlog2 x | .vtanh x | .vcmpr x | .vexpd x | .vrsum x | .vrfsum x | .vrmax x | .vrmin x
  | .vscan x => [v x.a, .p x.p]
  | .vbcast x => [.s x.a, .p x.p]
  | .vext x => [v x.a, .s x.b]
  | .vins x => [.s x.a, .s x.b]
  | .vmad x | .vfma x | .vperm x => [v x.a, v x.b, v x.c, .p x.px]
  | .vshuf x => [v x.a, v x.c, .p x.px]
  | .vsel x => [v x.a, v x.b, .p x.pd, .p x.px]
  | .vaddLong x | .vsubLong x | .vmulLong x | .vmulhLong x | .vminLong x | .vmaxLong x | .vandLong x | .vorLong x
  | .vxorLong x | .vshlLong x | .vshrLong x | .vsraLong x | .vcmp x | .vfcmp x | .vfaddLong x | .vfsubLong x
  | .vfmulLong x | .vfminLong x | .vfmaxLong x | .vfdivLong x | .vslideLong x => [v x.a, v x.b, .p x.px]
  | .vabsLong x | .vnegLong x | .vnotLong x | .vpopcLong x | .vclzLong x | .vfabsLong x | .vfnegLong x | .vfsqrtLong x
  | .vrcpLong x | .vrsqLong x | .vexp2Long x | .vlog2Long x | .vtanhLong x | .vcvt x | .vqnt x | .vi2f x | .vf2i x
  | .vcmprLong x | .vexpdLong x | .vrsumLong x | .vrfsumLong x | .vrmaxLong x | .vrminLong x | .vscanLong x =>
    [v x.a, .p x.px]
  | .vdqnt x => [v x.a, .s x.sd, .p x.px]
  | .vbcastLong x => [if x.x = 1 then v x.a else .s x.a, .p x.px]
  | .vextLong x => [v x.a]
  | .vinsLong x => [.s x.a]
  | .pand _ a b | .por _ a b | .pxor _ a b | .pandn _ a b => [.p a, .p b]
  | .pnot _ a | .pmov _ a | .pcnt _ _ a | .pfirst _ _ a => [.p a]
  | .psetn _ s _ => [.s s]
  | .tdrainMemory _ r _ _ _ _ => [.s r]
  | .twr _ _ _ v _ _ => [.v v]
  | .trdr _ _ _ _ _ tr | .trdc _ _ _ _ tr => [.t tr]
  | .tchk _ v _ _ tr => [.v v, .v (v + 1), .t tr]
  | .tgen _ _ _ tr => [.t tr]
  | .flwait f _ => [.fl f]
  | .ctlr c _ => if c = 2 then (List.range 64).map .fl else []
  | _ => []

/-- The register of one write in flight. -/
def RegWrite.reg : RegWrite → List Reg
  | .s r _ => [.s r]
  | .v r _ _ => [.v r]
  | .p r _ _ => [.p r]
  | .t n _ _ _ => [.t n]
  | .fl f _ => [.fl f]
  | .fls _ => (List.range 64).map .fl
  | .fmt f _ => [.fmt f]
  | .pat k _ => [.pat k]
  | .step k _ => [.stp k]

/-- Does a bundle issued now read a destination still within its latency bound (R68)? S0 ignores writes (Table 3-1). -/
def Core.readsEarly (c : Core) (rs : List Reg) : Bool :=
  c.lands.any fun l => l.left != 0 && l.writes.any fun w => w.reg.any fun r => r != .s 0 && rs.contains r

/-! ## Addresses (R100, R108) -/

/-- Member offset of a fused set: m × stride (R100). -/
def Core.fusedOff (c : Core) : Int :=
  match c.fused with
  | some f => (f.m : Int) * f.stride
  | none => 0

/-- The effective address of an M-slot op word: base plus offset, plus the sticky offset and the fused one, modulo
2^64 (R108). -/
def State.eaM (s : State) (a : Nat) (off : Int) : Nat :=
  toBits 64 ((s.rs a).toNat + off + s.core.ctx.off + s.core.fusedOff)

/-! ## The scratch segment (R108, R125, R244) -/

/-- The scratch segment: 16 MiB from the continuation's scratch base. -/
def Core.inScratch (c : Core) (va : Nat) : Bool :=
  decide (c.scratch ≤ va) && decide (va < c.scratch + 0x1000000)

/-- The key of a scratch page: partition and 64 KiB page number. -/
def pageKey (part va : Nat) : Nat := part * 2 ^ 48 + va / 2 ^ 16

/-- The core that holds a scratch page (R244). -/
def State.pageHolder (s : State) (key : Nat) : Option Nat := (s.pages.find? (·.1 == key)).map (·.2.1)

/-- The scratch pages of a range that are not resident on the acting core. -/
def State.missing (s : State) (va n : Nat) : List Nat :=
  if n = 0 then [] else
  ((List.range ((va + n - 1) / 2 ^ 16 - va / 2 ^ 16 + 1)).map fun k => va + k * 2 ^ 16).filterMap fun a =>
    if s.core.inScratch a && s.pageHolder (pageKey s.core.part a) != some s.core.phys then
      some (pageKey s.core.part a) else none

/-! ## The checks of an access (R108, R109, R112) -/

/-- One piece of a checked access: address, size, offset, place, cached by the snapshot only, scratch. -/
structure Piece where
  va : Nat
  size : Nat
  off : Nat
  loc : Loc
  cached : Bool
  scratch : Bool
  deriving DecidableEq, Repr

/-- What the checks of an access answer: its pieces, a trap, or a freeze until a condition holds. -/
inductive Checked where
  | ok (ps : List Piece)
  | trap (t : Trap)
  | freeze (f : Freeze)

/-- Check every byte of an access in 64-byte pieces (R108). A trap wins over a page in transit (R378), and both over a
refill (R108). -/
def State.checkBytes (s : State) (a : Access) (scope ea n : Nat) : Checked :=
  let r := (cut ea n).foldl (fun acc x =>
    match acc with
    | .trap t => .trap t
    | _ =>
      let (e, k, off) := x
      let e := e % 2 ^ 64
      match s.corePoison s.core.phys s.core.part (va52 e) with
      | some pa => match acc with
        | .ok _ => .freeze (.poison pa)
        | other => other
      | none => match s.xlat a scope e with
      | .trap t => .trap { no := t, addr := e }
      | .transit => match acc with
        | .ok _ => .freeze (.transit (va52 e))
        | other => other
      | .ok loc c => match acc with
        | .ok ps => .ok (ps ++ [⟨va52 e, k, off, loc, c, s.core.inScratch (va52 e)⟩])
        | other => other) (Checked.ok [])
  match r with
  | .ok ps =>
    let pages := (ps.flatMap fun p => if p.scratch then s.missing p.va p.size else []).eraseDups
    if pages.isEmpty then .ok ps else .freeze (.refill pages)
  | other => other

/-- Alignment first, then translation and permission (R109). -/
def State.check (s : State) (a : Access) (scope ea n align : Nat) : Checked :=
  if ea % align ≠ 0 then .trap { no := .align, addr := ea } else s.checkBytes a scope ea n

/-- The word of an E-slot operand, a wait, an atomic or a queue word: one piece (R108, R109, R193). -/
def State.checkWord (s : State) (a : Access) (scope ea n : Nat) : Checked := s.check a scope ea n n

/-- What a restart snapshot holds of a core (R168). -/
def Core.snapshot (c : Core) : Snapshot where
  pc := c.pc
  s := c.s
  fl := c.fl
  fstat := c.fstat
  pat := c.pat
  fmt := c.fmt
  stepr := c.stepr
  hist := c.hist
  safecnt := c.safecnt
  gens := c.gens
  loads := c.loads.map fun l => if l.isAtomic then l else { l with data := none }
  lands := c.lands
  own := flagsOf (c.lands.flatMap (·.writes))

/-- Inside an open tile group (R113, R169); the bundles of TZERO and of the closing TDRAIN are inside it as a whole. -/
def State.inGroup (s : State) : Bool := s.core.group.isSome || s.core.closed || s.core.ctx.opens

/-- An op word that acts now is turned away by a trap of its own. -/
def State.refuse (s : State) (t : TrapNo) : State := s.takeTrap { no := t }

/-- The core freezes before the bundle acts (R69, R108, R378). -/
def State.freeze (s : State) (f : Freeze) : State := s.onCore fun c => { c with frozen := some f }

/-- The op word waits: it stays outside the done mask (R74). -/
def State.wait (s : State) : State := s.onCore fun c => { c with waiting := true }

/-- Continue with the pieces of a checked access. -/
def State.checked (s : State) (r : Checked) (k : List Piece → State) : State :=
  match r with
  | .ok ps => k ps
  | .trap t => s.takeTrap t
  | .freeze f => s.freeze f

/-- The scope of the acting M-slot op word (R64). -/
def State.scope (s : State) : Nat := s.core.ctx.scope

/-! ## Lanes (R27, R46) -/

/-- The codes of the n lanes of width w. -/
def lanesOf (w n : Nat) (x : VWord) : List Nat := let v := x.toNat; (List.range n).map fun i => field v (w * i) w

/-- Lane values placed from lane `lo` up as a register value and its write mask; `none` leaves a lane. -/
def packLanes (w lo : Nat) (xs : List (Option Nat)) : VWord × VWord :=
  let (v, m) := xs.zipIdx.foldl (fun (acc : Nat × Nat) x =>
    match x.1 with
    | some c => (acc.1 + c % 2 ^ w * 2 ^ (w * (lo + x.2)), acc.2 + (2 ^ w - 1) * 2 ^ (w * (lo + x.2)))
    | none => acc) (0, 0)
  (BitVec.ofNat 4096 v, BitVec.ofNat 4096 m)

/-- A vector write of lanes. -/
def laneWrite (d w lo : Nat) (xs : List (Option Nat)) : RegWrite :=
  let (v, m) := packLanes w lo xs
  .v d v m

/-- A vector write of all lanes. -/
def fullWrite (d : Nat) (x : VWord) : RegWrite := .v d x allOnesV

/-- Element lane width of an element-type code: T 0–4, or the format of T = 6 (R46, R61, R142). -/
def elemWidth (t : Nat) (f : Fmt) : Nat := if t = 6 then f.lane else typeWidth t

/-- The low n bits of a predicate as lanes. -/
def activeLanes (n : Nat) (p : PWord) : List Bool := let v := p.toNat; (List.range n).map (hasBit v)

end Sys2Proof.Machine
end

