-- ==== Sys2Proof/Machine/IntOps.lean ====
section
/-! DEFINITION. The meanings of the I-slot arithmetic (R82–R87). -/

namespace Sys2Proof.Machine

abbrev Out := Host.Outcome State Fault Refusal

/-- Write a scalar result with latency bound `l`. -/
def State.putS (s : State) (l d : Nat) (x : Word) : Out := .next (s.result l [.s d x])

/-- A truth value as a scalar. -/
def truth (b : Bool) : Word := if b then 1 else 0

/-! ## Register forms (Table 5-1) -/

def execAdd (d a b : Nat) (s : State) : Out := s.putS 1 d (s.rs a + s.rs b)
def execSub (d a b : Nat) (s : State) : Out := s.putS 1 d (s.rs a - s.rs b)
def execMul (d a b : Nat) (s : State) : Out := s.putS 3 d (s.rs a * s.rs b)
def execMulh (d a b : Nat) (s : State) : Out :=
  s.putS 3 d (BitVec.ofInt 64 ((s.rs a).toInt * (s.rs b).toInt / (2 ^ 64 : Nat)))
def execMulhu (d a b : Nat) (s : State) : Out := s.putS 3 d (BitVec.ofNat 64 ((s.rs a).toNat * (s.rs b).toNat / 2 ^ 64))

/-- The quotient and remainder of R83 and Table 5-1, signed: truncation toward zero. -/
def divS (a b : Word) : Word × Word :=
  if b = 0 then (BitVec.allOnes 64, a)
  else if a = BitVec.intMin 64 ∧ b = BitVec.allOnes 64 then (a, 0)
  else (BitVec.ofInt 64 (a.toInt.tdiv b.toInt), BitVec.ofInt 64 (a.toInt.tmod b.toInt))

def divU (a b : Word) : Word × Word := if b = 0 then (BitVec.allOnes 64, a) else (a / b, a % b)

def execDiv (d a b : Nat) (s : State) : Out := s.putS 12 d (divS (s.rs a) (s.rs b)).1
def execDivu (d a b : Nat) (s : State) : Out := s.putS 12 d (divU (s.rs a) (s.rs b)).1
def execRem (d a b : Nat) (s : State) : Out := s.putS 12 d (divS (s.rs a) (s.rs b)).2
def execRemu (d a b : Nat) (s : State) : Out := s.putS 12 d (divU (s.rs a) (s.rs b)).2

def execAnd (d a b : Nat) (s : State) : Out := s.putS 1 d (s.rs a &&& s.rs b)
def execOr (d a b : Nat) (s : State) : Out := s.putS 1 d (s.rs a ||| s.rs b)
def execXor (d a b : Nat) (s : State) : Out := s.putS 1 d (s.rs a ^^^ s.rs b)
def execAndn (d a b : Nat) (s : State) : Out := s.putS 1 d (s.rs a &&& ~~~s.rs b)

/-- A shift amount (R82). -/
def amount (b : Word) : Nat := b.toNat % 64

def execShl (d a b : Nat) (s : State) : Out := s.putS 1 d (s.rs a <<< amount (s.rs b))
def execShr (d a b : Nat) (s : State) : Out := s.putS 1 d (s.rs a >>> amount (s.rs b))
def execSra (d a b : Nat) (s : State) : Out := s.putS 1 d ((s.rs a).sshiftRight (amount (s.rs b)))
def execRotr (d a b : Nat) (s : State) : Out := s.putS 1 d ((s.rs a).rotateRight (amount (s.rs b)))

/-- The number of zero bits above the highest one bit of an n-bit code. -/
def leading (n v : Nat) : Nat := if v = 0 then n else n - 1 - Nat.log2 v
/-- The number of one bits of an n-bit code. -/
def ones (n v : Nat) : Nat := ((List.range n).filter (hasBit v)).length
/-- The index of the lowest one bit among the low n, or n. -/
def lowest (n v : Nat) : Nat := ((List.range n).find? (hasBit v)).getD n

def execClz (d a : Nat) (s : State) : Out := s.putS 1 d (BitVec.ofNat 64 (leading 64 (s.rs a).toNat))
def execCtz (d a : Nat) (s : State) : Out := s.putS 1 d (BitVec.ofNat 64 (lowest 64 (s.rs a).toNat))
def execPopc (d a : Nat) (s : State) : Out := s.putS 1 d (BitVec.ofNat 64 (ones 64 (s.rs a).toNat))

def execMin (d a b : Nat) (s : State) : Out := s.putS 1 d (if (s.rs b).slt (s.rs a) then s.rs b else s.rs a)
def execMax (d a b : Nat) (s : State) : Out := s.putS 1 d (if (s.rs a).slt (s.rs b) then s.rs b else s.rs a)
def execMinu (d a b : Nat) (s : State) : Out := s.putS 1 d (if s.rs b < s.rs a then s.rs b else s.rs a)
def execMaxu (d a b : Nat) (s : State) : Out := s.putS 1 d (if s.rs a < s.rs b then s.rs b else s.rs a)
def execSeq (d a b : Nat) (s : State) : Out := s.putS 1 d (truth (s.rs a == s.rs b))
def execSlt (d a b : Nat) (s : State) : Out := s.putS 1 d (truth ((s.rs a).slt (s.rs b)))
def execSltu (d a b : Nat) (s : State) : Out := s.putS 1 d (truth (decide (s.rs a < s.rs b)))

/-- The width that FN selects (R82). -/
def extWidth (f : Nat) : Nat := if f = 0 then 8 else if f = 1 then 16 else 32

def execSext (d a f : Nat) (s : State) : Out :=
  s.putS 1 d (BitVec.ofInt 64 (toSigned (extWidth f) ((s.rs a).toNat % 2 ^ extWidth f)))
def execZext (d a f : Nat) (s : State) : Out := s.putS 1 d (BitVec.ofNat 64 ((s.rs a).toNat % 2 ^ extWidth f))

/-! ## Long register forms (R84) -/

def execSel (d a b c : Nat) (s : State) : Out := s.putS 1 d (if s.rs c ≠ 0 then s.rs a else s.rs b)

/-- The field of BFX: bits above 63 read as zero; the sign bit is bit min(pos + len, 64) − 1. -/
def bitField (a pos len sx : Nat) : Word :=
  let top := min (pos + len) 64
  let v := field a pos len
  if sx = 1 then BitVec.ofInt 64 (toSigned (top - pos) (v % 2 ^ (top - pos))) else BitVec.ofNat 64 v

def execBfx (d a pos len sx : Nat) (s : State) : Out := s.putS 1 d (bitField (s.rs a).toNat pos len sx)

/-- BFI replaces bits pos + len − 1 to pos; bits that would fall above 63 are lost. -/
def insertField (a b : Word) (pos len : Nat) : Word :=
  let m : Word := (BitVec.ofNat 64 (2 ^ len - 1)) <<< pos
  (a &&& ~~~m) ||| ((b <<< pos) &&& m)

def execBfi (d a b pos len : Nat) (s : State) : Out := s.putS 1 d (insertField (s.rs a) (s.rs b) pos len)

/-! ## Immediates (R85–R87) -/

def immW (i : Int) : Word := BitVec.ofInt 64 i

def execAddi (d a : Nat) (imm : Int) (s : State) : Out := s.putS 1 d (s.rs a + immW imm)
def execAndi (d a : Nat) (imm : Int) (s : State) : Out := s.putS 1 d (s.rs a &&& immW imm)
def execOri (d a : Nat) (imm : Int) (s : State) : Out := s.putS 1 d (s.rs a ||| immW imm)
def execXori (d a : Nat) (imm : Int) (s : State) : Out := s.putS 1 d (s.rs a ^^^ immW imm)
def execShli (d a : Nat) (imm : Int) (s : State) : Out := s.putS 1 d (s.rs a <<< amount (immW imm))
def execShri (d a : Nat) (imm : Int) (s : State) : Out := s.putS 1 d (s.rs a >>> amount (immW imm))
def execSrai (d a : Nat) (imm : Int) (s : State) : Out := s.putS 1 d ((s.rs a).sshiftRight (amount (immW imm)))
def execAddiLong (d a : Nat) (imm : Int) (s : State) : Out := s.putS 1 d (s.rs a + immW imm)
def execAndiLong (d a : Nat) (imm : Int) (s : State) : Out := s.putS 1 d (s.rs a &&& immW imm)
def execOriLong (d a : Nat) (imm : Int) (s : State) : Out := s.putS 1 d (s.rs a ||| immW imm)
def execXoriLong (d a : Nat) (imm : Int) (s : State) : Out := s.putS 1 d (s.rs a ^^^ immW imm)
def execShliLong (d a : Nat) (imm : Int) (s : State) : Out := s.putS 1 d (s.rs a <<< amount (immW imm))
def execShriLong (d a : Nat) (imm : Int) (s : State) : Out := s.putS 1 d (s.rs a >>> amount (immW imm))
def execSraiLong (d a : Nat) (imm : Int) (s : State) : Out := s.putS 1 d ((s.rs a).sshiftRight (amount (immW imm)))

def execMovi (d md imm : Nat) (s : State) : Out :=
  s.putS 1 d (if md = 0 then BitVec.ofNat 64 (imm % 2 ^ 32) else BitVec.ofInt 64 (toSigned 32 (imm % 2 ^ 32)))
def execMoviHi (d imm : Nat) (s : State) : Out :=
  s.putS 1 d (BitVec.ofNat 64 (imm % 2 ^ 32 * 2 ^ 32 + (s.rs d).toNat % 2 ^ 32))

def execStep (slot src a : Nat) (imm : Int) (s : State) : Out :=
  .next (s.result 1 [.step slot (if src = 1 then (s.rs a).setWidth 32 else BitVec.ofInt 32 imm)])

end Sys2Proof.Machine
end

