-- ==== Sys2Proof/Machine/Tilefmt.lean ====
section
/-! DEFINITION. Checksummed tiles: their layout in memory (R120), their place in a tile register (R121, R164), their sums
and the verification with correction (R42–R44, R122). Shared by TLD, TST, TDRAIN, TGEN, TCHK and the engines. -/

namespace Sys2Proof.Machine

/-- A checksummed tile as read or as built: element codes (i, j) at 128 i + j, column and row sums, and the scale bytes,
four a row. -/
structure Tile where
  elems : Array Nat
  col : Array Nat
  row : Array Nat
  scales : Array Nat
  deriving Inhabited

/-- Bytes of a tile image (Table 6-6). -/
def tileSize (f : Fmt) : Nat := 2048 * f.width + 1024 + if f.scale = 0 then 0 else 512

/-- The codes of one packed row of n elements of width w. -/
def unpackRow (w n : Nat) (bs : List Byte) : List Nat := let v := leNat bs; (List.range n).map fun j => field v (w * j) w
/-- Codes packed densely into bytes (R27). -/
def packRow (w : Nat) (cs : List Nat) : List Byte :=
  let v := cs.foldr (fun c a => c % 2 ^ w + 2 ^ w * a) 0
  leBytes (w * cs.length / 8) v

def words32 (bs : List Byte) : List Nat := (bytesWords bs).map (·.toNat)

/-- A tile from its image. -/
def Tile.ofBytes (f : Fmt) (bs : List Byte) : Tile :=
  let w := f.width
  let rows := (List.range 128).flatMap fun i => unpackRow w 128 ((bs.drop (16 * w * i)).take (16 * w))
  let tail := bs.drop (2048 * w)
  ⟨rows.toArray, (words32 (tail.take 512)).toArray, (words32 ((tail.drop 512).take 512)).toArray,
    ((tail.drop 1024).take 512).toArray.map (·.toNat)⟩

def Tile.bytes (f : Fmt) (t : Tile) : List Byte :=
  ((List.range 128).flatMap fun i => packRow f.width ((List.range 128).map fun j => t.elems.getD (128 * i + j) 0))
    ++ t.col.toList.flatMap (leBytes 4) ++ t.row.toList.flatMap (leBytes 4)
    ++ (if f.scale = 0 then [] else (List.range 512).map fun k => BitVec.ofNat 8 (t.scales.getD k 0))

/-- The scale of element (i, j) (Table 6-6, R28). -/
def Tile.scale (f : Fmt) (t : Tile) (i j : Nat) : Option (Val × Flags) :=
  match f.scale with
  | 1 => some (scaleValue (t.scales.getD (4 * i + j / 32) 0), 0)
  | 2 => some (Fmt.fp32.value (leNat ((List.range 4).map fun k => BitVec.ofNat 8 (t.scales.getD (4 * i + k) 0))), 0)
  | _ => none

/-- The value of element (i, j) with its scale (R24, R28, R44). -/
def Tile.value (f : Fmt) (t : Tile) (i j : Nat) : Val :=
  (scaledValue f f.isInt (t.scale f i j) (t.elems.getD (128 * i + j) 0)).1

/-- Sums of this format are INT32 (R120). -/
def intSums (f : Fmt) : Bool := f.isInt && f.bias == 0 && f.scale == 0

/-- A generated sum: an exact integer modulo 2^32, or a chain of FP32 additions under RNE from +0 (R44). -/
def lineSum (f : Fmt) (vs : List Val) : Nat :=
  if intSums f then toBits 32 (vs.foldl (fun a v => a + v.scaled 0) 0)
  else vs.foldl (fun c v => (Fmt.fp32.store 0 false 0 (Val.sum 0 [Fmt.fp32.value c, v]).1).1) 0

def Tile.rowValues (f : Fmt) (t : Tile) (i : Nat) : List Val := (List.range 128).map fun j => t.value f i j
def Tile.colValues (f : Fmt) (t : Tile) (j : Nat) : List Val := (List.range 128).map fun i => t.value f i j

/-- The tile with regenerated sums (R44, R123). -/
def Tile.summed (f : Fmt) (t : Tile) : Tile :=
  { t with
    col := ((List.range 128).map fun j => lineSum f (t.colValues f j)).toArray
    row := ((List.range 128).map fun i => lineSum f (t.rowValues f i)).toArray }

/-- Does a line pass against its stored sum (R43, R44)? -/
def linePass (f : Fmt) (vs : List Val) (stored : Nat) : Bool :=
  if intSums f then toBits 32 (vs.foldl (fun a v => a + v.scaled 0) 0) == stored
  else
    let t := (Val.sum 0 vs).1
    let c := Fmt.fp32.value stored
    if t.isFinite && c.isFinite then
      let m := (Val.sum 0 (vs.map Val.abs)).1
      if m.isZero then t.eqv c
      else within ((Val.mul (.fin false 130 (-24)) m).1) t c
    else (t.isNan && c.isNan) || (t.isInf && c.isInf && t.neg? == c.neg?)

def Tile.rowPass (f : Fmt) (t : Tile) (i : Nat) : Bool := linePass f (t.rowValues f i) (t.row.getD i 0)
def Tile.colPass (f : Fmt) (t : Tile) (j : Nat) : Bool := linePass f (t.colValues f j) (t.col.getD j 0)

/-- The finite code whose scaled value is nearest to a value, by RNE (R122). -/
def nearestCode (f : Fmt) (scale : Option Val) (x : Val) : Option Nat :=
  let y : Option (Val × Bool) := match scale with
    | none => some (x, false)
    | some s => if s.isFinite && !s.isZero then (let (v, st, _) := divVal x s; some (v, st)) else none
  y.bind fun q => if q.1.isFinite then some (f.store 0 true 0 q.1 q.2).1 else none

/-- The corrected tile of R122's third row, if the correction passes. -/
def Tile.correct (f : Fmt) (t : Tile) (r c : Nat) : Option Tile :=
  let others := ((List.range 128).filter (· != c)).map fun j => t.value f r j
  let code : Option Nat :=
    if intSums f then
      some (f.store 0 true 0 (Val.ofInt (toSigned 32 (toBits 32 (toSigned 32 (t.row.getD r 0) - others.foldl (fun a v => a + v.scaled 0) 0))))).1
    else
      let stored := Fmt.fp32.value (t.row.getD r 0)
      if stored.isFinite && others.all Val.isFinite then
        nearestCode f ((t.scale f r c).map (·.1)) (Val.sum 0 (stored :: others.map Val.negate)).1
      else none
  code.bind fun k =>
    let t' := { t with elems := t.elems.setIfInBounds (128 * r + c) k }
    if t'.rowPass f r && t'.colPass f c then some t' else none

/-- The outcome of one verification (R122): the tile to use and whether an event is counted, or a failure. -/
def Tile.verify (f : Fmt) (t : Tile) : Option (Tile × Bool) :=
  let rows := (List.range 128).filter fun i => !t.rowPass f i
  let cols := (List.range 128).filter fun j => !t.colPass f j
  match rows, cols with
  | [], [] => some (t, false)
  | [_], [] | [], [_] => some (t, true)
  | [r], [c] => (t.correct f r c).map (·, true)
  | _, _ => none

/-! ## In a tile register (R121) -/

/-- The legal offsets BO of a format (R121). -/
def boOk (f : Fmt) (bo : Nat) : Bool := decide (32 * bo + 16 * f.lane ≤ if f.scale = 0 then 512 else 480)

/-- Row i of a tile as one write of a register row: elements, then the row's scale bytes (R121). -/
def Tile.rowWrite (f : Fmt) (t : Tile) (bo i : Nat) : Nat × Nat :=
  let l := f.lane
  let put (acc : Nat × Nat) (lo n v : Nat) : Nat × Nat := (acc.1 + v % 2 ^ n * 2 ^ lo, acc.2 + (2 ^ n - 1) * 2 ^ lo)
  let acc := (List.range 128).foldl (fun acc j => put acc (256 * bo + l * j) l (t.elems.getD (128 * i + j) 0 % 2 ^ f.width)) (0, 0)
  let sc (k : Nat) : Nat := t.scales.getD (4 * i + k) 0
  match f.scale with
  | 1 => (List.range 4).foldl (fun acc b => put acc (8 * (480 + 256 * bo / l / 32 + b)) 8 (sc b)) acc
  | 2 => (List.range 4).foldl (fun acc k => put acc (8 * (508 + k)) 8 (sc k)) acc
  | _ => acc

/-- The writes of a tile into T[n]. -/
def Tile.writes (f : Fmt) (t : Tile) (n bo : Nat) : List RegWrite :=
  (List.range 128).map fun i =>
    let (v, m) := t.rowWrite f bo i
    .t n i (BitVec.ofNat 4096 v) (BitVec.ofNat 4096 m)

/-- The tile that a register holds at BO, its sums not yet formed (R121, R123). -/
def Core.tileAt (c : Core) (f : Fmt) (n bo : Nat) : Tile :=
  let l := f.lane
  let rows := (List.range 128).map fun i => (c.rt n i).toNat
  let sc (v k : Nat) : Nat := match f.scale with
    | 1 => field v (8 * (480 + 256 * bo / l / 32 + k)) 8
    | 2 => field v (8 * (508 + k)) 8
    | _ => 0
  ⟨(rows.flatMap fun v => (List.range 128).map fun j => field v (256 * bo + l * j) l % 2 ^ f.width).toArray, #[], #[],
    (rows.flatMap fun v => (List.range 4).map (sc v)).toArray⟩

end Sys2Proof.Machine
end

