-- ==== Sys2Proof/Machine/Memory.lean ====
section
/-! DEFINITION. The meanings of the loads and stores (R108–R125), with what a load's landing does (R69, R122). -/

namespace Sys2Proof.Machine

/-! ## Loads -/

/-- What a store of the core writes to a byte of a place. -/
def OwnStore.byte? (st : OwnStore) (l : Loc) : Option Byte :=
  if st.loc.peer = l.peer ∧ st.loc.pa ≤ l.pa then (st.bytes[l.pa - st.loc.pa]?).join else none

/-- The latest bytes that the core's own stores of this phase left over a piece (R110); empty where there are none. -/
def Core.ownBytes (c : Core) (l : Loc) (n : Nat) : List (Option Byte) :=
  let hit := c.stores.filter fun st => st.loc.peer == l.peer && overlaps l.pa n st.loc.pa st.bytes.length
  if hit.isEmpty then [] else
  (List.range n).map fun k => (hit.filterMap (·.byte? ⟨l.peer, l.pa + k⟩)).getLast?

/-- One piece of a load of a scope, `dst` its byte offset in the destination: a scratch piece is read at once (R244). -/
def State.loadPart (s : State) (scope : Nat) (p : Piece) (dst : Nat) : LoadPart × State :=
  if p.scratch then
    let s := s.poisonRead p.loc.pa p.size
    (⟨p.va, p.loc, p.size, dst, (s.mem.readN p.loc.pa p.size).map some, none, false, true⟩, s)
  else (⟨p.va, p.loc, p.size, dst, s.core.ownBytes p.loc p.size, none, p.cached && scope != 4, false⟩, s)

def State.loadParts (s : State) (scope : Nat) (ps : List (Piece × Nat)) : List LoadPart × State :=
  ps.foldl (fun (acc : List LoadPart × State) p =>
    let (l, s) := acc.2.loadPart scope p.1 p.2
    (acc.1 ++ [l], s)) ([], s)

/-- A load that has issued sends its READs to peers, if nothing of its core must be performed before (R110, R112, R237). -/
def State.asking (s : State) (l : LoadLanding) : LoadLanding × State :=
  if s.held s.core.phys l.seq || s.behindAtom s.core.phys l then (l, s)
  else let (ps, s) := s.sendReads s.core.phys l; ({ l with parts := ps }, s)

/-- A variable-latency load of checked pieces (R69): it lands when `land` issue cycles have passed. -/
def State.load (s : State) (dest : LoadDest) (land : Nat) (ps : List (Piece × Nat)) : State :=
  let s := s.settle
  let (parts, s) := s.loadParts s.scope ps
  let (l, s) := s.asking ⟨parts, dest, land, s.core.ctx.scope, s.core.pc, s.core.issued, s.core.phase, none⟩
  s.onCore fun c => { c with loads := c.loads ++ [l], issued := c.issued + 1 }

/-- Pieces with their own offsets as destinations. -/
def inPlace (ps : List Piece) : List (Piece × Nat) := ps.map fun p => (p, p.off)

/-- A scalar load of `n` bytes (R114). -/
def State.loadS (s : State) (d a land : Nat) (off : Int) (n : Nat) (sx : Bool) : Out :=
  .next (s.checked (s.checkWord .read s.scope (s.eaM a off) n) fun ps => s.load (.s d n sx) land (inPlace ps))

def execLdb (d a land : Nat) (off : Int) (s : State) : Out := s.loadS d a land off 1 false
def execLdbs (d a land : Nat) (off : Int) (s : State) : Out := s.loadS d a land off 1 true
def execLdh (d a land : Nat) (off : Int) (s : State) : Out := s.loadS d a land off 2 false
def execLdhs (d a land : Nat) (off : Int) (s : State) : Out := s.loadS d a land off 2 true
def execLdw (d a land : Nat) (off : Int) (s : State) : Out := s.loadS d a land off 4 false
def execLdws (d a land : Nat) (off : Int) (s : State) : Out := s.loadS d a land off 4 true
def execLdd (d a land : Nat) (off : Int) (s : State) : Out := s.loadS d a land off 8 false

def execVld (d a land : Nat) (off : Int) (s : State) : Out :=
  .next (s.checked (s.check .read s.scope (s.eaM a off) 512 64) fun ps => s.load (.v d) land (inPlace ps))

/-! ## Stores -/

/-- One piece of a store in the order of its elements: where it goes, whether to the scratch segment, and its bytes. -/
structure Stored where
  va : Nat
  loc : Loc
  scratch : Bool
  bytes : List (Option Byte)
  deriving DecidableEq, Repr

/-- Bytes of a later element over those of an earlier one at `k` bytes from the start. -/
def placeOver (old : List (Option Byte)) (k : Nat) (new : List (Option Byte)) : List (Option Byte) :=
  (List.range (max old.length (k + new.length))).map fun i =>
    ((if k ≤ i then (new[i - k]?).join else none)).or ((old[i]?).join)

/-- Two pieces within one aligned 64-byte unit as one, the second over the first (R233). -/
def Stored.join (a b : Stored) : Option Stored :=
  let lo := if a.loc.pa ≤ b.loc.pa then a else b
  if a.loc.peer ≠ b.loc.peer ∨ a.scratch ≠ b.scratch ∨ a.loc.pa / 64 ≠ b.loc.pa / 64 then none
  else
    let old := if a.loc.pa ≤ b.loc.pa then a.bytes else List.replicate (a.loc.pa - b.loc.pa) none ++ a.bytes
    some ⟨lo.va, lo.loc, a.scratch, placeOver old (b.loc.pa - lo.loc.pa) b.bytes⟩

/-- Add a piece to those of its instruction: each unit is one write (R233). -/
def addStored (x : Stored) : List Stored → List Stored
  | [] => [x]
  | y :: r => match y.join x with
    | some z => z :: r
    | none => y :: addStored x r

/-- The runs of a list of bytes without gaps, each with its place. -/
def byteRuns (off : Nat) : List (Option Byte) → List (Nat × List Byte)
  | [] => []
  | none :: r => byteRuns (off + 1) r
  | some b :: r => match byteRuns (off + 1) r with
    | (k, bs) :: rest => if k = off + 1 then (off, b :: bs) :: rest else (off, [b]) :: (k, bs) :: rest
    | [] => [(off, [b])]

/-- What a unit sends: to a peer one message for each run of bytes, since a WRITE has no gaps (R295). -/
def Stored.messages (x : Stored) : List Stored :=
  if x.loc.peer.isNone then [x]
  else (byteRuns 0 x.bytes).map fun r => ⟨x.va + r.1, ⟨x.loc.peer, x.loc.pa + r.1⟩, x.scratch, r.2.map some⟩

/-- One write of a store: scratch at once, where no evaluation follows it (R197, R244), elsewhere unpublished with its scope and
channel (R111). -/
def State.putPiece (s : State) (chn : Nat) (whole : Bool) (p : Stored) : State :=
  if p.scratch then s.put p.loc.pa (laidOver (s.mem.readN p.loc.pa p.bytes.length) p.bytes) whole
  else s.onCore fun c => { c with stores := c.stores ++ [⟨p.va, p.loc, p.bytes, c.ctx.scope, chn, whole⟩] }

/-- Do the pieces of an instruction cover the 256-byte block of one of them (R392)? -/
def wholeBlock (ws : List Stored) (p : Stored) : Bool :=
  (ws.filter fun q => q.loc.peer == p.loc.peer && q.loc.pa / 256 == p.loc.pa / 256 && q.bytes.length == 64 && q.bytes.all (·.isSome)).length == 4

/-- The peers that pieces go to, with the number of messages for each (R295, R296). -/
def State.roomFor (s : State) (chn : Nat) (ps : List Stored) : LogRoom :=
  let peers := (ps.filterMap fun p => p.loc.peer).eraseDups
  peers.foldl (fun acc d =>
    match acc with
    | .trap t => .trap t
    | _ => match s.logRoom d chn (ps.filter fun p => p.loc.peer == some d).length with
      | .room => acc
      | r => r) .room

/-- Store items: byte addresses with their bytes, in order, each aligned to `align`. -/
def State.putItems (s : State) (chn : Nat) (items : List (Nat × List Byte)) (align : Nat) : State :=
    let r := items.foldl (fun (acc : Checked × List (Piece × List Byte)) it =>
      match acc.1 with
      | .trap t => (.trap t, [])
      | _ => match s.check .write s.scope it.1 it.2.length align with
        | .trap t => (.trap t, [])
        | .freeze f => (match acc.1 with
          | .ok _ => .freeze f
          | other => other, acc.2)
        | .ok ps => (acc.1, acc.2 ++ ps.map fun p => (p, (it.2.drop p.off).take p.size))) (Checked.ok [], [])
    s.checked r.1 fun _ =>
      let ws := (r.2.foldl (fun ws p => addStored ⟨p.1.va, p.1.loc, p.1.scratch, p.2.map some⟩ ws) []).flatMap (·.messages)
      match s.roomFor chn ws with
      | .trap t => s.takeTrap t
      | .wait => s.freeze .log
      | .room => ws.foldl (fun s p => s.putPiece chn (wholeBlock ws p) p) s.settle

/-- A store; a group refuses it (R113). -/
def State.storeItems (s : State) (chn : Nat) (items : List (Nat × List Byte)) (align : Nat) : State :=
  if s.inGroup then s.refuse .groupViolation else s.putItems chn items align

def State.storeS (s : State) (d a chn : Nat) (off : Int) (n : Nat) : Out :=
  .next (s.storeItems chn [(s.eaM a off, leBytes n (s.rs d).toNat)] n)

def execStb (d a chn : Nat) (off : Int) (s : State) : Out := s.storeS d a chn off 1
def execSth (d a chn : Nat) (off : Int) (s : State) : Out := s.storeS d a chn off 2
def execStw (d a chn : Nat) (off : Int) (s : State) : Out := s.storeS d a chn off 4
def execStd (d a chn : Nat) (off : Int) (s : State) : Out := s.storeS d a chn off 8

def execVst (d a chn : Nat) (off : Int) (s : State) : Out :=
  .next (s.storeItems chn [(s.eaM a off, leBytes 512 (s.core.rv d).toNat)] 64)

/-! ## Stream patterns (R116–R118) -/

/-- The fields of a pattern record (Table 6-3). -/
structure Pattern where
  base : Nat
  ibase : Nat
  sd : List Int
  ext : List Nat
  lim : List Nat
  org : List Int
  pos : Nat
  esz : Nat
  ind : Bool

def Pattern.of (x : BitVec 512) : Pattern :=
  let v := x.toNat
  let b (lo n : Nat) : Nat := field v (8 * lo) (8 * n)
  { base := b 0 8, ibase := b 8 8
    sd := (List.range 4).map fun d => toSigned 32 (b (16 + 4 * d) 4)
    ext := (List.range 4).map fun d => max 1 (b (32 + 2 * d) 2)
    lim := (List.range 4).map fun d => b (40 + 2 * d) 2
    org := (List.range 4).map fun d => toSigned 16 (b (48 + 2 * d) 2)
    pos := b 56 4, esz := 2 ^ (field v 480 2), ind := field v 482 1 == 1 }

def Pattern.total (p : Pattern) : Nat := p.ext.foldl (· * ·) 1

/-- The coordinates t of linear position q. -/
def Pattern.coords (p : Pattern) (q : Nat) : List Nat :=
  (p.ext.foldl (fun (acc : List Nat × Nat) e => (acc.1 ++ [acc.2 % e], acc.2 / e)) ([], q)).1

/-- The element number of lane i. -/
def Pattern.step (p : Pattern) (i : Nat) : Nat := (p.pos + i) % p.total

/-- The indirect table entry that lane i reads. -/
def Pattern.indirect (p : Pattern) (i : Nat) : Nat := (p.ibase + 4 * (p.coords (p.step i)).getD 1 0) % 2 ^ 64

/-- The address of lane i, given what its indirect entry holds (R118). -/
def Pattern.address (p : Pattern) (i : Nat) (entry : Int) (o : Int) : Nat :=
  let t := p.coords (p.step i)
  let c := (List.range 4).map fun d => p.org.getD d 0 + (t.getD d 0 : Int)
  let c := if p.ind then c.set 1 (p.org.getD 1 0 + entry) else c
  let c := (List.range 4).map fun d =>
    let l := p.lim.getD d 0
    if l ≠ 0 then min (max (c.getD d 0) 0) ((l : Int) - 1) else c.getD d 0
  toBits 64 ((List.range 4).foldl (fun a d => a + c.getD d 0 * p.sd.getD d 0) ((p.base : Int) + o))

/-- The record with POS advanced by n elements. -/
def Pattern.advance (p : Pattern) (x : BitVec 512) (n : Nat) : BitVec 512 :=
  BitVec.ofNat 512 (setField x.toNat 448 32 ((p.pos + n) % p.total))

/-- Bytes read at issue through a scope (R111, R118), in order with what the core has issued before (R110): the bytes, or what must
come first, an atomic to those bytes or READs to peers. -/
def State.readNow (s : State) (scope : Nat) (p : Piece) : (List Byte ⊕ Freeze) × State :=
  let s := s.performOwn s.core.phys s.core.issued
  let c := s.core
  let asked : LoadLanding := ⟨[⟨p.va, p.loc, p.size, 0, [], none, false, false⟩], .s 0 0 false, 0, scope, c.pc, c.issued, c.phase, none⟩
  let cached := p.cached && scope != 4
  let laid (bs : List Byte) : List Byte := overlay (c.ownBytes p.loc p.size) bs
  if p.scratch then (.inl (s.mem.readN p.loc.pa p.size), s.poisonRead p.loc.pa p.size)
  else if s.behindAtom c.phys asked then (.inr .order, s)
  else match p.loc.peer with
    | none =>
      match s.pieceBytes c.phys { asked with parts := [] } ⟨p.va, p.loc, p.size, 0, [], none, false, false⟩ with
      | some (bs, s) => (.inl (laid bs), s)
      | none => (.inl [], s)
    | some d =>
      let want : Nat × Nat × Nat := if cached then (d, p.loc.pa / 64 * 64, 64) else (d, p.loc.pa, p.size)
      let line := if cached then bankGet [] c.snap (lineKey p.loc) else []
      if line ≠ [] then (.inl (laid ((line.drop (p.loc.pa % 64)).take p.size)), s)
      else match (s.issueRead c.phys want.1 want.2.1 want.2.2).bind (·.data) with
        | some bs =>
          if cached then
            (.inl (laid ((bs.drop (p.loc.pa % 64)).take p.size)), s.fillLine c.phys (lineKey p.loc) p.va bs)
          else (.inl (laid bs), s)
        | none => (.inr (.reads [(want.1, want.2.1, want.2.2, p.va)]), s)

/-- Go on once everything that the core issued before has its value or has been performed (R110, R237). -/
def State.inOrder (s : State) (k : State → State) : State :=
  let s := s.finishOwn
  if s.mustWait then s.freeze .order else k s

/-- Go on once the core owes nothing, so that what it publishes now can be performed at once (R133, R191). -/
def State.inFull (s : State) (k : State → State) : State :=
  let s := s.finishOwn
  if s.owing then s.freeze .publish else k s

/-- What resolving the addresses of a pattern answers (R118). -/
inductive Resolved where
  | ok (addrs : List Nat) (s : State)
  | trap (t : Trap)
  | freeze (f : Freeze)

/-- The addresses of every lane, with the indirect reads made (R118). -/
def State.resolve (s : State) (p : Pattern) (n : Nat) : Resolved :=
  let o := s.core.ctx.off + s.core.fusedOff
  let s := s.settle.fixLoads s.core.phys
  if p.ind && s.mustWait then .freeze .order
  else (List.range n).foldl (fun acc i =>
    match acc with
    | .trap t => .trap t
    | .freeze f => .freeze f
    | .ok as s =>
      if p.ind then
        match s.checkWord .read s.scope (p.indirect i) 4 with
        | .trap t => .trap t
        | .freeze f => .freeze f
        | .ok ps =>
          match ps with
          | [q] => match s.readNow s.scope q with
            | (.inl bs, s) => .ok (as ++ [p.address i (toSigned 32 (leNat bs)) o]) s
            | (.inr w, _) => .freeze w
          | _ => .ok (as ++ [p.address i 0 o]) s
      else .ok (as ++ [p.address i 0 o]) s) (Resolved.ok [] s)

/-- Pieces of a list of equal reads, each placed in its lane. Of lanes that fail differently the lowest gives the trap and its
address: DESIGN CHOICE (log entry 78). -/
def State.checkList (s : State) (a : Access) (items : List (Nat × Nat)) (n : Nat) : Checked × List (Piece × Nat) :=
  items.foldl (fun (acc : Checked × List (Piece × Nat)) it =>
    match acc.1 with
    | .trap t => (.trap t, [])
    | _ => match s.check a s.scope it.1 n n with
      | .trap t => (.trap t, [])
      | .freeze f => (match acc.1 with
        | .ok _ => .freeze f
        | other => other, acc.2)
      | .ok ps => (acc.1, acc.2 ++ ps.map fun p => (p, it.2 + p.off))) (Checked.ok [], [])

/-- POS advances at issue (R117), so that the next op word to use the register continues from the new position, in the same
bundle too; a VLDP.set that lands later replaces the whole record. -/
def State.advancePat (s : State) (pt : Nat) (p : Pattern) : State :=
  s.onCore fun c => c.write (.pat pt (p.advance (s.core.rpat pt) (512 / p.esz)))

def execVldp (land pt d : Nat) (s : State) : Out :=
  let p := Pattern.of (s.core.rpat pt)
  .next <| match s.resolve p (512 / p.esz) with
  | .trap t => s.takeTrap t
  | .freeze f => s.freeze f
  | .ok as s =>
    let (r, ps) := s.checkList .read (as.zipIdx.map fun x => (x.1, p.esz * x.2)) p.esz
    s.checked r fun _ => (s.load (.v d) land ps).advancePat pt p

def execVldpSet (land pt a : Nat) (s : State) : Out :=
  .next (s.checked (s.check .read s.scope (s.eaM a 0) 64 64) fun ps => s.load (.pat pt) land (inPlace ps))

def execVstp (chn pt d : Nat) (s : State) : Out :=
  let p := Pattern.of (s.core.rpat pt)
  let v := (s.core.rv d).toNat
  .next <| if s.inGroup then s.refuse .groupViolation
  else match s.resolve p (512 / p.esz) with
  | .trap t => s.takeTrap t
  | .freeze f => s.freeze f
  | .ok as s =>
    let t := s.storeItems chn (as.zipIdx.map fun x => (x.1, leBytes p.esz (field v (8 * p.esz * x.2) (8 * p.esz)))) p.esz
    if t.trapTaken.isSome || t.core.frozen.isSome then t else t.advancePat pt p

def execVstpSave (pt a : Nat) (s : State) : Out :=
  .next (s.storeItems 0 [(s.eaM a 0, leBytes 64 (s.core.rpat pt).toNat)] 64)

/-! ## Gather and scatter (R119) -/

/-- The elements of a gather or scatter: address of each active element and its number. -/
def State.indexed (s : State) (esz ix a px : Nat) : List (Nat × Nat) :=
  let n := if esz = 3 then 64 else 128
  let v := (s.core.rv ix).toNat
  let p := (s.core.rp px).toNat
  ((List.range n).filter (hasBit p)).map fun i => (s.eaM a ((field v (32 * i) 32 * 2 ^ esz : Nat) : Int), i)

def execVgth (esz ix a d land px : Nat) (s : State) : Out :=
  let (r, ps) := s.checkList .read ((s.indexed esz ix a px).map fun x => (x.1, 2 ^ esz * x.2)) (2 ^ esz)
  .next (s.checked r fun _ => s.load (.v d) land ps)

def execVsct (esz ix a d px chn : Nat) (s : State) : Out :=
  let v := (s.core.rv d).toNat
  .next (s.storeItems chn ((s.indexed esz ix a px).map fun x => (x.1, leBytes (2 ^ esz) (field v (8 * 2 ^ esz * x.2) (8 * 2 ^ esz)))) (2 ^ esz))

/-! ## Checksummed tiles (R120–R123) -/

def execTld (bo t f a land : Nat) (s : State) : Out :=
  let fm := s.core.rfmt f
  .next <| if s.inGroup then s.refuse .groupViolation
  else if !boOk fm bo then s.refuse .illegal
  else s.checked (s.check .read s.scope (s.eaM a 0) (tileSize fm) 64) fun ps =>
    s.load (.tile t bo (s.core.rf f).toNat false) land (inPlace ps)

def execTst (bo t f a chn : Nat) (s : State) : Out :=
  let fm := s.core.rfmt f
  .next <| if s.inGroup then s.refuse .groupViolation
  else if !boOk fm bo then s.refuse .illegal
  else s.storeItems chn [(s.eaM a 0, ((s.core.tileAt fm t bo).summed fm).bytes fm)] 64

/-- The bytes of a load's pieces as their home slices hold them now (R122). -/
def State.reread (s : State) (l : LoadLanding) : List Byte := l.parts.flatMap fun p => s.mem.readN p.loc.pa p.size

/-- A tile load that is due and whose image does not verify reads the whole image once more from its home slices (R122): at once
from this device's, by new READs from a peer's. -/
def State.tileAgain (s : State) (l : LoadLanding) : LoadLanding :=
  match l.dest, l.data with
  | .tile t bo f false, some bs =>
    if l.left ≠ 0 ∨ ((Tile.ofBytes (Fmt.ofWord f) bs).verify (Fmt.ofWord f)).isSome then l
    else if l.parts.any (·.loc.peer.isSome) then
      { l with dest := .tile t bo f true, data := none, parts := l.parts.map fun p => { p with tag := none, cached := false, own := [] } }
    else { l with dest := .tile t bo f true, data := some (s.reread l) }
  | _, _ => l

def State.rereadTiles (s : State) : State := s.onCore fun c => { c with loads := c.loads.map s.tileAgain }

/-- What a tile load writes when it lands, or its trap (R122). Corrections and confined mismatches count as events of the
channel that holds the tile. -/
def State.landTile (s : State) (l : LoadLanding) (t bo : Nat) (f : Fmt) : List RegWrite × Option Trap × State :=
  match (Tile.ofBytes f (l.data.getD [])).verify f with
  | some x => (x.1.writes f t bo, none, if x.2 then s.countTile (l.parts.head?.map (·.loc)) else s)
  | none => ([], some { no := .tileUnrecoverable, named := some l.pc }, s)

/-- A bundle boundary of the acting core: everything due lands, tiles verified (R68–R70, R122). Every due load has its
data. -/
def State.landNow (s : State) : State :=
  let due := s.core.loads.filter fun l => l.left == 0
  let (tiles, trap, s) := due.foldl (fun (acc : List (Nat × List RegWrite) × Option Trap × State) l =>
    match l.dest with
    | .tile t bo f _ =>
      let (ws, tr, s) := acc.2.2.landTile l t bo (Fmt.ofWord f)
      (acc.1 ++ [(l.seq, ws)], if acc.2.1.isSome then acc.2.1 else tr, s)
    | _ => acc) ([], none, s)
  s.onCore fun c =>
    let c := c.landDue fun _ l _ => ((tiles.find? (·.1 == l.seq)).map (·.2)).getD []
    { c with landTrap := if c.landTrap.isSome then c.landTrap else trap }

/-! ## Prefetch and scratch pins (R124, R125) -/

/-- PRF changes no value that any load can return and raises no trap: only the pc advances (R124). -/
def execPrf (_cnt _a _lv : Nat) (_off : Int) (s : State) : Out := .next s

/-- The scratch pages that SPIN and SPREL name (R125). Nothing is translated: a page is named by its number (log entry 71). -/
def State.pagesAt (s : State) (n a : Nat) : List Nat :=
  let first := va52 (s.eaM a 0) / 2 ^ 16 * 2 ^ 16
  ((List.range (n + 1)).map fun k => first + k * 2 ^ 16).filterMap fun va =>
    if s.core.inScratch va then some (pageKey s.core.part va) else none

def State.pinCount (s : State) : Nat := (s.pages.filter fun p => p.2.1 == s.core.phys && p.2.2).length

/-- The pages of a core's scratchpad (Table 1-2). -/
def scratchPages : Nat := 32

/-- Room in a core's scratchpad for one page more: where it is full, an unpinned page that the implementation chooses is written
back (R11, R108). A bundle that names more pages than its core can hold at once is refilled for ever: DESIGN CHOICE (log entry 82). -/
def State.makeRoom (s : State) (n page : Nat) : State :=
  let mine := s.pages.filter fun p => p.2.1 == n && p.1 != page
  if mine.length < scratchPages then s
  else
    let free := mine.filter fun p => !p.2.2
    match free[Config.evicted s.fresh % free.length]? with
    | some p => { s with pages := s.pages.filter (·.1 != p.1), fresh := s.fresh + 1 }
    | none => s

/-- An effective address that no access needs to translate must still be canonical (R108). -/
def State.canonicalThen (s : State) (ea : Nat) (k : State → State) : Out :=
  .next (if canonical ea then k s else s.takeTrap { no := .page, addr := ea })

/-- SPIN (R125): the page is named and pinned without a translation, so that an unmapped page raises nothing here (log entry 71). -/
def execSpin (n a : Nat) (s : State) : Out :=
  s.canonicalThen (s.eaM a 0) fun s => (s.pagesAt n a).foldl (fun s k =>
    let pinned := (bankGet (s.core.phys + 1, false) s.pages k) == (s.core.phys, true)
    let pin := pinned || decide (s.pinCount < 28)
    let s := s.makeRoom s.core.phys k
    { s with pages := bankPut s.pages k (s.core.phys, pin) }) s

def execSprel (n a : Nat) (s : State) : Out :=
  s.canonicalThen (s.eaM a 0) fun s => (s.pagesAt n a).foldl (fun s k =>
    if (bankGet (s.core.phys + 1, false) s.pages k).1 = s.core.phys then
      { s with pages := bankPut s.pages k (s.core.phys, false) } else s) s

/-! ## Landings and refills as steps of their own -/

/-- A fixed-latency result lands before its bound (R68). -/
def execResultLanding (k : Nat) (s : State) : Out := .next (s.onCore (·.landAt k))

/-- Data of load k returns (R69), that of earlier loads first (R110). When every due load has its data, the freeze
ends. -/
def execLoadDataReturn (k : Nat) (s : State) : Out :=
  let s := s.settle.fixLoadsTo s.core.phys k
  .next (if s.core.frozen = some .load ∧ s.core.dataReady then s.onCore fun c => { c with frozen := none } else s)

/-- Load k is due at this boundary (R69): with its data it is written; without, the core freezes. -/
def execLoadLanding (k : Nat) (s : State) : Out :=
  .next <| match s.core.loads[k]? with
  | some l =>
    if l.left ≠ 0 then s
    else
      let s := s.rereadTiles
      if s.core.dataReady then s.landNow else s.freeze .load
  | none => s

/-- The core that is frozen for a scratch page. -/
def State.frozenFor (s : State) (page : Nat) : Option Nat :=
  (s.allCores.find? fun c => match c.frozen with
    | some (.refill ps) => ps.contains page
    | _ => false).map (·.phys)

/-- The page becomes resident on the core that waits for it, and the freeze ends when it was the last (R108, R244). -/
def State.pageArrives (s : State) (n page : Nat) : State :=
  let s := s.makeRoom n page
  { s with pages := bankPut s.pages page (n, false) }.onCoreN n fun c => { c with
    frozen := match c.frozen with
      | some (.refill ps) => let ps := ps.filter (· != page); if ps.isEmpty then none else some (.refill ps)
      | f => f }

/-- The refill of an unpinned scratch page that is resident on no core (R108). -/
def execScratchPageRefill (page : Nat) (s : State) : Out :=
  .next <| match s.frozenFor page, s.pageHolder page with
  | some n, none => s.pageArrives n page
  | _, _ => s

/-- A scratch page moves from the core that holds it, where its pin ends, to the core that waits for it (R244). -/
def execScratchPageMove (page : Nat) (s : State) : Out :=
  .next <| match s.frozenFor page, s.pageHolder page with
  | some n, some _ => s.pageArrives n page
  | _, _ => s

end Sys2Proof.Machine
end

