-- ==== Sys2Proof/Machine/Atomics.lean ====
section
/-! DEFINITION. The meanings of the atomics, WAITA and WAKE (R126–R132), of the synchronisation instructions
(R134–R139, R225), and of what happens to an atomic on its way (R127, R129, R237, R308–R311). -/

namespace Sys2Proof.Machine

/-! ## Requests -/

/-- OP of an atomic or WAKE (Table 6-7, R131), which ATOMIC messages carry (Table 14-2). -/
def AtomOp.code : AtomOp → Nat
  | .add => 0x20 | .fadd => 0x21 | .xchg => 0x22 | .cas => 0x23 | .and => 0x24 | .or => 0x25 | .xor => 0x26
  | .min => 0x27 | .max => 0x28 | .minu => 0x29 | .maxu => 0x2A | .fmin => 0x2B | .fmax => 0x2C | .wake => 0x31

def AtomOp.ofCode (c : Nat) : Option AtomOp :=
  [AtomOp.add, .fadd, .xchg, .cas, .and, .or, .xor, .min, .max, .minu, .maxu, .fmin, .fmax, .wake].find? (·.code == c)

/-- The ATOMIC message of a request (Table 14-2). -/
def Atom.message (a : Atom) (src : Nat) : FabricMsg :=
  { blankMsg with
    kind := 4, dst := a.loc.peer.getD 0, src := src, seq := a.id, addr := a.loc.pa
    payload := leBytes 1 a.op.code ++ leBytes 1 (a.sz + (if a.ret then 0 else 2) + 4 * (if a.op = .fadd then a.mode else 0))
      ++ leBytes 6 0 ++ leBytes 8 a.b.toNat ++ leBytes 8 a.c.toNat }

/-- Issue an atomic or WAKE at an effective address (R113, R126–R128, R131): the checks, then the request is on its way;
a returning one waits for its reply as a load does (R69). The loads issued before it have their values (R110). -/
def State.issueAtom (s : State) (op : AtomOp) (sz : Nat) (ret : Bool) (d land ea : Nat) (b c : Word) : State :=
  if s.inGroup then s.refuse .groupViolation
  else s.checked (s.checkWord .atomic s.scope ea (if sz = 0 then 4 else 8)) fun ps =>
    let loc := ((ps.head?).map (·.loc)).getD ⟨none, 0⟩
    let s := (s.settle).fixLoads s.core.phys
    let id := s.nextAtom
    let k := s.core
    let a : Atom := {
      id := id, owner := .cont k.part k.cont, core := k.phys, part := k.part, task := k.task, op := op, sz := sz, loc := loc
      va := va52 ea, b := b, c := c, mode := k.ctx.rnd, ret := ret, fabric := loc.peer.isSome, pc := k.pc, seq := k.issued
      since := s.now, past := false, sent := false, queue := none, after := [], inRecord := none, old := none }
    let s := { s with atoms := s.atoms ++ [a], nextAtom := (id + 1) % 2 ^ 32 }
    s.onCore fun c => { c with
      issued := c.issued + 1
      loads := if ret then c.loads ++ [⟨[], .atomic d id, land, c.ctx.scope, c.pc, c.issued, c.phase, none⟩] else c.loads }

/-- An atomic of format AT (R126). -/
def State.atomic (s : State) (op : AtomOp) (o : AT) : Out :=
  .next (s.issueAtom op o.sz (o.nr == 0) o.d o.land (s.eaM o.a o.off) (s.rs o.b) (s.rs o.c))

def execAadd (o : AT) (s : State) : Out := s.atomic .add o
def execAfadd (o : AT) (s : State) : Out := s.atomic .fadd o
def execAxchg (o : AT) (s : State) : Out := s.atomic .xchg o
def execAcas (o : AT) (s : State) : Out := s.atomic .cas o
def execAand (o : AT) (s : State) : Out := s.atomic .and o
def execAor (o : AT) (s : State) : Out := s.atomic .or o
def execAxor (o : AT) (s : State) : Out := s.atomic .xor o
def execAmin (o : AT) (s : State) : Out := s.atomic .min o
def execAmax (o : AT) (s : State) : Out := s.atomic .max o
def execAminu (o : AT) (s : State) : Out := s.atomic .minu o
def execAmaxu (o : AT) (s : State) : Out := s.atomic .maxu o
def execAfmin (o : AT) (s : State) : Out := s.atomic .fmin o
def execAfmax (o : AT) (s : State) : Out := s.atomic .fmax o

/-- WAKE (R131): a write at the home slice that evaluates every waiter on the word. -/
def execWake (sz b a : Nat) (s : State) : Out :=
  .next (s.issueAtom .wake sz false 0 0 (s.eaM a 0) (s.rs b) 0)

/-! ## Waiting on an address (R130, R132) -/

/-- Register writes that the retirement of the acting bundle makes. -/
def State.atRetire (s : State) (ws : List RegWrite) : State := s.onCore fun c => { c with late := c.late ++ ws }

/-- Has the acting op word begun to wait? -/
def State.begun (s : State) : Bool := hasBit s.core.waited s.core.ctx.slot

/-- The value that a releasing evaluation has read for the acting op word, which it takes up. -/
def State.release? (s : State) : Option (Word × State) :=
  let k := s.core.ctx.slot
  (s.core.released.find? (·.1 == k)).map fun x =>
    (x.2, s.onCore fun c => { c with released := c.released.filter (·.1 != k) })

/-- The value of a watched word as a core reads it at its home slice: what is held on its path stands over it (R238). -/
def State.watchedFrom (s : State) (m : Monitor) : Word :=
  match m.who with
  | .core n _ | .test n _ => BitVec.ofNat 64 (leNat (s.seenN (Path.ofCore n (s.coreOf n).issued) m.pa m.size))
  | .record .. => s.watchedValue m

/-- WAITA (R130): registered with the home slice until an evaluation finds the word different. -/
def execWaita (sz a d b : Nat) (off : Int) (s : State) : Out :=
  let n := if sz = 0 then 4 else 8
  let cmp := BitVec.ofNat 64 ((s.rs b).toNat % 2 ^ (8 * n))
  .next <| if s.begun then
    match s.release? with
    | some (v, s) => s.atRetire [.s d v]
    | none => s.wait
  else s.checked (s.checkWord .watched s.scope (s.eaM a off) n) fun ps => s.inOrder fun s =>
    let pa := ((ps.head?).map (·.loc.pa)).getD 0
    let m : Monitor := ⟨.core s.core.phys s.core.ctx.slot, ((ps.head?).map (·.va)).getD 0, pa, n, cmp, false, false, false⟩
    let s := s.poisonRead pa n
    let v := s.watchedFrom m
    if m.met v then s.atRetire [.s d v] else (s.register s.core.part m).wait

/-- A fallen-back waiter reads its word again: an evaluation, and a new attempt to register (R132). -/
def execMonitorReread (k : Nat) (s : State) : Out :=
  .next <| match s.monitors[k]? with
  | some m =>
    if !m.fallen then s
    else
      let s := s.poisonRead m.pa m.size
      let v := s.watchedFrom m
      if m.met v then ({ s with monitors := s.monitors.erase m }).releaseWaiter m v
      else if s.tableFull m.pa then s
      else { s with monitors := s.monitors.map fun x => if x = m then { m with fallen := false } else x }
  | none => s

/-! ## Fences (R135) -/

/-- Is a published store visible at a scope (R135, R232)? -/
def PubStore.reached (p : PubStore) (scope : Nat) : Bool := p.atPoint && decide (scope ≤ p.scope) && decide (p.scope ≤ 2)

/-- The three conditions of FENCE at a scope above core (R135). -/
def State.fenced (s : State) (sc : Nat) : Bool :=
  let n := s.core.phys
  (s.atoms.all fun a => a.core != n || a.old.isSome)
    && (s.pubs.all fun p => p.core != n || p.reached sc)
    && (sc != 4 || s.egress.all fun w => !w.by n)
    && s.core.loads.all fun l => l.data.isSome || l.isAtomic

def execFence (sc : Nat) (s : State) : Out :=
  if sc = 0 then .next s
  else
    let s := s.fixLoads s.core.phys
    .next (if s.fenced sc then s else s.wait)

/-! ## Barriers (R136, R225, R226) -/

/-- Arrive at a barrier group for a logical core (R225): the generation recorded, unless both marks are set. -/
def Group.arrive (e : Group) (l : Nat) : Option (Group × Nat) :=
  if !hasBit e.arr l then some ({ e with arr := e.arr ||| 2 ^ l }, e.gen)
  else if !hasBit e.next l then some ({ e with next := e.next ||| 2 ^ l }, (e.gen + 1) % 2 ^ 30)
  else none

/-- BAR with a recorded generation waits for its completion; on release a new phase starts (R136). -/
def State.awaitGen (s : State) (g gen : Nat) : State :=
  let e := ((s.part? s.core.part).map (·.group g)).getD Group.unused
  if e.completed gen then (s.phaseStart 0).onCore fun c => { c with barWait := none }
  else s.wait

/-- BAR (R136): it publishes, and arrives once what it has published is at its home slices. -/
def execBar (g : Nat) (s : State) : Out :=
  .next <| match s.core.barWait with
  | some (g', gen) => s.awaitGen g' gen
  | none =>
    match s.part? s.core.part with
    | none => s.refuse .perm
    | some p =>
      let e := p.group g
      match p.logical s.core.phys with
      | none => s.refuse .perm
      | some l =>
        if e.kind ≠ 2 ∨ !hasBit e.members l then s.refuse .perm
        else
          let s := if s.begun then s.settle else (s.phaseStart 3).settle
          if s.core.unsettled then s.wait
          else match e.arrive l with
          | none => s.wait
          | some (e, gen) =>
            let s := s.onPart p.no fun p => { p with groups := bankSet Group.unused p.groups g e }.advance g
            (s.onCore fun c => { c with barWait := some (g, gen) }).awaitGen g gen

/-! ## Flags and rings (R137, R138) -/

def execFlset (f : Nat) (s : State) : Out := .next (s.result 1 [.fl f true])
def execFlclr (f : Nat) (s : State) : Out := .next (s.result 1 [.fl f false])
def execFlwait (f v : Nat) (s : State) : Out := .next (if s.core.flag f == (v == 1) then s else s.wait)

/-- The fields of CTL.SBn (Table 3-4). -/
structure SbWord where
  filled : Nat
  free : Nat
  slots : Nat
  size : Nat
  base : Nat

def SbWord.of (w : Word) : SbWord :=
  let v := w.toNat
  ⟨field v 55 9, field v 46 9, field v 38 8, 64 * (field v 32 6 + 1), field v 6 18⟩

/-- The descriptor with other counts. -/
def sbCounts (w : Word) (filled free : Nat) : Word := BitVec.ofNat 64 (setField (setField w.toNat 55 9 filled) 46 9 free)

/-- Change a ring of the core; the write counts for the written-since masks (R219). -/
def Core.setRing (c : Core) (n : Nat) (w : Word) (pos acq : Nat) : Core :=
  { c with
    sb := bankSet 0 c.sb n w, sbPos := bankSet 0 c.sbPos n pos, sbAcq := bankSet 0 c.sbAcq n acq
    written := { c.written with sb := c.written.sb ||| 2 ^ n } }

def execSbacq (d sb : Nat) (s : State) : Out :=
  let w := bankGet 0 s.core.sb sb
  let r := SbWord.of w
  let pos := bankGet 0 s.core.sbPos sb
  .next <| if r.slots = 0 then s.refuse .illegal
  else if r.filled = 0 then s.wait
  else
    (s.result 2 [.s d (BitVec.ofNat 64 (r.base * 64 + pos * r.size))]).onCore fun c =>
      c.setRing sb (sbCounts w (r.filled - 1) r.free) ((pos + 1) % r.slots) (bankGet 0 c.sbAcq sb + 1)

def execSbrel (sb : Nat) (s : State) : Out :=
  let w := bankGet 0 s.core.sb sb
  let r := SbWord.of w
  let acq := bankGet 0 s.core.sbAcq sb
  .next <| if acq = 0 then s.refuse .illegal
  else s.onCore fun c => c.setRing sb (sbCounts w r.filled (r.free + 1)) (bankGet 0 c.sbPos sb) (acq - 1)

/-! ## At the home slice (R127, R242) -/

/-- Does an earlier request of the same core over the same bytes stand before this one (R242)? -/
def State.behind (s : State) (a : Atom) : Bool :=
  s.atoms.any fun x => x.core == a.core && decide (x.seq < a.seq) && x.old.isNone && x.loc.peer == a.loc.peer
    && overlaps x.loc.pa x.size a.loc.pa a.size

/-- A request that stands alone is performed at its home slice, indivisibly; one to a peer leaves as an ATOMIC (R112,
R293). Either does so in its core's order (R110, R237, R242). -/
def execHomeSliceAtomic (k : Nat) (s : State) : Out :=
  .next <| match s.atoms[k]? with
  | none => s
  | some a =>
    if !a.alone || s.behind a || !s.mayGo a then s
    else match a.loc.peer with
      | none => ((s.aheadAtom a).foldl State.finish s).performAtom a
      | some _ =>
        if !(s.queuedAhead a).isEmpty then s else
        let s : State := { s with atoms := s.atoms.map fun x => if x.id = a.id then { x with sent := true } else x }
        (s.countAccess a.part a.va).send (a.message s.devId)

/-- An atomic or WAKE that a peer has sent arrives (R293). It passes the combining stages from the hub (Table 14-5), is performed at
its home slice and then answered. -/
def execAtomic (m : FabricMsg) (s : State) : Out :=
  .next <| s.arriving m 4 fun s =>
    match AtomOp.ofCode (leNat (m.payload.take 1)) with
    | none => s.countDrop
    | some op =>
      let b := leNat ((m.payload.drop 1).take 1)
      let word (k : Nat) : Word := BitVec.ofNat 64 (leNat ((m.payload.drop k).take 8))
      let a : Atom := {
        id := s.nextAtom, owner := .peer m.src m.seq, core := 65536, part := 65536, task := 0, op := op, sz := field b 0 1, loc := ⟨none, m.addr⟩
        va := 0, b := word 8, c := word 16, mode := field b 2 3, ret := field b 1 1 == 0, fabric := true, pc := 0, seq := 0
        since := s.now, past := false, sent := false, queue := none, after := [], inRecord := none, old := none }
      { s with atoms := s.atoms ++ [a], nextAtom := (s.nextAtom + 1) % 2 ^ 32 }

/-! ## Replies (R129) and timeouts (R311) -/

/-- A reply reaches a record that was written back with it pending: its resume block takes it, and after the last one
the record becomes ready (R129). -/
def State.replyToSaved (s : State) (part rec : Nat) (id : Nat) (v : Word) : State :=
  match (s.savedOf part rec).bind (·.resume) with
  | none => s
  | some r =>
    let r' : Resume := { r with
      loads := r.loads.map (·.answered id v)
      pending := r.pending.filter (·.1 != id) }
    let freed := ((s.savedOf part rec).map (·.freed)).getD false
    let s := s.onSaved part rec fun x => { x with resume := some r', group := x.group.map fun g => (g.1, g.2.answered id v) }
    if r'.pending.isEmpty && (freed || field (s.recState part rec) 0 6 == 16 * 3 + 3) then
      (s.onSaved part rec fun x => { x with freed := false }).readyRec part rec
    else s

/-- A reply with the old value reaches its requester. -/
def State.deliverReply (s : State) (a : Atom) (v : Word) : State :=
  let s := { s with atoms := s.atoms.filter (·.id != a.id) }
  match a.owner with
  | .cont part rec =>
    match s.runner part rec with
    | some n => s.onCoreN n fun c =>
      let c := c.answered a.id v
      if c.frozen = some .load ∧ c.dataReady then { c with frozen := none } else c
    | none => s.replyToSaved part rec a.id v
  | _ => s

/-- An atomic's reply arrives: from a home slice of this device, or in an ATOMIC_REPLY with its flags (R35, R129). After the
cut of a quiesce it is dropped (R401). -/
def execAtomicReply (k : Nat) (reply : Option FabricMsg) (s : State) : Out :=
  .next <| match reply with
  | some m => s.arriving m 5 fun s =>
    match s.atoms.find? fun a => a.id == m.seq && a.loc.peer == some m.src && a.sent && a.old.isNone with
    | none => s
    | some a =>
      let v := BitVec.ofNat 64 (leNat (m.payload.take 8))
      let f : Flags := BitVec.ofNat 6 (leNat ((m.payload.drop 8).take 1))
      match a.owner with
      | .cont part rec => if ((s.part? part).map (·.cut)).getD false then s else (s.flagsTo part rec f).deliverReply a v
      | .job .. => { s with atoms := s.atoms.filter (·.id != a.id) }
      | _ => { s with atoms := s.atoms.map fun x => if x.id = a.id then { x with old := some (v, f) } else x }
  | none =>
    match s.atoms[k]? with
    | some a => match a.owner, a.old with
      | .cont part _, some (v, _) => if ((s.part? part).map (·.cut)).getD false then s else s.deliverReply a v
      | _, _ => s
    | none => s

/-- Is it a release timeout that the management core may set: from 1 µs to 1 ms (R300)? -/
def goodTimeout (ns : Nat) : Bool := decide (1000 ≤ ns) && decide (ns ≤ 1000000)

/-- The atomic timeout: 64 µs at this device, four release timeouts at a peer (R311). -/
def State.atomicLimit (s : State) (a : Atom) : Nat := if a.loc.peer.isSome then 4 * s.relTimeout else 64000

def State.atomicExpired (s : State) (a : Atom) : Bool :=
  (match a.owner with
    | .cont .. | .job .. => true
    | _ => false) && a.old.isNone && decide (s.atomicLimit a ≤ s.now - a.since)

/-- A request that has no reply at its timeout (R311): X_ATOMIC_LOST on the core that runs the continuation, or on the
record that was written back with it pending (R129). An engine, which cannot raise it, takes its request as made (log entry 44). -/
def execAtomicTimeout (k : Nat) (s : State) : Out :=
  .next <| match s.atoms[k]? with
  | none => s
  | some a =>
    if !s.atomicExpired a then s
    else
      let s := { s with atoms := s.atoms.filter (·.id != a.id) }
      match a.owner with
      | .cont part rec =>
        match s.runner part rec with
        | some n => s.onCoreN n fun c => { c with
            atomLost := if c.atomLost.isSome then c.atomLost else some a.pc
            loads := c.loads.filter fun l => match l.dest with
              | .atomic _ j => j != a.id
              | _ => true }
        | none =>
          match (s.savedOf part rec).bind (·.resume) with
          | some r =>
            if r.pending.any (·.1 == a.id) then s.faultRec part rec { no := .atomicLost } a.pc false else s
          | none => s
      | _ => s

/-- A published store is performed: at its point of coherence, and one held there at its home slice (R237), in order with what
must precede it. -/
def execStorePerform (k : Nat) (s : State) : Out :=
  .next <| match s.pubs[k]? with
  | none => s
  | some p => if p.atPoint then s.finish (.inl p) else s.toPoint p

/-! ## Combining (R307–R310) -/

/-- Which request of the model a combining request is: an atomic of a core, or the merged request of a record. -/
def State.combAtom (s : State) (r : CombReq) : Option Atom :=
  s.atoms.find? fun a =>
    (if r.fromRecord then a.owner == .comb r.requester else a.id == r.requester)
      && a.old.isNone && a.inRecord.isNone && !a.sent && a.loc.pa == r.addr && a.loc.peer.getD s.devId == r.dev && a.sz == r.sz
      && a.b == r.b && a.ret == r.returning && (a.op == .add) == r.aadd

/-- The bytes of a record or request overlap. -/
def CombRecord.meets (c : CombRecord) (r : CombReq) : Bool :=
  c.dev == r.dev && overlaps c.addr (if c.sz = 0 then 4 else 8) r.addr (if r.sz = 0 then 4 else 8)

/-- Has the merged request of a record not left its queue? -/
def State.queued (s : State) (c : CombRecord) : Bool :=
  ((s.merged c.id).map fun a => a.alone && a.queue == some (c.stage, c.port)).getD false

/-- May a request reach the port of a stage: is it on its way there (Table 14-5), and has what entered its queue before it, over its
bytes, left that queue, nothing standing in one that it passes on the way (R308)? -/
def State.mayReach (s : State) (a : Atom) (stage port : Nat) : Bool :=
  match (s.portsLeft a).find? (·.2 == (stage, port)) with
  | none => false
  | some x =>
    (a.after.all fun id => s.atoms.all fun x => x.id != id || !x.alone || decide (s.rank a < s.rank x))
      && (s.portsLeft a).all fun y => decide (x.1 ≤ y.1) || (s.standing y.2.1 y.2.2 a).isEmpty

/-- The input port by which a request arrives at a stage (Table 14-8). -/
def State.inPort (s : State) (a : Atom) (stage : Nat) : Nat :=
  match stage, s.sourceDie a with
  | 1, _ => match a.owner with
    | .cont .. => if a.queue.isNone then a.core % 64 else 97
    | .job _ _ port => if a.queue.isNone then port else 97
    | _ => 97
  | 2, d => d.getD 4
  | _, d => d.getD 0

/-- An entry takes its place in a record: after those before it, and before those of its own hub cycle with a higher input port
(R309). -/
def insertEntry (e : CombEntry) : List CombEntry → List CombEntry
  | [] => [e]
  | x :: r => if x.cycle = e.cycle ∧ e.inPort < x.inPort then e :: x :: r else x :: insertEntry e r

/-- A request reaches a stage port (R307, R308), by its input port and no earlier than the entries that stand in the port's records:
it joins an open record, opens one where it can, or passes; what overlaps a record and does not join closes it, and stands behind
what overlaps it there. Earlier requests of its core over its bytes have left before it. -/
def execCombiningRequest (stage port : Nat) (req : CombReq) (s : State) : Out :=
  .next <| match s.combAtom req with
  | none => s
  | some a => if !s.mayGo a || !s.mayReach a stage port || (a.loc.peer.isSome && s.behind a) || req.inPort != s.inPort a stage
      || (s.combs.any fun c => c.stage == stage && c.port == port && c.entries.any fun e => decide (req.cycle < e.cycle)) then s else
    let s := s.performOwn a.core a.seq
    let s := if a.loc.peer.isSome then s else ((s.aheadAtom a).filter (·.isLeft)).foldl State.finish s
    let here := s.combs.filter fun c => c.stage == stage && c.port == port
    let joinable := here.find? fun c => req.aadd && c.opened && s.queued c && c.sz == req.sz && c.addr == req.addr && c.dev == req.dev
      && decide (c.entries.length < 16)
    let mark (s : State) (id : Nat) : State :=
      { s with atoms := s.atoms.map fun x => if x.id = a.id then { x with inRecord := some id } else x }
    let n := if req.sz = 0 then 32 else 64
    match joinable with
    | some c =>
      let s := { s with
        combs := s.combs.map fun x => if x.id = c.id then { x with entries := insertEntry ⟨a.id, a.b, a.ret, req.inPort, req.cycle⟩ x.entries } else x
        atoms := s.atoms.map fun x =>
          if x.owner = .comb c.id then { x with b := BitVec.ofNat 64 ((x.b.toNat + a.b.toNat) % 2 ^ n), ret := x.ret || a.ret } else x }
      mark s c.id
    | none =>
      let queue := some (stage, port)
      let after := a.after ++ s.standing stage port a
      let s : State := { s with combs := s.combs.map fun (c : CombRecord) =>
        if c.stage = stage ∧ c.port = port ∧ c.meets req then { c with opened := false } else c }
      if req.aadd && decide (here.length < 256) then
        let id := s.nextAtom
        let m : Atom := { a with
          id := id, owner := .comb id, core := 65536, seq := 0, b := BitVec.ofNat 64 (a.b.toNat % 2 ^ n), queue := queue, after := after
          inRecord := none, old := none, sent := false }
        let s := { s with
          nextAtom := (id + 1) % 2 ^ 32
          combs := s.combs ++ [CombRecord.mk id stage port a.loc.pa req.dev a.sz [⟨a.id, a.b, a.ret, req.inPort, req.cycle⟩] true] }
        mark { s with atoms := s.atoms ++ [m] } id
      else { s with atoms := s.atoms.map fun (x : Atom) => if x.id = a.id then { x with queue := queue, after := after } else x }

/-- The reply of a merged request reaches its record (R309). -/
def execDecombineReply (k : Nat) (old : Word) (s : State) : Out :=
  .next <| match s.combs[k]? with
  | none => s
  | some c => match s.merged c.id with
    | none => s
    | some m => match m.old with
      | some (v, _) =>
        if v = old then ({ s with atoms := s.atoms.filter (·.id != m.id) }).splitReply 3 c.id v else s
      | none => s

end Sys2Proof.Machine
end

