-- ==== Sys2Proof/Machine/System.lean ====
section
/-! DEFINITION. The meanings of the system instructions (R47–R50, R102–R106): control registers, identifiers, time,
heartbeats, format registers, TRAP, BREAK and TRET. -/

namespace Sys2Proof.Machine

/-! ## Control registers (R47–R50, R104) -/

/-- The logical number of a core in its partition (R51). -/
def State.logicalOf (s : State) (n : Nat) : Nat := ((s.part? (s.coreOf n).part).bind fun p => p.logical n).getD 0

def State.myPart (s : State) : Option Partition := s.part? s.core.part

/-- A partition's register as CTLR reads it. -/
def State.partReg (s : State) (f : Partition → Nat) : Word := BitVec.ofNat 64 ((s.myPart.map f).getD 0)

/-- What CTLR reads (Table 3-2); none at an index that is not listed. -/
def State.ctlRead (s : State) (i : Nat) : Option Word :=
  let c := s.core
  if i = 0x000 then some (c.fstat.setWidth 64)
  else if i = 0x001 then some (c.mode.setWidth 64)
  else if i = 0x002 then some c.fl
  else if i = 0x003 then some (BitVec.ofNat 64 c.safecnt)
  else if i = 0x004 then some (BitVec.ofNat 64 c.task)
  else if i = 0x005 then some (BitVec.ofNat 64 c.cont)
  else if 0x008 ≤ i ∧ i ≤ 0x00F then some (bankGet 0 c.qstall (i - 8))
  else if i = 0x010 then some (BitVec.ofNat 64 (s.logicalOf c.phys + 1024 * c.phys))
  else if i = 0x011 then some c.inject
  else if i = 0x020 then some (((s.myPart).map (·.srseed)).getD 1)
  else if i = 0x021 then some (s.partReg (·.ulim))
  else if i = 0x022 then some (s.partReg (·.premin))
  else if i = 0x023 then some (s.partReg (·.wcore))
  else if i = 0x024 then some (s.partReg (·.wcopy))
  else if i = 0x025 then some (s.partReg (·.wcoll))
  else if i = 0x026 then some (s.partReg (·.monfull))
  else if 0x040 ≤ i ∧ i ≤ 0x04F then some (bankGet 0 c.sb (i - 0x40))
  else none

def execCtlr (c d : Nat) (s : State) : Out :=
  let s := if c = 0 then s.settle else s
  .next <| match s.ctlRead c with
  | some v => s.result 2 [.s d v]
  | none => s.refuse .illegal

/-- CTLW to CTL.INJECT (R48, R49): reserved bits read as zero; ARM needs a partition with debug enabled. An instruction
to which an earlier injection is bound keeps it and leaves the new ARM set. -/
def State.writeInject (s : State) (v : Word) : State :=
  let debug := ((s.myPart).map (·.quotas.debug)).getD false
  if v.getLsbD 31 && !debug then s.refuse .perm
  else s.onCore fun c => { c with inject := v &&& 0xFFFF001F#64, array := c.array.map fun m => { m with disarms := false } }

/-- Is a stream buffer in use (R50)? -/
def State.ringBusy (s : State) (n : Nat) : Bool :=
  let r := SbWord.of (bankGet 0 s.core.sb n)
  r.filled != 0 || r.free != r.slots || s.rings.any fun x => x.of s.core.part s.core.cont && x.sb == n

/-- A descriptor write (R50): FREE is SLOTS, FILLED 0, and the ring's positions restart (R138). -/
def State.writeSb (s : State) (n : Nat) (v : Word) : State :=
  let r := SbWord.of v
  if s.ringBusy n || decide (0x1000000 < r.base * 64 + r.slots * r.size) then s.refuse .illegal
  else
    let keep : Nat := (v &&& 0x3FFF00FFFFC0#64).toNat
    s.onCore fun c => c.setRing n (sbCounts (BitVec.ofNat 64 keep) 0 r.slots) 0 0

/-- CTLW (R104) by index: read-only registers ignore it, a partition's registers refuse it (R47). -/
def State.ctlWrite (s : State) (i : Nat) (v : Word) : State :=
  if i = 0x000 then s.onCore fun c => { c with fstat := c.fstat &&& ~~~(v.setWidth 6) }
  else if i = 0x001 then s.onCore fun c => { c with mode := v.setWidth 2 }
  else if i = 0x002 then s.result 1 [.fls v]
  else if i = 0x003 ∨ i = 0x004 ∨ i = 0x005 ∨ i = 0x010 then s
  else if 0x008 ≤ i ∧ i ≤ 0x00F then s.onCore fun c => { c with qstall := bankSet 0 c.qstall (i - 8) v }
  else if i = 0x011 then s.writeInject v
  else if 0x020 ≤ i ∧ i ≤ 0x026 then s.refuse .perm
  else if 0x040 ≤ i ∧ i ≤ 0x04F then s.writeSb (i - 0x40) v
  else s.refuse .illegal

/-- CTLW to CTL.FSTAT clears the flags of the atomics before the last phase start too (R35). -/
def execCtlw (c a : Nat) (s : State) : Out := .next ((if c = 0 then s.settle else s).ctlWrite c (s.rs a))
def execInjectArm (a : Nat) (s : State) : Out := .next (s.writeInject (s.rs a))
def execSbDescriptorWrite (n a : Nat) (s : State) : Out := .next (s.writeSb n (s.rs a))

/-! ## Identifiers, time, heartbeats, formats (R104–R106) -/

def execGetid (k d : Nat) (s : State) : Out :=
  let c := s.core
  let put (v : Nat) : State := s.result 2 [.s d (BitVec.ofNat 64 v)]
  .next <| match k with
  | 0 => put (s.logicalOf c.phys)
  | 1 => put c.phys
  | 2 => put (c.phys / 4 % 16)
  | 3 => put (c.phys / 64)
  | 4 => put s.devId
  | 5 => put c.part
  | 6 => put c.task
  | 7 => put c.member
  | 8 => put c.cont
  | _ => s.refuse .illegal

def execTime (d : Nat) (s : State) : Out := .next (s.result 4 [.s d (BitVec.ofNat 64 s.now)])

/-- HBEAT: a strictly greater value is recorded and is a progress event (R105, R360, R361). -/
def execHbeat (a : Nat) (s : State) : Out :=
  let v := (s.rs a).toNat
  let old := ((s.task? s.core.part s.core.task).map (·.hbeat)).getD 0
  .next <| if old < v then
    (s.onTask s.core.part s.core.task fun t => { t with hbeat := v, hbTimer := s.now }).onCore fun c => { c with coreTimer := s.now }
  else s

/-- FMTSET (R106): the descriptor is written when its bundle has retired, so that all operations of its own bundle use the old one. -/
def execFmtset (f a : Nat) (s : State) : Out :=
  let x : W32 := (s.rs a).setWidth 32
  .next (if descWellFormed x.toNat then s.onCore fun c => { c with late := c.late ++ [.fmt f x] } else s.refuse .format)

/-! ## TRAP, BREAK and TRET (R102, R103) -/

/-- TRAP and BREAK, after the other op words of this issue have acted: the next bundle is the resume point, or this
bundle with its done mask while an op word has not executed (R102). -/
def State.software (s : State) (no : TrapNo) (code : Nat) : State :=
  if s.core.ctx.full then
    let next := s.core.branch.getD ((s.core.pc + 4 * s.core.ctx.wc) % 2 ^ 64)
    (s.onCore fun c => { c.writes c.late with late := [], gated := false, closed := false, start := none, current := none }).takeTrap
      { no := no, arg := code, resume := some next }
  else (s.onCore fun c => { c with done := c.done ||| 2 ^ c.ctx.slot }).takeTrap { no := no, arg := code }

def execTrap (code : Nat) (s : State) : Out := .next (s.software .syscall code)
def execBrk (code : Nat) (s : State) : Out := .next (s.software .brk code)

/-- Is S[A] a record in the faulted state that TRET may resume (R103, R221)? -/
def State.tretOk (s : State) (rec : Nat) : Bool :=
  ((s.myPart).map fun p => p.recs.any (·.1 == rec)).getD false && s.recSt s.core.part rec == 4
    && field (s.recState s.core.part rec) 9 1 == 0

/-- The parent's join counter, which SPAWN increments and EXIT decrements, must admit an atomic (R94, R98, R108, R109). -/
def State.parentCheck (s : State) (parent : Nat) : Checked :=
  if parent = 0 then .ok [] else s.checkWord .atomic 3 ((parent + 16) % 2 ^ 64) 4

/-- After TRET the continuation ends as by EXIT. -/
def State.endsByTret (s : State) (k : State → State) : State :=
  s.checked (s.parentCheck s.core.parent) fun _ => (k s).onCore fun c => { c with leave := some .exit }

/-- TRET (R103): it finds the record as the stores of an ended phase leave it (R237). -/
def execTret (a : Nat) (s : State) : Out :=
  let rec_ := (s.rs a).toNat
  let u := s.settle
  .next <| if !u.tretOk rec_ then s.refuse .illegal
  else u.endsByTret fun s => s.releaseFaulted s.core.part rec_

/-- The resume block without its bundle: pending replies stay (R103, R129). -/
def Resume.skipped (r : Resume) (pc : Nat) : Option Resume :=
  if r.pending.isEmpty then none
  else some { r with pc := pc, rep := 0, done := 0, gated := false, branch := none, leave := none, point := none, closed := false, start := none, passed := false, loads := [], bar := none, late := [] }

def execTretNext (a : Nat) (s : State) : Out :=
  let rec_ := (s.rs a).toNat
  let part := s.core.part
  let u := s.settle
  .next <| if !u.tretOk rec_ then s.refuse .illegal
  else if u.codeMoves part (u.recCode part rec_) then s.freeze (.transit (u.recCode part rec_))
  else match u.bundleAfter part (u.recCode part rec_) with
    | none => s.refuse .illegal
    | some next => u.endsByTret fun s =>
      let s := s.hubWrite part rec_ 0 8 next
      let s := s.onSaved part rec_ fun x => { x with resume := x.resume.bind (·.skipped next) }
      (s.setRecBits part rec_ 6 1 0).releaseFaulted part rec_

end Sys2Proof.Machine
end

