-- ==== Sys2Proof/Machine/Continuations.lean ====
section
/-! DEFINITION. The meanings of the continuation instructions (R92–R98) and of tandem fusion (R99–R101). What leaves a
core does so when its bundle has retired. -/

namespace Sys2Proof.Machine

/-! ## Safe points (R92, R93) -/

/-- A safe point: its entry becomes current, and the written-since masks are cleared, when the last repetition of its bundle has
issued (R73, R92, R219); `lv` is what follows the bundle. -/
def State.safePoint (s : State) (idx : Nat) (lv : Leave) : State :=
  let live := s.safeEntry s.core.part s.core.task idx
  s.onCore fun c => { c with point := some (idx, live), leave := some lv }

/-- The check of a safe-table index (R92); a table page in transit, or bytes of a table at a peer, are waited for (R91, R378). -/
def State.withEntry (s : State) (idx : Nat) (k : State → State) : State :=
  match s.safeMoves s.core.part s.core.task idx with
  | some f => s.freeze f
  | none =>
    let s := s.safePoison s.core.part s.core.task idx
    if s.badSafeIdx idx then s.refuse .illegal else k s

def execSafe (idx : Nat) (s : State) : Out := .next (s.withEntry idx fun s => s.safePoint idx (.preempt s.core.pc))

/-- JOIN, SUSPEND and YIELD share their checks (R93). -/
def State.suspending (s : State) (idx : Nat) (k : State → State) : State :=
  if s.inGroup then s.refuse .groupViolation else s.withEntry idx k

def execJoin (idx : Nat) (s : State) : Out := .next (s.suspending idx fun s => s.safePoint idx (.join s.core.pc))

/-- SUSPEND: the word must be watchable at a home slice of this device (R96, R112). -/
def execSuspend (a idx : Nat) (s : State) : Out :=
  .next (s.suspending idx fun s => s.checked (s.checkWord .watched 3 (s.rs a).toNat 4) fun ps =>
    s.safePoint idx (.suspend (((ps.head?).map (·.va)).getD 0) (((ps.head?).map (·.loc.pa)).getD 0) s.core.pc))

def execYield (idx : Nat) (s : State) : Out := .next (s.suspending idx fun s => s.safePoint idx .yield)

/-- EXIT (R98): the check of the parent's counter comes first. -/
def execExit (s : State) : Out :=
  .next <| if s.inGroup then s.refuse .groupViolation
  else s.checked (s.parentCheck s.core.parent) fun _ => s.onCore fun c => { c with leave := some .exit }

/-! ## SPAWN (R94, R214) -/

/-- Publish every store issued so far within the phase, at least at a scope (R94): the snapshot keeps the core's own
values. -/
def State.publishNow (s : State) (widen : Nat) : State :=
  let c := s.core
  let laid (line : List Byte) (st : OwnStore) : List Byte :=
    let base := st.loc.pa / 64 * 64
    line.zipIdx.map fun b => (st.byte? ⟨st.loc.peer, base + b.2⟩).getD b.1
  let snap := c.stores.foldl (fun m st =>
    let k := lineKey st.loc
    let line := bankGet [] m k
    if line = [] then m else bankSet [] m k (laid line st)) c.snap
  let s := c.stores.foldl (fun s st => s.publish c widen st) s
  s.onCore fun c => { c with
    issued := c.issued + 1, stores := [], snap := snap, unsettled := true
    coreTimer := if c.stores.isEmpty then c.coreTimer else s.now }

/-- The fields that SPAWN writes, in its order (R94). -/
def State.publishRecord (s : State) (rec parent : Nat) : State :=
  let c := s.core
  let put (s : State) (off n v : Nat) : State := s.hubWrite c.part rec off n v
  let s := put (put (put (put s 16 4 0) 20 4 c.task) 24 8 c.deadline) 32 4 0
  let s := put (put (put (put s 36 2 0xFFFF) 40 8 parent) 48 8 c.scratch) 56 8 0
  let s := if parent = 0 then s
    else s.hubWrite c.part parent 16 4 ((s.readRec c.part parent 16 4 + 1) % 2 ^ 32)
  let s := ((s.dropSaved c.part rec).orphanChans c.part rec).onPart c.part fun p => { p with recs := p.recs.filter (·.1 != rec) ++ [(rec, c.task)] }
  s.readyRec c.part rec

def execSpawn (a b : Nat) (s : State) : Out :=
  let rec_ := (s.rs a).toNat
  let parent := (s.rs b).toNat
  .next <| if s.inGroup then s.refuse .groupViolation
  else s.checked (s.check .record 3 rec_ 64 64) fun _ =>
    s.checked (s.parentCheck parent) fun _ => s.inFull fun s =>
      let st := s.recSt s.core.part (va52 rec_)
      if 1 ≤ st ∧ st ≤ 4 then s.refuse .illegal
      else ((s.publishNow 3).settle).publishRecord rec_ parent

/-! ## Tandem fusion (R99–R101) -/

/-- Does the running task hold every core of a fused shape around this core (R99)? -/
def State.holdsSet (s : State) (size : Nat) : Bool :=
  match s.myPart with
  | none => false
  | some p => (fusedSet size s.core.phys).all fun k => match p.logical k with
    | some l => p.holder l == some s.core.task
    | none => false

/-- Have all members of the shape arrived with this size? -/
def State.allArrived (s : State) (size : Nat) : Bool :=
  (fusedSet size s.core.phys).all fun k => ((s.coreOf k).fuseArrived.map (·.1)) == some size

/-- Arrived cores whose shape meets this core's and whose size differs. -/
def State.disagreeing (s : State) (size : Nat) : List Nat :=
  let q := s.core.phys / 4 * 4
  ((List.range 4).map (q + ·)).filter fun k => match (s.coreOf k).fuseArrived with
    | some (n, _) => n != size && (fusedSet n k).any (fusedSet size s.core.phys).contains
    | none => false

/-- FUSE: N = 0 fuses a pair, 1 a quad. It arrives when the rest of its bundle has executed, and its bundle waits until
every member has arrived (R99). In a fused set it does the same: the set fuses anew, with the new shape and strides (log
entry 32). -/
def execFuse (a n : Nat) (s : State) : Out :=
  let size := if n = 0 then 2 else 4
  let stride := (s.rs a).toInt
  .next <| match s.release? with
  | some (_, s) => s
  | none =>
    if !s.holdsSet size then s.refuse .perm
    else if !(s.disagreeing size).isEmpty then
      ((s.core.phys :: s.disagreeing size).foldl (fun s k => s.onCoreN k fun c => { c with landTrap := some { no := .illegal } }) s).wait
    else if !s.core.ctx.full then s.wait
    else
      let s := s.onCore fun c => { c with fuseArrived := some (size, stride) }
      if s.allArrived size then
        let me := s.core.phys
        let lead := (s.coreOf (me / size * size)).cont
        (fusedSet size me).foldl (fun s k => s.onCoreN k fun c =>
          let f : Fusion := ⟨size, k % size, (c.fuseArrived.map (·.2)).getD 0, lead⟩
          { c with fused := some f, lastFused := some f, released := if k = me then c.released else c.released ++ [(7, 0)] }) s
      else s.wait

/-- DECPL: each member fetches for itself after the bundle (R101). -/
def execDecpl (s : State) : Out :=
  .next (if s.core.fused.isSome then s.onCore fun c => { c with leave := some .decouple } else s)

/-- The members of the last fused set that wait in REJN. -/
def State.rejoining (s : State) (f : Fusion) : List Nat :=
  (s.allCores.filter fun c => c.running && c.part == s.core.part && c.rejoined
    && (c.lastFused.map fun g => g.lead == f.lead && g.size == f.size).getD false).map (·.phys)

def execRejn (s : State) : Out :=
  .next <| match s.core.lastFused with
  | none => s
  | some f =>
    match s.release? with
    | some (_, s) => s
    | none =>
      let s := s.onCore fun c => { c with rejoined := true }
      let ns := s.rejoining f
      if ns.length = f.size then
        let me := s.core.phys
        ns.foldl (fun s n => s.onCoreN n fun c =>
          { c with rejoined := false, released := if n = me then c.released else c.released ++ [(7, 0)] }) s
      else s.wait

end Sys2Proof.Machine
end

