-- ==== Sys2Proof/Machine/Control.lean ====
section
/-! DEFINITION. The meanings of the control instructions (R88–R90) and of PHASE (R133). -/

namespace Sys2Proof.Machine

/-- The core whose registers decide control: the lead of a fused set (R100). -/
def State.leadCore (s : State) : Core :=
  match s.core.fused with
  | some f => if f.m = 0 then s.core else s.coreOf (s.core.phys - f.m)
  | none => s.core

def State.rl (s : State) (r : Nat) : Word := s.leadCore.rs r

/-- A relative target: the bundle's own header plus OFF × 4 (R60). -/
def State.target (s : State) (off : Int) : Nat := toBits 64 ((s.core.pc : Int) + 4 * off)

/-- The header that follows the bundle (R89). -/
def State.nextBundle (s : State) : Nat := (s.core.pc + 4 * s.core.ctx.wc) % 2 ^ 64

/-- The trap that a branch to a target raises before any slot acts (R59, R88): it is misaligned, or its word is not a
header. A target whose fetch fails translation traps there, after the branching bundle. -/
def State.badTarget (s : State) (t : Nat) : Bool :=
  match s.peekWord s.core.part t with
  | .ok w => !isHeader w
  | .error e => e.no == .target

/-- Take a branch. -/
def State.jump (s : State) (t : Nat) : State := s.onCore fun c => { c with branch := some t }

/-- Branch to a target once it is known to be a header, after what the instruction does besides; the bundle waits while the
target's page is in transit (R378). -/
def State.branchWith (s : State) (t : Nat) (also : State → State) : State :=
  if s.badTarget t then s.takeTrap { no := .target, addr := t }
  else if s.codeMoves s.core.part t then s.freeze (.transit t)
  else (also s).jump t

def State.branchTo (s : State) (t : Nat) : State := s.branchWith t id

def State.branchIf (s : State) (c : Bool) (off : Int) : Out := .next (if c then s.branchTo (s.target off) else s)

def execBeq (a b : Nat) (off : Int) (s : State) : Out := s.branchIf (s.rl a == s.rl b) off
def execBne (a b : Nat) (off : Int) (s : State) : Out := s.branchIf (s.rl a != s.rl b) off
def execBlt (a b : Nat) (off : Int) (s : State) : Out := s.branchIf ((s.rl a).slt (s.rl b)) off
def execBge (a b : Nat) (off : Int) (s : State) : Out := s.branchIf ((s.rl b).sle (s.rl a)) off
def execBltu (a b : Nat) (off : Int) (s : State) : Out := s.branchIf (decide (s.rl a < s.rl b)) off
def execBgeu (a b : Nat) (off : Int) (s : State) : Out := s.branchIf (decide (s.rl b ≤ s.rl a)) off
def execBeqLong (a b : Nat) (off : Int) (s : State) : Out := s.branchIf (s.rl a == s.rl b) off
def execBneLong (a b : Nat) (off : Int) (s : State) : Out := s.branchIf (s.rl a != s.rl b) off
def execBltLong (a b : Nat) (off : Int) (s : State) : Out := s.branchIf ((s.rl a).slt (s.rl b)) off
def execBgeLong (a b : Nat) (off : Int) (s : State) : Out := s.branchIf ((s.rl b).sle (s.rl a)) off
def execBltuLong (a b : Nat) (off : Int) (s : State) : Out := s.branchIf (decide (s.rl a < s.rl b)) off
def execBgeuLong (a b : Nat) (off : Int) (s : State) : Out := s.branchIf (decide (s.rl b ≤ s.rl a)) off

/-- The number of predicate bits that LC selects (R88). -/
def lcLanes (lc : Nat) : Nat := 1024 / 2 ^ lc

/-- Is some of the low bits of a predicate 1? -/
def State.anyBit (s : State) (p lc : Nat) : Bool := (s.leadCore.rp p).toNat % 2 ^ lcLanes lc != 0

def execBpany (p lc : Nat) (off : Int) (s : State) : Out := s.branchIf (s.anyBit p lc) off
def execBpnone (p lc : Nat) (off : Int) (s : State) : Out := s.branchIf (!s.anyBit p lc) off
def execBpanyLong (p lc : Nat) (off : Int) (s : State) : Out := s.branchIf (s.anyBit p lc) off
def execBpnoneLong (p lc : Nat) (off : Int) (s : State) : Out := s.branchIf (!s.anyBit p lc) off

def execJmp (off : Int) (s : State) : Out := .next (s.branchTo (s.target off))
def execJmpLong (off : Int) (s : State) : Out := .next (s.branchTo (s.target off))
def execJmpi (a : Nat) (s : State) : Out := .next (s.branchTo (s.rl a).toNat)

/-- Write the link register, then branch; a target that traps leaves the register (R89). -/
def State.callTo (s : State) (a t : Nat) : Out :=
  .next (s.branchWith t fun s => s.result 1 [.s a (BitVec.ofNat 64 s.nextBundle)])

def execCall (a : Nat) (off : Int) (s : State) : Out := s.callTo a (s.target off)
def execCallLong (a : Nat) (off : Int) (s : State) : Out := s.callTo a (s.target off)
def execCalli (a b : Nat) (s : State) : Out := s.callTo a (s.rl b).toNat
def execRet (a : Nat) (s : State) : Out := .next (s.branchTo (s.rl a).toNat)

/-- LOOP (R90): the decrement is written whether or not the branch is taken. -/
def State.loopTo (s : State) (a : Nat) (off : Int) : Out :=
  let n := s.rl a - 1
  let t := s.target off
  .next (if n = 0 then s.result 1 [.s a n] else s.branchWith t fun s => s.result 1 [.s a n])

def execLoop (a : Nat) (off : Int) (s : State) : Out := s.loopTo a off
def execLoopLong (a : Nat) (off : Int) (s : State) : Out := s.loopTo a off

/-- PHASE: the empty bundle with PH = 1 (R58, R133). Its own cycle passes and the phase ends. -/
def execPhase (s : State) : Out := .next (s.phaseStart 0)

end Sys2Proof.Machine
end

