-- ==== Sys2Proof/Machine/EngineCmds.lean ====
section
/-! DEFINITION. What the engine command instructions share (R189–R194): posting, bounded queues and their stalls, and the
waits on bitmap words (R197, R198), with the reissues of gated bundles (R74, R194). -/

namespace Sys2Proof.Machine

/-! ## Posting and stalls (R191, R194) -/

/-- A post ends the current phase: what the core issued earlier is published, at device scope at least, and performed, so that
the engine reads all of it (R191); so is what its path's points of coherence hold, which the job must see too (R239). -/
def State.enginePost (s : State) : State :=
  let s := (s.phaseStart 3).settle
  let r := Path.ofCore s.core.phys s.core.issued
  s.finishPubs (s.pubs.filter fun p => p.core == s.core.phys || p.atPort r || p.atDie r)

/-- Is this an issue of the bundle at which a stall counts: the first, or a reissue (R74, R194)? -/
def State.freshIssue (s : State) : Bool := !s.begun || s.core.requeue || s.core.flChanged

/-- The queue that the acting op word needs is full (R194). -/
def State.stallOn (s : State) (q : Stall) : State :=
  if s.core.mode.getLsbD 1 then s.refuse .qfull
  else
    let count (c : Core) : Core := match q with
      | .chan ch => if s.freshIssue then { c with qstall := bankSet 0 c.qstall ch (bankGet 0 c.qstall ch + 1) } else c
      | _ => c
    (s.onCore fun c => { count c with stall := some q }).wait

/-- An entry has left a queue: the bundles stalled on it, on the cores that a test names, are reissued (R194). -/
def State.entryLeft (s : State) (q : Stall) (who : Core → Bool) : State :=
  s.onCores fun c => if c.gated ∧ c.stall = some q ∧ who c then { c with requeue := true } else c

/-- Reissue a gated bundle: the core that holds it acts next. -/
def State.reissueWhere (s : State) (p : Core → Bool) : State :=
  if s.core.gated ∧ p s.core then s
  else match s.allCores.find? fun c => c.gated && p c with
    | some c => s.focus c.phys
    | none => s

/-- A flag of a gated core changed in this cycle: at its end the core reissues its bundle (R74), as the next step does. -/
def execGuardReissue (s : State) : Out := .next (s.reissueWhere (·.flChanged))

/-- An entry left the queue on which a bundle is stalled: the core reissues the bundle (R194), as the next step does. -/
def execQueueStallReissue (s : State) : Out := .next (s.reissueWhere (·.requeue))

/-! ## Bitmap words (R197, R198) -/

/-- A bitmap word: 8-byte aligned and readable, at a home slice of this device (R112, R195), or in the scratch segment. -/
def State.checkBitmap (s : State) (ea : Nat) : Checked := s.checkWord .watched 3 ea 8

/-- CWAIT retires once the rest of its bundle has executed; a new phase starts (R197). -/
def State.bitmapSeen (s : State) : State := if s.core.ctx.full then s.phaseStart 0 else s.wait

def execCwait (a b : Nat) (s : State) : Out :=
  let mask := s.rs b
  .next <| if s.begun then
    if s.core.released.any (·.1 == s.core.ctx.slot) then s.bitmapSeen else s.wait
  else s.checked (s.checkBitmap (s.rs a).toNat) fun ps => s.inOrder fun s =>
    let pa := ((ps.head?).map (·.loc.pa)).getD 0
    let m : Monitor := ⟨.core s.core.phys s.core.ctx.slot, ((ps.head?).map (·.va)).getD 0, pa, 8, mask, true, false, ps.any (·.scratch)⟩
    let s := s.poisonRead pa 8
    let v := s.watchedFrom m
    if m.met v then
      (s.onCore fun c => { c with released := c.released ++ [(c.ctx.slot, v)] }).bitmapSeen
    else (s.register s.core.part m).wait

/-- CTEST (R198): the condition once, or an armed test, which waits at the word's home slice as a CWAIT does (R132, R197). A test on the
same flag is replaced. -/
def execCtest (f a b : Nat) (s : State) : Out :=
  let mask := s.rs b
  .next <| s.checked (s.checkBitmap (s.rs a).toNat) fun ps => s.inOrder fun s =>
    let loc := ((ps.head?).map (·.loc)).getD ⟨none, 0⟩
    let va := ((ps.head?).map (·.va)).getD 0
    let m : Monitor := ⟨.test s.core.phys f, va, loc.pa, 8, mask, true, false, ps.any (·.scratch)⟩
    let s := s.poisonRead loc.pa 8
    let rest := s.core.tests.filter (·.fl != f)
    if m.met (s.watchedFrom m) then ((s.disarm s.core.phys f).onCore fun c => { c with tests := rest }).result 2 [.fl f true]
    else if 8 ≤ rest.length then s.stallOn .tests
    else (((s.disarm s.core.phys f).register s.core.part m).onCore fun c =>
      { c with tests := rest ++ [⟨va, loc, mask, f, c.issued⟩] }).result 2 [.fl f false]

end Sys2Proof.Machine
end

