-- ==== Sys2Proof/Machine/Windows.lean ====
section
/-! DEFINITION. Window space (R51–R55, R227, R229, R245): where a window address leads, what an engine reads there, and
how an engine's write lands between two bundles. -/

namespace Sys2Proof.Machine

/-! ## Status codes (Table 9-4) -/

def stOk : Nat := 0
def stParamTorn : Nat := 1
def stBadFormat : Nat := 2
def stChecksum : Nat := 3
def stWindowOwner : Nat := 4
def stWindowRo : Nat := 5
def stPage : Nat := 6
def stPerm : Nat := 7
def stBadRecord : Nat := 8
def stCancelled : Nat := 9
def stLength : Nat := 10
def stCrc : Nat := 11
def stWindowVacant : Nat := 12

/-- Bytes with bit masks: what an engine writes. -/
abbrev Masked := List (Byte × Byte)

def wholeBytes (bs : List Byte) : Masked := bs.map fun b => (b, 0xFF)

/-- Bytes of a value with bit masks, as numbers. -/
def maskedNats (bs : Masked) : Nat × Nat := (leNat (bs.map (·.1)), leNat (bs.map (·.2)))

/-- Masked bytes over old ones. -/
def blend (old : List Byte) (bs : Masked) : List Byte :=
  bs.zipIdx.map fun x => (old.getD x.2 0 &&& ~~~x.1.2) ||| (x.1.1 &&& x.1.2)

/-! ## Window offsets (Table 3-5) -/

/-- Does a byte of a window take writes? -/
def winWritable (off : Nat) : Bool :=
  decide (off < 0x280000)
    || (decide (0x300000 ≤ off) && decide (off < 0x304200))
    || (decide (0x308000 ≤ off) && decide (off < 0x30B000))
    || (decide (0x30C000 ≤ off) && decide (off < 0x30C008))

/-- A byte of an accumulator window (R51). -/
def AccSet.winByte (a : AccSet) (off : Nat) : Byte :=
  let word (b : Bank W32) (k : Nat) : Byte := BitVec.ofNat 8 ((bankGet 0 b k).toNat / 256 ^ (off % 4))
  if off < 0x10000 then word a.data (off / 4)
  else if off < 0x10200 then word a.cc ((off - 0x10000) / 4)
  else if off < 0x10400 then word a.cr ((off - 0x10200) / 4)
  else if off < 0x10600 then word a.mc ((off - 0x10400) / 4)
  else if off < 0x10800 then word a.mr ((off - 0x10600) / 4)
  else if off < 0x10808 then BitVec.ofNat 8 (a.steps.toNat / 256 ^ (off - 0x10800))
  else 0

/-- A byte of the register part of a window. -/
def Core.winByte (c : Core) (off : Nat) : Byte :=
  let at_ (v k : Nat) : Byte := BitVec.ofNat 8 (v / 256 ^ k)
  if 0x200000 ≤ off ∧ off < 0x280000 then
    let o := off - 0x200000
    at_ (c.rt (o / 0x10000) (o % 0x10000 / 512)).toNat (o % 512)
  else if 0x280000 ≤ off ∧ off < 0x2A0000 then c.acc0.winByte (off - 0x280000)
  else if 0x2A0000 ≤ off ∧ off < 0x2C0000 then c.acc1.winByte (off - 0x2A0000)
  else if 0x300000 ≤ off ∧ off < 0x304000 then at_ (c.rv ((off - 0x300000) / 512)).toNat (off % 512)
  else if 0x304000 ≤ off ∧ off < 0x304200 then at_ (c.rs ((off - 0x304000) / 8)).toNat (off % 8)
  else if 0x308000 ≤ off ∧ off < 0x30B000 then at_ (c.rp ((off - 0x308000) / 128)).toNat (off % 128)
  else if 0x30C000 ≤ off ∧ off < 0x30C008 then at_ c.fl.toNat (off - 0x30C000)
  else 0

/-- The register writes of masked bytes at a window offset, all within one 64-byte unit of one part of the window; `old`
is the flag word. -/
def winRegWrites (old : Word) (off : Nat) (bs : Masked) : List RegWrite :=
  let (v, m) := maskedNats bs
  let wide (b : Nat) : BitVec 4096 × BitVec 4096 := (BitVec.ofNat 4096 (v * 256 ^ b), BitVec.ofNat 4096 (m * 256 ^ b))
  if 0x200000 ≤ off ∧ off < 0x280000 then
    let o := off - 0x200000
    let (x, k) := wide (o % 512)
    [.t (o / 0x10000) (o % 0x10000 / 512) x k]
  else if 0x300000 ≤ off ∧ off < 0x304000 then
    let (x, k) := wide (off % 512)
    [.v ((off - 0x300000) / 512) x k]
  else if 0x308000 ≤ off ∧ off < 0x30B000 then
    let b := off % 128
    [.p ((off - 0x308000) / 128) (BitVec.ofNat 1024 (v * 256 ^ b)) (BitVec.ofNat 1024 (m * 256 ^ b))]
  else if 0x30C000 ≤ off ∧ off < 0x30C008 then
    let b := off - 0x30C000
    let k := BitVec.ofNat 64 (m * 256 ^ b)
    [.fls ((old &&& ~~~k) ||| (BitVec.ofNat 64 (v * 256 ^ b) &&& k))]
  else []

/-- The scalar registers that masked bytes at a window offset change. -/
def Core.winScalars (c : Core) (off : Nat) (bs : Masked) : List RegWrite :=
  let lo := off - 0x304000
  let (v, m) := maskedNats bs
  let (v, m) := (v * 256 ^ (lo % 8), m * 256 ^ (lo % 8))
  (List.range 9).filterMap fun k =>
    let mk := BitVec.ofNat 64 (m / 2 ^ (64 * k))
    if mk = 0 then none
    else
      let r := lo / 8 + k
      some (.s r ((c.rs r &&& ~~~mk) ||| (BitVec.ofNat 64 (v / 2 ^ (64 * k)) &&& mk)))

/-- An engine's writes to registers at a bundle boundary: the core's own results of that boundary stand over them (R54). -/
def Core.engineWrites (c : Core) (ws : List RegWrite) : Core :=
  let own := (c.here.flatMap (·.2)).filter fun w => ws.any fun v => v.place == w.place
  ((c.writes ws).writes own).follow (ws ++ own)

/-- Masked bytes written to the register part of a window (R54); writes to S0 and P0 are ignored. -/
def Core.winPut (c : Core) (off : Nat) (bs : Masked) : Core :=
  c.engineWrites (if 0x304000 ≤ off ∧ off < 0x304200 then c.winScalars off bs else winRegWrites c.fl off bs)

/-! ## Where a window address leads (R51–R53, R227) -/

/-- May a task of a partition reach the window of a logical core (R52)? -/
def Partition.windowStatus (p : Partition) (task l : Nat) : Nat :=
  if p.cores[l]? == some none then stWindowVacant
  else if p.holder l == some task then stOk else stWindowOwner

/-- The windows, with the offset in them, that a write of `n` bytes reaches, or the status that refuses it. -/
def State.windowTargets (s : State) (part task a n : Nat) : Except Nat (List (Nat × Nat)) :=
  match s.part? part with
  | none => .error stWindowOwner
  | some p =>
    let off := a % 0x400000
    let ro := !(List.range n).all fun k => winWritable (off + k)
    if a < 0x00F040000000 then
      let l := (a - 0x00F000000000) / 0x400000
      let st := p.windowStatus task l
      if st ≠ stOk then .error st else if ro then .error stWindowRo else .ok [(l, off)]
    else if 0x00F100000000 ≤ a ∧ a < 0x00F140000000 then
      let g := p.group ((a - 0x00F100000000) / 0x400000)
      if g.kind ≠ 3 then .error stWindowRo
      else
        let ls := (List.range 256).filter fun l => hasBit g.members l && !p.vacant l
        match ls.find? fun l => p.windowStatus task l != stOk with
        | some l => .error (p.windowStatus task l)
        | none => if ro then .error stWindowRo else .ok (ls.map fun l => (l, off))
    else .error stWindowRo

/-- The physical core that runs a continuation of the holding task on a logical core (R229). -/
def State.windowCore (s : State) (part task l : Nat) : Option Nat :=
  ((s.part? part).bind fun p => p.physical l).bind fun n =>
    let c := s.coreOf n
    if c.running && c.part == part && c.task == task then some n else none

/-- Where a scratch offset of a core lies, with a permission. -/
def State.scratchAt (s : State) (n off : Nat) (a : Access) : Xlat :=
  let c := s.coreOf n
  s.xlatOf (s.walk c.part (va52 (c.scratch + off))) a 3 (va52 (c.scratch + off))

/-- The key of the scratch page at an offset of a core, unless it is resident there (R245). -/
def State.absentPage (s : State) (n off : Nat) : Option Nat :=
  let c := s.coreOf n
  let key := pageKey c.part (c.scratch + off)
  if s.pageHolder key = some n then none else some key

/-- What an engine's access to memory or a window answers: bytes, a status that ends the record, a wait, or a scratch page that
must be resident on a core first. -/
inductive Got where
  | bytes (bs : List Byte)
  | fail (st : Nat)
  | wait
  | page (n key : Nat)
  | poison (pa n : Nat)
  deriving DecidableEq, Repr

/-- An engine read of a window: zero outside what R51 assigns; it waits while the holding task does not run there, while the
accumulator set that it names is open (R171), and until its scratch page is resident there (R245). -/
def State.windowRead (s : State) (part task a n : Nat) : Got :=
  if 0x00F040000000 ≤ a then .bytes (List.replicate n 0)
  else match s.part? part with
    | none => .fail stWindowOwner
    | some p =>
      let l := (a - 0x00F000000000) / 0x400000
      let st := p.windowStatus task l
      if st ≠ stOk then .fail st
      else match s.windowCore part task l with
        | none => .wait
        | some k =>
          let off := a % 0x400000
          if off < 0x200000 then
            match s.scratchAt k off .read with
            | .ok l _ => match s.absentPage k off with
              | some key => .page k key
              | none => if s.poisoned.any fun b => overlaps l.pa n (b * 256) 256 then .poison l.pa n else .bytes (s.mem.readN l.pa n)
            | .transit => .wait
            | .trap _ => .fail stPage
          else if 0x280000 ≤ off ∧ off < 0x2C0000 ∧ ((s.coreOf k).acc ((off - 0x280000) / 0x20000)).status = .opened then .wait
          else .bytes ((List.range n).map fun i => (s.coreOf k).winByte (off + i))

/-! ## Window writes land (R54, R55, R229, R245) -/

/-- Queue an engine's write to windows, cut at 64-byte units. -/
def State.queueWindow (s : State) (part task job : Nat) (targets : List (Nat × Nat)) (bs : Masked) : State :=
  { s with windows := s.windows ++ targets.flatMap fun x =>
      (cut x.2 bs.length).map fun u => WinWrite.mk part task x.1 u.1 ((bs.drop u.2.2).take u.2.1) job false 0 }

/-- The core on which a window write may land now: the holding task runs there, and a tile register's core has no open
group (R55, R229). -/
def State.windowOpen (s : State) (w : WinWrite) : Option Nat :=
  match s.windowCore w.part w.task w.core with
  | none => none
  | some n =>
    if 0x200000 ≤ w.off ∧ w.off < 0x280000 ∧ (s.coreOf n).group.isSome then none else some n

/-- Is the scratch page of a window write resident on its core, or is it no scratch write (R245)? -/
def State.windowPage (s : State) (w : WinWrite) (n : Nat) : Option Nat :=
  if 0x200000 ≤ w.off then none else s.absentPage n w.off

/-- The write lands: registers, or the scratch page at its place. One to a scratch page that is not mapped for writes is dropped
(log entry 72); one to a page in transit stays (R378). -/
def State.landWindow (s : State) (w : WinWrite) (n : Nat) : State :=
  let gone := { s with windows := s.windows.erase w }
  if w.off < 0x200000 then
    match s.scratchAt n w.off .write with
    | .ok l _ => gone.perform l.pa (blend (s.mem.readN l.pa w.bytes.length) w.bytes)
    | .trap _ => gone
    | .transit => s
  else gone.onCoreN n fun c => c.winPut w.off w.bytes

/-- What a job's key becomes for the writes with which a record or command completes, for which nothing waits. -/
def noteKey (key : Nat) : Nat := key + 2 ^ 256

/-- The status that a queued write meets where the task no longer holds the core, or the core has become vacant (R52, R397). -/
def State.windowRefusal (s : State) (w : WinWrite) : Nat :=
  ((s.part? w.part).map fun p => p.windowStatus w.task w.core).getD stWindowOwner

/-- It leaves the window unchanged and tells its job; one that no job waits for is dropped. -/
def State.refuseWindow (s : State) (k : Nat) (w : WinWrite) : State :=
  if noteKey 0 ≤ w.job then { s with windows := s.windows.erase w }
  else { s with windows := s.windows.set k { w with failed := s.windowRefusal w } }

/-- An engine's write to a window lands between two bundles of its core; where it may not yet land, it is held (R54,
R55). -/
def execWindowWrite (k : Nat) (s : State) : Out :=
  .next <| match s.windows[k]? with
  | none => s
  | some w =>
    if w.held || w.failed != 0 then s
    else if s.windowRefusal w ≠ stOk then s.refuseWindow k w
    else
      let hold : State := { s with windows := s.windows.set k { w with held := true } }
      match s.windowOpen w with
      | none => hold
      | some n => if (s.windowPage w n).isSome then hold else s.landWindow w n

/-- A held window write lands once its core runs the holding task with no open group where it names a tile register; a
scratch page is refilled there first (R55, R229, R245). -/
def execHeldWindowWrite (k : Nat) (s : State) : Out :=
  .next <| match s.windows[k]? with
  | none => s
  | some w =>
    if !w.held || w.failed != 0 then s
    else if s.windowRefusal w ≠ stOk then s.refuseWindow k w
    else match s.windowOpen w with
      | none => s
      | some n => match s.windowPage w n with
        | some page => (s.pageArrives n page).landWindow w n
        | none => s.landWindow w n

end Sys2Proof.Machine
end

