-- ==== Sys2Proof/Machine/Engine.lean ====
section
/-! DEFINITION. Memory as the engines reach it (R53, R246, R313): reads at device scope, from windows and from peers; masked
writes; CRC-32C (R257); charges (R343). Shared by the copy engines, Jasper and Opal. -/

namespace Sys2Proof.Machine

/-! ## CRC-32C (R257) -/

def crcStep (c : Nat) : Nat := if c % 2 = 1 then (c / 2) ^^^ 0x82F63B78 else c / 2
def crcByte (c : Nat) (b : Byte) : Nat := Nat.repeat crcStep 8 (c ^^^ b.toNat)
def crc32c (bs : List Byte) : Nat := bs.foldl crcByte 0xFFFFFFFF ^^^ 0xFFFFFFFF

/-! ## Charges (R343, R344) -/

def State.charge (s : State) (part task units : Nat) : State := s.onTask part task fun t => { t with charge := t.charge + units }

/-- Do the engine jobs of a partition stand still: after a fatal error, or quiesced (R393, R400)? -/
def State.parkedPart (s : State) (part : Nat) : Bool := ((s.part? part).map fun p => p.fatal || p.quiesced).getD true

/-- Do its copy engines stand still? A partition swapped out parks their chains too (R354). -/
def State.parkedCopies (s : State) (part : Nat) : Bool := ((s.part? part).map fun p => p.fatal || p.quiesced || p.swapped).getD true

/-! ## Reads -/

/-- Why an engine's access does not go on: a status that ends its record, a wait, a scratch page that must be resident on a core
first, READs to peers that must come first (device, address, length), a poisoned block (address, length), or a tile that failed its
verification and is read again (R266), or an owner-table entry that has been read and is to be kept (destination, tile, entry; R263). -/
inductive Stop where
  | fail (st : Nat)
  | wait
  | page (n key : Nat)
  | need (rs : List (Nat × Nat × Nat))
  | poison (pa n : Nat)
  | again (va : Nat)
  | entry (dst : Bool) (l v : Nat)
  deriving DecidableEq, Repr

abbrev Look (α : Type) := Except Stop α

/-- The status of an engine access that translation refuses (Table 9-4). -/
def trapStatus : TrapNo → Nat
  | .page => stPage
  | _ => stPerm

/-- Who an engine job is: partition, posting task, the key of its READs and window writes, the path of its accesses, and the port by
which its requests enter its die's crossbar (Table 14-8). -/
structure Agent where
  part : Nat
  task : Nat
  key : Nat
  path : Path
  port : Nat
  deriving DecidableEq, Repr

/-- The die through whose TLB a job translates (R367). -/
def Agent.die (g : Agent) : Nat := g.path.die.getD 0

/-- The key of a job of a continuation: copy channels 0–7, the decoder 8, collectives 9. -/
def jobKey (part cont n : Nat) : Nat := 2 ^ 20 + (part * 2 ^ 64 + cont) * 16 + n

/-- The data of a READ that a job has sent. -/
def State.readData (s : State) (key dev pa n : Nat) : Option (List Byte) :=
  (s.reads.find? fun r => r.core == key && r.dev == dev && r.pa == pa && r.len == n && r.data.isSome).bind (·.data)

/-- One piece of an engine read, within one 64-byte unit. -/
def State.peekPiece (s : State) (g : Agent) (a n : Nat) : Look (List Byte) :=
  if windowAt a then
    match s.windowRead g.part g.task (va52 a) n with
    | .bytes bs => .ok bs
    | .fail st => .error (.fail st)
    | .wait => .error .wait
    | .page k key => .error (.page k key)
    | .poison pa n => .error (.poison pa n)
  else match s.enginePoison g.die g.part (va52 a) with
  | some pa => .error (.poison pa 8)
  | none => match s.xlatEngine g.die g.part .read a with
    | .trap t => .error (.fail (trapStatus t))
    | .transit => .error .wait
    | .ok loc _ => match loc.peer with
      | none =>
        if s.poisoned.any fun b => overlaps loc.pa n (b * 256) 256 then .error (.poison loc.pa n) else .ok (s.seenN g.path loc.pa n)
      | some d => match s.readData g.key d loc.pa n with
        | some bs => .ok bs
        | none => .error (.need [(d, loc.pa, n)])

/-- An engine read (R246): each 64-byte unit at once. All READs that are still needed are named together. -/
def State.peek (s : State) (g : Agent) (a n : Nat) : Look (List Byte) :=
  (cut (a % 2 ^ 64) n).foldl (fun acc x =>
    match acc, s.peekPiece g (x.1 % 2 ^ 64) x.2.1 with
    | .ok l, .ok bs => .ok (l ++ bs)
    | .ok _, .error e => .error e
    | .error (.need rs), .error (.need qs) => .error (.need (rs ++ qs))
    | .error (.need _), .error (.fail st) => .error (.fail st)
    | .error e, _ => .error e) (.ok [])

/-- A little-endian field of a read. -/
def State.peekNat (s : State) (g : Agent) (a n : Nat) : Look Nat := (s.peek g a n).map leNat

/-- Send the READs of a job that have not been sent. -/
def State.askReads (s : State) (key : Nat) (rs : List (Nat × Nat × Nat)) : State :=
  rs.foldl (fun s r =>
    if s.reads.any fun q => q.core == key && (q.dev, q.pa, q.len) == r then s
    else
      let tag := s.nextAtom
      let s := { s with
        nextAtom := (tag + 1) % 2 ^ 32
        reads := s.reads ++ [ReadReq.mk tag key r.1 r.2.1 r.2.2 s.now none] }
      s.send { blankMsg with kind := 6, dst := r.1, src := s.devId, seq := tag, len := r.2.2 - 1, addr := r.2.1 }) s

/-- The READs of a job whose data has been used. -/
def State.dropReads (s : State) (key : Nat) : State := { s with reads := s.reads.filter fun r => !(r.core == key && r.data.isSome) }

/-- What stops an engine without ending its record: it waits, has a scratch page refilled on its core (R245), asks peers, or
meets a poisoned block. -/
def State.stalled (s : State) (key : Nat) : Stop → State
  | .page n page => s.pageArrives n page
  | .need rs => s.askReads key rs
  | .poison pa n => s.poisonRead pa n
  | _ => s

/-! ## Writes -/

/-- Where one piece of an engine write goes: memory of this device, a peer as a WRITE message, a 4-byte word at a peer of which it
flips bits, or windows. -/
inductive Target where
  | mem (pa : Nat) (whole : Bool)
  | post (dev pa va : Nat)
  | bits (dev pa va : Nat)
  | windows (ts : List (Nat × Nat))
  deriving DecidableEq, Repr

/-- Check one piece of an engine write (R52, R108, R263). -/
def State.aimPiece (s : State) (g : Agent) (a n : Nat) : Look Target :=
  if windowAt a then
    match s.windowTargets g.part g.task (va52 a) n with
    | .ok ts => .ok (.windows ts)
    | .error st => .error (.fail st)
  else match s.xlatEngine g.die g.part .write a with
    | .trap t => .error (.fail (trapStatus t))
    | .transit => .error .wait
    | .ok loc _ => match loc.peer with
      | none => .ok (.mem loc.pa false)
      | some d => .ok (.post d loc.pa a)

/-- The physical source of a piece whose data stands in memory of this device, which a reference entry names (R296). -/
def State.sourcePa (s : State) (g : Agent) (va n : Nat) : Option Nat :=
  if va % 2 ^ 16 + n > 2 ^ 16 || windowAt va then none
  else match s.xlatEngine g.die g.part .read va with
    | .ok loc _ => if loc.peer.isNone then some loc.pa else none
    | _ => none

/-- The pieces of an engine write, with their targets, bytes, and the sources of their data (R296). -/
abbrev Plan := List (Target × Masked × Option Nat)

/-- A piece of a write at a peer (R260, R295): a WRITE message for each run of whole bytes, and an indivisible change at its home slice
for a byte that it covers in part (log entry 75). -/
def State.peerPieces (s : State) (g : Agent) (d pa va : Nat) (part : Masked) (src : Option Nat) : Look Plan :=
  let runs := (byteRuns 0 (part.map fun b => if b.2 = 0xFF then some b.1 else none)).map fun r =>
    (Target.post d (pa + r.1) (va + r.1), wholeBytes r.2, src.bind fun a => s.sourcePa g ((a + r.1) % 2 ^ 64) r.2.length)
  (part.zipIdx.filter fun b => b.1.2 != 0 && b.1.2 != 0xFF).foldl (fun acc b => do
    let l ← acc
    let at_ (x : Nat) : Nat := (x + b.2) / 4 * 4
    let k := (pa + b.2) % 4
    let old ← s.peekPiece g (at_ va) 4
    .ok (l ++ [(.bits d (at_ pa) (at_ va), List.replicate k (0, 0) ++ [((old.getD k 0 ^^^ b.1.1) &&& b.1.2, 0xFF)], none)])) (.ok runs)

/-- A masked engine write checked piece by piece. -/
def State.pieces (s : State) (g : Agent) (va : Nat) (bs : Masked) (src : Option Nat) : Look Plan :=
  (cut (va % 2 ^ 64) bs.length).foldl (fun acc x =>
    match acc with
    | .error e => .error e
    | .ok l =>
      let part := (bs.drop x.2.2).take x.2.1
      if part.all fun b => b.2 == 0 then .ok l
      else match s.aimPiece g (x.1 % 2 ^ 64) x.2.1 with
        | .error e => .error e
        | .ok (.post d pa va) => (s.peerPieces g d pa va part (src.map (· + x.2.2))).map fun q => l ++ q
        | .ok (.mem pa _) =>
          let block := (bs.drop (x.2.2 - pa % 256)).take 256
          .ok (l ++ [(.mem pa (covering pa x.2.2 bs.length && block.all fun b => b.2 == 0xFF), part, none)])
        | .ok t => .ok (l ++ [(t, part, none)])) (.ok [])

/-- May the messages of a write enter the send logs of their pairs (R294, R296)? An unopened pair, or a full log with nothing
outstanding, ends the record. -/
def State.checkLogs (s : State) (chn : Nat) (plan : Plan) : Look Plan :=
  let devs := plan.filterMap fun x => match x.1 with
    | .post d _ _ => some d
    | _ => none
  devs.eraseDups.foldl (fun acc d => do
    let p ← acc
    match s.logRoom d chn (devs.count d) with
    | .room => .ok p
    | .wait => .error .wait
    | .trap _ => .error (.fail stPerm)) (.ok plan)

/-- An engine write, checked. -/
def State.aim (s : State) (g : Agent) (chn va : Nat) (bs : Masked) (src : Option Nat) : Look Plan := do s.checkLogs chn (← s.pieces g va bs src)

/-- An engine's request to change a word at its home slice, here or at a peer: it goes the way of a core's atomics (R293, R307). -/
def State.jobAtom (s : State) (g : Agent) (key : Nat) (op : AtomOp) (sz : Nat) (loc : Loc) (va : Nat) (b : Word) : State :=
  let a : Atom := {
    id := s.nextAtom, owner := .job key g.die g.port, core := 65536, part := g.part, task := g.task, op := op, sz := sz, loc := loc, va := va
    b := b, c := 0, mode := 0, ret := false, fabric := loc.peer.isSome, pc := 0, seq := 0, since := s.now, past := false, sent := false
    queue := none, after := [], inRecord := none, old := none }
  { s with atoms := s.atoms ++ [a], nextAtom := (s.nextAtom + 1) % 2 ^ 32 }

/-- Make a checked write. A memory piece is performed at its home slice, indivisibly with the bits it keeps (R246, R260). -/
def State.emit (s : State) (g : Agent) (chn : Nat) (plan : Plan) : State :=
  plan.foldl (fun s x =>
    match x.1 with
    | .mem pa whole =>
      let s := s.clear g.path pa x.2.1.length
      s.perform pa (blend (s.mem.readN pa x.2.1.length) x.2.1) whole
    | .post d pa va => { s with egress := s.egress ++ postedOf none g.key g.part g.task d chn pa va (x.2.1.map (·.1)) x.2.2 }
    | .bits d pa va => s.jobAtom g g.key .xor 0 ⟨some d, pa⟩ va (BitVec.ofNat 64 (leNat (x.2.1.map (·.1))))
    | .windows ts => s.queueWindow g.part g.task g.key ts x.2.1) s

/-- Is it a request of a job? -/
def Atom.ofJob (a : Atom) (key : Nat) : Bool := match a.owner with
  | .job k _ _ => k == key
  | _ => false

/-- Is a write of a job still on its way to a window, to the egress or to a home slice (R197, R246)? -/
def State.windowsOf (s : State) (key : Nat) : Bool :=
  (s.windows.any fun w => w.job == key && w.failed == 0) || s.egress.any (·.job == key) || s.atoms.any (·.ofJob key)

/-- The status that a window has refused a write of a job with (R52). -/
def State.windowFault (s : State) (key : Nat) : Option Nat := (s.windows.find? fun w => w.job == key && w.failed != 0).map (·.failed)

/-- It has been taken up. -/
def State.dropFault (s : State) (key : Nat) : State := { s with windows := s.windows.filter fun w => !(w.job == key && w.failed != 0) }

/-- What a job's key becomes for its completion bits, which it waits for apart from its other writes (R255). -/
def bitKey (key : Nat) : Nat := key + 2 ^ 200

/-- Where the atomic OR of one bit of a 64-bit word goes (R268, R322). -/
def State.aimBit (s : State) (g : Agent) (va : Nat) : Look Target :=
  if windowAt va then
    match s.windowTargets g.part g.task (va52 va) 8 with
    | .ok ts => .ok (.windows ts)
    | .error st => .error (.fail st)
  else match s.xlatEngine g.die g.part .atomic va with
    | .trap t => .error (.fail (trapStatus t))
    | .transit => .error .wait
    | .ok loc _ => match loc.peer with
      | none => .ok (.mem loc.pa false)
      | some d => .ok (.post d loc.pa va)

/-- The atomic OR of bit `bit` of a word, at its home slice, at a peer's, or in a window. -/
def State.setBit (s : State) (g : Agent) (t : Target) (bit : Nat) : State :=
  let m : Byte := BitVec.ofNat 8 (2 ^ (bit % 8))
  match t with
  | .windows ts => s.queueWindow g.part g.task (bitKey g.key) (ts.map fun x => (x.1, x.2 + bit / 8)) [(m, m)]
  | .mem pa _ => s.jobAtom g (bitKey g.key) .or 1 ⟨none, pa⟩ 0 (BitVec.ofNat 64 (2 ^ bit))
  | .post d pa va | .bits d pa va => s.jobAtom g (bitKey g.key) .or 1 ⟨some d, pa⟩ va (BitVec.ofNat 64 (2 ^ bit))

end Sys2Proof.Machine
end

