-- ==== Sys2Proof/Machine/Copy.lean ====
section
/-! DEFINITION. The copy engines (R195–R200, R250–R270): the channel instructions, and the steps of a walk: reading, starting,
moving chunks or filling slots, and completing a record. -/

namespace Sys2Proof.Machine

/-! ## Records, parameter blocks, descriptors (Tables 12-1, 12-2, 12-4, 12-6) -/

/-- A transfer record (Tables 12-1 to 12-3). -/
structure Xfer where
  next : Nat
  src : Nat
  dst : Nat
  pblk : Nat
  pcrc : Nat
  ctrl : Nat
  bitmap : Nat
  stat : Nat
  aux : Nat

def Xfer.of (bs : List Byte) : Xfer :=
  let n := leNat bs
  ⟨field n 0 64, field n 64 64, field n 128 64, field n 192 64, field n 256 32, field n 288 32, field n 320 64, field n 384 64,
    field n 448 64⟩

def Xfer.own (r : Xfer) : Bool := field r.ctrl 0 1 == 1
def Xfer.opc (r : Xfer) : Nat := field r.ctrl 14 3
def Xfer.ckm (r : Xfer) : Nat := field r.ctrl 17 2
def Xfer.rnd (r : Xfer) : Nat := field r.ctrl 19 3
def Xfer.sat (r : Xfer) : Bool := field r.ctrl 22 1 == 1
def Xfer.sbi (r : Xfer) : Nat := field r.ctrl 23 4
def Xfer.sbe (r : Xfer) : Bool := field r.ctrl 27 1 == 1
def Xfer.chn (r : Xfer) : Nat := field r.ctrl 28 4
def Xfer.resume (r : Xfer) : Nat := field r.stat 16 48

/-- A parameter block (Table 12-4). -/
structure ParamBlock where
  ndim : Nat
  std : Nat
  dtd : Nat
  stdcrc : Nat
  dtdcrc : Nat
  ext : List Nat
  org : List Int
  sstr : List Int
  dstr : List Int

def ParamBlock.of (bs : List Byte) : ParamBlock :=
  let n := leNat bs
  let dims (o : Nat) : List Nat := (List.range 12).map fun d => field n (8 * (64 + 16 * d + o)) 32
  let sgn (o : Nat) : List Int := (dims o).map (toSigned 32)
  ⟨field n 0 8, field n 64 64, field n 128 64, field n 192 32, field n 224 32, dims 0, sgn 4, sgn 8, sgn 12⟩

/-- The block's own conditions (R257). -/
def blockBad (bs : List Byte) : Bool :=
  let b := ParamBlock.of bs
  b.ndim == 0 || decide (12 < b.ndim) || ((bs.drop 1).take 7 ++ (bs.drop 32).take 32).any (· != 0)
    || ((bs.drop (64 + 16 * b.ndim)).any (· != 0)) || b.std % 64 != 0 || b.dtd % 64 != 0 || b.sstr.headD 0 != 0

/-- A tensor descriptor (Table 12-6). -/
structure Tensor where
  fword : Nat
  ndim : Nat
  layout : Nat
  reserved : Nat
  otab : Nat
  text : List Nat

def Tensor.of (bs : List Byte) : Tensor :=
  let n := leNat bs
  ⟨field n 0 32, field n 32 8, field n 40 8, field n 48 16, field n 64 64, (List.range 12).map fun d => field n (8 * (16 + 4 * d)) 32⟩

def Tensor.fmt (t : Tensor) : Fmt := Fmt.ofWord t.fword

/-- The status of a descriptor (R261, R262). -/
def Tensor.status (t : Tensor) (ndim : Nat) : Nat :=
  if t.ndim ≠ ndim ∨ t.reserved ≠ 0 ∨ 1 < t.layout ∨ (t.text.take ndim).any (· == 0) ∨ (t.text.drop ndim).any (· != 0) then stBadRecord
  else if !descWellFormed t.fword then stBadFormat
  else if t.layout = 0 ∧ t.fmt.scale ≠ 0 ∨ t.layout = 1 ∧ ndim < 2 then stBadRecord
  else stOk

/-! ## A job: both sides of a started record -/

/-- One side of a copy: dense with byte strides, or checksummed tiles (with the destination's coordinate origin), its format,
its extents where it has a descriptor, and its owner table's header. -/
structure Side where
  ct : Bool
  base : Nat
  fmt : Fmt
  fword : Nat
  str : List Int
  text : Option (List Nat)
  otab : Nat
  own : Option (List Byte)

structure Job where
  xfer : Xfer
  ndim : Nat
  ext : List Nat
  org : List Int
  src : Side
  dst : Side

/-- The descriptor word of unsigned 8-bit integers, the element of a copy without descriptors. -/
def byteSide (base : Nat) (str : List Int) : Side := ⟨false, base, Fmt.int false 8, 0, str, none, 0, none⟩

/-- The fields of a record that no block is needed to judge (R253, R259, R269). -/
def Xfer.bad (r : Xfer) : Bool :=
  field r.ctrl 1 13 != 0 || decide (4 < r.opc) || decide (4 < r.rnd) || field r.stat 8 8 != 0
    || r.next % 64 != 0 || r.pblk % 64 != 0 || r.bitmap % 8 != 0
    || (if r.pblk = 0 then field r.aux 40 24 != 0 || r.opc != 0 || r.ckm != 0
        else if r.opc = 3 ∨ r.opc = 4 then r.aux % 4 != 0 else r.aux != 0)
    || (r.sbe && (r.dst != 0 || r.bitmap != 0))

/-- A side from its descriptor, or dense in the other side's format. -/
def sideOf (base : Nat) (str : List Int) (own : Option Tensor) (other : Option Tensor) (hdr : Option (List Byte)) : Side :=
  match own, other with
  | some t, _ => ⟨t.layout == 1, base, t.fmt, t.fword, str, some t.text, t.otab, hdr⟩
  | none, some t => ⟨false, base, t.fmt, t.fword, str, none, 0, none⟩
  | none, none => byteSide base str

def Job.swapped (j : Job) : Bool := j.xfer.opc == 2
/-- Destination extents: those of the iteration, the first two swapped by a transpose (R260). -/
def Job.outExt (j : Job) : List Nat := if j.swapped then j.ext.getD 1 1 :: j.ext.getD 0 1 :: j.ext.drop 2 else j.ext
/-- Codes are copied bit for bit (Table 12-5). -/
def Job.copies (j : Job) : Bool := j.xfer.opc == 0 || (2 ≤ j.xfer.opc && j.src.fword == j.dst.fword)
/-- The destination's blocks are quantised (R265). -/
def Job.quantises (j : Job) : Bool := j.dst.fmt.scale == 1 && (!j.copies || j.swapped)

def mult (k : Nat) (x : Int) : Bool := x % (k : Int) == 0

/-- The conditions of the opcode (Table 12-5, R265). -/
def Job.opBad (j : Job) : Bool :=
  (decide (2 ≤ j.xfer.opc) && decide (j.ndim < 2))
    || (j.xfer.opc == 4 && j.dst.ct)
    || (j.xfer.opc == 0 && j.src.fmt.width != j.dst.fmt.width)
    || (if j.quantises then
          j.outExt.headD 0 % 32 != 0 || !mult 32 (j.dst.str.headD 0)
        else if j.dst.fmt.scale ≠ 0 then
          !j.copies || j.swapped || j.src.fmt.scale != j.dst.fmt.scale || !mult 32 (j.org.headD 0) || !mult 32 (j.dst.str.headD 0) || j.ext.headD 0 % 32 != 0
        else j.xfer.opc == 0 && j.src.fmt.scale != 0)

/-- Coordinates of a side stay in its extents. -/
def inText (org : List Int) (ext : List Nat) (text : List Nat) : Bool :=
  ((org.zip ext).zip text).all fun x => decide (0 ≤ x.1.1) && decide (x.1.1 + x.1.2 ≤ (x.2 : Int))

/-- The conditions of the checksum mode (Table 12-8). -/
def Job.ckmBad (j : Job) : Bool :=
  let text (s : Side) : List Nat := s.text.getD []
  match j.xfer.ckm with
  | 0 => j.dst.ct
  | 1 => j.xfer.opc != 0 || !j.src.ct || !j.dst.ct || j.src.fword != j.dst.fword || decide (j.ndim < 2)
      || ((j.ext.take 2).any fun e => e % 128 != 0) || (((j.org.take 2) ++ (j.dst.str.take 2)).any fun o => !mult 128 o)
      || (((text j.src).take 2 ++ (text j.dst).take 2).any fun e => e % 128 != 0) || !inText j.org j.ext (text j.src)
  | 2 => !j.src.ct
  | _ => !j.dst.ct

/-- The job of a record with what was obtained at its start, or the status that refuses it. -/
def jobOf (r : Xfer) (block std dtd sown down : Option (List Byte)) : Except Nat Job :=
  if r.bad then .error stBadRecord
  else match block with
    | none => .ok ⟨r, 1, [field r.aux 0 40], [0], byteSide r.src [0], byteSide r.dst [0]⟩
    | some bs =>
      if blockBad bs then .error stBadRecord
      else
        let b := ParamBlock.of bs
        let n := b.ndim
        let ext := b.ext.take n
        let st := std.map Tensor.of
        let dt := dtd.map Tensor.of
        let j : Job := ⟨r, n, ext, b.org.take n, sideOf r.src (b.sstr.take n) st dt sown, sideOf r.dst (b.dstr.take n) dt st down⟩
        if ext.any (· == 0) then .ok { j with ext := [0] }
        else
          let s1 := (st.map (·.status n)).getD stOk
          let s2 := (dt.map (·.status n)).getD stOk
          if s1 ≠ stOk then .error s1
          else if s2 ≠ stOk then .error s2
          else if (j.src.ct && j.src.str.any (· != 0)) || (!j.dst.ct && j.dst.str.headD 0 != 0) || (r.sbe && j.dst.ct) || j.opBad || j.ckmBad
              || (j.src.ct && j.src.base % 64 != 0 && j.src.otab == 0) || (j.dst.ct && j.dst.base % 64 != 0 && j.dst.otab == 0)
              || (!j.src.ct && j.src.fmt.scale != 0) || (!j.dst.ct && j.dst.fmt.scale != 0)
              || (j.dst.ct && !inText j.dst.str j.outExt (j.dst.text.getD [])) then .error stBadRecord
          else .ok j

/-! ## The destination stream (R260, R268) -/

/-- Digits of a number in mixed radix, the first fastest. -/
def mixed : List Nat → Nat → List Nat
  | [], _ => []
  | e :: r, n => n % e :: mixed r (n / e)

def prod (l : List Nat) : Nat := l.foldl (· * ·) 1

/-- Elements of one destination run: a row of dimension 0, or one element where a transpose scatters whole bytes. -/
def Job.runLen (j : Job) : Nat := if j.swapped && j.dst.fmt.width % 8 == 0 then 1 else j.outExt.headD 0
def Job.runBytes (j : Job) : Nat := (j.runLen * j.dst.fmt.width + 7) / 8
/-- The iteration vector of element e of run r. Where the rows of a transpose of narrow elements overlap they are taken last row
first, so that of the vectors that reach one element the latest in linear order stands (R260). -/
def Job.vec (j : Job) (r e : Nat) : List Nat :=
  if !j.swapped then e :: mixed (j.ext.drop 1) r
  else if j.dst.fmt.width % 8 = 0 then mixed j.ext r
  else
    let m := mixed (j.ext.headD 1 :: j.ext.drop 2) r
    let d := j.dst.str.getD 1 0
    let back := decide (0 < d) && decide (8 * d < (j.dst.fmt.width * j.runLen : Nat))
    (if back then j.ext.headD 1 - 1 - m.headD 0 else m.headD 0) :: e :: m.drop 1

/-- Tiles of the destination along its dimension d. -/
def Job.tilesAlong (j : Job) (d : Nat) : Nat :=
  let n := j.outExt.getD d 1
  if d < 2 then
    let o := (j.dst.str.getD d 0).toNat
    (o + n - 1) / 128 - o / 128 + 1
  else n

/-- Tiles of the destination in the order of first touch: along the dimension that the iteration runs fastest. -/
def Job.tileRadix (j : Job) : List Nat :=
  let ns := (List.range j.ndim).map j.tilesAlong
  if j.swapped then ns.getD 1 1 :: ns.getD 0 1 :: ns.drop 2 else ns

/-- Bytes of the destination stream (R268). -/
def Job.total (j : Job) : Nat :=
  if prod j.ext = 0 then 0
  else if j.dst.ct then prod j.tileRadix * tileSize j.dst.fmt
  else prod j.ext / j.runLen * j.runBytes

def Job.chunks (j : Job) : Nat := (j.total + 511) / 512

/-! ## Source elements (R260–R263) -/

/-- A source element: its code, its scale, and the scale bytes that stand for it. -/
structure Elem where
  code : Nat
  scale : Option (Val × Flags)
  raw : Nat

/-- Tile L and the element's place in it (R262). -/
def tileIndex (text : List Nat) (c : List Nat) : Nat :=
  let nt (d : Nat) : Nat := (text.getD d 1 + 127) / 128
  let outer := ((c.zip text).drop 2).foldr (fun x a => x.1 + x.2 * a) 0
  c.getD 0 0 / 128 + nt 0 * (c.getD 1 0 / 128 + nt 1 * outer)

/-- The address of a tile's image: from the base, or by its owner-table entry (R262, R263). -/
def Side.tileAt (d : Side) (entries : List (Nat × Nat)) (l : Nat) : Option Nat :=
  let tsz := tileSize d.fmt
  match d.own with
  | none => some ((d.base + l * tsz) % 2 ^ 64)
  | some h =>
    let n := leNat h
    (entries.find? (·.1 == l)).map fun e => (field n 0 64 + field e.2 22 10 * field n 64 64 + field e.2 0 22 * tsz) % 2 ^ 64

/-- A tile named by an owner table must lie where its entry says (R263); one that is in transit is waited for (R378). One in a window
(R53) lies on this device. -/
def State.ownerOk (s : State) (g : Agent) (a : Access) (dev va : Nat) : Look Unit :=
  if windowAt va then (if dev = s.devId then .ok () else .error (.fail stPerm))
  else if !canonical va then .error (.fail stPage)
  else match s.lookupEngine g.die g.part (va52 va) with
    | .leaf e _ =>
      let there := match s.modeOf (leafFields e) with
        | .here => dev == s.devId
        | .direct p => p == dev && dev != s.devId
        | _ => false
      if !there then .error (.fail stPerm)
      else match s.denied a 4 (leafFields e) with
        | some t => .error (.fail (trapStatus t))
        | none => .ok ()
    | .transit .. => .error .wait
    | .fail => .error (.fail stPage)

/-- The owner-table entries of tiles (R263): known ones, their tiles lying where they say. One that has not been read yet is read and
kept before anything else is done with it. -/
def State.entriesFor (s : State) (g : Agent) (d : Side) (dst : Bool) (ls : List Nat) (known : List (Nat × Nat)) : Look (List (Nat × Nat)) :=
  match d.own with
  | none => .ok known
  | some h =>
    ls.foldl (fun acc l => do
      let known ← acc
      match known.find? (·.1 == l), d.tileAt known l with
      | some e, some va => (s.ownerOk g (if dst then .write else .read) (field e.2 22 10) va).map fun _ => known
      | _, _ =>
        if field (leNat h) 128 32 ≤ l then .error (.fail stBadRecord)
        else
          let v ← s.peekNat g ((d.otab + 64 + 4 * l) % 2 ^ 64) 4
          .error (.entry dst l v)) (.ok known)

/-- The source coordinates of an iteration vector (R260). -/
def State.coords (s : State) (g : Agent) (j : Job) (t : List Nat) : Look (List Int) := do
  let c : List Int := (j.org.zip t).map fun x => x.1 + x.2
  let c ← if j.xfer.opc = 3 then
      (s.peekNat g ((j.xfer.aux + 4 * t.getD 1 0) % 2 ^ 64) 4).map fun v => c.set 1 (j.org.getD 1 0 + toSigned 32 v)
    else .ok c
  match j.src.text with
  | some text => .ok ((c.zip text).map fun x => min (max x.1 0) ((x.2 : Int) - 1))
  | none => .ok c

/-- `w` bits at a bit address. -/
def State.peekBits (s : State) (g : Agent) (bit : Int) (w : Nat) : Look Nat :=
  let byte := bit / 8
  let sh := (bit % 8).toNat
  (s.peekNat g (toBits 64 byte) ((sh + w + 7) / 8)).map fun v => field v sh w

/-- An element of a dense source (R260). -/
def State.denseElem (s : State) (g : Agent) (d : Side) (c : List Int) : Look Elem :=
  let row := ((c.zip d.str).drop 1).foldl (fun a x => a + x.1 * x.2) 0
  let bit := ((d.base : Int) + row) * 8 + c.headD 0 * d.fmt.width
  (s.peekBits g bit d.fmt.width).map fun v => ⟨v, none, 0⟩

/-- An element of a tile image, unchecked. -/
def State.tileElem (s : State) (g : Agent) (f : Fmt) (addr i k : Nat) : Look Elem := do
  let code ← s.peekBits g ((addr : Int) * 8 + ((128 * i + k) * f.width : Nat)) f.width
  let area := addr + 2048 * f.width + 1024
  match f.scale with
  | 1 => (s.peekNat g ((area + 4 * i + k / 32) % 2 ^ 64) 1).map fun v => ⟨code, some (scaleValue v, 0), v⟩
  | 2 => (s.peekNat g ((area + 4 * i) % 2 ^ 64) 4).map fun v => ⟨code, some (Fmt.fp32.value v, 0), v⟩
  | _ => .ok ⟨code, none, 0⟩

/-- An element of a tile in hand. -/
def Tile.elem (f : Fmt) (t : Tile) (i k : Nat) : Elem :=
  let b (n : Nat) : Nat := t.scales.getD n 0
  ⟨t.elems.getD (128 * i + k) 0, t.scale f i k,
    match f.scale with
    | 1 => b (4 * i + k / 32)
    | 2 => leNat ((List.range 4).map fun n => BitVec.ofNat 8 (b (4 * i + n)))
    | _ => 0⟩

/-- Read and verify a source tile (R266): poisoned blocks give their raw bytes (R392), and a tile that fails is read once again.
The flag says that an event is to be counted. -/
def State.verified (s : State) (g : Agent) (run : Started) (f : Fmt) (addr : Nat) : Look (Tile × Bool) := do
  let bs ← State.peek { s with poisoned := [] } g addr (tileSize f)
  match (Tile.ofBytes f bs).verify f with
  | some x => .ok x
  | none => .error (if run.retried.contains addr then .fail stChecksum else .again addr)

/-- The source elements of iteration vectors, with the entries read and the tiles whose verification found something. -/
def State.elements (s : State) (g : Agent) (j : Job) (run : Started) (known : List (Nat × Nat)) (ts : List (List Nat)) :
    Look (List Elem × List (Nat × Nat) × List Nat) := do
  let cs ← ts.foldl (fun acc t => do
    let l ← acc
    let c ← s.coords g j t
    .ok (l ++ [c])) (.ok [])
  if !j.src.ct then
    let es ← cs.foldl (fun acc c => do
      let l ← acc
      let e ← s.denseElem g j.src c
      .ok (l ++ [e])) (.ok [])
    .ok (es, known, [])
  else
    let text := j.src.text.getD []
    let places := cs.map fun c => let c := c.map Int.toNat; (tileIndex text c, c.getD 1 0 % 128, c.getD 0 0 % 128)
    let ls := (places.map (·.1)).eraseDups
    let known ← s.entriesFor g j.src false ls known
    let tiles ← if j.xfer.ckm = 2 then
        ls.foldl (fun acc l => do
          let ts ← acc
          let t ← s.verified g run j.src.fmt ((j.src.tileAt known l).getD 0)
          .ok (ts ++ [(l, t)])) (.ok [])
      else .ok []
    let es ← places.foldl (fun acc p => do
      let l ← acc
      let e ← match tiles.find? (·.1 == p.1) with
        | some t => .ok (t.2.1.elem j.src.fmt p.2.1 p.2.2)
        | none => s.tileElem g j.src.fmt ((j.src.tileAt known p.1).getD 0) p.2.1 p.2.2
      .ok (l ++ [e])) (.ok [])
    .ok (es, known, (tiles.filter (·.2.2)).map fun t => (j.src.tileAt known t.1).getD 0)

/-- The value of a source element as a conversion takes it (R24, R28, R34). -/
def Job.value (j : Job) (e : Elem) : Val := (scaledValue j.src.fmt j.dst.fmt.isInt e.scale e.code).1

/-- f(x) of Table 12-5 for an element that no block quantises. -/
def Job.code (j : Job) (e : Elem) : Nat :=
  if j.copies then e.code else (j.dst.fmt.store j.xfer.rnd j.xfer.sat 0 (j.value e)).1

/-! ## Chunks of a dense destination -/

/-- One piece of a run within a chunk: its address, its first byte and length in the run, its elements' vectors. -/
structure Segment where
  addr : Nat
  b0 : Nat
  len : Nat
  e0 : Nat
  ts : List (List Nat)

/-- The destination address of a run (R260). -/
def State.runAddr (s : State) (g : Agent) (j : Job) (r : Nat) : Look Nat := do
  let t := j.vec r 0
  let u := if j.swapped then t.getD 1 0 :: t.getD 0 0 :: t.drop 2 else t
  let u ← if j.xfer.opc = 4 then (s.peekNat g ((j.xfer.aux + 4 * t.getD 1 0) % 2 ^ 64) 4).map fun v => u.set 1 v else .ok u
  let row := ((u.zip j.dst.str).drop 1).foldl (fun a x => a + (x.1 : Int) * x.2) 0
  .ok (toBits 64 ((j.dst.base : Int) + (u.headD 0 * j.dst.fmt.width / 8 : Nat) + row))

/-- The pieces of runs that stream bytes x to y − 1 make up. -/
def State.segments (s : State) (g : Agent) (j : Job) (x y : Nat) : Look (List Segment) :=
  let w := j.dst.fmt.width
  let rb := j.runBytes
  (List.range ((y - 1) / rb - x / rb + 1)).foldl (fun acc k => do
    let l ← acc
    let r := x / rb + k
    let lo := max x (r * rb) - r * rb
    let hi := min y (r * rb + rb) - r * rb
    let e0 := 8 * lo / w
    let e1 := min j.runLen ((8 * hi + w - 1) / w)
    let addr ← s.runAddr g j r
    .ok (l ++ [⟨(addr + lo) % 2 ^ 64, lo, hi - lo, e0, (List.range (e1 - e0)).map fun i => j.vec r (e0 + i)⟩])) (.ok [])

/-- The masked bytes of a piece from its elements' codes (R27, R260). -/
def Segment.bytes (g : Segment) (w : Nat) (codes : List Nat) : Masked :=
  let (v, m) := codes.foldr (fun c a => (c % 2 ^ w + 2 ^ w * a.1, 2 ^ w - 1 + 2 ^ w * a.2)) (0, 0)
  let place (x : Nat) : Nat := if 8 * g.b0 ≤ w * g.e0 then x * 2 ^ (w * g.e0 - 8 * g.b0) else x / 2 ^ (8 * g.b0 - w * g.e0)
  (leBytes g.len (place v)).zip (leBytes g.len (place m))

/-- What a chunk or a slot moves: writes by address, each with the address where its bytes stand as they are, if they do (R296), owner
entries read (destination side, tile, entry), addresses of tiles whose verification found something, and the image in hand. -/
structure Move where
  writes : List (Nat × Masked × Option Nat)
  entries : List (Bool × Nat × Nat)
  events : List Nat
  image : Option (Nat × Masked)

def sideEntries (dst : Bool) (es : List (Bool × Nat × Nat)) : List (Nat × Nat) := (es.filter (·.1 == dst)).map (·.2)

/-- Where the bytes of a piece stand in a dense source, where they are copied as they stand (R296). -/
def State.sourceOf (s : State) (g : Agent) (j : Job) (q : Segment) : Option Nat :=
  let w := j.dst.fmt.width
  if j.src.ct || !j.copies || j.swapped || w % 8 != 0 then none
  else match (q.ts.head?).map (s.coords g j), (q.ts.getLast?).map (s.coords g j) with
    | some (.ok c), some (.ok d) =>
      if d.headD 0 - c.headD 0 + 1 = q.ts.length then
        let row := ((c.zip j.src.str).drop 1).foldl (fun a x => a + x.1 * x.2) 0
        some (toBits 64 ((j.src.base : Int) + row + c.headD 0 * (w / 8 : Nat) + (q.b0 - q.e0 * w / 8 : Nat)))
      else none
    | _, _ => none

/-- Stream bytes x to y − 1 of a dense destination. -/
def State.denseMove (s : State) (g : Agent) (j : Job) (run : Started) (x y : Nat) : Look Move := do
  let segs ← s.segments g j x y
  let (es, known, ev) ← s.elements g j run (sideEntries false run.entries) (segs.flatMap (·.ts))
  let (ws, _) := segs.foldl (fun (acc : List (Nat × Masked × Option Nat) × List Elem) q =>
    (acc.1 ++ [(q.addr, q.bytes j.dst.fmt.width ((acc.2.take q.ts.length).map j.code), s.sourceOf g j q)], acc.2.drop q.ts.length)) ([], es)
  .ok ⟨ws, (run.entries.filter (·.1)) ++ known.map (false, ·), ev, none⟩

/-! ## Images of a tiled destination (R262, R264–R267) -/

/-- The destination coordinates of tile k in touch order: tile numbers along dimensions 0 and 1, positions along others. -/
def Job.tileCoord (j : Job) (k : Nat) : List Nat :=
  let m := mixed j.tileRadix k
  let m := if j.swapped then m.getD 1 0 :: m.getD 0 0 :: m.drop 2 else m
  m.zipIdx.map fun x =>
    let o := (j.dst.str.getD x.2 0).toNat
    if x.2 < 2 then o / 128 + x.1 else o + x.1

/-- The moved elements of tile k: row, column, iteration vector. -/
def Job.tileItems (j : Job) (k : Nat) : List (Nat × Nat × List Nat) :=
  let q := j.tileCoord k
  let o (d : Nat) : Nat := (j.dst.str.getD d 0).toNat
  let span (d : Nat) : List Nat := (List.range 128).filter fun i =>
    let c := 128 * q.getD d 0 + i
    decide (o d ≤ c) && decide (c < o d + j.outExt.getD d 0)
  let outer := (q.zipIdx.drop 2).map fun x => x.1 - o x.2
  (span 1).flatMap fun i => (span 0).map fun n =>
    let u0 := 128 * q.getD 0 0 + n - o 0
    let u1 := 128 * q.getD 1 0 + i - o 1
    (i, n, if j.swapped then u1 :: u0 :: outer else u0 :: u1 :: outer)

/-- The index of tile k (R262). -/
def Job.tileNo (j : Job) (k : Nat) : Nat :=
  let q := j.tileCoord k
  tileIndex (j.dst.text.getD []) ((128 * q.getD 0 0) :: (128 * q.getD 1 0) :: q.drop 2)

/-- The elements of an old tile replaced by moved ones, the positions past the extents by +0 (R262); scales replaced; the
second tile marks the bits written. -/
def Job.buildTile (j : Job) (k : Nat) (old : Tile) (items : List (Nat × Nat × Elem)) : Tile × Tile :=
  let f := j.dst.fmt
  let q := j.tileCoord k
  let text := j.dst.text.getD []
  let full := 2 ^ f.width - 1
  let past (i n : Nat) : Bool := decide (text.getD 1 0 ≤ 128 * q.getD 1 0 + i) || decide (text.getD 0 0 ≤ 128 * q.getD 0 0 + n)
  let edges := (List.range 16384).filter fun x => past (x / 128) (x % 128)
  let elems := edges.foldl (fun a x => a.setIfInBounds x 0) old.elems
  let marks := edges.foldl (fun a x => a.setIfInBounds x full) (Array.replicate 16384 0)
  let blocks := if j.quantises then
      ((List.range 128).flatMap fun i => (List.range 4).map fun b => (i, b)).filterMap fun ib =>
        let es := items.filter fun x => x.1 == ib.1 && x.2.1 / 32 == ib.2
        if es.isEmpty then none
        else let (c, cs, _) := quantise f j.xfer.rnd [] (es.map fun x => some (j.value x.2.2)); some (ib, c, (es.zip cs).map fun y => (y.1.1, y.1.2.1, y.2.getD 0))
    else []
  let codes : List (Nat × Nat × Nat) := if j.quantises then blocks.flatMap (·.2.2) else items.map fun x => (x.1, x.2.1, j.code x.2.2)
  let scales : List (Nat × Nat) :=
    if j.quantises then blocks.map fun b => (4 * b.1.1 + b.1.2, b.2.1)
    else match f.scale with
      | 1 => items.map fun x => (4 * x.1 + x.2.1 / 32, x.2.2.raw)
      | 2 => items.flatMap fun x => (List.range 4).map fun n => (4 * x.1 + n, field x.2.2.raw (8 * n) 8)
      | _ => []
  let elems := codes.foldl (fun a x => a.setIfInBounds (128 * x.1 + x.2.1) x.2.2) elems
  let marks := codes.foldl (fun a x => a.setIfInBounds (128 * x.1 + x.2.1) full) marks
  let sc := scales.foldl (fun a x => a.setIfInBounds x.1 x.2) old.scales
  let scm := scales.foldl (fun a x => a.setIfInBounds x.1 255) (Array.replicate 512 0)
  let all := Array.replicate 128 (2 ^ 32 - 1)
  (({ old with elems := elems, scales := sc } : Tile).summed f, ⟨marks, all, all, scm⟩)

/-- The source tile of which tile k is a whole copy (R264). -/
def State.copiedTile (s : State) (g : Agent) (j : Job) (k : Nat) : Look Nat := do
  let c ← s.coords g j (((j.tileItems k).head?.map (·.2.2)).getD [])
  .ok (tileIndex (j.src.text.getD []) (c.map Int.toNat))

/-- The image of tile k: a whole copy, or regenerated (R264–R267). -/
def State.imageOf (s : State) (g : Agent) (j : Job) (run : Started) (k : Nat) : Look Move := do
  let f := j.dst.fmt
  let l := j.tileNo k
  let dknown ← s.entriesFor g j.dst true [l] (sideEntries true run.entries)
  let addr := (j.dst.tileAt dknown l).getD 0
  let items := j.tileItems k
  if j.xfer.ckm = 1 then
    let sl ← s.copiedTile g j k
    let sknown ← s.entriesFor g j.src false [sl] (sideEntries false run.entries)
    let bs ← s.peek g ((j.src.tileAt sknown sl).getD 0) (tileSize f)
    .ok ⟨[], dknown.map (true, ·) ++ sknown.map (false, ·), [], some (k, wholeBytes bs)⟩
  else
    let (es, sknown, ev) ← s.elements g j run (sideEntries false run.entries) (items.map (·.2.2))
    let old ← if items.length = 16384 then .ok (List.replicate (tileSize f) 0) else s.peek g addr (tileSize f)
    let (t, m) := j.buildTile k (Tile.ofBytes f old) ((items.zip es).map fun x => (x.1.1, x.1.2.1, x.2))
    .ok ⟨[], dknown.map (true, ·) ++ sknown.map (false, ·), ev, some (k, (t.bytes f).zip (m.bytes f))⟩

/-- Chunk n of the job's stream (R268). -/
def State.chunkOf (s : State) (g : Agent) (j : Job) (run : Started) (n : Nat) : Look Move := do
  if !j.dst.ct then s.denseMove g j run (512 * n) (min j.total (512 * n + 512))
  else
    let per := tileSize j.dst.fmt / 512
    let k := n / per
    let mv ← match run.image with
      | some (k', im) => if k' = k then .ok ⟨[], run.entries, [], some (k, im)⟩ else s.imageOf g j run k
      | none => s.imageOf g j run k
    let im := (mv.image.map (·.2)).getD []
    let addr := (j.dst.tileAt (sideEntries true mv.entries) (j.tileNo k)).getD 0
    let from_ ← if j.xfer.ckm = 1 then (s.copiedTile g j k).map (j.src.tileAt (sideEntries false mv.entries)) else .ok none
    let part (a : Nat) : Nat := (a + 512 * (n % per)) % 2 ^ 64
    .ok { mv with writes := [(part addr, (im.drop (512 * (n % per))).take 512, from_.map part)] }

/-! ## Channels (R196, R199, R200, R250) -/

def Chan.same (c x : Chan) : Bool := x.part == c.part && x.cont == c.cont && x.ch == c.ch && x.life == c.life
def State.chan? (s : State) (part cont ch : Nat) : Option Chan := s.chans.find? (·.is part cont ch)
def State.onChan (s : State) (c : Chan) (f : Chan → Chan) : State :=
  { s with chans := s.chans.map fun x => if c.same x then f x else x }

/-- An engine, or, where it is retired, the next that remains on its die (R251). -/
def State.engineOn (s : State) (own : Nat) : Nat :=
  let die := own / 32 * 32
  ((List.range 32).map fun k => die + (own - die + k) % 32).find? (fun e => !s.retired.contains (.engine e)) |>.getD own

/-- The engine that serves a channel on a cluster (R250). -/
def State.engineFor (s : State) (cluster ch : Nat) : Nat := s.engineOn (2 * cluster + ch / 4)

/-- The channel of the acting core, made where the context has none yet. -/
def State.myChan (s : State) (ch : Nat) : Chan :=
  (s.chan? s.core.part s.core.cont ch).getD ⟨s.core.part, s.core.cont, ch, 0, clusterOf s.core.phys, [], none, stOk, false⟩

def State.putChan (s : State) (c : Chan) : State :=
  if (s.chan? c.part c.cont c.ch).isSome then s.onChan c fun _ => c else { s with chans := s.chans ++ [c] }

/-- A re-kick: a parked walk reads its record again (R196). -/
def Chan.rekick (c : Chan) : Chan := { c with walk := c.walk.map fun w => { w with parked := false } }

def execCpost (ch a : Nat) (s : State) : Out :=
  let h := (s.rs a).toNat
  .next <| if s.inGroup then s.refuse .groupViolation
  else if h = 0 then s.inFull fun s => (s.enginePost).putChan (s.myChan ch).rekick
  else s.checked (s.check .rw 3 h 1 64) fun _ =>
    if 16 ≤ (s.myChan ch).heads.length then s.stallOn (.chan ch)
    else s.inFull fun s =>
      let c := (s.myChan ch).rekick
      (s.enginePost).putChan { c with heads := c.heads ++ [⟨h, s.core.task, false⟩], cluster := clusterOf s.core.phys }

/-- CPINV (R199): the caches of the engines that serve the core's channels, those that walk chains of theirs elsewhere included. -/
def execCpinv (s : State) : Out :=
  .next <| if s.inGroup then s.refuse .groupViolation
  else
    let walks := (s.chans.filter fun c => c.of s.core.part s.core.cont).filterMap fun c => c.walk.map (·.engine)
    let es := (List.range 8).map (s.engineFor (clusterOf s.core.phys)) ++ walks
    { s with params := s.params.filter fun p => !es.contains p.1 }

/-- The state of a channel (Table 9-3). -/
def Chan.query (c : Chan) : Nat :=
  let parked := (c.walk.map (·.parked)).getD false
  let st := if c.heads.isEmpty then (if c.bad then 3 else 0) else if parked then 2 else 1
  let cur := match c.walk, c.heads with
    | some w, _ => va52 w.va / 64 * 2 ^ 18
    | none, h :: _ => va52 h.va / 64 * 2 ^ 18
    | none, [] => 0
  cur + st * 2 ^ 16 + c.last * 256 + c.heads.length

def execCqry (ch d : Nat) (s : State) : Out := .next (s.result 4 [.s d (BitVec.ofNat 64 (s.myChan ch).query)])

/-! ## Steps of a walk (R254–R256, R258) -/

/-- The task that posted the chain that a channel walks first (R190). -/
def Chan.task (c : Chan) : Nat := ((c.heads.head?).map (·.task)).getD 0

/-- The job of a channel; its accesses pass the port of its engine's cluster. -/
def Chan.agent (c : Chan) : Agent :=
  let e := (c.walk.map (·.engine)).getD (2 * c.cluster)
  ⟨c.part, c.task, jobKey c.part c.cont c.ch + c.life * 2 ^ 80, Path.ofCluster (e / 2), 64 + e % 32⟩

/-- Are the records of the channel's first chain that have not started cancelled (R256, R345)? -/
def State.copyCancelled (s : State) (c : Chan) : Bool :=
  ((c.heads.head?).map (·.cancel)).getD false || match s.task? c.part c.task with
    | some t => t.state == .ending || t.state == .rerunning
    | none => false

/-- Is the continuation that posted still published (R214)? -/
def State.posted (s : State) (c : Chan) : Bool :=
  c.life == 0 && ((s.part? c.part).map fun p => p.recs.any (·.1 == c.cont)).getD false

/-- The chain of a channel has ended with a status (R196, R201): its head leaves the queue. -/
def State.endChain (s : State) (c : Chan) (st : Nat) : State :=
  let s := s.onChan c fun x => { x with
    heads := x.heads.drop 1, walk := none, last := st, bad := st != stOk }
  let s := (s.dropFault c.agent.key).dropFault (bitKey c.agent.key)
  let s := s.entryLeft (.chan c.ch) fun k => k.part == c.part && k.cont == c.cont
  if s.posted c then s else { s with chans := s.chans.filter fun x => !(c.same x && x.heads.isEmpty) }

def State.onWalk (s : State) (c : Chan) (f : Walk → Walk) : State := s.onChan c fun x => { x with walk := x.walk.map f }

/-- The engine reads the next record of a chain (R254). OWN = 0 parks the walk; a record of a cancelled task is not started
(R256), and a chain that leads back to a record so completed in it has no more of them; one that cannot be read ends its chain (R196). -/
def execRecordRead (k : Nat) (s : State) : Out :=
  .next <| match s.chans[k]? with
  | none => s
  | some c => if s.parkedCopies c.part then s else
    let go (w : Walk) : State :=
      let gone := s.copyCancelled c
      if w.bytes.isSome || (w.parked && !gone) then s
      else match s.peek c.agent w.va 64 with
        | .error (.fail st) => s.endChain c (if gone then stCancelled else st)
        | .error e => (s.onChan c fun x => { x with walk := some w }).stalled c.agent.key e
        | .ok bs =>
          let s := s.dropReads c.agent.key
          let r := Xfer.of bs
          if gone then
            if w.seen.contains w.va then s.endChain c stCancelled
            else s.onChan c fun x => { x with walk := some { w with bytes := some bs, parked := false, final := some stCancelled } }
          else if r.own then s.onChan c fun x => { x with walk := some { w with bytes := some bs } }
          else s.onChan c fun x => { x with walk := some { w with parked := true } }
    match c.walk, c.heads with
    | some w, _ => go w
    | none, h :: _ => go ⟨s.engineFor c.cluster c.ch, h.va, none, none, false, none, []⟩
    | none, [] => s

/-- Obtain the bytes that a pointer and a CRC name: from the cache, or from memory when their CRC agrees (R258). -/
def State.obtain (s : State) (g : Agent) (e ptr crc n : Nat) : Look (List Byte × List (Nat × Nat × Nat × List Byte)) :=
  match s.params.find? fun p => p.1 == e && p.2.1 == ptr && p.2.2.1 == crc with
  | some p => .ok (p.2.2.2, [])
  | none => match s.peek g ptr n with
    | .error x => .error x
    | .ok bs => if crc32c bs = crc then .ok (bs, [(e, ptr, crc, bs)]) else .error (.fail stParamTorn)

/-- Everything that a record's start obtains (R258, R263). -/
def State.obtainAll (s : State) (g : Agent) (e : Nat) (r : Xfer) : Look (Started × List (Nat × Nat × Nat × List Byte)) := do
  let blank : Started := ⟨none, none, none, none, none, [], [], [], r.resume, 0, none, false, 512 * r.resume, false⟩
  if r.bad || r.pblk = 0 then .ok (blank, [])
  else
    let (bs, n0) ← s.obtain g e r.pblk r.pcrc 256
    let b := ParamBlock.of bs
    if blockBad bs then .ok ({ blank with block := some bs }, n0)
    else
      let (std, n1) ← if b.std = 0 then .ok (none, []) else (s.obtain g e b.std b.stdcrc 64).map fun x => (some x.1, x.2)
      let (dtd, n2) ← if b.dtd = 0 then .ok (none, []) else (s.obtain g e b.dtd b.dtdcrc 64).map fun x => (some x.1, x.2)
      let header (d : Option (List Byte)) : Look (Option (List Byte)) := match d.map Tensor.of with
        | some t => if t.layout = 1 ∧ t.otab ≠ 0 ∧ t.status b.ndim = stOk then (s.peek g t.otab 64).map some else .ok none
        | none => .ok none
      let sown ← header std
      let down ← header dtd
      .ok ({ blank with block := some bs, std := std, dtd := dtd, sown := sown, down := down }, n0 ++ n1 ++ n2)

def Started.job (run : Started) (r : Xfer) : Except Nat Job := jobOf r run.block run.std run.dtd run.sown run.down

def Ring.at (x : Ring) (c : Chan) (sb : Nat) : Bool := x.part == c.part && x.cont == c.cont && x.life == c.life && x.sb == sb

/-- The ring word and the read position of a stream buffer of the continuation that posted: on the core that runs it, with the
engine, or in its frame; none where it has ended. -/
def State.ringOf (s : State) (c : Chan) (sb : Nat) : Word × Nat :=
  let frame := s.recFrame c.part c.cont
  let out : Word × Nat := (BitVec.ofNat 64 (s.readRec c.part frame (0xC40 + 8 * sb) 8) &&& sbFields, s.readRec c.part frame (0x140 + 2 * sb) 1)
  match (if c.life = 0 then s.runner c.part c.cont else none) with
  | some n => (bankGet 0 (s.coreOf n).sb sb, bankGet 0 (s.coreOf n).sbPos sb)
  | none => match s.rings.find? (·.at c sb) with
    | some x => (x.word, out.2)
    | none => if s.posted c then out else (0, 0)

def State.ringWord (s : State) (c : Chan) (sb : Nat) : Word := (s.ringOf c sb).1

/-- A record's ring is attached (R269): slot position p is where the next slot that the writer fills stands, after those that the
reader has not acquired (log entry 50). -/
def State.attach (s : State) (c : Chan) (sb : Nat) : State :=
  let (word, pos) := s.ringOf c sb
  let r := SbWord.of word
  { s with rings := (s.rings.filter fun x => !x.at c sb) ++ [⟨c.part, c.cont, sb, c.life, word, (pos + r.filled) % max 1 r.slots, true⟩] }

/-- It is detached; a continuation that is in its frame takes the engine's values at its next pick-up. -/
def State.detach (s : State) (c : Chan) (sb : Nat) : State :=
  if s.posted c && (s.runner c.part c.cont).isNone then
    { s with rings := s.rings.map fun x => if x.at c sb then { x with attached := false } else x }
  else { s with rings := s.rings.filter fun x => !x.at c sb }

/-- Some entries of an engine's parameter cache give way (R258). -/
def State.evictParams (s : State) (e : Nat) : State :=
  let keep := (s.params.zipIdx.filter fun p => p.1.1 != e || !hasBit (Config.evicted s.fresh) p.2).map (·.1)
  { s with params := keep, fresh := s.fresh + 1 }

/-- A record starts (R258): its block and descriptors are fixed, its ring is attached (R269), or it gets the status with which
it completes. -/
def execRecordStart (k : Nat) (s : State) : Out :=
  .next <| match s.chans[k]? with
  | none => s
  | some c => if s.parkedCopies c.part then s else match c.walk with
    | none => s
    | some w => match w.bytes with
      | none => s
      | some bs =>
        if w.started.isSome || w.final.isSome then s
        else if s.copyCancelled c then s.onWalk c fun w => { w with final := some stCancelled }
        else
          let r := Xfer.of bs
          let t := s.evictParams w.engine
          match t.obtainAll c.agent w.engine r with
          | .error (.fail st) => t.onWalk c fun w => { w with final := some st }
          | .error e => s.stalled c.agent.key e
          | .ok (run, new) =>
            let s := { t with params := t.params ++ new }.dropReads c.agent.key
            match run.job r with
            | .error st => s.onWalk c fun w => { w with final := some st }
            | .ok _ =>
              let sb := SbWord.of (s.ringWord c r.sbi)
              if r.sbe then
                if sb.slots = 0 then s.onWalk c fun w => { w with final := some stBadRecord }
                else (s.attach c r.sbi).onWalk c fun w => { w with started := some run }
              else s.onWalk c fun w => { w with started := some run }

/-- Cycles in which an engine moves data are charged to the posting task (R251, R343). -/
def State.chargeCopy (s : State) (c : Chan) (n : Nat) : State :=
  let w := ((s.part? c.part).map (·.wcopy)).getD 0
  { s with fresh := s.fresh + 1 }.charge c.part c.task (((n + 127) / 128 + Config.copyCycles s.fresh) * w)

/-- The events that verification found, counted on the channels of their tiles, once a tile and record (R266). -/
def State.countTiles (s : State) (g : Agent) (vas : List Nat) : State :=
  vas.foldl (fun s va => s.countTile (match s.xlatEngine g.die g.part .read va with
    | .ok loc _ => some loc
    | _ => none)) s

/-- Check every write of a move (R255). -/
def State.aimAll (s : State) (g : Agent) (chn : Nat) (ws : List (Nat × Masked × Option Nat)) : Look Plan := do
  let plan ← ws.foldl (fun acc w => do
    let l ← acc
    let p ← s.pieces g w.1 w.2.1 w.2.2
    .ok (l ++ p)) (.ok [])
  s.checkLogs chn plan

/-- What a walk moves next: its record and run, the move with its checked writes, and, for a slot, the ring's word and size. -/
structure Work where
  xfer : Xfer
  run : Started
  plan : Look (Move × Plan)
  slot : Option Word

/-- The next 512-byte destination chunk of a started record, or the next slot of its ring, if it has one (R251, R268, R269). -/
def State.workOf (s : State) (c : Chan) : Option Work :=
  match c.walk with
  | none => none
  | some w => match w.bytes, w.started with
    | some bs, some run =>
      let r := Xfer.of bs
      let g := c.agent
      match run.job r with
      | .error _ => none
      | .ok j =>
        if w.final.isSome then none
        else if r.sbe then
          let word := s.ringWord c r.sbi
          let sb := SbWord.of word
          let x := run.base + run.slots * sb.size
          if j.total ≤ x ∨ (sb.free = 0 ∧ !run.taken) then none
          else
            let pos := ((s.rings.find? (·.at c r.sbi)).map (·.pos)).getD 0
            some ⟨r, run, (do
              let mv ← s.denseMove g j run x (min j.total (x + sb.size))
              let data := mv.writes.flatMap fun w => w.2.1.map fun b => b.1 &&& b.2
              let data := (data ++ List.replicate sb.size 0).take sb.size
              let va := s.readRec c.part c.cont 48 8 + sb.base * 64 + pos * sb.size
              let plan ← s.aim g r.chn (va % 2 ^ 64) (wholeBytes data) none
              .ok ({ mv with writes := [(va, wholeBytes data, none)] }, plan)), some word⟩
        else if j.chunks ≤ run.pos then none
        else some ⟨r, run, (do
          let mv ← s.chunkOf g j run run.pos
          let plan ← s.aimAll g r.chn mv.writes
          .ok (mv, plan)), none⟩
    | _, _ => none

/-- May the walk of a channel move at once? -/
def State.movable (s : State) (c : Chan) : Bool :=
  !s.parkedCopies c.part && match s.workOf c with
    | some w => !w.run.busy && w.plan.isOk
    | none => false

def Chan.engine (c : Chan) : Nat := (c.walk.map (·.engine)).getD 0

/-- Is it a channel's turn among those of its engine? They move a chunk each in turn, in the order of their keys and round again from
the one that moved last (R251), which need not be there any more. -/
def State.hasTurn (s : State) (c : Chan) : Bool :=
  let e := c.engine
  let last := bankGet 0 s.served e
  let turn (x : Chan) : Nat := (x.agent.key + 2 ^ 128 - 1 - last) % 2 ^ 128
  (s.chans.filter fun x => x.walk.isSome && x.engine == e).all fun x => decide (turn c ≤ turn x) || !s.movable x

/-- The chunk just moved has been performed, and counts for RESUME: its bitmap bit is set (R268). -/
def State.chunkDone (s : State) (c : Chan) (r : Xfer) (n : Nat) : State :=
  let next (s : State) : State := s.onWalk c fun w => { w with started := w.started.map fun t => { t with pos := n + 1, busy := false } }
  if r.bitmap = 0 then next s
  else match s.aimBit c.agent ((r.bitmap + 8 * (n / 64)) % 2 ^ 64) with
    | .ok t => next (s.setBit c.agent t (n % 64))
    | .error (.fail st) => (next s).onWalk c fun w => { w with final := some st }
    | .error _ => s

/-- Change the word of an attached ring, on the running core or with the ring (R269). -/
def State.setRingWord (s : State) (c : Chan) (sb : Nat) (new : Word) (pos : Option Nat) : State :=
  let s : State := { s with rings := s.rings.map fun x => if x.at c sb then { x with word := new, pos := pos.getD x.pos } else x }
  match (if c.life = 0 then s.runner c.part c.cont else none) with
  | some n => s.onCoreN n fun k => { k with sb := bankSet 0 k.sb sb new, written := { k.written with sb := k.written.sb ||| 2 ^ sb } }
  | none => s

/-- Every byte of a slot has been performed: the slot counts as filled (R269). -/
def State.slotDone (s : State) (c : Chan) (sb : Nat) : State :=
  let word := s.ringWord c sb
  let r := SbWord.of word
  let pos := ((s.rings.find? (·.at c sb)).map (·.pos)).getD 0
  (s.setRingWord c sb (sbCounts word (r.filled + 1) r.free) (some ((pos + 1) % max 1 r.slots))).onWalk c fun w =>
    { w with started := w.started.map fun t => { t with slots := t.slots + 1, pos := (t.base + (t.slots + 1) * r.size) / 512, busy := false, taken := false } }

/-- A walk's next chunk or slot: its writes leave, or what stops them is dealt with (R251, R255). -/
def State.moveOn (s : State) (c : Chan) (w : Work) (done : State → State) : State :=
  let g := c.agent
  let on (s : State) (f : Started → Started) : State := s.onWalk c fun k => { k with started := k.started.map f }
  if w.run.busy then
    if s.windowsOf g.key then s
    else match s.windowFault g.key with
      | some st => on ((s.dropFault g.key).onWalk c fun k => { k with final := some st }) fun t => { t with busy := false }
      | none => done s
  else match w.plan with
    | .error (.fail st) => s.onWalk c fun k => { k with final := some st }
    | .error (.again va) => on (s.dropReads g.key) fun t => { t with retried := t.retried ++ [va] }
    | .error (.entry dst l v) => on (s.dropReads g.key) fun t => { t with entries := t.entries ++ [(dst, l, v)] }
    | .error e => s.stalled g.key e
    | .ok (mv, plan) =>
      if !s.hasTurn c then s
      else
        let new := mv.events.filter fun va => !w.run.counted.contains va
        let s := ((s.emit g w.xfer.chn plan).countTiles g new).dropReads g.key
        let s := s.chargeCopy c (mv.writes.foldl (fun n w => n + w.2.1.length) 0)
        let s : State := { s with served := bankSet 0 s.served c.engine g.key }
        let moved (t : Started) : Started :=
          { t with entries := mv.entries, counted := t.counted ++ new, retried := [], image := mv.image, busy := true }
        let s := on s moved
        if s.windowsOf g.key then s else done s

/-- The engine moves one 512-byte destination chunk (R251, R268); its bit follows when every byte has been performed, those
for windows when they have landed (R197). Where the partition's engines are to park, a chunk in hand is brought to its boundary and no
other is begun (R400). -/
def execChunkMove (k : Nat) (s : State) : Out :=
  .next <| match s.chans[k]? with
  | none => s
  | some c => match s.workOf c with
    | none => s
    | some w =>
      if w.slot.isSome || (s.parkedCopies c.part && !w.run.busy) then s else s.moveOn c w fun s => s.chunkDone c w.xfer w.run.pos

/-- Once a slot of the ring is free, the engine takes it: FREE falls before the slot is written (R269). -/
def State.takeSlot (s : State) (c : Chan) (sb : Nat) (word : Word) : State :=
  (s.setRingWord c sb (sbCounts word (SbWord.of word).filled ((SbWord.of word).free - 1)) none).onWalk c fun w =>
    { w with started := w.started.map fun t => { t with taken := true } }

/-- The engine takes a free slot of the ring, then fills it with the next bytes of the stream, and counts it filled
when every byte of it has been performed (R269). -/
def execSlotWrite (k : Nat) (s : State) : Out :=
  .next <| match s.chans[k]? with
  | none => s
  | some c => match s.workOf c with
    | none => s
    | some w =>
      if s.parkedCopies c.part && !w.run.busy then s
      else match w.slot with
        | none => s
        | some word => if w.run.taken then s.moveOn c w fun s => s.slotDone c w.xfer.sbi else s.takeSlot c w.xfer.sbi word

/-- Has the stream of a started record ended? -/
def State.streamEnded (s : State) (c : Chan) (r : Xfer) (run : Started) : Bool :=
  !run.busy && match run.job r with
  | .error _ => false
  | .ok j =>
    if r.sbe then decide (j.total ≤ run.base + run.slots * (SbWord.of (s.ringWord c r.sbi)).size)
    else decide (j.chunks ≤ run.pos)

/-- The 64 bytes with which a record completes (R255): STATUS, RESUME and OWN = 0. -/
def completedRecord (bs : List Byte) (st resume : Nat) : List Byte :=
  let ctrl := field (leNat bs) 288 32
  bs.take 36 ++ leBytes 4 (ctrl - ctrl % 2) ++ (bs.drop 40).take 8 ++ leBytes 1 st ++ (bs.drop 49).take 1 ++ leBytes 6 resume ++ (bs.drop 56).take 8

/-- A record completes (R255): it is written once, its ring is detached, and the walk follows NEXT or its chain ends. One whose page
does not take the write is left as it is, and its chain ends with the status of that (R201); one in transit is waited for (R378).
In a chain that is cancelled the records that follow are completed too (R256). Its completion bits have been set before (R268). -/
def execRecordComplete (k : Nat) (s : State) : Out :=
  .next <| match s.chans[k]? with
  | none => s
  | some c => if s.parkedCopies c.part || s.windowsOf (bitKey c.agent.key) then s else match c.walk with
    | none => s
    | some w => match w.bytes with
      | none => s
      | some bs =>
        let r := Xfer.of bs
        let ended := (w.started.map (s.streamEnded c r)).getD false
        match (if w.final.isSome then w.final else if ended then some ((s.windowFault (bitKey c.agent.key)).getD stOk) else none) with
        | none => s
        | some st =>
          let resume := if st = stOk then 0 else (w.started.map (·.pos)).getD r.resume
          let out (s : State) : State := if r.sbe && w.started.isSome then s.detach c r.sbi else s
          match s.aim c.agent r.chn w.va (wholeBytes (completedRecord bs st resume)) none with
          | .error (.fail e) => (out s).endChain c e
          | .error e => s.stalled c.agent.key e
          | .ok plan =>
            let g := c.agent
            let s := out (((s.emit { g with key := noteKey g.key } r.chn plan).dropReads g.key).dropFault (bitKey g.key))
            let onward := st == stOk || (st == stCancelled && s.copyCancelled c)
            if onward ∧ r.next ≠ 0 then s.onChan c fun x => { x with last := st, walk := some ⟨w.engine, r.next, none, none, false, none, if st = stCancelled then w.seen ++ [w.va] else []⟩ }
            else s.endChain c st

end Sys2Proof.Machine
end

