-- ==== Sys2Proof/Machine/Jasper.lean ====
section
/-! DEFINITION. The weight decoder (R202–R204, R271–R287): DCFG and VLDX, block headers and codecs, the checks in their order,
the FIFO with its pops, and the destinations. The stream belongs to the acting core's context. -/

namespace Sys2Proof.Machine

/-! ## DCFG (R202) -/

/-- The first check of Table 9-5 that fails. -/
def Core.cfgTrap (c : Core) (bs : List Byte) : Option TrapNo :=
  let d := DecCfg.of bs 0
  let f := c.rfmt (d.dfmt % 16)
  if d.src % 64 ≠ 0 ∨ d.nblk = 0 ∨ d.ratio < 0x100 ∨ 1 < d.codec ∨ 2 < d.dest then some .illegal
  else if d.dest = 2 ∧ (d.daddr % 64 ≠ 0 ∨ 0x1000000 ≤ d.daddr) then some .illegal
  else if d.dest = 1 ∧ (8 ≤ d.dtile ∨ 127 < d.drow) then some .illegal
  else if 16 ≤ d.dfmt then some .illegal
  else if f.width = 32 ∨ (f.scale = 2 ∧ d.dest = 1) then some .format
  else if d.dest = 1 ∧ !boOk f d.dbo then some .illegal
  else if d.nblk ≤ d.first ∨ (bs.drop 32).any (· != 0) then some .illegal
  else none

/-- A stream at its first block (R202). -/
def Stream.start (d : DecCfg) (popNext : Nat) : Stream :=
  ⟨d, d.src, d.first, [], [], none, .reading, [], 0, 0, [], 0, 0, popNext, [], 0, none⟩

/-- Pops in flight when DCFG replaces the stream take the bytes of the new one, in order (log entry 21). -/
def rebasePops (loads : List LoadLanding) : List LoadLanding × Nat :=
  loads.foldl (fun acc l => match l.dest with
    | .pop r _ => if l.data.isSome then (acc.1 ++ [l], acc.2) else (acc.1 ++ [{ l with dest := .pop r acc.2 }], acc.2 + 512)
    | _ => (acc.1 ++ [l], acc.2)) ([], 0)

def execDcfg (a : Nat) (s : State) : Out :=
  .next <| if s.inGroup then s.refuse .groupViolation
  else s.checked (s.check .read 3 (s.rs a).toNat 64 64) fun ps =>
    match ps with
    | p :: _ =>
      s.inFull fun s => match s.readNow 0 p with
      | (.inr w, _) => s.freeze w
      | (.inl bs, s) =>
        match s.core.cfgTrap bs with
        | some t => s.refuse t
        | none =>
          let d := DecCfg.of bs (s.core.rfmt (field (leNat bs) 208 4)).lane
          (s.enginePost).onCore fun c =>
            let (loads, n) := rebasePops c.loads
            { c with stream := some (.start d n), loads := loads }
    | [] => s

/-! ## VLDX (R203, R204, R284) -/

def execVldx (land d : Nat) (s : State) : Out :=
  .next <| if s.inGroup then s.refuse .groupViolation
  else match s.core.stream with
    | none => s.refuse .illegal
    | some st =>
      if st.cfg.dest ≠ 0 then s.refuse .illegal
      else s.onCore fun c => { c with
        loads := c.loads ++ [⟨[], .pop d st.popNext, land, c.ctx.scope, c.pc, c.issued, c.phase, none⟩]
        issued := c.issued + 1
        stream := some { st with popNext := st.popNext + 512 } }

/-- The trap of a failed stream (Table 9-6, Table 13-3). -/
def failTrap (f : Nat × Nat × Nat) : Trap :=
  { no := match f.2.1 with
      | 2 => .decRatio
      | 3 | 4 => .decLength
      | _ => .decCheck
    arg := f.1, stat := f.2.2 }

/-- The first byte of the stream that is not released. -/
def Stream.avail (st : Stream) : Nat := st.taken + st.fifo.length

/-- Everything that a stream writes has been written. -/
def Stream.drained (st : Stream) : Bool := st.written == st.avail && (st.phase == .done || st.fail.isSome)

def execVldxWait (d : Nat) (s : State) : Out :=
  .next <| if s.inGroup then s.refuse .groupViolation
  else match s.core.stream with
    | none => s.refuse .illegal
    | some st =>
      if st.cfg.dest = 0 then s.refuse .illegal
      else if !st.drained then s.wait
      else match st.fail with
        | some f => s.takeTrap (failTrap f)
        | none => s.atRetire [.s d (BitVec.ofNat 64 st.completed)]

/-- What a due pop meets: its bytes, a trap, or neither yet (R203, R204, R284). -/
inductive Popped where
  | bytes (bs : List Byte)
  | trap (t : Trap)
  | wait
  deriving DecidableEq, Repr

def Stream.pop (st : Stream) (pos : Nat) : Popped :=
  let bs := (st.fifo.drop (pos - st.taken)).take 512
  if pos + 512 ≤ st.avail then .bytes bs
  else match st.fail with
    | some f => .trap (failTrap f)
    | none =>
      if st.phase ≠ .done then .wait
      else if st.avail ≤ pos then .trap { no := .decLength, arg := st.cfg.nblk }
      else .bytes ((bs ++ List.replicate 512 0).take 512)

/-- Bytes of pops that have landed leave the FIFO (R283). -/
def Core.freePops (c : Core) : Core :=
  match c.stream with
  | none => c
  | some st =>
    if st.cfg.dest ≠ 0 then c
    else
      let lo := c.loads.foldl (fun m l => match l.dest with
        | .pop _ p => min m p
        | _ => m) st.popNext
      { c with stream := some { st with fifo := st.fifo.drop (lo - st.taken), taken := max st.taken lo } }

/-- Due pops take their bytes, or raise their landing trap (R204); a restart of the group lands the same bytes (R179). The freeze of one
that was waited for ends. -/
def State.feedPops (s : State) : State :=
  let c := s.core.freePops
  match c.stream with
  | none => { s with core := c }
  | some st =>
    let c := c.loads.foldl (fun c l =>
      match l.dest with
      | .pop _ p =>
        if l.left ≠ 0 ∨ l.data.isSome then c
        else match st.pop p with
          | .bytes bs =>
          let fed (x : LoadLanding) : LoadLanding := if x.dest = l.dest then { x with data := some bs } else x
          { c with loads := c.loads.map fed, group := c.group.map fun g => (g.1, { g.2 with loads := g.2.loads.map fed }) }
          | .trap t => { c with
              loads := c.loads.erase l, landTrap := if c.landTrap.isSome then c.landTrap else some { t with named := some l.pc } }
          | .wait => c
      | _ => c) c
    { s with core := if c.frozen = some .load ∧ c.dataReady then { c with frozen := none } else c }

/-! ## Block headers (Table 13-2, R276) -/

structure Header where
  exp : Nat
  clen : Nat
  codec : Nat
  nib : Nat
  nel : Nat
  crc : Nat
  pbits : Nat

def Header.of (bs : List Byte) : Header :=
  let n := leNat (bs.take 16)
  ⟨field n 0 16, field n 16 16, field n 32 8, field n 40 8, field n 48 16, field n 64 32, field n 96 32⟩

/-- Header length of a codec (R274). -/
def headerLen (codec : Nat) : Nat := if codec = 0 then 64 else 160

/-- The code length of byte symbol k (Table 13-2). -/
def hxLen (bs : List Byte) (k : Nat) : Nat := field (bs.getD (32 + k / 2) 0).toNat (4 * (k % 2)) 4

/-- Is a header malformed (R276)? -/
def headerBad (d : DecCfg) (bs : List Byte) : Bool :=
  let h := Header.of bs
  let lens := (List.range 256).map (hxLen bs)
  h.exp == 0 || decide (4096 < h.exp) || h.clen == 0 || decide (8192 < h.clen) || h.codec != d.codec
    || ((bs.drop 16).take 16).any (· != 0)
    || (if d.codec = 0 then
          h.nib == 0 || decide (4 < h.nib) || h.nel == 0 || decide (128 < h.nel) || h.pbits != 0
            || decide (h.clen < (h.nel * h.nib + 7) / 8) || leNat ((bs.drop 32).take 32) / 2 ^ (d.lane * 2 ^ h.nib) != 0
        else
          h.nib != 0 || h.nel != 0 || h.pbits == 0 || decide (8 * h.clen < h.pbits)
            || lens.any (fun l => decide (12 < l)) || lens.all (· == 0)
            || decide (4096 < (lens.map fun l => if l = 0 then 0 else 2 ^ (12 - l)).foldl (· + ·) 0))

/-! ## Codecs (R277, R279) -/

/-- CB: table entries by packed indices (R277). -/
def cbBytes (lane : Nat) (h : Header) (hdr payload : List Byte) : List Byte :=
  let table := leNat ((hdr.drop 32).take 32)
  let p := leNat payload
  let v := ((List.range h.nel).map fun i => field table (lane * field p (h.nib * i) h.nib) lane).foldr (fun c a => c + 2 ^ lane * a) 0
  leBytes ((h.nel * lane + 7) / 8) v

/-- The canonical codewords: length, codeword, symbol (R279). -/
def hxCodes (lens : List Nat) : List (Nat × Nat × Nat) :=
  ((List.range 12).foldl (fun (acc : List (Nat × Nat × Nat) × Nat) k =>
    let syms := (List.range 256).filter fun s => lens.getD s 0 == k + 1
    (acc.1 ++ syms.zipIdx.map fun s => (k + 1, acc.2 + s.2, s.1), (acc.2 + syms.length) * 2)) ([], 0)).1

/-- The codeword that stands next: its first bits are taken top bit first (R279). -/
def hxNext (codes : List (Nat × Nat × Nat)) (p pos : Nat) : Nat → Nat → Nat → Option (Nat × Nat)
  | 0, _, _ => none
  | fuel + 1, len, code =>
    let code := 2 * code + field p (pos + len) 1
    match codes.find? fun c => c.1 == len + 1 && c.2.1 == code with
    | some c => some (len + 1, c.2.2)
    | none => hxNext codes p pos fuel (len + 1) code

/-- HX: symbols until PBITS bits are consumed, or the next codeword is none or runs past them, or `room` bytes and one
more have come (R279, R281). -/
def hxBytes (codes : List (Nat × Nat × Nat)) (p pbits : Nat) : Nat → Nat → List Byte
  | 0, _ => []
  | room + 1, pos =>
    if pbits ≤ pos then []
    else match hxNext codes p pos 12 0 0 with
      | none => []
      | some (len, sym) => if pbits < pos + len then [] else BitVec.ofNat 8 sym :: hxBytes codes p pbits room (pos + len)

/-- What a block yields, at most one byte more than declared. -/
def blockBytes (d : DecCfg) (h : Header) (bs : List Byte) : List Byte :=
  let payload := (bs.drop (headerLen d.codec)).take h.clen
  let out := if d.codec = 0 then cbBytes d.lane h bs payload
    else hxBytes (hxCodes ((List.range 256).map (hxLen bs))) (leNat payload) h.pbits (h.exp + 1) 0
  out.take (h.exp + 1)

/-! ## Steps of the decoder (R273–R283) -/

def State.decAgent (s : State) : Agent := ⟨s.core.part, s.core.task, jobKey s.core.part s.core.cont 8, Path.ofCluster (clusterOf s.core.phys), s.core.phys % 64⟩
def State.onStream (s : State) (f : Stream → Stream) : State := s.onCore fun c => { c with stream := c.stream.map f }

/-- The stream of a running continuation, until it has failed. -/
def State.decoding (s : State) : Option Stream := if s.core.running then s.core.stream.filter (·.fail.isNone) else none

/-- Room in the FIFO for a block's bytes (R283). -/
def Stream.room (st : Stream) : Bool := decide (st.fifo.length + (Header.of st.buf).exp ≤ 8192)

/-- The bytes of the block in decode that are still to be read, in its present phase and when the FIFO has room for it. -/
def Stream.wanted (st : Stream) : Nat :=
  match st.phase with
  | .reading => headerLen st.cfg.codec - st.buf.length
  | .parsed => if st.room then headerLen st.cfg.codec + (Header.of st.buf).clen - st.buf.length else 0
  | _ => 0

/-- The bytes of the next block's header that may be read while the block in decode goes on: its own bytes, which stand before them,
have been read (R273, R274). -/
def Stream.ahead? (st : Stream) : Nat :=
  let read := match st.phase with
    | .parsed => st.room && st.wanted == 0
    | .decoded => true
    | _ => false
  if read && st.aheadFail.isNone && st.blk + 1 != st.cfg.nblk then headerLen st.cfg.codec - st.ahead.length else 0

/-- A block fails (Table 13-3). -/
def Stream.failed (st : Stream) (row stat : Nat) (out : List Byte) : Stream :=
  { st with fail := some (st.blk, row, stat), fifo := st.fifo ++ (if st.cfg.dest = 0 then [] else out), buf := [], ahead := [], yield := [] }

/-- The next 64-byte-aligned address (R274). -/
def nextUnit (a : Nat) : Nat := (a + 63) / 64 * 64 % 2 ^ 64

/-- The decoder reads source bytes in address order (R273): those of the block in decode, then the next block's header (R274). A byte
that cannot be read fails its block, with ST_PAGE or ST_PERM (R204); where a window refuses the read for another reason, with ST_PERM:
DESIGN CHOICE (log entry 79). -/
def State.readSource (s : State) (st : Stream) : State :=
  let own := st.wanted != 0
  let at_ := if !own && st.ahead.isEmpty then nextUnit st.next else st.next
  let n := min (if own then st.wanted else st.ahead?) (64 - at_ % 64)
  if n = 0 then s
  else match s.peek s.decAgent at_ n with
    | .error (.fail e) =>
      let stat := if e = stPage then e else stPerm
      s.onStream fun st => if own then st.failed 0 stat [] else { st with aheadFail := some stat }
    | .error e => s.stalled s.decAgent.key e
    | .ok bs => (s.dropReads s.decAgent.key).onStream fun st =>
      let st := { st with next := (at_ + n) % 2 ^ 64 }
      if own then { st with buf := st.buf ++ bs } else { st with ahead := st.ahead ++ bs }

def execDecoderSourceRead (s : State) : Out :=
  .next <| match s.decoding with
  | some st => s.readSource st
  | none => s

/-- Is the header of the block in decode complete? -/
def Stream.headed (st : Stream) : Bool := st.phase == .reading && decide (headerLen st.cfg.codec ≤ st.buf.length)

/-- The header is parsed: a malformed one, or a ratio above the declared one, fails the block (rows 1 and 2). -/
def execHeaderParse (s : State) : Out :=
  .next <| match s.decoding with
  | some st =>
    if !st.headed then s
    else
      let h := Header.of st.buf
      s.onStream fun st =>
        if headerBad st.cfg st.buf then st.failed 1 stOk []
        else if st.cfg.ratio * h.clen < h.exp * 256 then st.failed 2 stOk []
        else { st with phase := .parsed, cycles := if st.cfg.codec = 0 then 4 else 8 }
  | none => s

/-- The bytes that the destination still takes (R285, R286). -/
def Stream.capacity (st : Stream) : Nat :=
  match st.cfg.dest with
  | 1 => (128 - st.cfg.drow) * (16 * st.cfg.lane) - st.avail
  | 2 => 0x1000000 - st.cfg.daddr - st.avail
  | _ => 4096

/-- Is the whole block read, with room for its bytes? -/
def Stream.loaded (st : Stream) : Bool :=
  st.phase == .parsed && st.room && decide (headerLen st.cfg.codec + (Header.of st.buf).clen ≤ st.buf.length)

/-- The bound on a block's counted cycles (row 3, R281). -/
def cycleBound (h : Header) : Nat := h.exp / 16 + 64

/-- The cycles in which a block's bytes are emitted (R278, R280). -/
def emitCycles (d : DecCfg) (h : Header) : Nat := let k := if d.codec = 0 then 32 else 16; (h.exp + (k - 1)) / k

/-- A block decodes (R277–R280). Bytes past the declared length or the destination's end, or cycles past its bound, cut it off (row
3); too few bytes fail it (row 4). -/
def execBlockDecode (s : State) : Out :=
  .next <| match s.decoding with
  | some st =>
    if !st.loaded then s
    else s.onStream fun st =>
      let h := Header.of st.buf
      let out := blockBytes st.cfg h st.buf
      if st.capacity < min out.length h.exp then st.failed 3 stLength (out.take st.capacity)
      else if h.exp < out.length ∨ cycleBound h < st.cycles + emitCycles st.cfg h then st.failed 3 stLength (out.take h.exp)
      else if out.length < h.exp then st.failed 4 stOk out
      else { st with phase := .decoded, yield := out, crc := crc32c out, cycles := st.cycles + emitCycles st.cfg h }
  | none => s

/-- The block after the one in decode, with what has been read of its header (R274). -/
def Stream.nextBlock (st : Stream) : Stream :=
  let new := { st with
    blk := st.blk + 1, next := if st.ahead.isEmpty then nextUnit st.next else st.next, buf := st.ahead, ahead := [], aheadFail := none
    yield := [], crc := 0, cycles := 0, phase := if st.blk + 1 = st.cfg.nblk then .done else .reading }
  match st.aheadFail with
  | some e => new.failed 0 e []
  | none => new

/-- The CRC of the expanded bytes is compared, 2 cc after the last of them (R278, R280; row 5, row 3 coming first); a block that
passes is released (R282). -/
def execCrcCompare (s : State) : Out :=
  .next <| match s.decoding with
  | some st =>
    if st.phase ≠ .decoded then s
    else s.onStream fun st =>
      if cycleBound (Header.of st.buf) < st.cycles + 2 then st.failed 3 stLength st.yield
      else if st.crc ≠ (Header.of st.buf).crc then st.failed 5 stOk []
      else ({ st with fifo := st.fifo ++ st.yield, ends := if st.cfg.dest = 0 then [] else st.ends ++ [st.avail + st.yield.length] }).nextBlock
  | none => s

/-- A block whose counted cycles exceed its bound is cut off (row 3, R281). -/
def execCycleBoundCutoff (s : State) : Out :=
  .next <| match s.decoding with
  | some st =>
    let h := Header.of st.buf
    if (st.phase == .parsed || st.phase == .decoded) && decide (cycleBound h < st.cycles) then
      s.onStream fun st => st.failed 3 stLength st.yield
    else s
  | none => s

/-! ## Destinations (R285–R287) -/

/-- Bytes have been written: blocks wholly written are completed (R287), and their bytes leave the FIFO (R283). -/
def Stream.wrote (st : Stream) (n : Nat) : Stream :=
  let w := st.written + n
  let full := st.ends.filter fun e => decide (e ≤ w)
  let t := full.foldl max st.taken
  { st with
    written := w, fifo := st.fifo.drop (t - st.taken), taken := t, ends := st.ends.filter fun e => decide (w < e)
    completed := st.completed + full.length }

/-- The next bytes of the FIFO within one aligned 64-byte unit from byte `at0` of a row or segment. -/
def Stream.unit (st : Stream) (at0 limit : Nat) : List Byte := (st.fifo.drop (st.written - st.taken)).take (min (64 - at0 % 64) limit)

/-- Released bytes are written to tile rows, or to the scratch segment, in 64-byte units between two bundles; a tile register
waits for the open group's end (R285), a scratch page for its refill (R286). -/
def execDecoderDestWrite (s : State) : Out :=
  .next <| match s.core.stream with
  | none => s
  | some st =>
    if !s.core.running || st.written == st.avail then s
    else match st.cfg.dest with
      | 1 =>
        let row := 16 * st.cfg.lane
        let b := 32 * st.cfg.dbo + st.written % row
        let bs := st.unit b (row - st.written % row)
        if s.inGroup then s
        else (s.onCore fun c => c.winPut (0x200000 + 0x10000 * st.cfg.dtile + 512 * (st.cfg.drow + st.written / row) + b) (wholeBytes bs)).onStream
          fun st => st.wrote bs.length
      | 2 =>
        let off := st.cfg.daddr + st.written
        let bs := st.unit off 64
        let key := pageKey s.core.part (s.core.scratch + off)
        match s.scratchAt s.core.phys off .write with
        | .trap _ => s.onStream fun st => { st with fail := some (st.cfg.first + st.completed, 0, stPage), fifo := [], written := st.taken }
        | .transit => s
        | .ok l _ =>
          let s := if (s.pageHolder key).isNone then s.pageArrives s.core.phys key else s
          (s.perform l.pa bs).onStream fun st => st.wrote bs.length
      | _ => s

/-- What the decoder does next of itself, if it can go on. -/
def State.decoderWork (s : State) : Option State :=
  let next (o : Out) : Option State := match o with
    | .next s' => some s'
    | _ => none
  match s.decoding with
  | none => match s.core.stream with
    | some st => if st.cfg.dest ≠ 0 ∧ st.written ≠ st.avail ∧ !s.inGroup then next (execDecoderDestWrite s) else none
    | none => none
  | some st =>
    let read := if st.ahead? = 0 then none else (next (execDecoderSourceRead s)).filter (· ≠ s)
    if st.headed then next (execHeaderParse s)
    else if read.isSome then read
    else if st.loaded then next (execBlockDecode s)
    else if st.phase = .decoded then next (execCrcCompare s)
    else if st.cfg.dest ≠ 0 ∧ st.written ≠ st.avail ∧ !(st.cfg.dest == 1 && s.inGroup) then next (execDecoderDestWrite s)
    else if st.wanted ≠ 0 then next (execDecoderSourceRead s)
    else none

end Sys2Proof.Machine
end

