-- ==== Sys2Proof/Machine/Fabric.lean ====
section
/-! DEFINITION. The fabric (R206–R208, R291–R306): release flags, the arrival counters, loss and retransmission, reads by
and from peers, and link keys. -/

namespace Sys2Proof.Machine

/-! ## FREL and FCHQ (R206–R208) -/

/-- The pair of a checked address: the peer that holds its page, and its physical address there. -/
def peerOf (ps : List Piece) : Nat × Nat :=
  match ps with
  | p :: _ => (p.loc.peer.getD 0, p.loc.pa)
  | [] => (0, 0)

/-- Posted writes of a pair pass the egress, those that may (R207). -/
def State.passPair (s : State) (dev chn : Nat) : State :=
  (s.egress.filter fun w => w.dev == dev && w.chn == chn).foldl (fun s w => if s.mayPass w then s.passPosted w else s) s

/-- Close the open epoch of a pair with a release (R295). -/
def State.closeEpoch (s : State) (dev chn addr : Nat) (v : Word) : State :=
  match s.pair? dev chn with
  | none => s
  | some p =>
    let r : Rel := ⟨p.nseq, p.opened, addr, v, s.now⟩
    let s := s.onPair dev chn fun p => { p with
      opened := 0, nseq := (p.nseq + 1) % 2 ^ 32, out := p.out + 1, rels := p.rels ++ [r] }
    s.send (releaseMsg s.devId p r)

def execFrel (chn b a d : Nat) (s : State) : Out :=
  let v := s.rs b
  .next <| if s.inGroup then s.refuse .groupViolation
  else s.checked (s.checkWord .frel 4 (s.rs a).toNat 8) fun ps =>
    let (dev, addr) := peerOf ps
    match s.pair? dev chn with
    | none => s.refuse .fabChannel
    | some p =>
      if 4 ≤ p.out then s.stallOn (.pair dev chn)
      else s.inFull fun s =>
        let s := (s.enginePost).passPair dev chn
        (s.closeEpoch dev chn addr v).result 4 [.s d (BitVec.ofNat 64 p.nseq)]

/-- The state of a pair as FCHQ returns it (Table 9-8); 0 where it is not open. -/
def State.pairWord (s : State) (dev chn : Nat) : Nat :=
  match s.pair? dev chn with
  | none => 0
  | some p => p.acc * 2 ^ 32 + (if p.rsnd then 2 ^ 31 else 0) + p.out * 2 ^ 28

def execFchq (chn a d : Nat) (s : State) : Out :=
  .next <| s.checked (s.checkWord .fchq 4 (s.rs a).toNat 8) fun ps =>
    s.result 6 [.s d (BitVec.ofNat 64 (s.pairWord (peerOf ps).1 chn))]

/-! ## The egress (R295, R296) -/

/-- A posted write passes the egress unless the send log of its pair is full (R296). -/
def execPostedWriteEgress (k : Nat) (s : State) : Out :=
  .next <| match s.egress[k]? with
  | none => s
  | some w =>
    if ((s.pair? w.dev w.chn).map Pair.full).getD false || !s.mayPass w then s else s.passPosted w

/-! ## The receiver (R297–R300) -/

def State.slot? (s : State) (dev chn : Nat) : Option Slot := s.slots.find? fun x => x.dev == dev && x.chn == chn
def State.onSlot (s : State) (dev chn : Nat) (f : Slot → Slot) : State :=
  { s with slots := s.slots.map fun x => if x.dev = dev ∧ x.chn = chn then f x else x }

/-- Do all bytes of a range lie in memory granted to a partition and in service (R298, R396)? -/
def State.granted (s : State) (part pa n : Nat) : Bool :=
  match s.part? part with
  | some p => (List.range n).all fun k => p.owns (pa + k) && !s.retired.contains (channelOf (pa + k))
  | none => false

/-- The bounds check refuses a write or a flag (R298, R312); the management core is told. -/
def State.refused (s : State) (x : Slot) : State :=
  let s := s.onSlot x.dev x.chn fun x => { x with viol := (x.viol + 1) % 2 ^ 32 }
  ({ s with viol := (s.viol + 1) % 2 ^ 64 }).notify (.viol x.part)

/-- Is ingress for a partition cut (R400)? -/
def State.ingressCut (s : State) (part : Nat) : Bool := ((s.part? part).map (·.cut)).getD false

/-- A message of a pair reaches its slot, or is dropped and counted: no slot, ingress cut, or a stale generation (R298,
R400). -/
def State.atSlot (s : State) (m : FabricMsg) (k : Slot → State) : State :=
  match s.slot? m.src m.chn with
  | none => s.countDrop
  | some x => if s.ingressCut x.part || m.gen != x.gen then s.countDrop else k x

/-- An arriving WRITE (R298). -/
def execWrite (m : FabricMsg) (s : State) : Out :=
  .next <| s.arriving m 0 fun s => s.atSlot m fun x =>
    let s := if s.granted x.part m.addr m.payload.length then s.perform m.addr m.payload else s.refused x
    s.onSlot m.src m.chn fun x => { x with
      e := x.e.set m.epo ((x.e.getD m.epo 0 + 1) % 2 ^ 32), timer := s.now }

def acceptMsg (src : Nat) (x : Slot) (seq : Nat) : FabricMsg :=
  { blankMsg with kind := 2, chn := x.chn, dst := x.dev, src := src, seq := seq }

/-- A held release in place of one of its number; a slot holds four (R298, Table 14-4). -/
def Slot.hold (x : Slot) (q : HeldRel) : Slot :=
  let rest := x.held.filter (·.seq != q.seq)
  if 4 ≤ rest.length then x else { x with held := rest ++ [q] }

/-- An arriving RELEASE (R298): answered if its number is accepted already, else held. -/
def execRelease (m : FabricMsg) (s : State) : Out :=
  .next <| s.arriving m 1 fun s => s.atSlot m fun x =>
    if m.seq = x.accd ∨ precedes m.seq x.accd then s.send (acceptMsg s.devId x x.accd)
    else
      let q : HeldRel := ⟨m.seq, leNat (m.payload.take 4), m.addr, BitVec.ofNat 64 (leNat ((m.payload.drop 8).take 8))⟩
      s.onSlot m.src m.chn fun x => { x.hold q with timer := s.now }

/-- The release of a slot that may be accepted: the next number, its count matched (R298). -/
def Slot.acceptable (x : Slot) : Option HeldRel :=
  x.held.find? fun q => q.seq == (x.accd + 1) % 2 ^ 32 && x.e.getD (q.seq % 8) 0 == q.cnt

/-- The flag of the next release is written, an evaluation, and its acceptance sent (R298). Every counted write has been
performed: a write is performed as it arrives. -/
def execReleaseFlagWrite (k : Nat) (s : State) : Out :=
  .next <| match s.slots[k]? with
  | none => s
  | some x => match x.acceptable with
    | none => s
    | some q =>
      if s.ingressCut x.part then s else
      let s := if s.granted x.part q.addr 8 then s.perform q.addr (leBytes 8 q.value.toNat) else s.refused x
      let s := s.onSlot x.dev x.chn fun x => { x with
        e := x.e.set (q.seq % 8) 0, accd := q.seq, held := x.held.filter (·.seq != q.seq) }
      s.send (acceptMsg s.devId x q.seq)

/-- The held release with the lowest number. -/
def Slot.lowest (x : Slot) : Option HeldRel :=
  x.held.foldl (fun best q => match best with
    | none => some q
    | some b => if precedes q.seq b.seq then some q else best) none

def Slot.expired (x : Slot) (now limit : Nat) : Bool :=
  !x.held.isEmpty && x.acceptable.isNone && decide (limit ≤ now - x.timer)

/-- The release timer of a slot expires (R300): a new generation, the counts of the epochs after ACCD are forgotten, and
RESEND goes to the source. -/
def execReleaseTimeout (k : Nat) (s : State) : Out :=
  .next <| match s.slots[k]? with
  | none => s
  | some x => match x.lowest with
    | none => s
    | some q =>
      if !x.expired s.now s.relTimeout || s.ingressCut x.part then s
      else
        let gen := (x.gen + 1) % 4
        let s' := s.onSlot x.dev x.chn fun x => { x with gen := gen, e := List.replicate 8 0, timer := s.now }
        s'.send { blankMsg with
          kind := 3, chn := x.chn, dst := x.dev, src := s.devId, seq := q.seq, gen := gen
          payload := leBytes 4 q.cnt ++ leBytes 4 (x.e.getD (q.seq % 8) 0) }

/-! ## The source (R299–R302) -/

/-- Is a number at or before another (R299, R303)? -/
def upTo (x y : Nat) : Bool := x == y || precedes x y

/-- Cores that a full send log froze try again (R296). -/
def State.logFreed (s : State) : State := s.onCores fun c => if c.frozen = some .log then { c with frozen := none } else c

/-- An arriving ACCEPT (R299); one that arrives after the cut of a quiesce is dropped (R401). -/
def execAccept (m : FabricMsg) (s : State) : Out :=
  .next <| s.arriving m 2 fun s =>
    match s.pair? m.src m.chn with
    | none => s.countDrop
    | some p =>
      if s.ingressCut p.part then s
      else
        let s := s.onPair m.src m.chn fun p => { p with heard := s.now }
        if !precedes p.acc m.seq then s else
        let left := p.rels.filter fun r => !upTo r.seq m.seq
        let stays (e : LogEntry) : Bool := !upTo e.seq m.seq
        let s := s.onPair m.src m.chn fun p => { p with
          acc := m.seq, out := p.out - (p.rels.length - left.length), rels := left
          head := (p.head + (p.log.length - (p.log.filter stays).length)) % max 1 p.cap
          log := p.log.filter stays, again := p.again.filter stays }
        s.logFreed.entryLeft (.pair m.src m.chn) fun _ => true

/-- The bytes of a send-log entry: its own, or those at its source now (R301). -/
def State.entryBytes (s : State) (e : LogEntry) : List Byte :=
  match e.src with
  | some a => s.mem.readN a e.bytes.length
  | none => e.bytes

/-- Send the outstanding releases of a pair again. -/
def State.resendReleases (s : State) (p : Pair) : State :=
  let s := p.rels.foldl (fun s r => s.send (releaseMsg s.devId p r)) s
  s.onPair p.dev p.chn fun p => { p with rels := p.rels.map fun r => { r with sent := s.now } }

/-- An arriving RESEND of a new generation (R301): the pair adopts it and sets RSND; every write of the send log is to be sent
again. -/
def execResend (m : FabricMsg) (s : State) : Out :=
  .next <| s.arriving m 3 fun s =>
    match s.pair? m.src m.chn with
    | none => s.countDrop
    | some p =>
      if s.ingressCut p.part then s.countDrop
      else if m.gen = p.gen then s
      else s.onPair m.src m.chn fun p => { p with gen := m.gen, rsnd := true, again := p.log }

/-- A retransmission goes on (R301): the next write of the send log leaves again, and after the last one every outstanding
release, which ends it. -/
def State.resendNext (s : State) : Option State :=
  (s.pairs.find? fun p => p.rsnd && !s.ingressCut p.part).map fun p =>
    match p.again with
    | e :: r =>
      let s := match e.src with
        | some a => s.poisonRead a e.bytes.length
        | none => s
      (s.send (writeMsg s.devId p e (s.entryBytes e))).onPair p.dev p.chn fun p => { p with again := r }
    | [] => (s.resendReleases p).onPair p.dev p.chn fun p => { p with rsnd := false }

/-- Has no ACCEPT come for twice the release timeout since the oldest outstanding release was sent (R302)? -/
def Pair.overdue (p : Pair) (now limit : Nat) : Bool :=
  match p.rels with
  | r :: _ => decide (2 * limit ≤ now - max r.sent p.heard)
  | [] => false

/-- The source's own timer (R302); it stands while the partition's ingress is cut (R407). -/
def execSourceReleaseTimer (k : Nat) (s : State) : Out :=
  .next <| match s.pairs[k]? with
  | none => s
  | some p => if p.overdue s.now s.relTimeout && !s.ingressCut p.part then s.resendReleases p else s

/-! ## READs (R293, R305) -/

/-- An arriving READ is answered with the bytes at its address, read at device scope. -/
def execRead (m : FabricMsg) (s : State) : Out :=
  .next <| s.arriving m 6 fun s =>
    let s := s.poisonRead m.addr (m.len + 1)
    s.send { blankMsg with
      kind := 7, dst := m.src, src := s.devId, seq := m.seq
      payload := (List.range (m.len + 1)).map fun k => s.deviceByte (m.addr + k) }

/-- The freeze of a core whose reads at issue have all come ends (R118, R202). -/
def State.readsCame (s : State) : State :=
  s.onCores fun c => match c.frozen with
    | some (.reads rs) =>
      if rs.all fun r => ((s.issueRead c.phys r.1 r.2.1 r.2.2.1).bind (·.data)).isSome
      then { c with frozen := none } else c
    | _ => c

/-- A READ_REPLY delivers its data to the access that waits for it. -/
def execReadReply (m : FabricMsg) (s : State) : Out :=
  .next <| s.arriving m 7 fun s =>
    State.readsCame { s with reads := s.reads.map fun r =>
      if r.tag = m.seq ∧ r.dev = m.src ∧ r.data = none then { r with data := some m.payload } else r }

def readMsg (src : Nat) (r : ReadReq) : FabricMsg :=
  { blankMsg with kind := 6, dst := r.dev, src := src, seq := r.tag, len := r.len - 1, addr := r.pa }

/-- A READ without a reply within the release timeout is sent again (R305). -/
def execReadRetry (k : Nat) (s : State) : Out :=
  .next <| match s.reads[k]? with
  | none => s
  | some r =>
    if r.data.isSome || decide (s.now - r.since < s.relTimeout) then s
    else ({ s with reads := s.reads.set k { r with since := s.now } }).send (readMsg s.devId r)

/-! ## Link keys (R306) -/

def LinkKeys.blank : LinkKeys := ⟨0, 0, none, 0⟩

/-- A new key on one station direction; BUSY while it keeps a previous key (R306). -/
def execKeyRotation (station key : Nat) (s : State) : Out :=
  let k := bankGet LinkKeys.blank s.keys station
  .next <| if k.prev.isSome then s.notify .busy
  else { s with keys := bankSet LinkKeys.blank s.keys station ⟨k.index + 1, key, some k.cur, 0⟩ }.notify .ok

/-- The 512th flit under the new key has been received: the previous key is dropped (R306). -/
def execPreviousKeyDrop (station : Nat) (s : State) : Out :=
  let k := bankGet LinkKeys.blank s.keys station
  .next <| if k.prev.isSome then
    { s with keys := bankSet LinkKeys.blank s.keys station { k with prev := none, flits := 512 } }
  else s

end Sys2Proof.Machine
end

