-- ==== Sys2Proof/Machine/Opal.lean ====
section
/-! DEFINITION. The collective engine (R205, R313–R322): COLL, a command and its route record, packets, the operations of a
hop, and a command's completion at its origin. -/

namespace Sys2Proof.Machine

/-! ## Commands and routes (Tables 15-1 to 15-3) -/

structure Coll where
  src : Nat
  dst : Nat
  rrec : Nat
  bitmap : Nat
  nel : Nat
  etype : Nat
  flags : Nat
  comm : Nat
  bit : Nat

def Coll.of (bs : List Byte) : Coll :=
  let n := leNat bs
  ⟨field n 0 64, field n 64 64, field n 128 64, field n 192 64, field n 256 32, field n 288 8, field n 296 8, field n 304 8, field n 312 8⟩

def Coll.ct (c : Coll) : Bool := c.flags % 2 == 1

/-- Is a field of a command outside Table 15-1? -/
def collBad (bs : List Byte) : Bool :=
  let c := Coll.of bs
  c.src % 64 != 0 || c.dst % 64 != 0 || c.rrec % 64 != 0 || c.bitmap % 8 != 0 || c.nel == 0 || decide (2 ^ 24 < c.nel)
    || (c.ct && c.nel % 16384 != 0) || decide (2 < c.etype) || decide (1 < c.flags) || decide (63 < c.bit)
    || ((bs.drop 41).take 7 ++ bs.drop 56).any (· != 0)

structure Route where
  nhop : Nat
  ops : List Nat
  devs : List Nat

def Route.of (bs : List Byte) : Route :=
  let n := leNat bs
  ⟨field n 0 8, (List.range 15).map fun r => field n (8 + 8 * r) 8, (List.range 15).map fun r => field n (128 + 10 * r) 10⟩

def opCode (b : Nat) : Nat := b / 32
def opArg (b : Nat) : Nat := b % 32

/-- Is an operation byte assigned (Table 15-3)? -/
def opAssigned (b : Nat) : Bool :=
  match opCode b with
  | 3 => true
  | 4 => decide (opArg b ≤ 1)
  | 0 | 1 | 2 | 5 => opArg b == 0
  | _ => false

/-- Does R316 refuse a route record for a command of this element type? -/
def routeBad (dev etype : Nat) (bs : List Byte) : Bool :=
  let r := Route.of bs
  let ops := r.ops.take r.nhop
  let adds := ops.findIdx? fun b => opCode b == 2
  r.nhop == 0 || decide (15 < r.nhop) || !ops.all opAssigned || (r.ops.drop r.nhop).any (· != 0)
    || (r.devs.drop r.nhop).any (· != 0) || field (leNat bs) 278 2 != 0 || (bs.drop 35).any (· != 0)
    || r.devs.headD 0 != dev || r.devs.getD (r.nhop - 1) 0 != dev
    || (etype != 2 && (match adds with
      | some i => (ops.drop i).any fun b => opCode b == 1
      | none => false))
    || (etype == 2 && ops.any fun b => opCode b == 3 || opCode b == 4)

/-! ## Packets (Table 15-4) -/

structure Packet where
  nhop : Nat
  ops : List Nat
  route : List Nat
  etype : Nat
  ct : Bool
  otype : Nat
  comm : Nat
  die : Nat
  err : Nat
  nadd : Nat
  emax : Option Int
  sk : Int
  att : Nat
  blk : Nat
  cid : Nat
  nvalid : Nat
  cyc : Nat
  src : Nat
  dst : Nat
  spec : List Nat
  acc : List Int
  deriving DecidableEq, Repr

def Packet.of (bs : List Byte) : Packet :=
  let n := leNat (bs.take 112)
  let em := field n 320 16
  ⟨field n 0 8, (List.range 15).map fun r => field n (8 + 8 * r) 8, (List.range 15).map fun r => field n (128 + 10 * r) 10,
    field n 280 2, field n 282 1 == 1, field n 283 2, field n 288 8, field n 296 8, field n 304 8, field n 312 8,
    if em = 0x8000 then none else some (toSigned 16 em), toSigned 8 (field n 336 8), field n 344 8, field n 352 32, field n 384 32,
    field n 416 32, field n 448 32, field n 512 64, field n 576 64, (List.range 128).map fun i => field n (640 + 2 * i) 2,
    (List.range 128).map fun i => toSigned 64 (leNat ((bs.drop (112 + 8 * i)).take 8))⟩

/-- Fields placed one above the other, each with its width. -/
def packFields (l : List (Nat × Nat)) : Nat := l.foldr (fun x a => x.1 % 2 ^ x.2 + 2 ^ x.2 * a) 0

/-- The payload without its CRC: bytes 0–59, and bytes 64 on. -/
def Packet.parts (p : Packet) : List Byte × List Byte :=
  (leBytes 16 (packFields ((p.nhop, 8) :: (p.ops.map fun o => (o, 8))))
    ++ leBytes 19 (packFields (p.route.map fun d => (d, 10)))
    ++ leBytes 1 (p.etype + (if p.ct then 4 else 0) + 8 * p.otype) ++ leBytes 1 p.comm ++ leBytes 1 p.die ++ leBytes 1 p.err
    ++ leBytes 1 p.nadd ++ leBytes 2 ((p.emax.map (toBits 16)).getD 0x8000) ++ leBytes 1 (toBits 8 p.sk) ++ leBytes 1 p.att
    ++ leBytes 4 p.blk ++ leBytes 4 p.cid ++ leBytes 4 p.nvalid ++ leBytes 4 p.cyc,
   leBytes 8 p.src ++ leBytes 8 p.dst ++ leBytes 32 (packFields (p.spec.map fun c => (c, 2)))
    ++ p.acc.flatMap fun a => leBytes 8 (toBits 64 a))

/-- The payload with its CRC regenerated (R318). -/
def Packet.bytes (p : Packet) : List Byte :=
  let (a, b) := p.parts
  a ++ leBytes 4 (crc32c (a ++ b)) ++ b

/-- Does a payload's CRC match (Table 15-4)? -/
def packetOk (bs : List Byte) : Bool :=
  bs.length == 1136 && crc32c (bs.take 60 ++ bs.drop 64) == leNat ((bs.drop 60).take 4)

def collMsg (src dst : Nat) (p : Packet) : FabricMsg := { blankMsg with kind := 8, dst := dst, src := src, payload := p.bytes }

/-! ## Memory at a hop (R313, R319) -/

/-- The Opal that acts for a die: its own, or the next healthy one (R394). -/
def State.opalAt (s : State) (die : Nat) : Nat :=
  (((List.range 4).map fun k => (die + k) % 4).find? fun d => !s.retired.contains (.opal d)).getD (die % 4)

def State.collAgent (s : State) (c : CollCmd) : Agent := ⟨c.part, c.task, jobKey c.part c.cont 9, Path.ofDie (s.opalAt c.die), 96⟩

/-- The job of a packet at the device of its origin, where its last hop is; elsewhere no task of the device has posted it. -/
def State.packetJob (s : State) (p : Packet) : Option Agent :=
  if p.route.getD (p.nhop - 1) 0 = s.devId then (s.colls.find? (·.cid == p.cid)).map s.collAgent else none

/-- A piece of a collective buffer: where it lies in memory, or none where it lies in a window (R53), and its address, size and
offset. -/
structure OpalPiece where
  pa : Option Nat
  va : Nat
  size : Nat
  off : Nat

/-- Where the bytes of a collective buffer lie: in pages that are LOCAL, or MIGRATE placed here (R313), or in windows (R53). -/
def State.opalSpans (s : State) (die part : Nat) (a : Access) (va n : Nat) : Look (List OpalPiece) :=
  (cut (va % 2 ^ 64) n).foldl (fun acc x =>
    match acc with
    | .error e => .error e
    | .ok l =>
      let ea := x.1 % 2 ^ 64
      if windowAt ea then .ok (l ++ [⟨none, ea, x.2.1, x.2.2⟩])
      else match s.xlatEngine die part a ea with
        | .trap t => .error (.fail (trapStatus t))
        | .transit => .error .wait
        | .ok loc _ => if loc.peer.isSome then .error (.fail stPerm) else .ok (l ++ [⟨some loc.pa, ea, x.2.1, x.2.2⟩])) (.ok [])

/-- The path of the Opal that acts for a packet's die on this device. -/
def State.opalPath (s : State) (die : Nat) : Path := Path.ofDie (s.opalAt die)

/-- The bytes of a buffer. A window is reached by the task that posted the command (R52). -/
def State.spanBytes (s : State) (p : Packet) (l : List OpalPiece) : Look (List Byte) :=
  l.foldl (fun acc x =>
    match acc with
    | .error e => .error e
    | .ok bs => match x.pa, s.packetJob p with
      | some pa, _ => .ok (bs ++ s.seenN (s.opalPath p.die) pa x.size)
      | none, some g => (s.peekPiece g x.va x.size).map fun b => bs ++ b
      | none, none => .error (.fail stWindowOwner)) (.ok [])

/-- The pieces of a write, each with the bytes of the write and the windows that it goes to, all of them checked before any is
written (R52). -/
def State.spanWindows (s : State) (p : Packet) (l : List OpalPiece) (bs : List Byte) : Look (List (OpalPiece × List Byte × List (Nat × Nat))) :=
  l.foldl (fun acc x =>
    match acc with
    | .error e => .error e
    | .ok q => if x.pa.isSome then .ok (q ++ [(x, bs, [])]) else match s.packetJob p with
      | none => .error (.fail stWindowOwner)
      | some g => match s.windowTargets g.part g.task (va52 x.va) x.size with
        | .ok ts => .ok (q ++ [(x, bs, ts)])
        | .error st => .error (.fail st)) (.ok [])

/-- Write checked pieces. -/
def State.spanWrite (s : State) (p : Packet) (q : List (OpalPiece × List Byte × List (Nat × Nat))) : State :=
  q.foldl (fun s x =>
    let (o, bs, ts) := x
    let part := (bs.drop o.off).take o.size
    match o.pa, s.packetJob p with
    | some pa, _ => s.performVia (s.opalPath p.die) pa (part.map some) (covering pa o.off bs.length)
    | none, some g => s.queueWindow g.part g.task g.key ts (wholeBytes part)
    | none, none => s) s

/-- Has a STORE of the packet's command still to land in a window? The packet is sent on only after it (R318). -/
def State.opalWaits (s : State) (p : Packet) : Bool := ((s.packetJob p).map fun g => s.windowsOf g.key).getD false

/-- The format of an element type (Table 15-1). -/
def elemFmt (t : Nat) : Fmt := if t = 0 then .fp32 else if t = 1 then .bf16 else .int true 32

/-- What of a staging SRAM holds verified source tiles: 512 KiB (R321). -/
def stagingBytes : Nat := 2 ^ 19

/-- A verified tile of `n` bytes is used from an Opal's staging SRAM, which the least recently used leave for it (R321). -/
def State.stage (s : State) (opal pa n : Nat) : State :=
  let all := s.staged.filter (fun x => !(x.1 == opal && x.2.1 == pa)) ++ [(opal, pa, n)]
  let mine := all.filter (·.1 == opal)
  let fits (k : Nat) : Bool := decide ((((mine.drop k).map (·.2.2)).foldl (· + ·) 0) ≤ stagingBytes)
  let out := mine.take (((List.range (mine.length + 1)).find? fits).getD 0)
  { s with staged := all.filter (!out.contains ·) }

/-- The source elements' codes of a block (R319). A tile is verified and read as TLD reads it; the last part is where the tile stands,
its size, and whether its verification found an event. -/
def State.blockSource (s : State) (part : Nat) (p : Packet) : Look (List Nat × Option (Nat × Nat × Bool)) := do
  let f := elemFmt p.etype
  if p.ct then
    let l ← s.opalSpans (s.opalAt p.die) part .watched (p.src + p.blk / 128 * tileSize f) (tileSize f)
    let bs ← s.spanBytes p l
    match (Tile.ofBytes f bs).verify f with
    | none => .error (.fail stChecksum)
    | some (t, ev) =>
      .ok ((List.range 128).map fun j => t.elems.getD (128 * (p.blk % 128) + j) 0,
        (l.head?.bind (·.pa)).map fun pa => (pa, tileSize f, ev))
  else
    let w := f.width / 8
    let l ← s.opalSpans (s.opalAt p.die) part .watched (p.src + 128 * p.blk * w) (p.nvalid * w)
    match l.findSome? fun x => x.pa.bind fun pa => if s.poisoned.any fun b => overlaps pa x.size (b * 256) 256 then some (pa, x.size) else none with
    | some x => .error (.poison x.1 x.2)
    | none => (s.spanBytes p l).map fun bs => (unpackRow f.width p.nvalid bs, none)

/-! ## The operations (R319) -/

def specOf (v : Val) : Nat := if v.isNan then 3 else if v.isInf then (if v.neg? then 2 else 1) else 0
def joinSpec (a b : Nat) : Nat := if a = 3 ∨ b = 3 ∨ (a = 1 ∧ b = 2) ∨ (a = 2 ∧ b = 1) then 3 else max a b

/-- h = ⌈log₂ NADD⌉. -/
def Packet.h (p : Packet) : Nat := if p.nadd ≤ 1 then 0 else Nat.log2 (p.nadd - 1) + 1

/-- floor(log2 |x|) of a finite non-zero value. -/
def expOf : Val → Option Int
  | .fin _ (m + 1) e => some ((topBit (m + 1) : Int) + e)
  | _ => none

def Packet.maxExp (p : Packet) (xs : List Val) : Packet :=
  { p with
    spec := p.spec.zipIdx.map fun x => match xs[x.2]? with
      | some v => joinSpec x.1 (specOf v)
      | none => x.1
    emax := if p.etype = 2 then p.emax else (xs.filterMap expOf).foldl (fun m e => some (match m with
      | some k => max k e
      | none => e)) p.emax }

/-- The aligned integer of one element. -/
def Packet.align (p : Packet) (v : Val) : Int :=
  let q : Int := match v, p.emax with
    | .fin n m e, some em =>
      let r : Int := (roundTo 0 0 n m (e + 62 - p.h - em) 0 false).1
      if n then -r else r
    | _, _ => 0
  let q := if p.etype = 2 then v.scaled 0 else q
  let top : Int := 2 ^ (63 - p.h) - 1
  min (max q (-top)) top

def Packet.alignAdd (p : Packet) (xs : List Val) : Packet :=
  { p with
    spec := p.spec.zipIdx.map fun x => match xs[x.2]? with
      | some v => joinSpec x.1 (specOf v)
      | none => x.1
    acc := p.acc.zipIdx.map fun x => match xs[x.2]? with
      | some v => x.1 + p.align v
      | none => x.1 }

/-- The code that STORE writes for element i. -/
def Packet.result (p : Packet) (i : Nat) : Nat :=
  let f := elemFmt p.otype
  let a := p.acc.getD i 0
  if p.etype = 2 then toBits 32 a
  else match p.spec.getD i 0 with
    | 3 => f.canon.1
    | 1 => (f.store 0 false 0 (.inf false)).1
    | 2 => (f.store 0 false 0 (.inf true)).1
    | _ => match p.emax with
      | none => 0
      | some em => (f.store 0 false 0 (.fin (decide (a < 0)) a.natAbs (p.sk - (62 - p.h - em)))).1

/-- STORE at this device: where the element row goes, and its bytes. Of a tile the other rows are read, and the row and all 256 sums
are written (R267). -/
def State.storeBlock (s : State) (part : Nat) (p : Packet) : Look State := do
  let f := if p.etype = 2 then elemFmt 2 else elemFmt p.otype
  let codes := (List.range p.nvalid).map p.result
  if p.ct then
    let row := 16 * f.width
    let at_ := row * (p.blk % 128)
    let sums := 128 * row
    let tile := p.dst + p.blk / 128 * tileSize f
    let die := s.opalAt p.die
    let below ← s.spanBytes p (← s.opalSpans die part .watched tile at_)
    let above ← s.spanBytes p (← s.opalSpans die part .watched (tile + at_ + row) (sums - at_ - row))
    let new := packRow f.width codes
    let bs := (Tile.summed f (Tile.ofBytes f (below ++ new ++ above ++ List.replicate (tileSize f - sums) 0))).bytes f
    let q1 ← s.spanWindows p (← s.opalSpans die part .write (tile + at_) row) new
    let q2 ← s.spanWindows p (← s.opalSpans die part .write (tile + sums) (tileSize f - sums)) (bs.drop sums)
    .ok (s.spanWrite p (q1 ++ q2))
  else
    let w := f.width / 8
    let q ← s.spanWindows p (← s.opalSpans (s.opalAt p.die) part .write (p.dst + 128 * p.blk * w) (p.nvalid * w)) (codes.flatMap (leBytes w))
    .ok (s.spanWrite p q)

/-- Perform the next operation of a packet (R319). -/
def State.opalOp (s : State) (p : Packet) : Look (Packet × State) :=
  match (s.comms.find? (·.1 == p.comm)).map (·.2) with
  | none => .error (.fail stPerm)
  | some part =>
    let op := p.ops.headD 0
    let withSource (k : Packet → List Val → Packet) : Look (Packet × State) := do
      let (codes, tile) ← s.blockSource part p
      let opal := s.opalAt p.die
      .ok (k p (codes.map (elemFmt p.etype).value), match tile with
        | some (pa, n, ev) =>
          let here := s.staged.any fun x => x.1 == opal && x.2.1 == pa
          (if ev && !here then s.countUnit (channelOf pa) else s).stage opal pa n
        | none => s)
    match opCode op with
    | 1 => withSource Packet.maxExp
    | 2 => withSource Packet.alignAdd
    | 3 => .ok ({ p with sk := min (max (p.sk + toSigned 5 (opArg op)) (-128)) 127 }, s)
    | 4 => .ok ({ p with otype := opArg op }, s)
    | 5 => (s.storeBlock part p).map fun s => (p, s)
    | _ => .ok (p, s)

/-- One hop (R318): the operation unless an earlier one failed, then the shift and the charge. -/
def State.hop (s : State) (p : Packet) : Look (Packet × State) :=
  let done : Look (Packet × State) := if p.err ≠ 0 then .ok (p, s) else match s.opalOp p with
    | .error (.fail st) => .ok ({ p with err := st }, s)
    | r => r
  done.map fun x =>
    let (p, s) := x
    ({ p with
      ops := p.ops.drop 1 ++ [0], route := p.route.drop 1 ++ [0], nhop := p.nhop - 1
      cyc := (p.cyc + Config.opalCycles s.fresh) % 2 ^ 32 }, { s with fresh := s.fresh + 1 })

/-! ## At the origin (R320–R322) -/

def State.onColl (s : State) (cid : Nat) (f : CollCmd → CollCmd) : State :=
  { s with colls := s.colls.map fun c => if c.cid = cid then f c else c }
def CollCmd.onBlock (c : CollCmd) (b : Nat) (f : CollBlock → CollBlock) : CollCmd :=
  { c with blocks := c.blocks.map fun x => if x.blk = b then f x else x }
def CollCmd.over (c : CollCmd) : Bool := c.read && c.blocks.all (·.done)

/-- The status of a completed command: the error of its lowest failed block (R322). -/
def CollCmd.status (c : CollCmd) : Nat := ((c.blocks.find? fun b => b.err != 0).map (·.err)).getD stOk

/-- STATUS and CYC over the command, in one 64-byte write; its other bytes as the command was read (log entry 41). -/
def CollCmd.answer (c : CollCmd) : Masked :=
  let answer (other : Masked) : Masked :=
    other.take 40 ++ wholeBytes (leBytes 1 c.status) ++ (other.drop 41).take 7 ++ wholeBytes (leBytes 8 c.cyc) ++ (other.drop 56).take 8
  answer (if c.cmd.isEmpty then List.replicate 64 (0, 0) else wholeBytes c.cmd)

/-- What keeps a write from being made or given up, if anything. -/
def standsBy {α : Type} : Look α → Option Stop
  | .error (.fail _) => none
  | .error e => some e
  | .ok _ => none

/-- A command whose blocks have all completed ends (R322): its status, its bit where the word can be written, its slot;
its cycles are charged (R190). Nothing yet while a page is in transit or a peer must be read first, or while a STORE has still to land
in a window. -/
def State.finishColl (s : State) (cid : Nat) : State :=
  match s.colls.find? (·.cid == cid) with
  | none => s
  | some c =>
    if !c.over then s
    else
      let g := s.collAgent c
      let d := Coll.of c.cmd
      let plan := s.aim g 0 c.va c.answer none
      let bit : Look Target := if d.bitmap = 0 then .error (.fail stOk) else s.aimBit g d.bitmap
      match (standsBy plan).or (standsBy bit) with
      | some e => s.stalled g.key e
      | none =>
      if s.windowsOf g.key then s
      else
        let s := match plan with
          | .ok p => s.emit { g with key := noteKey g.key } 0 p
          | .error _ => s
        let s := match bit with
          | .ok t => s.setBit { g with key := noteKey g.key } t (d.bit % 64)
          | .error _ => s
        let w := ((s.part? c.part).map (·.wcoll)).getD 0
        let s := { s.dropFault g.key with colls := s.colls.filter (·.cid != cid) }
        (s.charge c.part c.task (c.cyc * w)).entryLeft .coll fun k => k.part == c.part && k.cont == c.cont

/-- A packet has made its last hop at its origin (R320, R322): dropped unless it carries the block's current attempt. -/
def State.blockReturns (s : State) (p : Packet) : State :=
  match s.colls.find? (·.cid == p.cid) with
  | none => s
  | some c =>
    if !c.blocks.any fun b => b.blk == p.blk && b.att == p.att && b.flying then s
    else
      (s.onColl p.cid fun c => { c.onBlock p.blk fun b => { b with flying := false, done := true, err := p.err } with
        cyc := c.cyc + p.cyc }).finishColl p.cid

/-- A packet waits at its Opal before it goes to `dst`: one that this device has issued in its origin slot, an arrived one in a transit
slot (R321). -/
def State.stay (s : State) (issued : Bool) (dst : Nat) (p : Packet) : State :=
  let x := (s.opalAt p.die, collMsg s.devId dst p)
  if issued then { s with issuing := s.issuing ++ [x] } else { s with transit := s.transit ++ [x] }

/-- The hops of a packet on this device, from the one at hand (R317, R318); `issued` says that it stands in an origin slot. It keeps
its slot where a page is in transit, a window is not open, or a STORE has still to land; a read of a poisoned block is fatal and the
packet is lost. -/
def State.runHops : Nat → State → Bool → Packet → State
  | 0, s, _, _ => s
  | fuel + 1, s, issued, p =>
    match s.hop p with
    | .error (.poison pa n) => s.poisonRead pa n
    | .error (.page n page) => (s.pageArrives n page).stay issued s.devId p
    | .error _ => s.stay issued s.devId p
    | .ok (p, s) =>
      if p.nhop = 0 then s.blockReturns p
      else
        let d := p.route.headD 0
        if s.opalWaits p then s.stay issued d p
        else if d = s.devId then State.runHops fuel s issued p else s.send (collMsg s.devId d p)

/-- The packet of a block at its first hop (R317). -/
def CollCmd.packet (c : CollCmd) (b : CollBlock) : Packet :=
  let d := Coll.of c.cmd
  let r := Route.of c.route
  { nhop := r.nhop, ops := r.ops, route := r.devs, etype := d.etype, ct := d.ct, otype := if d.etype = 2 then 0 else d.etype
    comm := d.comm, die := c.die, err := 0, nadd := (r.ops.filter fun o => opCode o == 2).length, emax := none, sk := 0
    att := b.att, blk := b.blk, cid := c.cid, nvalid := min 128 (d.nel - 128 * b.blk), cyc := 0, src := d.src, dst := d.dst
    spec := List.replicate 128 0, acc := List.replicate 128 0 }

/-- Send a block of a command on its way, from its first hop. -/
def State.launch (s : State) (c : CollCmd) (b : CollBlock) : State :=
  let b : CollBlock := { b with flying := true, since := s.now }
  (s.onColl c.cid fun c => c.onBlock b.blk fun _ => b).runHops 16 true (c.packet b)

/-! ## COLL (R205) -/

/-- The commands of a continuation that have not completed. -/
def State.outstanding (s : State) (part cont : Nat) : Nat := (s.colls.filter fun c => c.part == part && c.cont == cont).length

def execColl (a : Nat) (s : State) : Out :=
  .next <| if s.inGroup then s.refuse .groupViolation
  else s.checked (s.check .rw 3 (s.rs a).toNat 64 64) fun ps =>
    if 4 ≤ s.outstanding s.core.part s.core.cont then s.stallOn .coll
    else s.inFull fun s =>
      let s := s.enginePost
      let c := s.core
      let cmd : CollCmd := ⟨s.nextCid, dieOf c.phys, c.part, c.task, c.cont, ((ps.head?).map (·.va)).getD 0, false, [], [], [], 0⟩
      { s with colls := s.colls ++ [cmd], nextCid := (s.nextCid + 1) % 2 ^ 32 }

/-! ## The steps of a command -/

/-- What a command and its route record amount to (R315, R316): its blocks, or the status that completes it at once. -/
def State.readColl (s : State) (c : CollCmd) : Look (List Byte × List Byte × Nat) := do
  let g := s.collAgent c
  let cmd ← s.peek g c.va 64
  let d := Coll.of cmd
  if collBad cmd then .ok (cmd, [], stBadRecord)
  else match s.peek g d.rrec 64 with
    | .error (.fail st) => .ok (cmd, [], st)
    | .error e => .error e
    | .ok r =>
      match (if d.bitmap = 0 then .error (.fail stOk) else s.aimBit g d.bitmap : Look Target) with
      | .error .wait => .error .wait
      | .error (.fail (st + 1)) => .ok (cmd, r, st + 1)
      | _ =>
        if routeBad s.devId d.etype r then .ok (cmd, r, stBadRecord)
        else if ((Route.of r).devs.take (Route.of r).nhop).any fun x => !s.reachable x then .ok (cmd, r, stPage)
        else .ok (cmd, r, stOk)

/-- Opal reads a command and its route record once, and checks them (R315, R316). -/
def execCollectiveCommandRead (k : Nat) (s : State) : Out :=
  .next <| match s.colls[k]? with
  | none => s
  | some c =>
    if c.read || s.parkedPart c.part then s
    else
      let fails (s : State) (cmd r : List Byte) (st : Nat) : State :=
        (s.onColl c.cid fun c => { c with read := true, cmd := cmd, route := r, blocks := [⟨0, 0, false, true, st, 0⟩] }).finishColl c.cid
      match s.readColl c with
      | .error (.fail st) => fails s [] [] st
      | .error e => s.stalled (s.collAgent c).key e
      | .ok (cmd, r, st) =>
        let s := s.dropReads (s.collAgent c).key
        if st ≠ stOk then fails s cmd r st
        else s.onColl c.cid fun c => { c with
          read := true, cmd := cmd, route := r
          blocks := (List.range (((Coll.of cmd).nel + 127) / 128)).map fun b => ⟨b, 0, false, false, 0, 0⟩ }

/-- Origin slots of an Opal in use (R321). -/
def State.flying (s : State) (opal : Nat) : Nat :=
  ((s.colls.filter fun c => s.opalAt c.die == opal).map fun c => (c.blocks.filter (·.flying)).length).foldl (· + ·) 0

/-- The next block of a command leaves, in index order, when an origin slot is free (R321). A command whose blocks are all
done ends here where it could not end before. -/
def execBlockIssue (k : Nat) (s : State) : Out :=
  .next <| match s.colls[k]? with
  | none => s
  | some c =>
    if !c.read || s.parkedPart c.part then s
    else if c.over then s.finishColl c.cid
    else match c.blocks.find? fun b => !b.flying && !b.done with
      | none => s
      | some b => if 256 ≤ s.flying (s.opalAt c.die) then s else s.launch c b

/-- An Opal takes a packet (R318, R321): one that waits in a slot goes on; an arriving one needs a transit slot and a
matching CRC. Ingress cut for the communicator's partition drops an arriving one (R400), and no packet of a partition after its fatal
error does anything more (R393). -/
def execCollPacket (m : FabricMsg) (s : State) : Out :=
  let p := Packet.of m.payload
  let part := (s.comms.find? (·.1 == p.comm)).map (·.2)
  let dead := ((part.bind s.part?).map (·.fatal)).getD false
  let goOn (t : State) (issued : Bool) : State :=
    let p := match ((s.packetJob p).bind fun g => s.windowFault g.key) with
      | some st => if p.err = 0 then { p with err := st } else p
      | none => p
    if dead then t else if s.opalWaits p then s else if m.dst = s.devId then State.runHops 16 t issued p else t.send (collMsg m.src m.dst p)
  .next <| match s.transit.find? (·.2 == m), s.issuing.find? (·.2 == m) with
  | some x, _ => goOn { s with transit := s.transit.erase x } false
  | none, some x => goOn { s with issuing := s.issuing.erase x } true
  | none, none => s.arriving m 8 fun s =>
    if dead || (part.map s.ingressCut).getD false then s.countDrop
    else if 512 ≤ (s.transit.filter fun x => x.1 == s.opalAt p.die).length then { s with collBusy := (s.collBusy + 1) % 2 ^ 64 }
    else if !packetOk m.payload then { s with collDrop := (s.collDrop + 1) % 2 ^ 64 }
    else s.runHops 16 false p

/-- The collective timeout: eight release timeouts (R320). -/
def State.lateBlock (s : State) (c : CollCmd) : Option CollBlock :=
  c.blocks.find? fun b => b.flying && decide (8 * s.relTimeout ≤ s.now - b.since)

/-- A block is issued again with the next attempt number, and fails after attempt 7 (R320). -/
def State.reissueBlock (s : State) (c : CollCmd) (b : CollBlock) : State :=
  if b.att = 7 then
    (s.onColl c.cid fun c => c.onBlock b.blk fun b => { b with flying := false, done := true, err := stCrc }).finishColl c.cid
  else s.launch c { b with att := b.att + 1 }

/-- A block that has not returned is issued again (R320); not while its partition stands still (R400). -/
def execCollectiveTimeout (k : Nat) (s : State) : Out :=
  .next <| match s.colls[k]? with
  | none => s
  | some c => match s.lateBlock c with
    | some b => if s.parkedPart c.part then s else s.reissueBlock c b
    | none => s

end Sys2Proof.Machine
end

