-- ==== Sys2Proof/Machine/Tasks.lean ====
section
/-! DEFINITION. Tasks (R209, R210, R228, R332–R349, R416): descriptors, TPOST and TCANCEL, admission, dispatch, completion,
reruns, preload candidates, and the end of a queue's reset or closing. -/

namespace Sys2Proof.Machine

/-! ## Descriptors (Tables 18-1 to 18-3) -/

/-- A 52-bit address sign-extended from bit 51 (R332). -/
def sext52 (a : Nat) : Nat := if 2 ^ 51 ≤ a % 2 ^ 52 then a % 2 ^ 52 + (2 ^ 64 - 2 ^ 52) else a % 2 ^ 52

def Region.of (w : Nat) : Region := ⟨field w 63 1 == 1, field w 0 46 * 64, field w 46 12 * 2 ^ (field w 58 5 + 6)⟩

def Desc.of (bs : List Byte) : Desc :=
  let n := leNat bs
  let c := field n 192 64
  { entry := sext52 (field n 0 64), arg := BitVec.ofNat 64 (field n 64 64), deadline := field n 128 64
    pgroup := field c 56 8, pin := field c 55 1 == 1, preload := field c 54 1 == 1, persist := field c 53 1 == 1
    rerun := field c 52 1 == 1, cls := field c 50 2, policy := field c 48 2, budget := field c 0 48
    grace := field n 316 4, signal := sext52 (field n 256 52), handler := sext52 (field n 320 64), root := sext52 (field n 384 64)
    regions := (List.range 8).map fun r => Region.of (field n (512 + 64 * r) 64), raw := bs }

/-- The contents of a descriptor that R337's second check refuses. -/
def Desc.malformed (d : Desc) : Bool :=
  let n := leNat d.raw
  d.cls == 3 || d.policy == 3 || field n 52 12 != 0 || field n 308 8 != 0 || field n 372 12 != 0 || field n 436 12 != 0
    || d.entry % 4 != 0 || d.root % 64 != 0 || d.signal % 8 != 0 || d.handler % 4 != 0
    || d.regions.any fun r => r.len != 0 && decide (2 ^ 52 < r.base + r.len)

/-- The footprint regions that declare something (R247). -/
def Desc.used (d : Desc) : List Region := d.regions.filter (·.len != 0)

/-! ## Codes (Table 18-8) -/

def admOverload : Nat := 0x40
def admPastDeadline : Nat := 0x41
def admBudgetZero : Nat := 0x42
def admWindow : Nat := 0x43
def admGroup : Nat := 0x44
def admFootprintFull : Nat := 0x45
def admQueueClosed : Nat := 0x46
def admDegraded : Nat := 0x47
def admDescriptor : Nat := 0x48

/-! ## Entries and task indices (R334, R335) -/

def Task.queued (idx q pos : Nat) (notice : Option (Nat × Nat)) : Task :=
  { idx := idx, q := q, pos := pos, desc := none, state := .queued, code := 0, charge := 0, poison := false, dem := false, runs := 0
    hbeat := 0, adm := 0, edges := [], cls := 0, budget := 0, graced := false, notice := notice, hbTimer := 0, universal := false
    holds := false, safePtr := none, safeTrap := none, overrun := false }

/-- A new entry takes the partition's next task index (R335); a finished task of that number is forgotten (R336). -/
def Partition.enter (p : Partition) (q pos : Nat) (notice : Option (Nat × Nat)) : Partition :=
  { p with
    nextIdx := (p.nextIdx + 1) % 2 ^ 32
    tasks := (p.tasks.filter fun t => !(t.idx == p.nextIdx && t.finished)) ++ [Task.queued p.nextIdx q pos notice] }

def State.onQueue (s : State) (part q : Nat) (f : Queue → Queue) : State :=
  s.onPart part fun p => { p with queues := p.queues.map fun x => if x.q = q then f x else x }

/-- STATE of a control block (Table 22-3). -/
def QState.code : QState → Nat
  | .opened => 0 | .resetting => 1 | .closed => 2

/-- TAIL, HEAD and STATE of a queue's control block in memory (Table 22-3), each write at its home slice. -/
def State.showQueue (s : State) (part q : Nat) : State :=
  match s.queue? part q with
  | none => s
  | some x => (s.perform x.ctl (leBytes 8 x.tail ++ leBytes 8 x.head)).perform (x.ctl + 30) (leBytes 1 x.state.code)

/-- Entries posted and not yet taken. -/
def Queue.held (x : Queue) : Nat := (x.tail + 2 ^ 64 - x.head) % 2 ^ 64

/-- Does a queue reject what a TPOST posts to it (R209, R416)? -/
def Queue.rejects (x : Queue) : Bool := x.state != .opened || x.mark.isSome

/-! ## Answers: signal, completion record, notice (R341, R389) -/

def TaskState.code : TaskState → Nat
  | .queued => 0 | .waiting => 1 | .running => 2 | .ending => 3 | .draining => 4 | .done => 5 | .rejected => 6 | .rerunning => 7

/-- STATUS of the queue copy (Table 18-7). -/
def Task.status (t : Task) : Word :=
  BitVec.ofNat 64 (t.charge / 256 * 2 ^ 16 + (if t.finished then t.code * 2 ^ 8 else 0) + t.state.code)

/-- The completion signal word (Table 18-6) at a time. -/
def Task.signalWord (t : Task) (now : Nat) : Word :=
  let late : Bool := match t.desc with
    | some d => d.cls != 2 && t.state != .rejected && decide (d.deadline < now)
    | none => false
  BitVec.ofNat 64 (t.idx * 2 ^ 32 + (if late then 2 ^ 18 else 0) + (if t.poison then 2 ^ 17 else 0) + (if t.dem then 2 ^ 16 else 0)
    + t.runs * 2 ^ 8 + t.code)

/-- Where 8 bytes of a partition's own memory may be written by the hub now. -/
def State.signalPa (s : State) (part a : Nat) : Option Nat :=
  if a % 8 ≠ 0 then none
  else match s.xlatOf (s.walk part (va52 a)) .write 3 (va52 a) with
    | .ok loc _ => if loc.peer.isNone then some loc.pa else none
    | .transit => match s.walk part (va52 a) with
      | .transit e _ => if (leafFields e).w then s.recPa part a else none
      | _ => none
    | .trap _ => none

/-- A TPOST notice reaches its record (R209): the flag on the core that runs it, or the notice word of its frame; nothing
where the record has ended. -/
def State.deliverNotice (s : State) (part rec f : Nat) : State :=
  match s.runner part rec with
  | some n => s.onCoreN n fun c => (c.write (.fl f true)).follow [.fl f true]
  | none =>
    if ((s.part? part).map fun p => p.recs.any (·.1 == rec)).getD false then
      let frame := s.recFrame part rec
      s.hubWrite part frame 0x78 8 (s.readRec part frame 0x78 8 ||| 2 ^ f)
    else s

/-- The signal word, the completion record and the notice of a finished task, in that order (R341, R389). -/
def State.answer (s : State) (part idx : Nat) : State :=
  match s.task? part idx with
  | none => s
  | some t =>
    let word := t.signalWord s.now
    let a := (t.desc.map (·.signal)).getD 0
    let s := match (if a = 0 then none else s.signalPa part a) with
      | some pa => s.perform pa (leBytes 8 word.toNat)
      | none => s
    let s := match s.queue? part t.q with
      | some x => if x.attr.cring = 0 then s
        else (s.onQueue part t.q fun x => { x with completions := x.completions + 1 }).notify (.completion part t.q (x.attr.cring + 16 * (x.completions % max 1 x.attr.cdepth)) x.attr.ckey word t.status)
      | none => s
    match t.notice with
    | some (rec, f) => s.deliverNotice part rec f
    | none => s

/-- A task is rejected with a code (R339). -/
def State.reject (s : State) (part idx code : Nat) : State :=
  (s.onTask part idx fun t => { t with state := .rejected, code := code }).answer part idx

/-! ## TPOST and TCANCEL (R209, R210) -/

/-- Read checked pieces at device scope at issue: the bytes, or the READs to peers that must come first. -/
def State.readPieces (s : State) (ps : List Piece) : (List Byte ⊕ Freeze) × State :=
  ps.foldl (fun (acc : (List Byte ⊕ Freeze) × State) p =>
    match acc.1, acc.2.readNow 3 p with
    | .inl bs, (.inl more, s) => (.inl (bs ++ more), s)
    | .inl _, (.inr w, s) => (.inr w, s)
    | .inr w, (.inl _, s) => (.inr w, s)
    | .inr (.reads ws), (.inr (.reads w), s) => (.inr (.reads (ws ++ w)), s)
    | .inr w, (.inr _, s) => (.inr w, s)) (.inl [], s)

/-- The entries of a queue that are taken: those that it holds, and those of copies in progress (R194, R209). -/
def State.taken (s : State) (part : Nat) (x : Queue) : Nat :=
  x.held + (s.allCores.filter fun c => c.running && c.part == part && (c.posting.map (·.q)) == some x.q).length

def execTpost (b a d : Nat) (s : State) : Out :=
  let v := (s.rs b).toNat
  let q := field v 0 6
  .next <| if s.core.posting.isSome then s.wait
  else if s.inGroup then s.refuse .groupViolation
  else if v / 2 ^ 15 ≠ 0 ∨ field v 6 2 ≠ 0 ∨ (field v 14 1 = 0 ∧ field v 8 6 ≠ 0) then s.refuse .illegal
  else match s.queue? s.core.part q with
    | none => s.refuse .illegal
    | some x =>
      if !x.attr.prog then s.refuse .perm
      else s.checked (s.check .read 3 (s.rs a).toNat 128 64) fun ps =>
        if !x.rejects ∧ x.attr.depth ≤ s.taken s.core.part x then s.stallOn (.queue q)
        else s.inFull fun s =>
          let s := s.enginePost
          match s.readPieces ps with
          | (.inr w, _) => s.freeze w
          | (.inl bs, s) =>
            let note := if field v 14 1 = 1 then some (field v 8 6) else none
            (s.onCore fun c => { c with posting := some ⟨q, bs, d, note⟩, stall := none }).wait

/-- The copy of a posted descriptor enters its queue: it takes its index, TPOST joins the done mask, and its register is
written as the bundle retires (R209). A queue that is full keeps it waiting; one that accepts nothing rejects
the task. -/
def execTpostCopyComplete (s : State) : Out :=
  let c := s.core
  .next <| match c.posting with
  | none => s
  | some t => match s.queue? c.part t.q, s.part? c.part with
    | some x, some p =>
      if !x.rejects ∧ x.attr.depth ≤ x.held then s
      else
        let idx := p.nextIdx
        let notice := t.notice.map fun f => (c.cont, f)
        let s := s.onCore fun c =>
          let c := match t.notice with
            | some f => c.write (.fl f false)
            | none => c
          { c with posting := none, done := c.done ||| 2 ^ 7, late := c.late ++ [.s t.d (BitVec.ofNat 64 idx)], requeue := true }
        if x.rejects then
          let s := s.onPart c.part fun p => p.enter t.q 0 notice
          (s.onTask c.part idx fun u => { u with desc := some (Desc.of t.desc) }).reject c.part idx admQueueClosed
        else
          let s := s.perform (x.attr.ring + 128 * (x.tail % x.attr.depth)) t.desc
          let s := s.onPart c.part fun p => p.enter t.q (x.tail % x.attr.depth) notice
          (s.onQueue c.part t.q fun x => { x with tail := (x.tail + 1) % 2 ^ 64, idx := x.idx ++ [idx] }).showQueue c.part t.q
    | _, _ => s

def execTcancel (a d : Nat) (s : State) : Out :=
  let v := (s.rs a).toNat
  let part := s.core.part
  .next <| if s.inGroup then s.refuse .groupViolation
  else if 2 ^ 32 ≤ v then s.refuse .illegal
  else match s.task? part v with
    | none => s.result 6 [.s d 2]
    | some t => if t.finished then s.result 6 [.s d 1] else (s.result 6 [.s d 0]).ending part v 0x21

/-! ## Admission (R336–R338) -/

/-- Index x precedes index y (R336). -/
def idxBefore (x y : Nat) : Bool := x != y && decide ((y + 2 ^ 32 - x % 2 ^ 32) % 2 ^ 32 < 2 ^ 31)

/-- Admitted and unfinished: admission numbers start at 1, and a task cancelled before admission has none. -/
def Task.admitted (t : Task) : Bool :=
  match t.state with
  | .waiting | .running | .ending | .draining | .rerunning => t.adm != 0
  | _ => false

/-- H: the healthy members of a group (R338, R397). -/
def State.healthy (s : State) (p : Partition) (members : Nat) : Nat :=
  ((List.range 256).filter fun l => hasBit members l && match p.physical l with
    | some n => !s.retired.contains (.core n)
    | none => false).length

/-- W: the window in cycles from a time to a deadline (R338). -/
def windowOf (now deadline : Nat) : Nat := (deadline - now) * 7 / 5

def ceilDiv (a b : Nat) : Nat := (a + b - 1) / b

/-- The density of a task in units of 2^-16 (R338). -/
def Task.density (t : Task) (now : Nat) : Nat :=
  let left := 256 * t.budget - t.charge
  ceilDiv (left * 256) (windowOf now ((t.desc.map (·.deadline)).getD 0))

/-- Admitted unfinished HARD tasks whose group shares a member with a set of cores. -/
def Partition.hardOn (p : Partition) (members : Nat) : List Task :=
  p.tasks.filter fun t => t.admitted && t.cls == 0 && (p.placement t &&& members) != 0

/-- Does a group's set of tasks meet its limit (R338)? -/
def State.meets (s : State) (p : Partition) (members : Nat) (extra : List Task) : Bool :=
  let sum := ((p.hardOn members ++ extra).map fun t => t.density s.now).foldl (· + ·) 0
  decide (sum ≤ s.healthy p members * p.ulim)

/-- Lower to SOFT every HARD task whose deadline has come, before a test (R338). -/
def State.lowerLate (s : State) (part : Nat) : State :=
  s.onPart part fun p => { p with tasks := p.tasks.map fun t =>
    if t.admitted && t.cls == 0 && decide (((t.desc.map (·.deadline)).getD 0) ≤ s.now) then { t with cls := 1, dem := true } else t }

/-- The utilisation test for a new HARD task (R338), the late ones lowered. -/
def State.overloaded (s : State) (p : Partition) (t : Task) : Bool :=
  let g := p.placement t
  let groups := (g :: (p.hardOn g).map p.placement).eraseDups
  !groups.all fun m => s.meets p m [t]

/-- The footprint entries in use (R248). -/
def Partition.footprint (p : Partition) : Nat :=
  ((p.tasks.filter fun t => t.admitted && !t.universal).map fun t => ((t.desc.map fun d => d.used.length).getD 0)).foldl (· + ·) 0

/-- The first failing check of Table 18-5, for a task with its descriptor read. -/
def State.admission (s : State) (p : Partition) (x : Queue) (t : Task) (d : Desc) : Option Nat :=
  let rootBad := match s.xlatOf (s.walk p.no (va52 d.root)) .rw 3 (va52 d.root) with
    | .ok loc _ => loc.peer.isSome || (let st := s.recSt p.no d.root; st != 0 && st != 5 && st != 6)
    | _ => true
  let g := p.group d.pgroup
  let h := s.healthy p g.members
  if x.state ≠ .opened then some admQueueClosed
  else if d.malformed || rootBad then some admDescriptor
  else if g.kind ≠ 1 ∨ g.members = 0 then some admGroup
  else if h = 0 then some admDegraded
  else if d.budget = 0 then some admBudgetZero
  else if d.cls ≠ 2 ∧ d.deadline ≤ s.now then some admPastDeadline
  else if d.cls ≠ 2 ∧ windowOf s.now d.deadline * h < d.budget then some admWindow
  else if d.cls = 0 && s.overloaded p t then some admOverload
  else if x.attr.strictfp && decide (4096 < p.footprint + d.used.length) then some admFootprintFull
  else none

/-- Has the utilisation test been made where admission ends with this code (R338)? Only then are late tasks lowered. -/
def testedBy (code : Nat) : Bool := code == admOverload || code == admFootprintFull

/-! ## Edges (R247, R248) -/

def Region.conflicts (a b : Region) : Bool := (a.w || b.w) && overlaps a.base a.len b.base b.len

/-- Is there an edge from an earlier task to a later one? -/
def Task.edgeTo (t u : Task) : Bool :=
  t.universal || u.universal || match t.desc, u.desc with
    | some d, some e => d.used.any fun a => e.used.any a.conflicts
    | _, _ => false

def Partition.domain (p : Partition) (t : Task) : Option Nat := (p.queues.find? (·.q == t.q)).map (·.attr.domain)

/-- The earlier unfinished tasks of its domain that a task must wait for. -/
def Partition.edgesInto (p : Partition) (u : Task) : List Nat :=
  (p.tasks.filter fun t => t.admitted && p.domain t == p.domain u && idxBefore t.idx u.idx && t.edgeTo u).map (·.idx)

/-- Admit a task: its footprint, its edges, its place in admission order (R337, R247, R248). -/
def State.takeIn (s : State) (part idx : Nat) : State :=
  match s.part? part, s.task? part idx with
  | some p, some t =>
    let room := p.footprint + ((t.desc.map fun d => d.used.length).getD 0) ≤ 4096
    let t := { t with universal := !decide room }
    (s.onTask part idx fun _ => { t with state := .waiting, adm := p.nextAdm, edges := p.edgesInto t }).onPart part fun p => { p with nextAdm := p.nextAdm + 1 }
  | _, _ => s

/-! ## TASK_TAKE (R335–R337, R349, R416) -/

/-- May the scheduler take an entry of this index now (R336)? No unfinished task that it has taken stands half the numbers or more
before it, nor holds its number. -/
def Partition.mayTake (p : Partition) (i : Nat) : Bool :=
  (p.tasks.filter fun t => t.idx == i && !t.finished).length ≤ 1
    && p.tasks.all fun t => t.finished || t.desc.isNone || t.idx == i || decide ((i + 2 ^ 32 - t.idx) % 2 ^ 32 < 2 ^ 31)

/-- Does the queue hold the entry that is next in index order (R335)? -/
def Partition.next (p : Partition) (x : Queue) : Option Nat :=
  match x.idx with
  | [] => none
  | i :: _ =>
    if p.mayTake i && p.queues.all fun y => y.q == x.q || match y.idx with
        | j :: _ => !p.mayTake j || idxBefore i j
        | [] => true
    then some i else none

/-- A task with the descriptor of its entry. -/
def Task.posted (t : Task) (d : Desc) : Task := { t with desc := some d, cls := d.cls, budget := d.budget }

/-- The descriptor that stands at a place of a queue's ring. -/
def State.entryAt (s : State) (x : Queue) (pos : Nat) : Desc := Desc.of (s.mem.readN (x.attr.ring + 128 * (pos % x.attr.depth)) 128)

/-- Is a ROOT record's page in transit (R378)? The scheduler waits before it reads or writes the record. -/
def State.rootMoves (s : State) (part root : Nat) : Bool :=
  match s.xlatOf (s.walk part (va52 root)) .rw 3 (va52 root) with
  | .transit => true
  | _ => false

/-- The scheduler takes the entry at a queue's HEAD, and admits or rejects its task (R337); in a queue that is resetting
the task is cancelled (R349). -/
def execTaskTake (part q : Nat) (s : State) : Out :=
  .next <| match s.part? part with
  | none => s
  | some p =>
    if p.swapped || p.quiesced || p.fatal then s
    else match (p.queues.find? (·.q == q)).bind fun x => (p.next x).map fun i => (x, i) with
      | none => s
      | some (x, i) =>
        let d := s.entryAt x x.head
        if s.rootMoves part d.root then s else
        let s := s.onQueue part q fun x => { x with head := (x.head + 1) % 2 ^ 64, idx := x.idx.drop 1 }
        let s := (s.showQueue part q).entryLeft (.queue q) fun c => c.part == part
        match s.task? part i with
        | none => s
        | some t =>
          if t.state ≠ .queued then s else
          let s := s.onTask part i fun t => t.posted d
          let t := t.posted d
          if x.state = .resetting then s.ending part i 0x21
          else
            let low := if d.cls = 0 then s.lowerLate part else s
            match low.part? part with
            | none => s
            | some p => match low.admission p x t d with
              | some code => (if testedBy code then low else s).reject part i code
              | none => low.takeIn part i

/-! ## Dispatch (R228, R340) -/

/-- A pinned task that has been admitted acquires the cores of its group, all at once, when no other task holds any (R228). -/
def execGroupHold (part idx : Nat) (s : State) : Out :=
  .next <| match s.part? part with
  | none => s
  | some p => match p.task? idx with
    | none => s
    | some t =>
      let mine := p.placement t
      if t.state ≠ .waiting ∨ !t.pinned ∨ t.holds then s
      else if p.tasks.any fun u => u.holds && (p.placement u &&& mine) != 0 then s
      else s.onTask part idx fun t => { t with holds := true }

/-- The safe-table pointer at ENTRY − 8, or the trap of reading it (R91). -/
def State.safePointer (s : State) (part entry : Nat) : Option Nat × Option TrapNo :=
  match s.readWith 65536 part .read ((entry + 2 ^ 64 - 8) % 2 ^ 64) 8 with
  | .ok bs => (some (leNat bs), none)
  | .error t => (none, some t.no)

/-- Is the pointer's page in transit (R378), or must its bytes come from a peer? The dispatch waits. -/
def State.pointerMoves (s : State) (part entry : Nat) : Bool :=
  match s.readWith 65536 part .read ((entry + 2 ^ 64 - 8) % 2 ^ 64) 8 with
  | .ok _ => false
  | .error t => trapWaits t

/-- The READ for the pointer that is not out. -/
def State.pointerNeeds (s : State) (part entry : Nat) : Option (Nat × Nat × Nat) :=
  match s.readWith 65536 part .read ((entry + 2 ^ 64 - 8) % 2 ^ 64) 8 with
  | .ok _ => none
  | .error t => (trapNeeds t).bind fun r => if (s.issueRead 65536 r.1 r.2.1 r.2.2.1).isSome then none else some (r.1, r.2.1, r.2.2.1)

/-- Write a ROOT record for its first continuation and make it ready (R340). -/
def State.startRoot (s : State) (part idx : Nat) (t : Task) (d : Desc) : State :=
  let put (s : State) (off n v : Nat) : State := s.hubWrite part d.root off n v
  let deadline := if t.cls = 2 then 2 ^ 64 - 1 else d.deadline
  let s := put (put (put (put s 0 8 d.entry) 16 4 0) 20 4 idx) 24 8 deadline
  let s := put (put (put (put s 40 8 0) 56 8 0) 36 2 0xFFFF) 32 4 0
  let s := ((s.dropSaved part d.root).orphanChans part d.root).onPart part fun p => { p with recs := p.recs.filter (·.1 != d.root) ++ [(d.root, idx)] }
  s.readyRec part d.root

/-- An admitted task with no incoming edge, and with its group if it is pinned, is dispatched (R340). Its ROOT record must
be writable. -/
def execTaskDispatch (part idx : Nat) (s : State) : Out :=
  .next <| match s.part? part with
  | none => s
  | some p => match p.task? idx with
    | none => s
    | some t => match t.desc with
      | none => s
      | some d =>
        let open_ := match s.xlatOf (s.walk part (va52 d.root)) .rw 3 (va52 d.root) with
          | .ok loc _ => loc.peer.isNone
          | _ => false
        if t.state ≠ .waiting ∨ !t.edges.isEmpty ∨ (t.pinned ∧ !t.holds) ∨ p.quiesced ∨ p.fatal ∨ !open_ then s
        else match s.pointerNeeds part d.entry with
        | some r => s.askReads 65536 [r]
        | none =>
          if s.pointerMoves part d.entry then s else
          let s := s.poisonRange part .read ((d.entry + 2 ^ 64 - 8) % 2 ^ 64) 8
          let (ptr, tr) := s.safePointer part d.entry
          let s := s.onTask part idx fun t => { t with
            state := .running, runs := min 255 (t.runs + 1), hbTimer := s.now, safePtr := ptr, safeTrap := tr }
          (s.startRoot part idx t d).dropReads 65536

/-! ## The end of a task (R341, R346) -/

/-- Has every engine job that a task posted ended: its chains and its collective commands (R341)? -/
def State.jobsEnded (s : State) (part idx : Nat) : Bool :=
  !(s.chans.any fun c => c.part == part && c.heads.any (·.task == idx))
    && !(s.colls.any fun c => c.part == part && c.task == idx) && !(s.windows.any fun w => w.part == part && w.task == idx)

/-- Every published store and every atomic of a task is performed (R341). -/
def State.performTask (s : State) (part idx : Nat) : State :=
  let s := s.finishPubs (s.pubs.filter fun p => p.part == part && p.task == idx)
  s.finishAtoms (s.atoms.filter fun a => a.part == part && a.task == idx)

/-- A task cancelled while its entry stood in the ring completes from the descriptor there (R210, R342). -/
def State.describe (s : State) (part : Nat) (t : Task) : Task :=
  match t.desc, s.queue? part t.q with
  | none, some x => t.posted (s.entryAt x t.pos)
  | _, _ => t

/-- A task completes (R341): its stores are visible, then STATUS, signal, completion record and notice, and its edges and its
group are released. Dependants that it still has are treated by its code (R334, R345). -/
def execTaskComplete (part idx : Nat) (s : State) : Out :=
  .next <| match s.task? part idx with
  | none => s
  | some t =>
    if t.state ≠ .draining ∨ !s.jobsEnded part idx ∨ s.parkedPart part then s
    else if s.egress.any fun w => w.part == part && w.task == idx then s
    else
      let s := (s.performTask part idx).onTask part idx fun t => { s.describe part t with state := .done }
      let s := (s.answer part idx).onPart part fun p => { p with tasks := p.tasks.map fun u =>
        if u.idx = idx ∧ u.finished then { u with holds := false } else u }
      s.freeDeps (State.endDep part) part idx t.q t.code

/-- A RERUNNING task whose records and jobs have ended waits to be dispatched again, its charges cleared (R346, R361). -/
def execTaskRerun (part idx : Nat) (s : State) : Out :=
  .next <| match s.part? part with
  | none => s
  | some p => match p.task? idx with
    | none => s
    | some t =>
      if t.state ≠ .rerunning ∨ p.live idx ≠ 0 ∨ !s.jobsEnded part idx then s
      else s.onTask part idx fun t => { t with state := .waiting, charge := 0, hbeat := 0, hbTimer := s.now }

/-! ## Retested groups (R343) -/

/-- Lower the HARD task with the latest deadline, the latest admitted among equals. -/
def Partition.lowerLatest (p : Partition) (members : Nat) : Partition :=
  let last := (p.hardOn members).foldl (fun best t =>
    let key (t : Task) : Nat × Nat := ((t.desc.map (·.deadline)).getD 0, t.adm)
    match best with
    | none => some t
    | some b => if (key b).1 < (key t).1 ∨ ((key b).1 = (key t).1 ∧ (key b).2 < (key t).2) then some t else best) (none : Option Task)
  match last with
  | none => p
  | some t => { p with tasks := changeFirst (p.named t.idx) (fun t => { t with cls := 1, dem := true }) p.tasks }

/-- Repeat the test of a group until it meets its limit (R343). -/
def State.retest : Nat → State → Nat → Nat → State
  | 0, s, _, _ => s
  | fuel + 1, s, part, members =>
    match s.part? part with
    | none => s
    | some p =>
      if s.meets p members [] then s
      else State.retest fuel (s.onPart part fun p => p.lowerLatest members) part members

/-- Cores of a partition have gone: every placement group that has lost one of them is tested again, the late tasks lowered first
(R338, R343). -/
def State.retestLost (s : State) (part lost : Nat) : State :=
  match s.part? part with
  | none => s
  | some p =>
    let groups := (((List.range 256).map p.group).filter fun g => g.kind == 1 && (g.members &&& lost) != 0).map (·.members)
    if (p.hardOn (2 ^ 256 - 1)).isEmpty then s else groups.foldl (fun s m => s.retest p.tasks.length part m) (s.lowerLate part)

/-- The test after a restore, for every admitted unfinished HARD task (R343, R407). -/
def State.retestAll (s : State) (part : Nat) : State := s.retestLost part (2 ^ 256 - 1)

/-! ## Preload (R348) -/

/-- The ready record that a core may preload: of a task with PRELOAD = 1, eligible there, earliest deadline, no other core's
candidate. -/
def State.candidate (s : State) (n : Nat) : Option Nat :=
  let c := s.coreOf n
  match s.part? c.part with
  | none => none
  | some p =>
    let p := s.readyNow p
    let able := p.ready.filter fun r => s.eligible p n r && (((p.task? r.task).bind (·.desc)).map (·.preload)).getD false
      && !(s.allCores.any fun d => d.phys != n && d.preload == some r.cont)
    (able.foldl (fun best r => match best with
      | none => some r
      | some (b : Ready) => if p.before r b then some r else best) (none : Option Ready)).map (·.cont)

/-- The scratch pages that a record had pinned at its last write-back and that no core has, up to 16 (R348). -/
def State.preloadable (s : State) (part rec : Nat) : List Nat :=
  ((((s.savedOf part rec).map (·.pins)).getD []).filter fun k => !s.pages.any (·.1 == part * 2 ^ 48 + k)).take 16

/-- The scheduler names a core's preload candidate (R348), whose pages the core refills into its idle bank. Neither they nor the code
fetched change a value that any load returns. -/
def execPreload (core : Nat) (s : State) : Out :=
  .next <| if !(s.coreOf core).running then s
  else match s.candidate core with
    | none => s
    | some r => s.onCoreN core fun c => { c with preload := some r, bank := s.preloadable c.part r }

/-! ## Queues end (R349, R416) -/

/-- Is every task of a queue DONE or REJECTED? -/
def Partition.queueDone (p : Partition) (q : Nat) : Bool := p.tasks.all fun t => t.q != q || t.finished

/-- A drained resetting queue restarts at position 0 and reopens, in one operation at TAIL's home slice (R349). -/
def execQueueReopen (part q : Nat) (s : State) : Out :=
  .next <| match s.part? part, s.queue? part q with
  | some p, some x =>
    if x.state ≠ .resetting ∨ x.head ≠ x.tail ∨ !p.queueDone q then s
    else (s.onQueue part q fun x => { x with head := 0, tail := 0, state := .opened, mark := none }).showQueue part q
  | _, _ => s

/-- A queue whose entries below its close mark have all been taken and finished becomes CLOSED (R416). -/
def execQueueClosed (part q : Nat) (s : State) : Out :=
  .next <| match s.part? part, s.queue? part q with
  | some p, some x =>
    if x.state ≠ .opened ∨ x.mark.isNone ∨ !x.idx.isEmpty ∨ !p.queueDone q then s
    else (s.onQueue part q fun x => { x with state := .closed }).showQueue part q
  | _, _ => s

/-! ## The Agate store (R354) -/

/-- A frame held in an Agate store is written to memory, and its entry leaves the directory (R354). Reads found the same
bytes before. -/
def execAgateFrameWrite (k : Nat) (s : State) : Out := .next { s with agate := s.agate.eraseIdx k }

end Sys2Proof.Machine
end

