-- ==== Sys2Proof/Machine/Pages.lean ====
section
/-! DEFINITION. Translation as it changes (R367–R378): walks that fill the TLBs, shootdowns, the page agent's collapses of DUP
pages and migrations of MIGRATE pages, and the host's answers to faults. -/

namespace Sys2Proof.Machine

/-! ## Walks into the TLBs (R367) -/

/-- A TLB with a new leaf translation; the oldest gives way at its capacity (R367). -/
def tlbAdd {α : Type} [BEq α] (n : Nat) (tlb : List α) (x : α) : List α := (x :: tlb.filter (· != x)).take n

/-- The same for the part of a list that belongs to a die. -/
def dieAdd (n : Nat) (l : List (Nat × Nat × Nat × Nat × Nat)) (x : Nat × Nat × Nat × Nat × Nat) : List (Nat × Nat × Nat × Nat × Nat) :=
  tlbAdd n (l.filter (·.1 == x.1)) x ++ l.filter (·.1 != x.1)

/-- A TLB miss of the acting core's die is served by a walker (R367): the tables enter the die's walk cache, the leaf its TLB, and the
micro-TLB of the acting core where it runs the partition. A walk that fails leaves no leaf. -/
def execTableWalk (part va : Nat) (s : State) : Out :=
  let die := dieOf s.core.phys
  let tables := match s.part? part with
    | some p => walkTables (s.tableEntry die part (va52 va)) (va52 va) 4 0 p.quotas.root
    | none => []
  let s := match s.walkPoison die part (va52 va) with
    | some a => s.poisonRead a 8
    | none => s
  let w := s.walkOn die part (va52 va)
  let s : State := { s with
    walkCache := tables.foldl (fun l t => dieAdd 256 l (die, part, t.1, walkPrefix (va52 va) t.1, t.2)) s.walkCache }
  .next <| match w with
  | .leaf e level =>
    let x : Nat × Nat × Nat × Nat := (part, va52 va / 2 ^ 16, e, level)
    let s : State := { s with dieTlb := dieAdd 4096 s.dieTlb (die, x) }
    if s.core.running ∧ s.core.part = part then s.onCore fun c => { c with tlb := tlbAdd 64 c.tlb x } else s
  | _ => s

/-! ## Shootdown (R369, R370) -/

/-- Does a TLB entry of a partition overlap a range of pages, or is the whole partition named? -/
def tlbHit (part first pages : Nat) (whole : Bool) (x : Nat × Nat × Nat × Nat) : Bool :=
  let k := 2 ^ (leafBits x.2.2.2 - 16)
  x.1 == part && (whole || overlaps (x.2.1 / k * k) k first pages)

/-- The same for an entry of a walk cache. -/
def cacheHit (part first pages : Nat) (whole : Bool) (x : Nat × Nat × Nat × Nat × Nat) : Bool :=
  let k := 2 ^ (levelBits x.2.2.1 - 16)
  x.2.1 == part && (whole || overlaps (x.2.2.2.1 * k) k first pages)

/-- The atomics of a partition to peers leave as ATOMIC messages, in issue order, those that may (R370). -/
def State.sendAtoms (s : State) (part : Nat) : State :=
  (s.atoms.filter fun a => a.part == part && a.loc.peer.isSome && a.alone).foldl (fun s a =>
    if s.behind a || !s.mayGo a then s else
    let s : State := { s with atoms := s.atoms.map fun x => if x.id = a.id then { x with sent := true } else x }
    (s.countAccess a.part a.va).send (a.message s.devId)) s

/-- Everything of a partition that translated before is performed or leaves the egress (R370), but for what must wait for a peer: while
such an access is to a frame, the frame is not used otherwise (`State.inUse`). -/
def State.flushPart (s : State) (part : Nat) : State :=
  let s := (s.allCores.filter fun c => c.running && c.part == part).foldl (fun s c => s.settleOf c.phys) s
  let s := (s.sendAtoms part).finishPubs (s.pubs.filter fun p => p.part == part && !s.held p.core p.seq)
  let s := s.finishAtoms (s.atoms.filter fun a => a.part == part && a.loc.peer.isNone)
  (s.egress.filter fun w => w.part == part).foldl (fun s w => if s.mayPass w then s.passPosted w else s) s

/-- Is an access that translated before still to be performed on a frame, of this device or of a peer, or has it not left the egress
(R370)? -/
def State.inUse (s : State) (x : Option Nat × Nat) : Bool :=
  let on (l : Loc) (n : Nat) : Bool := l.peer == x.1 && overlaps l.pa n (x.2 * 2 ^ 16) 65536
  (s.pubs.any fun p => on p.loc p.bytes.length) || (s.atoms.any fun a => a.old.isNone && !a.sent && on a.loc a.size)
    || (s.egress.any fun w => on ⟨some w.dev, w.pa⟩ w.bytes.length)
    || s.allCores.any fun c => (c.stores.any fun st => on st.loc st.bytes.length)
      || c.loads.any fun l => l.data.isNone && l.parts.any fun p => !p.fixed && on p.loc p.size

/-- The frames on which accesses of a partition have still to be performed. -/
def State.framesInUse (s : State) (part : Nat) : List (Option Nat × Nat) :=
  let frames (l : Loc) (n : Nat) : List (Option Nat × Nat) := [(l.peer, l.pa / 2 ^ 16), (l.peer, (l.pa + n - 1) / 2 ^ 16)]
  let cores := s.allCores.filter fun c => c.running && c.part == part
  ((s.pubs.filter (·.part == part)).flatMap (fun p => frames p.loc p.bytes.length)
    ++ (s.atoms.filter (·.part == part)).flatMap (fun a => frames a.loc a.size)
    ++ (s.egress.filter (·.part == part)).flatMap (fun w => frames ⟨some w.dev, w.pa⟩ w.bytes.length)
    ++ cores.flatMap (fun c => c.stores.flatMap fun st => frames st.loc st.bytes.length)
    ++ cores.flatMap (fun c => c.loads.flatMap fun l => l.parts.flatMap fun p => frames p.loc p.size)).eraseDups.filter s.inUse

/-- The stores of a core to a range of pages are performed at device scope, and the lines of its snapshot that were filled through
the range are dropped (R369). -/
def State.publishRange (s : State) (n first pages : Nat) (whole : Bool) : State :=
  let c := s.coreOf n
  let inside (page : Nat) : Bool := whole || overlaps page 1 first pages
  let hit (st : OwnStore) : Bool := inside (va52 st.va / 2 ^ 16)
  let mine := c.stores.filter hit
  let s := mine.foldl (fun s st => match st.loc.peer with
    | none => s.performVia (Path.ofCore n c.issued) st.loc.pa st.bytes st.whole
    | some d => (postedOf (some (n, c.issued)) 0 c.part c.task d st.chn st.loc.pa st.va (laidOver [] st.bytes) none).foldl
        (fun s w => ({ s with egress := s.egress ++ [w] }).passPosted w) s) s
  s.onCoreN n fun c => { c with
    stores := c.stores.filter fun st => !hit st
    snap := c.snap.filter fun (x : Nat × List Byte) => !inside (bankGet 0 c.filled x.1) }

/-- Every agent drops its translations of a range; what translated before has been performed (R369, R370). -/
def State.shoot (s : State) (part va pages : Nat) (whole : Bool) : State :=
  let first := va52 va / 2 ^ 16
  let s := s.flushPart part
  let s := (s.allCores.filter fun c => c.running && c.part == part).foldl (fun s c => s.publishRange c.phys first pages whole) s
  let s := s.onCores fun c => { c with tlb := c.tlb.filter fun x => !tlbHit part first pages whole x }
  { s with
    dieTlb := s.dieTlb.filter fun x => !tlbHit part first pages whole x.2
    walkCache := s.walkCache.filter fun x => !cacheHit part first pages whole x }

/-- SHOOTDOWN (R369). It completes, and is answered, once every agent has acknowledged: when nothing that translated before is left to be
performed (R370). -/
def execShootdown (part va pages : Nat) (whole : Bool) (s : State) : Out :=
  let s := s.shoot part va pages whole
  .next <| if s.framesInUse part = [] then s.notify .ok
  else s.onPart part fun p => { p with shots := p.shots ++ [s.framesInUse part] }

/-- A shootdown that every agent has acknowledged now. -/
def State.shotDone (s : State) : Option State :=
  s.parts.findSome? fun p => (p.shots.find? fun fs => !fs.any s.inUse).map fun fs =>
    (s.onPart p.no fun p => { p with shots := p.shots.erase fs }).notify .ok

/-! ## Rewriting leaves (R374, R377) -/

/-- The leaf entry of an address, in transit or not: where it stands, its word, its level. -/
def leafSlotFrom (m : Memory) (va : Nat) : Nat → Nat → Nat → Option (Nat × Nat × Nat)
  | 0, _, _ => none
  | fuel + 1, level, base =>
    let a := base + 8 * levelIndex va level
    let e := leNat (m.readN a 8)
    if field e 62 1 = 1 then (if level = 0 then none else some (a, e, level))
    else if field e 63 1 = 0 then none
    else leafSlotFrom m va fuel (level + 1) (field e 0 40 * 256)

def State.leafSlot (s : State) (part va : Nat) : Option (Nat × Nat × Nat) :=
  (s.part? part).bind fun p => leafSlotFrom s.mem (va52 va) 4 0 p.quotas.root

/-- Take room for a table of a partition: a 256-byte table beside others in a frame of the pool, or a frame for a larger one. -/
def State.takeTable (s : State) (part bytes : Nat) : Option (Nat × State) :=
  match s.part? part with
  | none => none
  | some p =>
    if bytes = 256 ∧ p.nextTable % 2 ^ 16 ≠ 0 then
      some (p.nextTable, s.onPart part fun p => { p with nextTable := p.nextTable + 256 })
    else p.pool.head?.map fun f =>
      (f * 2 ^ 16, s.onPart part fun p => { p with pool := p.pool.drop 1, nextTable := if bytes = 256 then f * 2 ^ 16 + 256 else p.nextTable })

/-- Write a page's leaf: in place at 64 KiB; after a split at 2 MiB into 32 leaves in a new table of 256 bytes (R374). A 1 GiB leaf, a page
of which leaves a retiring channel (R396), is first split into 512 leaves of 2 MiB: DESIGN CHOICE (log entry 53). None where there is no
leaf or no table. The number of 64 KiB pages to shoot down comes with it. -/
def State.rewriteLeaf : Nat → State → Nat → Nat → (Nat → Nat) → Option (State × Nat)
  | 0, _, _, _, _ => none
  | fuel + 1, s, part, va, new =>
    match s.leafSlot part va with
    | none => none
    | some (a, e, level) =>
      if level = 3 then some (s.perform a (leBytes 8 (new e)), 1)
      else
        let (n, step) := if level = 2 then (32, 1) else (512, 32)
        match s.takeTable part (8 * n) with
        | none => none
        | some (at_, s) =>
          let s := s.perform at_ ((List.range n).flatMap fun i => leBytes 8 (e + step * i))
          let s := s.perform a (leBytes 8 (2 ^ 63 + at_ / 256))
          (State.rewriteLeaf fuel s part va new).map fun x => (x.1, n * step)

/-- Accesses that waited for a page in transit try again (R378). -/
def State.transitEnds (s : State) (part : Nat) : State :=
  s.onCores fun c => match c.frozen with
    | some (.transit _) => if c.part = part then { c with frozen := none } else c
    | _ => c

/-- Rewrite a page's leaf and shoot it down. -/
def State.remap (s : State) (part va : Nat) (new : Nat → Nat) : Option State :=
  (State.rewriteLeaf 3 s part va new).map fun x =>
    let base := va52 va / (2 ^ 16 * x.2) * (2 ^ 16 * x.2)
    (x.1.shoot part base x.2 false).transitEnds part

/-- The leaf entry of a page as its own 64 KiB leaf would be. -/
def State.pageLeaf (s : State) (part va : Nat) : Option (Leaf × Bool) :=
  (s.leafSlot part va).map fun x =>
    let l := leafFields x.2.1
    ({ l with frame := pageFrame l x.2.2 (va52 va) }, field x.2.1 63 1 == 1)

def pageBase (va : Nat) : Nat := va52 va / 2 ^ 16 * 2 ^ 16

/-! ## Faults held by the page agent (R371) -/

/-- The records that the agent holds for a write to a page. -/
def Partition.writers (p : Partition) (va : Nat) : List AgentHold :=
  p.holds.filter fun h => h.trap.no == .wprot && pageBase h.va == pageBase va

/-- The agent declines: the trap goes to the task's handler (R357, R371). -/
def State.decline (s : State) (part : Nat) (h : AgentHold) : State :=
  (s.onPart part fun p => { p with holds := p.holds.filter (·.cont != h.cont) }).deliver part h.cont h.trap.no

def State.declineWriters (s : State) (part va : Nat) : State :=
  ((s.part? part).map (·.writers va)).getD [] |>.foldl (fun s h => s.decline part h) s

def State.serveWriters (s : State) (part va : Nat) : State :=
  ((s.part? part).map (·.writers va)).getD [] |>.foldl (fun s h => s.releaseFaulted part h.cont) s

/-- A fault that the agent passed to the host. -/
def State.asked (s : State) (part rec : Nat) : Option AgentHold :=
  (s.part? part).bind fun p => p.holds.find? fun h => h.cont == rec && h.asked

/-- RESUME serves the fault (R371). -/
def execResume (part rec : Nat) (s : State) : Out :=
  .next <| s.command fun s => match s.asked part rec with
  | none => s.notify .refused
  | some _ => (s.releaseFaulted part rec).notify .ok

/-- DELIVER declines it (R371). -/
def execDeliver (part rec : Nat) (s : State) : Out :=
  .next <| s.command fun s => match s.asked part rec with
  | none => s.notify .refused
  | some h => (s.decline part h).notify .ok

/-! ## Collapse (R373–R375) -/

def State.agentMsg (s : State) (part dev va frame who msg : Nat) : State :=
  s.notify (.agent dev (s.tagOf part) (pageBase va) frame who msg)

/-- The partition of this module that has a TAG (R372). -/
def State.tagged (s : State) (tag : Nat) : Option Partition := s.parts.find? (·.quotas.tag == tag)

/-- A request for a TAG that this module does not have is answered NOPART (R372). -/
def State.noPart (s : State) (tag va dev : Nat) : State := s.notify (.agent dev tag (pageBase va) 0 s.devId msgNopart)

def AgentMail.va : AgentMail → Nat
  | .collapse va _ _ | .request va _ _ | .invalidate va _ _ _ _ | .rewrite va _ _ _ _ => va

/-- Is it a request to the home or the holder of a page, which takes them one at a time (R372, R377)? -/
def AgentMail.queued : AgentMail → Bool
  | .collapse .. | .request .. => true
  | _ => false

/-- Something waits at the agent, behind what waits there. -/
def State.hold (s : State) (part : Nat) (m : AgentMail) : State :=
  s.onPart part fun p => if p.mail.contains m then p else { p with mail := p.mail ++ [m] }

/-- It waits no longer. -/
def State.unhold (s : State) (part : Nat) (m : AgentMail) : State := s.onPart part fun p => { p with mail := p.mail.erase m }

/-- Is it the turn of a request: does no other request for its page wait before it? -/
def Partition.turnOf (p : Partition) (m : AgentMail) : Bool :=
  match p.mail.find? fun x => x.queued && x.va == m.va with
  | some x => x == m
  | none => true

/-- The writer's leaf becomes LOCAL with its own replica frame, and its fault is served (R373); declined where a split finds
no table (R371). -/
def State.granted1 (s : State) (part va : Nat) : State :=
  match s.pageLeaf part va with
  | none => s
  | some (l, _) =>
    match s.remap part va fun _ => leafWord true { l with mode := 0, peer := 0, thr := 0 } with
    | some s => s.serveWriters part va
    | none => s.declineWriters part va

/-- GRANT reaches the writer's agent. -/
def execGrant (tag va : Nat) (s : State) : Out :=
  .next <| match s.tagged tag with
  | some p => s.granted1 p.no va
  | none => s

def State.onCollapse (s : State) (part va : Nat) (f : Collapse → Collapse) : State :=
  s.onPart part fun p => { p with collapses := p.collapses.map fun c => if c.va = pageBase va then f c else c }

/-- Once every replica device has acknowledged, GRANT goes to the writer (R373). -/
def State.tryGrant (s : State) (part va : Nat) : State :=
  match (s.part? part).bind fun p => p.collapses.find? (·.va == pageBase va) with
  | none => s
  | some c =>
    if c.granted || !c.waits.isEmpty then s
    else
      let s := s.onCollapse part va fun c => { c with granted := true }
      if c.taker = s.devId then s.granted1 part va else s.agentMsg part c.taker va c.frame s.devId msgGrant

/-- The replica devices that the home lists for a page (R372, R373): by the page, or by the 2 MiB leaf that holds it. -/
def Partition.replicasOf (p : Partition) (va : Nat) : List Nat :=
  (((p.replicas.find? (·.1 == pageBase va)).or (p.replicas.find? (·.1 == va52 va / 2 ^ 21 * 2 ^ 21))).map (·.2)).getD []

/-! ## Migration, as far as an acknowledgement takes it (R377) -/

/-- The stage of a migration record on the device that has asked for the page. -/
def stageAsked : Nat := 9

/-- The devices that map a page, other than this one. -/
def State.mappersOf (s : State) (p : Partition) (va : Nat) : List Nat :=
  (((p.mappers.find? (·.1 == pageBase va)).map (·.2)).getD []).filter (· != s.devId)

/-- A leaf in transit (R377): V = 0 and MODE 4, PEER where the page is; what it was is kept. -/
def State.toTransit (s : State) (part va : Nat) (l : Leaf) : Option State :=
  (s.remap part va fun _ => leafWord false { l with mode := 4, peer := if l.mode = 0 ∨ l.mode = 3 then s.devId else l.peer }).map fun s =>
    s.onPart part fun p => { p with moving := p.moving.filter (·.1 != pageBase va) ++ [(pageBase va, leafWord true l)] }

/-- The leaf after a move (R377): PEER and FRAME name the new place; a page that is not a MIGRATE page keeps its mode and, in a leaf that
does not name its holder, its PEER (R396): DESIGN CHOICE (log entry 53). -/
def State.fromTransit (s : State) (part va : Nat) (l : Leaf) (holder frame : Nat) : Option State :=
  let old := ((((s.part? part).bind fun p => p.moving.find? (·.1 == pageBase va)).map fun x => leafFields x.2)).getD l
  let peer := if old.mode = 0 ∨ old.mode = 3 then old.peer else holder
  (s.remap part va fun _ => leafWord true { old with peer := peer, frame := frame }).map fun s =>
    s.onPart part fun p => { p with moving := p.moving.filter (·.1 != pageBase va) }

/-- A migration whose step every device has acknowledged goes on (R377): copy and remap, then the old frame is freed. -/
def State.migrateOn (s : State) (part va : Nat) : State :=
  match (s.part? part).bind fun p => (p.migrations.find? fun m => m.va == pageBase va && m.stage != stageAsked).map fun m => (p, m) with
  | none => s
  | some (p, m) =>
    if !m.waits.isEmpty then s
    else match s.pageLeaf part va with
      | none => s
      | some (l, _) =>
        let drop (p : Partition) : Partition := { p with migrations := p.migrations.filter (· != m) }
        if m.stage = 1 then
          let data := s.mem.readN (l.frame * 2 ^ 16) 65536
          let s : State := if m.taker = s.devId then s.put (m.frame * 2 ^ 16) data else s.notify (.page m.taker m.frame data)
          let ds := (m.taker :: s.mappersOf p va).eraseDups.filter (· != s.devId)
          match s.fromTransit part va l m.taker m.frame with
          | none => s
          | some s =>
            let s := ds.foldl (fun s d => s.agentMsg part d va m.frame m.taker msgRemap) s
            let moved := if m.taker = s.devId then [] else [(pageBase va, m.taker)]
            let done := { m with waits := ds, stage := 3, frame := l.frame }
            if ds = [] then s.onPart part fun p => { drop p with pool := p.pool ++ [l.frame] }
            else s.onPart part fun p => { drop p with
              migrations := (drop p).migrations ++ [done], moved := p.moved.filter (·.1 != pageBase va) ++ moved }
        else s.onPart part fun p => { drop p with pool := p.pool ++ [m.frame] }

/-- An acknowledgement of a device for a page: of INVALIDATE, or of a step of a migration (R373, R377). -/
def State.acknowledged (s : State) (part va dev : Nat) : State :=
  let s := s.onCollapse part va fun c => { c with waits := c.waits.filter (· != dev) }
  let heard (m : Migration) : Migration :=
    if m.va = pageBase va ∧ m.stage ≠ stageAsked then { m with waits := m.waits.filter (· != dev) } else m
  let s := s.onPart part fun p => { p with migrations := p.migrations.map heard }
  (s.tryGrant part va).migrateOn part va

def execCollapseAcknowledgement (tag va dev : Nat) (s : State) : Out :=
  .next <| match s.tagged tag with
  | some p => s.acknowledged p.no va dev
  | none => s

/-- This device acknowledges to the device that asked, itself perhaps. -/
def State.ack (s : State) (part va dev : Nat) : State :=
  if dev = s.devId then s.acknowledged part va dev else s.agentMsg part dev va 0 s.devId msgAck

/-! ## Collapse at the home and at a replica (R373–R375) -/

/-- What waits of an INVALIDATE, with the frame that it has given up. -/
def Partition.givenUp (p : Partition) (va owner frame home : Nat) : Option (AgentMail × Option Nat) :=
  p.mail.findSome? fun m => match m with
    | .invalidate a o f h left => if a = va ∧ o = owner ∧ f = frame ∧ h = home then some (m, left) else none
    | _ => none

/-- A replica device gives its replica up (R373): its leaf becomes REMOTE_CACHED at the new owner, and once no access to the replica
frame is left that frame is free and the device acknowledges. It waits while a split finds no table: DESIGN CHOICE (log entry 53). -/
def State.giveUp (s : State) (p : Partition) (va owner frame home : Nat) : State :=
  let m := p.givenUp va owner frame home
  let drop (s : State) : State := match m with
    | some x => s.unhold p.no x.1
    | none => s
  let free (s : State) (f : Nat) : State :=
    if s.inUse (none, f) then (drop s).hold p.no (.invalidate va owner frame home (some f))
    else ((drop s).onPart p.no fun p => { p with pool := p.pool ++ [f] }).ack p.no va home
  match m.bind (·.2), s.pageLeaf p.no va with
  | some f, _ => if s.inUse (none, f) then s else free s f
  | none, none => (drop s).ack p.no va home
  | none, some (l, _) =>
    if l.mode ≠ 3 then (drop s).ack p.no va home
    else match s.remap p.no va fun _ => leafWord true { l with mode := 2, peer := owner, frame := frame, w := false } with
      | none => s.hold p.no (.invalidate va owner frame home none)
      | some s => free s l.frame

/-- INVALIDATE at a replica device (R373). -/
def execInvalidate (tag va owner frame home : Nat) (s : State) : Out :=
  .next <| match s.tagged tag with
  | none => s.noPart tag va home
  | some p => s.giveUp p (pageBase va) owner frame home

/-- The home agent handles a COLLAPSE (R372, R373, R375), one for a page at a time: the first begins the collapse, one that it handles
after it has granted the page to another device is answered OWNED. One of this device's own agent stays local (R373). -/
def State.collapseAt (s : State) (p : Partition) (va frame requester : Nat) : State :=
  let m := AgentMail.collapse va frame requester
  if !p.turnOf m then s.hold p.no m
  else match p.collapses.find? (·.va == va) with
  | some c =>
    if !c.granted then s.hold p.no m
    else
      let s := s.unhold p.no m
      if c.taker = requester then (if requester = s.devId then s else s.agentMsg p.no requester va c.frame s.devId msgGrant)
      else if requester = s.devId then s.declineWriters p.no va
      else s.agentMsg p.no requester va 0 c.taker msgOwned
  | none =>
    let ds := ((p.replicasOf va) ++ [s.devId]).eraseDups.filter (· != requester)
    let s := (s.unhold p.no m).onPart p.no fun p => { p with
      collapses := p.collapses ++ [⟨va, requester, frame, ds, false⟩], replicas := p.replicas.filter (·.1 != va) }
    let s := (ds.filter (· != s.devId)).foldl (fun s d => s.agentMsg p.no d va frame requester msgInvalidate) s
    if requester = s.devId then s.tryGrant p.no va else s.giveUp p va requester frame s.devId

def execCollapse (tag va frame requester : Nat) (s : State) : Out :=
  .next <| match s.tagged tag with
  | none => s.noPart tag va requester
  | some p => s.collapseAt p (pageBase va) frame requester

/-- A COLLAPSE answered OWNED: the agent declines the fault (R375). -/
def execOwned (tag va : Nat) (s : State) : Out :=
  .next <| match s.tagged tag with
  | some p => s.declineWriters p.no va
  | none => s

/-! ## Migration (R376, R377) -/

/-- A page's count has reached its threshold (R376): it starts again, and the device asks the holder to migrate the page to a frame of its
pool. Where the pool has none, nothing is asked: DESIGN CHOICE (log entry 53). -/
def execMigrationThreshold (part va : Nat) (s : State) : Out :=
  let page := va52 va / 2 ^ 16
  .next <| match s.part? part, s.pageLeaf part va with
  | some p, some (l, true) =>
    let n := ((s.access.find? fun x => x.1 == part && x.2.1 == page).map (·.2.2)).getD 0
    let limit := s.thresholds.getD l.thr 0
    if l.mode ≠ 4 ∨ l.peer = s.devId ∨ limit = 0 ∨ n < limit then s
    else
      let s : State := { s with access := s.access.filter fun x => !(x.1 == part && x.2.1 == page) }
      match p.pool with
      | [] => s
      | f :: rest =>
        (s.onPart part fun p => { p with
          pool := rest, migrations := p.migrations ++ [⟨pageBase va, s.devId, f, [l.peer], stageAsked⟩] }).agentMsg part l.peer va f s.devId msgMigrate
  | _, _ => s

/-- A request for a page has come to nothing: the frame kept for it is free again (R372, R377). -/
def State.dropAsked (s : State) (part va : Nat) : State :=
  s.onPart part fun p =>
    let mine := p.migrations.filter fun m => m.va == pageBase va && m.stage == stageAsked
    { p with migrations := p.migrations.filter (fun m => !mine.contains m), pool := p.pool ++ mine.map (·.frame) }

/-- Is a word of a page watched on this device (R376)? -/
def State.watched (s : State) (frame : Nat) : Bool :=
  let on (pa : Nat) : Bool := pa / 2 ^ 16 == frame
  s.monitors.any (fun m => on m.pa) || s.saved.any fun x => x.tests.any fun t => t.loc.peer.isNone && on t.loc.pa

/-- Does a send log hold an entry addressed to a frame of a peer (R377)? -/
def State.logNames (s : State) (dev frame : Nat) : Bool :=
  s.pairs.any fun p => p.dev == dev && p.log.any fun e => e.pa / 2 ^ 16 == frame

/-- A device that has marked its leaf in transit acknowledges once no access to the page's frame is left, and none of its send logs names
the frame (R369, R377, R378); until then this waits. -/
def State.leftFrame (s : State) (part va sender : Nat) (m : AgentMail) (l : Leaf) : State :=
  let peer := if l.peer = s.devId ∨ l.mode = 0 ∨ l.mode = 3 then none else some l.peer
  if s.inUse (peer, l.frame) || s.logNames l.peer l.frame then s.hold part m else (s.unhold part m).ack part va sender

/-- Step 1 of a move of a page of this device (R377, R396): in transit here and at every device that maps it. -/
def State.beginMove (s : State) (p : Partition) (va requester frame : Nat) (l : Leaf) : Option State :=
  (s.toTransit p.no va l).map fun s =>
    let ds := s.mappersOf p va
    let s := s.onPart p.no fun p => { p with migrations := p.migrations ++ [⟨va, requester, frame, ds ++ [s.devId], 1⟩] }
    let s := ds.foldl (fun s d => s.agentMsg p.no d va 0 s.devId msgInTransit) s
    s.leftFrame p.no va s.devId (.rewrite va false s.devId 0 0) { l with peer := s.devId }

/-- Is a page of this device being moved? -/
def Partition.onTheMove (p : Partition) (va : Nat) : Bool := p.migrations.any fun m => m.va == pageBase va && m.stage != stageAsked

/-- The holder takes a request to migrate a page (R377), one for a page at a time. It answers with the new holder where it holds the page
no more; the request waits while a word of it is watched or another migration of it runs (R376). -/
def State.migrateAt (s : State) (p : Partition) (va requester frame : Nat) : State :=
  let m := AgentMail.request va requester frame
  if !p.turnOf m then s.hold p.no m
  else match s.pageLeaf p.no va with
  | none => s.unhold p.no m
  | some (l, valid) =>
    if l.mode ≠ 4 then s.unhold p.no m
    else if p.onTheMove va then s.hold p.no m
    else if l.peer ≠ s.devId then (s.unhold p.no m).agentMsg p.no requester va 0 l.peer msgMoved
    else if !valid || s.watched l.frame then s.hold p.no m
    else match (s.unhold p.no m).beginMove p va requester frame l with
      | none => s.hold p.no m
      | some s => s

def execMigrationRequest (tag va requester : Nat) (note : MigrationNote) (s : State) : Out :=
  .next <| match s.tagged tag, note with
  | none, .moved _ => s
  | none, .to _ => s.noPart tag va requester
  | some p, .moved _ => s.dropAsked p.no va
  | some p, .to frame => s.migrateAt p (pageBase va) requester frame

/-- A mapping device rewrites its leaf for a step of a migration, and acknowledges to the device that asks for it (R377). It waits while a
split finds no table: DESIGN CHOICE (log entry 53). -/
def State.rewriteAt (s : State) (p : Partition) (va : Nat) (final : Bool) (sender holder frame : Nat) : State :=
  let m := AgentMail.rewrite va final sender holder frame
  match s.pageLeaf p.no va with
  | none => (s.unhold p.no m).ack p.no va sender
  | some (l, valid) =>
    if final then
      match s.fromTransit p.no va l holder frame with
      | none => s.hold p.no m
      | some s =>
        let s := if holder = s.devId then s.onPart p.no fun p =>
          { p with migrations := p.migrations.filter fun m => !(m.va == va && m.stage == stageAsked) } else s
        (s.unhold p.no m).ack p.no va sender
    else if valid then
      match s.toTransit p.no va l with
      | none => s.hold p.no m
      | some s => s.leftFrame p.no va sender m l
    else s.leftFrame p.no va sender m ((((p.moving.find? (·.1 == va)).map fun x => leafFields x.2)).getD l)

def execMigrationRewrite (tag va : Nat) (final : Bool) (sender : Nat) (place : PagePlace) (s : State) : Out :=
  .next <| match s.tagged tag with
  | none => s.noPart tag va sender
  | some p => s.rewriteAt p (pageBase va) final sender place.holder place.frame

/-- NOPART (R372): where this device has no partition of that TAG, its agent answers so; where it has, a request of its own
was answered so, and a COLLAPSE is declined, a migration request forgotten, and a rewrite counts as acknowledged. -/
def execNopart (tag va : Nat) (req : AgentReq) (s : State) : Out :=
  .next <| match s.tagged tag with
  | none => s.noPart tag va req.dev
  | some p => match req with
    | .collapse _ => s.declineWriters p.no va
    | .migration _ => s.dropAsked p.no va
    | .rewrite dev => s.acknowledged p.no va dev

end Sys2Proof.Machine
end

