-- ==== Sys2Proof/Machine/Codec.lean ====
section
/-! DEFINITION. Values as bytes and back, for the bodies of image sections, whose fields the manual names without a byte
layout (R403, R404, log entry 9): every value is a run of little-endian fields, each after its length. -/

namespace Sys2Proof.Machine

/-- A way to write values of a type as bytes and to read them back from the front of a list of bytes. -/
structure Codec (α : Type) where
  enc : α → List Byte
  dec : List Byte → Option (α × List Byte)

/-! ## Building blocks -/

def byteLen (n : Nat) : Nat := if n = 0 then 0 else Nat.log2 n / 8 + 1

/-- A number: its length in bytes in two bytes, then the bytes (R6). -/
def Codec.nat : Codec Nat where
  enc n := leBytes 2 (byteLen n) ++ leBytes (byteLen n) n
  dec bs :=
    let k := leNat (bs.take 2)
    if bs.length < 2 + k then none else some (leNat ((bs.drop 2).take k), bs.drop (2 + k))

/-- A type through another. -/
def Codec.via {α β : Type} (c : Codec α) (f : β → α) (g : α → Option β) : Codec β where
  enc b := c.enc (f b)
  dec bs := match c.dec bs with
    | some (a, r) => (g a).map fun b => (b, r)
    | none => none

def Codec.pair {α β : Type} (c : Codec α) (d : Codec β) : Codec (α × β) where
  enc x := c.enc x.1 ++ d.enc x.2
  dec bs := match c.dec bs with
    | some (a, r) => (d.dec r).map fun x => ((a, x.1), x.2)
    | none => none

def decodeMany {α : Type} (c : Codec α) : Nat → List Byte → Option (List α × List Byte)
  | 0, bs => some ([], bs)
  | n + 1, bs => match c.dec bs with
    | some (a, r) => (decodeMany c n r).map fun x => (a :: x.1, x.2)
    | none => none

/-- A list: its length, then its elements. A length beyond the bytes that follow is refused. -/
def Codec.list {α : Type} (c : Codec α) : Codec (List α) where
  enc xs := Codec.nat.enc xs.length ++ xs.flatMap c.enc
  dec bs := match Codec.nat.dec bs with
    | some (n, r) => if r.length < n then none else decodeMany c n r
    | none => none

def Codec.opt {α : Type} (c : Codec α) : Codec (Option α) :=
  (Codec.list c).via Option.toList fun xs => some xs.head?

/-- A type whose values are runs of numbers. -/
def Codec.flat {α : Type} (f : α → List Nat) (g : List Nat → Option α) : Codec α := (Codec.list .nat).via f g

def Codec.bv (w : Nat) : Codec (BitVec w) := Codec.nat.via BitVec.toNat fun n => some (BitVec.ofNat w n)
def Codec.int : Codec Int := Codec.nat.via (toBits 128) fun n => some (toSigned 128 n)
def Codec.bytes : Codec (List Byte) where
  enc bs := Codec.nat.enc bs.length ++ bs
  dec bs := match Codec.nat.dec bs with
    | some (n, r) => if r.length < n then none else some (r.take n, r.drop n)
    | none => none
def Codec.bank {α : Type} (c : Codec α) : Codec (Bank α) := Codec.list (Codec.pair .nat c)

def bit (b : Bool) : Nat := if b then 1 else 0

/-! ## Parts of a context that a frame keeps without a byte layout (log entry 6) -/

/-- An op word of a sticky history: its slot, its words and its prefixes (log entry 8). -/
def Codec.opWord : Codec OpWord := .flat
  (fun o => [(match o.slot with
      | .i1 => 0 | .i2 => 1 | .m1 => 2 | .m2 => 3 | .v1 => 4 | .v2 => 5 | .x => 6 | .e => 7),
    o.w, (o.w2.map (· + 1)).getD 0, (o.pfx.rnd.map (· + 1)).getD 0, bit o.pfx.sat, (o.pfx.guard.map (· + 1)).getD 0])
  fun l => match l with
    | [k, w, w2, rnd, sat, guard] => Slot.all[k]?.map fun slot =>
        ⟨slot, w, if w2 = 0 then none else some (w2 - 1), ⟨if rnd = 0 then none else some (rnd - 1), sat == 1, if guard = 0 then none else some (guard - 1)⟩⟩
    | _ => none

def Codec.sticky : Codec Sticky :=
  (Codec.pair (.opt .opWord) (.pair .nat .int)).via (fun x => (x.op, x.scope, x.off)) fun x => some ⟨x.1, x.2.1, x.2.2⟩

def Codec.regWrite : Codec RegWrite := .flat
  (fun w => match w with
    | .s r x => [0, r, x.toNat]
    | .v r x m => [1, r, x.toNat, m.toNat]
    | .p r x m => [2, r, x.toNat, m.toNat]
    | .t t row x m => [3, t, row, x.toNat, m.toNat]
    | .fl f b => [4, f, bit b]
    | .fls x => [5, x.toNat]
    | .fmt f x => [6, f, x.toNat]
    | .pat k x => [7, k, x.toNat]
    | .step k x => [8, k, x.toNat])
  fun l => match l with
    | [0, r, x] => some (.s r (BitVec.ofNat 64 x))
    | [1, r, x, m] => some (.v r (BitVec.ofNat 4096 x) (BitVec.ofNat 4096 m))
    | [2, r, x, m] => some (.p r (BitVec.ofNat 1024 x) (BitVec.ofNat 1024 m))
    | [3, t, row, x, m] => some (.t t row (BitVec.ofNat 4096 x) (BitVec.ofNat 4096 m))
    | [4, f, b] => some (.fl f (b == 1))
    | [5, x] => some (.fls (BitVec.ofNat 64 x))
    | [6, f, x] => some (.fmt f (BitVec.ofNat 32 x))
    | [7, k, x] => some (.pat k (BitVec.ofNat 512 x))
    | [8, k, x] => some (.step k (BitVec.ofNat 32 x))
    | _ => none

def optNat : Option Nat → Nat
  | none => 0
  | some n => n + 1
def natOpt (n : Nat) : Option Nat := if n = 0 then none else some (n - 1)

/-- A place by virtual address: the physical one is found again at the pick-up. -/
def Codec.part : Codec LoadPart :=
  (Codec.pair (.list .nat) (.list (.opt (.bv 8)))).via
    (fun p => ([p.va, optNat p.loc.peer, p.size, p.dst, bit p.cached], p.own))
    fun x => match x.1 with
      | [va, peer, size, dst, cached] => some ⟨va, ⟨natOpt peer, 0⟩, size, dst, x.2, none, cached == 1, false⟩
      | _ => none

def Codec.dest : Codec LoadDest := .flat
  (fun d => match d with
    | .s r n sx => [0, r, n, bit sx] | .v r => [1, r] | .pat k => [2, k] | .tile t b f g => [3, t, b, f, bit g]
    | .atomic r i => [4, r, i] | .pop r p => [5, r, p])
  fun l => match l with
    | [0, r, n, sx] => some (.s r n (sx == 1)) | [1, r] => some (.v r) | [2, k] => some (.pat k) | [3, t, b, f, g] => some (.tile t b f (g == 1))
    | [4, r, i] => some (.atomic r i) | [5, r, p] => some (.pop r p) | _ => none

def Codec.load : Codec LoadLanding :=
  (Codec.pair (.list .part) (.pair .dest (.pair (.list .nat) (.opt .bytes)))).via
    (fun l => (l.parts, l.dest, [l.left, l.scope, l.pc, l.seq, l.phase], l.data))
    fun x => match x.2.2.1 with
      | [left, scope, pc, seq, phase] => some ⟨x.1, x.2.1, left, scope, pc, seq, phase, x.2.2.2⟩
      | _ => none

def Codec.landing : Codec Landing :=
  (Codec.pair (.list .regWrite) (.list .nat)).via (fun l => (l.writes, [l.left, l.seq, bit l.landed]))
    fun x => match x.2 with
      | [left, seq, landed] => some ⟨x.1, left, seq, landed == 1⟩
      | _ => none

def Codec.leave : Codec Leave := .flat
  (fun l => match l with
    | .join p => [0, p] | .suspend va _ p => [1, va, p] | .yield => [2] | .exit => [3] | .preempt p => [4, p] | .decouple => [5])
  fun l => match l with
    | [0, p] => some (.join p) | [1, va, p] => some (.suspend va 0 p) | [2] => some .yield | [3] => some .exit | [4, p] => some (.preempt p)
    | [5] => some .decouple | _ => none

def Codec.snapshot : Codec Snapshot :=
  (Codec.pair (.list .nat) (.pair (.bank (.bv 64)) (.pair (.bank (.bv 512)) (.pair (.bank (.bv 32)) (.pair (.bank (.bv 32))
    (.pair (.bank .sticky) (.pair (.pair (.list .nat) (.list .nat)) (.pair (.list .load) (.list .landing))))))))).via
    (fun g => ([g.pc, g.fl.toNat, g.fstat.toNat, g.safecnt, g.own], g.s, g.pat, g.fmt, g.stepr, g.hist, (g.gens.vec, g.gens.arr), g.loads, g.lands))
    fun x => match x with
      | ([pc, fl, fstat, safecnt, own], s, pat, fmt, stepr, hist, (vec, arr), loads, lands) =>
        some ⟨pc, s, BitVec.ofNat 64 fl, BitVec.ofNat 6 fstat, pat, fmt, stepr, hist, safecnt, ⟨vec, arr⟩, loads, lands, own⟩
      | _ => none

def maskNos : Option (Nat × LiveMask) → List Nat
  | none => []
  | some (idx, m) => [idx, m.s, m.fl, m.p, m.v, m.t, m.acc, m.pat, m.sb]
def maskOfNos : List Nat → Option (Nat × LiveMask)
  | [idx, s, fl, p, v, t, acc, pat, sb] => some (idx, ⟨s, fl, p, v, t, acc, pat, sb⟩)
  | _ => none

def Codec.resume : Codec Resume :=
  (Codec.pair (.list .nat) (.pair (.opt .leave) (.pair (.opt (.pair .nat .snapshot)) (.pair (.list .load)
    (.pair (.list .regWrite) (.list (.pair .nat (.pair .dest .nat)))))))).via
    (fun r => ([r.pc, r.rep, r.done, bit r.gated, optNat r.branch, bit r.closed, optNat (r.bar.map (·.1)), ((r.bar.map (·.2)).getD 0),
        bit r.passed] ++ maskNos r.point, r.leave, r.start, r.loads, r.late, r.pending))
    fun x => match x.1 with
      | pc :: rep :: done :: gated :: branch :: closed :: bar :: gen :: passed :: point => some
        ⟨pc, rep, done, gated == 1, natOpt branch, x.2.1, maskOfNos point, closed == 1, x.2.2.1, passed == 1, x.2.2.2.1, (natOpt bar).map fun g => (g, gen), x.2.2.2.2.1,
          x.2.2.2.2.2⟩
      | _ => none

def accStatusNo : AccStatus → Nat
  | .idle => 0 | .opened => 1 | .checked => 2
def accStatusOf (n : Nat) : AccStatus := if n = 1 then .opened else if n = 2 then .checked else .idle
def kindNo : GroupKind → Nat
  | .ring => 0 | .minPlus => 1 | .maxPlus => 2 | .maxTimes => 3 | .orAnd => 4
def kindOfNo (n : Nat) : GroupKind := if n = 1 then .minPlus else if n = 2 then .maxPlus else if n = 3 then .maxTimes else if n = 4 then .orAnd else .ring

/-- The fields of a set that stand in the 64 bytes at 0x1_0840 of its area. -/
def Codec.acc : Codec AccSet := .flat
  (fun a => [accStatusNo a.status, a.fa.toNat, a.fb.toNat, kindNo a.kind, bit a.wide, a.gfl.toNat, a.replays, bit a.pending])
  fun l => match l with
    | [st, fa, fb, kind, wide, gfl, replays, pending] => some { AccSet.empty with
      status := accStatusOf st, fa := BitVec.ofNat 32 fa, fb := BitVec.ofNat 32 fb, kind := kindOfNo kind, wide := wide == 1
      gfl := BitVec.ofNat 6 gfl, replays := replays, pending := pending == 1 }
    | _ => none

def decPhaseNo : DecPhase → Nat
  | .reading => 0 | .parsed => 1 | .decoded => 2 | .done => 3
def decPhaseOf (n : Nat) : DecPhase := if n = 1 then .parsed else if n = 2 then .decoded else if n = 3 then .done else .reading

def Codec.stream : Codec Stream :=
  (Codec.pair (.list .nat) (.pair .bytes (.pair .bytes (.pair .bytes (.pair .bytes (.pair (.list .nat) (.list .nat))))))).via
    (fun x => let d := x.cfg
      ([d.src, d.nblk, d.ratio, d.codec, d.dest, d.daddr, d.dtile, d.drow, d.dfmt, d.dbo, d.first, d.lane,
        x.next, x.blk, optNat x.aheadFail, decPhaseNo x.phase, x.crc, x.cycles, x.taken, x.written, x.popNext, x.completed],
       x.buf, x.ahead, x.yield, x.fifo, x.ends, match x.fail with
        | some (a, b, c) => [a, b, c]
        | none => []))
    fun y => match y.1 with
      | [src, nblk, ratio, codec, dest, daddr, dtile, drow, dfmt, dbo, first, lane, next, blk, af, phase, crc, cycles, taken, written, popNext, completed] =>
        let (buf, ahead, yield, fifo, ends, fail) := y.2
        some ⟨⟨src, nblk, ratio, codec, dest, daddr, dtile, drow, dfmt, dbo, first, lane⟩, next, blk, buf, ahead, natOpt af, decPhaseOf phase, yield, crc, cycles,
          fifo, taken, written, popNext, ends, completed, match fail with
            | [a, b, c] => some (a, b, c)
            | _ => none⟩
      | _ => none

def Codec.fusion : Codec Fusion :=
  (Codec.pair (.list .nat) .int).via (fun f => ([f.size, f.m, f.lead], f.stride))
    fun x => match x.1 with
      | [size, m, lead] => some ⟨size, m, x.2, lead⟩
      | _ => none

def Codec.test : Codec ArmedTest := .flat (fun t => [t.va, optNat t.loc.peer, t.mask.toNat, t.fl, t.seq])
  fun l => match l with
    | [va, peer, mask, fl, seq] => some ⟨va, ⟨natOpt peer, 0⟩, BitVec.ofNat 64 mask, fl, seq⟩
    | _ => none

def Codec.head : Codec Head := .flat (fun h => [h.va, h.task, bit h.cancel])
  fun l => match l with
    | [va, task, cancel] => some ⟨va, task, cancel == 1⟩
    | _ => none

/-- What a frame holds beyond its laid-out areas. The partition is the one that reads it. -/
def Codec.saved (part : Nat) : Codec SavedCtx :=
  (Codec.pair (.pair .nat (.pair (.bank .sticky) (.pair (.list .test) (.opt .resume))))
    (.pair (.pair (.opt (.pair .nat .snapshot)) (.pair .acc .acc)) (.pair (.opt .stream) (.pair (.pair (.opt .fusion) (.list (.pair .nat (.list .head)))) (.pair (.list .nat) (.list .nat)))))).via
    (fun x => ((x.cont, x.hist, x.tests, x.resume), (x.group, x.acc0, x.acc1), x.stream, (x.lastFused, x.queued), [bit x.freed, bit x.due, x.writing], x.pins))
    fun y => match y with
      | ((cont, hist, tests, resume), (group, a0, a1), stream, (last, queued), [freed, due, k], pins) =>
        some ⟨part, cont, hist, tests, resume, group, a0, a1, stream, last, queued, freed == 1, due == 1, k, pins⟩
      | _ => none

end Sys2Proof.Machine
end

