-- ==== Sys2Proof/Machine/Image.lean ====
section
/-! DEFINITION. State images and dumps (R403–R405, R409): the leaves of a partition, the sections, their assembly and the
checks of Table 24-5; and RESTORE (R406–R408, R414). -/

namespace Sys2Proof.Machine

/-! ## The page tables of a partition (R363) -/

def levelCount : Nat → Nat
  | 0 => 8192 | 1 | 2 => 512 | _ => 32
def levelShift : Nat → Nat
  | 0 => 39 | 1 => 30 | 2 => 21 | _ => 16

/-- Every table under a table, with its level, the address it translates from, and its place. -/
def tablesFrom (m : Memory) : Nat → Nat → Nat → Nat → List (Nat × Nat × Nat)
  | 0, _, _, _ => []
  | fuel + 1, level, base, va => (level, va, base) :: (List.range (levelCount level)).flatMap fun i =>
    let va := va + i * 2 ^ levelShift level
    match classify (leNat (m.readN (base + 8 * i) 8)) level va with
    | .inr next => tablesFrom m fuel (level + 1) next va
    | .inl _ => []

def State.tables (s : State) (p : Partition) : List (Nat × Nat × Nat) := tablesFrom s.mem 4 0 p.quotas.root 0

/-- Every leaf: virtual address, level, entry, in increasing address order. -/
def State.leaves (s : State) (p : Partition) : List (Nat × Nat × Nat) :=
  (s.tables p).flatMap (fun (level, va, base) => (List.range (levelCount level)).filterMap fun i =>
    let va := va + i * 2 ^ levelShift level
    match classify (leNat (s.mem.readN (base + 8 * i) 8)) level va with
    | .inl (.leaf e l) => some (va, l, e)
    | _ => none) |>.mergeSort fun x y => decide (x.1 ≤ y.1)

/-- Does an image hold a leaf's data (R405)? A LOCAL or DUP page, and a MIGRATE page placed on this device. -/
def State.imaged (s : State) (e : Nat) : Bool :=
  let l := leafFields e
  l.mode == 0 || l.mode == 3 || (l.mode == 4 && l.peer == s.devId)

/-- Does a leaf's data stand on this device? -/
def State.holdsData (s : State) (e : Nat) : Bool :=
  match s.modeOf (leafFields e) with
  | .here | .dup => true
  | _ => false

/-! ## The bodies of the sections (Table 24-4) -/

/-- A physical address relative to a partition's grants: 0 and an HBM4 offset, or 1 and an LPDDR-6 offset. -/
def Partition.relative (p : Partition) (pa : Nat) : Nat × Nat :=
  if p.lo ≤ pa ∧ pa < p.lo + p.quotas.hbm * 2 ^ 30 then (0, pa - p.lo) else (1, pa - p.hi)
def Partition.absolute (p : Partition) (k off : Nat) : Nat := if k = 0 then p.lo + off else p.hi + off

def imageInfo (s : State) (p : Partition) (kind sections : Nat) : List Nat :=
  let q := p.quotas
  [kind, s.devId, p.no, s.now, q.clusters, q.hbm, q.lpddr, q.reserved, q.pairs, q.wdog, bit q.debug, q.tag,
   (((List.range 64).filter fun c => (List.range 4).any fun k => !p.vacant (4 * c + k) && decide (4 * c + k < p.cores.length)).length), sections]

def Partition.ctlInfo (p : Partition) (relTimeout : Nat) : List Nat :=
  [p.srseed.toNat, p.ulim, p.premin, p.wcore, p.wcopy, p.wcoll, p.monfull, p.quotas.wdog, relTimeout, p.rr, p.nextIdx, p.nextAdm]

def Codec.groups : Codec (List Group) := .list (.flat (fun g => [g.kind, g.gen, g.members, g.arr, g.next])
  fun l => match l with
    | [kind, gen, members, arr, next] => some ⟨kind, gen, members, arr, next⟩
    | _ => none)

def qStateOf (n : Nat) : QState := if n = 1 then .resetting else if n = 2 then .closed else .opened

/-- A queue with its ring bytes from HEAD to TAIL. -/
def Codec.queue (p : Partition) : Codec (Queue × List Byte) :=
  (Codec.pair (.list .nat) (.pair (.list .nat) .bytes)).via
    (fun x => let q := x.1; let a := q.attr; let r := p.relative a.ring; let c := p.relative q.ctl
      ([q.q, a.depth, a.domain, bit a.prog, bit a.strictfp, bit a.oncancel, r.1, r.2, a.cring, a.ckey, a.cdepth, c.1, c.2, q.state.code,
        optNat q.mark, q.tail, q.head, q.completions], q.idx, x.2))
    fun y => match y.1 with
      | [q, depth, domain, prog, strictfp, oncancel, r1, r2, cring, ckey, cdepth, c1, c2, st, mark, tail, head, completions] =>
        some (⟨q, ⟨depth, domain, prog == 1, strictfp == 1, oncancel == 1, p.absolute r1 r2, cring, ckey, cdepth⟩, p.absolute c1 c2,
          qStateOf st, natOpt mark, tail, head, y.2.1, completions⟩, y.2.2)
      | _ => none

def State.ringBytes (s : State) (q : Queue) : List Byte :=
  (List.range q.held).flatMap fun k => s.mem.readN (q.attr.ring + 128 * ((q.head + k) % q.attr.depth)) 128

def taskStateOf (n : Nat) : TaskState :=
  [TaskState.queued, .waiting, .running, .ending, .draining, .done, .rejected, .rerunning].getD n .done

def allTraps : List TrapNo :=
  [.illegal, .prefixOrphan, .target, .align, .page, .wprot, .perm, .qfull, .format, .groupViolation, .tileUnrecoverable, .decRatio, .decCheck,
   .decLength, .fabChannel, .atomicLost, .overrun, .watchdog, .safeDistance, .earlyRead, .brk, .syscall]
def trapOf (n : Nat) : Option TrapNo := allTraps.find? fun t => trapCode t == n

/-- An unfinished task: the queue copy of its descriptor with STATUS, the charge, the live count and the rest. -/
def Codec.task (p : Partition) : Codec Task :=
  (Codec.pair (.list .nat) (.pair (.opt .bytes) (.list .nat))).via
    (fun t => ([t.idx, t.q, t.pos, t.state.code, t.code, t.charge, t.poisonWord, bit t.dem, t.runs, t.hbeat, t.adm, t.cls, t.budget, bit t.graced,
        optNat (t.notice.map (·.1)), (t.notice.map (·.2)).getD 0, bit t.universal, bit t.holds, optNat t.safePtr,
        (t.safeTrap.map trapCode).getD 0, bit t.overrun, t.status.toNat, p.live t.idx], t.desc.map (·.raw), t.edges))
    fun y => match y.1 with
      | [idx, q, pos, st, code, charge, poison, dem, runs, hbeat, adm, cls, budget, graced, nrec, nflag, universal, holds, ptr, tr, overrun, _, _] =>
        some ⟨idx, q, pos, y.2.1.map Desc.of, taskStateOf st, code, charge, poison == 1, dem == 1, runs, hbeat, adm, y.2.2, cls, budget,
          graced == 1, (natOpt nrec).map fun r => (r, nflag), 0, universal == 1, holds == 1, natOpt ptr, trapOf tr, overrun == 1⟩
      | _ => none

def Codec.region : Codec (Nat × List Region) :=
  Codec.pair .nat (.list (.flat (fun r => [bit r.w, r.base, r.len]) fun l => match l with
    | [w, b, n] => some ⟨w == 1, b, n⟩
    | _ => none))

/-- The records of a partition: published records with their 64 bytes, handler records, the ready order, faults that the page
agent holds (REOFFER), and what frames keep without a byte layout. -/
structure RecordSet where
  recs : List (Nat × Nat × List Byte)
  handlers : List (Nat × Nat)
  ready : List Ready
  reoffer : List (Nat × Trap)
  saved : List SavedCtx

def Codec.trap : Codec Trap := .flat (fun t => [trapCode t.no, t.arg, t.stat, t.addr, optNat t.named, optNat t.resume])
  fun l => match l with
    | [no, arg, stat, addr, named, resume] => (trapOf no).map fun n => ⟨n, arg, stat, addr, natOpt named, natOpt resume⟩
    | _ => none

def Codec.ready : Codec Ready := .flat (fun r => [r.cont, r.task, r.deadline, r.fus, r.mem, r.lead, bit r.asked])
  fun l => match l with
    | [cont, task, deadline, fus, mem, lead, asked] => some ⟨cont, task, deadline, fus, mem, lead, asked == 1⟩
    | _ => none

def Codec.records (part : Nat) : Codec RecordSet :=
  (Codec.pair (.list (.pair .nat (.pair .nat .bytes))) (.pair (.list (.pair .nat .nat)) (.pair (.list .ready) (.pair (.list (.pair .nat .trap)) (.list (.saved part)))))).via
    (fun x => (x.recs, x.handlers, x.ready, x.reoffer, x.saved)) fun y => some ⟨y.1, y.2.1, y.2.2.1, y.2.2.2.1, y.2.2.2.2⟩

def State.recordSet (s : State) (p : Partition) : RecordSet where
  recs := p.recs.map fun r => (r.1, r.2, match s.recPa p.no r.1 with
    | some pa => s.mem.readN pa 64
    | none => [])
  handlers := p.handlers
  ready := p.ready
  reoffer := p.holds.map fun h => (h.cont, h.trap)
  saved := s.saved.filter (·.part == p.no)

/-- A waiter of a SUSPEND record: record, word and size. -/
def State.waiters (s : State) (part : Nat) : List (Nat × Nat × Nat) :=
  s.monitors.filterMap fun m => match m.who with
    | .record q r => if q = part then some (r, m.va, m.size) else none
    | _ => none

def Codec.waiter : Codec (Nat × Nat × Nat) := .pair .nat (.pair .nat .nat)

/-- The logical number of a physical cluster of a partition, and back (R387). An image names clusters by their logical numbers. -/
def Partition.logicalCluster (p : Partition) (c : Nat) : Nat :=
  (((List.range 4).findSome? fun k => p.logical (4 * c + k)).getD 0) / 4
def Partition.physicalCluster (p : Partition) (l : Nat) : Nat :=
  clusterOf (((List.range 4).findSome? fun k => p.physical (4 * l + k)).getD 0)

def Codec.chan (p : Partition) : Codec Chan :=
  (Codec.pair (.list .nat) (.list .head)).via (fun c => ([c.cont, c.ch, c.life, p.logicalCluster c.cluster, c.last, bit c.bad], c.heads))
    fun y => match y.1 with
      | [cont, ch, life, cluster, last, bad] => some ⟨p.no, cont, ch, life, p.physicalCluster cluster, y.2, none, last, bad == 1⟩
      | _ => none

/-- A block as it is reissued after a restore (R407 step 6): with the next attempt number; after attempt 7 it has failed (R320). -/
def CollBlock.reissued (b : CollBlock) : CollBlock :=
  if b.done then b else if b.att = 7 then { b with done := true, err := stCrc } else { b with att := b.att + 1 }

def Codec.coll (part : Nat) : Codec CollCmd :=
  (Codec.pair (.list .nat) (.pair .bytes (.pair .bytes (.list (.list .nat))))).via
    (fun c => ([c.cid, c.die, c.task, c.cont, c.va, bit c.read, c.cyc], c.cmd, c.route, c.blocks.map fun b => [b.blk, bit b.done, b.err, b.att]))
    fun y => match y.1 with
      | [cid, die, task, cont, va, read, cyc] =>
        some ⟨cid, die, part, task, cont, va, read == 1, y.2.1, y.2.2.1, y.2.2.2.filterMap fun l => match l with
          | [blk, done, err, att] => some (CollBlock.reissued ⟨blk, att, false, done == 1, err, 0⟩)
          | _ => none, cyc⟩
      | _ => none

/-- The source end of a pair with its send log, whose entries carry their data. -/
def Codec.srcPair (p : Partition) : Codec Pair :=
  (Codec.pair (.list .nat) (.pair (.list (.pair .nat (.pair .nat .bytes))) (.list (.list .nat)))).via
    (fun x => let b := p.relative x.base
      ([x.dev, x.chn, x.nseq, x.acc, x.out, x.opened, x.gen, bit x.rsnd, b.1, b.2, x.cap], x.log.map fun e => (e.pa, e.seq, e.bytes),
        x.rels.map fun r => [r.seq, r.cnt, r.addr, r.value.toNat]))
    fun y => match y.1 with
      | [dev, chn, nseq, acc, out, opened, gen, rsnd, b1, b2, cap] =>
        some ⟨p.no, dev, chn, nseq, acc, out, opened, gen, rsnd == 1, p.absolute b1 b2, cap, 0, y.2.1.map (fun e => ⟨e.1, e.2.1, e.2.2, none⟩),
          (y.2.2.filterMap fun l => match l with
            | [seq, cnt, addr, v] => some ⟨seq, cnt, addr, BitVec.ofNat 64 v, 0⟩
            | _ => none), [], 0⟩
      | _ => none

def Codec.slot (part : Nat) : Codec Slot :=
  (Codec.pair (.list .nat) (.pair (.list .nat) (.list (.list .nat)))).via
    (fun x => ([x.dev, x.chn, x.gen, x.accd, x.viol], x.e, x.held.map fun h => [h.seq, h.cnt, h.addr, h.value.toNat]))
    fun y => match y.1 with
      | [dev, chn, gen, accd, viol] => some ⟨part, dev, chn, gen, accd, y.2.1, y.2.2.filterMap fun l => match l with
          | [seq, cnt, addr, v] => some ⟨seq, cnt, addr, BitVec.ofNat 64 v⟩
          | _ => none, 0, viol⟩
      | _ => none

/-- A leaf as LEAVES names it: address, level, its fields, replicas. No physical address is written into an image (R404): the
word's FRAME is 0. -/
structure LeafInfo where
  va : Nat
  level : Nat
  word : Nat
  replicas : List Nat

def Codec.leaf : Codec LeafInfo :=
  (Codec.pair (.list .nat) (.list .nat)).via
    (fun x => let l := leafFields x.word
      ([x.va, leafBits x.level, l.mode, l.peer, l.thr, bit l.x, bit l.w, bit l.r], x.replicas))
    fun y => match y.1 with
      | [va, bits, mode, peer, thr, x, w, r] =>
        some ⟨va, if bits = 30 then 1 else if bits = 21 then 2 else 3, leafWord true ⟨mode, peer, thr, x == 1, w == 1, r == 1, 0⟩, y.2⟩
      | _ => none

def State.leafInfo (s : State) (p : Partition) : List LeafInfo :=
  (s.leaves p).map fun (va, level, e) => ⟨va, level, leafWord true { leafFields e with frame := 0 }, ((p.replicas.find? (·.1 == va)).map (·.2)).getD []⟩

/-! ## Sections (R403) -/

def tyMemory : Nat := 0x000D
def tyFault : Nat := 0x000E
def tySignature : Nat := 0x000F
def tyEnd : Nat := 0x00FF

def padTo (k n : Nat) : Nat := (n + k - 1) / k * k - n
def zeroBytes (n : Nat) : List Byte := List.replicate n 0

/-- A section: header (Table 24-3), body, and zeros up to the next 64-byte boundary. -/
def sectionBytes (typ flags : Nat) (body : List Byte) : List Byte :=
  let h := leBytes 4 typ ++ leBytes 2 1 ++ leBytes 2 flags ++ leBytes 8 body.length
  h ++ leBytes 4 (crc32c (h ++ body)) ++ zeroBytes 44 ++ body ++ zeroBytes (padTo 64 body.length)

/-- A MEMORY body that starts at an offset of the image: the number of pages, per page VA, length and offset, then the data,
64 KiB-aligned from the image's first byte. With no page it is empty (R404). -/
def memoryBody (pages : List (Nat × List Byte)) (start : Nat) : List Byte :=
  if pages.isEmpty then [] else
  let head := 8 + 24 * pages.length
  let at0 := start + head + padTo 65536 (start + head)
  let place := pages.foldl (fun (acc : List (Nat × Nat × Nat) × Nat) p =>
    (acc.1 ++ [(p.1, p.2.length, if p.2.isEmpty then 0 else acc.2)], acc.2 + p.2.length + padTo 65536 p.2.length)) ([], at0)
  leBytes 8 pages.length ++ place.1.flatMap (fun x => leBytes 8 x.1 ++ leBytes 8 x.2.1 ++ leBytes 8 x.2.2)
    ++ (if pages.all fun p => p.2.isEmpty then [] else zeroBytes (at0 - start - head)
        ++ pages.flatMap fun p => p.2 ++ zeroBytes (padTo 65536 p.2.length))

/-- The pages in runs of 1 GiB of data: a page belongs to the run in which its data starts. -/
def runsOf (pages : List (Nat × List Byte)) : List (List (Nat × List Byte)) :=
  let marked := (pages.foldl (fun (acc : List (Nat × Nat × List Byte) × Nat) p => (acc.1 ++ [(acc.2 / 2 ^ 30, p)], acc.2 + p.2.length)) ([], 0)).1
  let runs := (marked.map (·.1)).eraseDups
  if runs.isEmpty then [[]] else runs.map fun k => (marked.filter (·.1 == k)).map (·.2)

/-- The pages whose contents an image holds (R405): a page that holds only zeros has length 0. Pages of the reserved region
that hold records stand above the virtual address space (log entry 5). -/
def State.pageData (s : State) (p : Partition) (dump : Bool) : List (Nat × List Byte) :=
  let data (pa n : Nat) : List Byte :=
    if dump then [] else let bs := s.mem.readN pa n; if bs.all (· == 0) then [] else bs
  ((s.leaves p).filter fun x => s.imaged x.2.2).map (fun (va, level, e) => (va, data ((leafFields e).frame * 2 ^ 16) (2 ^ leafBits level)))
    ++ ((p.handlers.map fun h => h.1 / 2 ^ 16 * 2 ^ 16).eraseDups).map fun a => (a, data (p.reserved + a % 2 ^ 48) (2 ^ 16))

/-- The sections before SIGNATURE and END: type, flags, and the body that starts at an offset. -/
def State.sections (s : State) (p : Partition) (dump : Option (Nat × Nat)) : List (Nat × Nat × (Nat → List Byte)) :=
  let unfinished := p.tasks.filter fun t => !t.finished
  let mems := runsOf (s.pageData p dump.isSome)
  let count := 12 + mems.length + (if dump.isSome then 1 else 0) + (if dump.isSome then 1 else 2)
  let rs := s.recordSet p
  let body (typ : Nat) (bs : List Byte) : Nat × Nat × (Nat → List Byte) := (typ, if typ = 7 ∧ !rs.reoffer.isEmpty then 3 else 1, fun _ => bs)
  [body 1 ((Codec.list .nat).enc (imageInfo s p (bit dump.isSome) count)),
   body 2 ((Codec.list .nat).enc (p.ctlInfo s.relTimeout)),
   body 3 (Codec.groups.enc ((List.range 256).map p.group)),
   body 4 ((Codec.list (.queue p)).enc (p.queues.map fun q => (q, s.ringBytes q))),
   body 5 ((Codec.list (.task p)).enc unfinished),
   body 6 ((Codec.list .region).enc (unfinished.map fun t => (t.idx, (t.desc.map Desc.used).getD []))),
   body 7 ((Codec.records p.no).enc rs),
   body 8 ((Codec.list .waiter).enc (s.waiters p.no)),
   body 9 ((Codec.list (.chan p)).enc (s.chans.filter fun c => c.part == p.no && !c.heads.isEmpty)),
   body 10 ((Codec.list (.coll p.no)).enc (s.colls.filter fun c => c.part == p.no && !c.over)),
   body 11 ((Codec.pair (.list (.srcPair p)) (.list (.slot p.no))).enc
     ((s.pairs.filter (·.part == p.no)).map (fun x => { x with log := x.log.map fun e => { e with bytes := s.entryBytes e } }), s.slots.filter (·.part == p.no))),
   body 12 ((Codec.list .leaf).enc (s.leafInfo p))]
  ++ mems.map (fun run => (tyMemory, 1, memoryBody run))
  ++ match dump with
    | some (unit, place) => [body tyFault ((Codec.list .nat).enc [unit, place, s.now])]
    | none => []

def appendSection (acc : List Byte) (x : Nat × Nat × (Nat → List Byte)) : List Byte := acc ++ sectionBytes x.1 x.2.1 (x.2.2 (acc.length + 64))

def fitBytes (n : Nat) (bs : List Byte) : List Byte := bs.take n ++ zeroBytes (n - bs.length)

/-- The SIGNATURE body over the bytes before the section (Table 24-4, R414). -/
def signatureBody (before : List Byte) : List Byte :=
  let digest := fitBytes 32 (Config.digest before)
  fitBytes 32 Config.deviceKey ++ digest ++ fitBytes 7856 (Config.sign digest) ++ leBytes 4 Config.certificate.length ++ Config.certificate

/-- The image of a partition at the cut, signed (R403, R404, R414). -/
def State.image (s : State) (p : Partition) : List Byte :=
  let bs := (s.sections p none).foldl appendSection []
  appendSection (appendSection bs (tySignature, 1, fun _ => signatureBody bs)) (tyEnd, 1, fun _ => [])

def dumpSlot : Nat := 2 ^ 24

/-- The dump of a partition (R409): a section that does not fit in the slot is written with VALID = 0 and no body. -/
def State.dump (s : State) (p : Partition) (unit place : Nat) : List Byte :=
  let xs := s.sections p (some (unit, place)) ++ [(tyEnd, 1, fun _ => [])]
  (xs.foldl (fun (acc : List Byte × Nat) x =>
    let whole := appendSection acc.1 x
    let later := acc.2 - 1
    (if whole.length + 64 * later ≤ dumpSlot then whole else appendSection acc.1 (x.1, 0, fun _ => []), later)) ([], xs.length)).1

/-! ## Reading an image (R406, Table 24-5) -/

/-- Split an image into sections: type, flags, body and the body's offset; none where a CRC, a VERSION or the layout fails. -/
def parseImage (all : List Byte) : Nat → Nat → Option (List (Nat × Nat × List Byte))
  | 0, _ => none
  | fuel + 1, off =>
    let h := (all.drop off).take 64
    let typ := leNat (h.take 4)
    let len := leNat ((h.drop 8).take 8)
    let body := (all.drop (off + 64)).take len
    if h.length < 64 ∨ body.length < len then none
    else if leNat ((h.drop 4).take 2) ≠ 1 ∨ leNat ((h.drop 16).take 4) ≠ crc32c (h.take 16 ++ body) then none
    else if !((1 ≤ typ && typ ≤ 15) || typ == tyEnd) then none
    else if typ = tyEnd then some [(typ, off, body)]
    else (parseImage all fuel (off + 64 + len + padTo 64 len)).map fun r => (typ, off, body) :: r

/-- The order of R404: twelve tables, MEMORY at least once, SIGNATURE at most once, END. -/
def imageOrder (types : List Nat) : Bool :=
  let rest := types.drop 12
  let after := rest.dropWhile (· == tyMemory)
  types.take 12 == (List.range 12).map (· + 1) && rest.head? == some tyMemory && (after == [tyEnd] || after == [tySignature, tyEnd])

def rstOk : Nat := 0
def rstFormat : Nat := 1
def rstSignature : Nat := 2
def rstCapacity : Nat := 3
def rstDevice : Nat := 4

/-- What an image holds. -/
structure Loaded where
  info : List Nat
  ctl : List Nat
  groups : List Group
  queues : List (Queue × List Byte)
  tasks : List Task
  recs : RecordSet
  waiters : List (Nat × Nat × Nat)
  chans : List Chan
  colls : List CollCmd
  pairs : List Pair
  slots : List Slot
  leaves : List LeafInfo
  pages : List (Nat × Nat × Nat)

/-- A body read whole. -/
def whole {α : Type} (c : Codec α) (secs : List (Nat × Nat × List Byte)) (typ : Nat) : Option α :=
  (secs.find? (·.1 == typ)).bind fun x => (c.dec x.2.2).map (·.1)

/-- The pages of a MEMORY body: VA, length, offset from the image's first byte. -/
def pagesOf (body : List Byte) : List (Nat × Nat × Nat) :=
  (List.range (min (leNat (body.take 8)) (body.length / 24))).map fun k =>
    let e := (body.drop (8 + 24 * k)).take 24
    (leNat (e.take 8), leNat ((e.drop 8).take 8), leNat (e.drop 16))

def loadImage? (s : State) (p : Partition) (secs : List (Nat × Nat × List Byte)) : Option Loaded := do
  let info ← whole (.list .nat) secs 1
  let ctl ← whole (.list .nat) secs 2
  let groups ← whole .groups secs 3
  let queues ← whole (.list (.queue p)) secs 4
  let tasks ← whole (.list (.task p)) secs 5
  let recs ← whole (.records p.no) secs 7
  let waiters ← whole (.list .waiter) secs 8
  let chans ← whole (.list (.chan p)) secs 9
  let colls ← whole (.list (.coll p.no)) secs 10
  let (pairs, slots) ← whole (.pair (.list (.srcPair p)) (.list (.slot p.no))) secs 11
  let leaves ← whole (.list .leaf) secs 12
  some ⟨info, ctl, groups, queues, tasks, recs, waiters, chans, colls, pairs, slots, leaves,
    (secs.filter (·.1 == tyMemory)).flatMap fun x => pagesOf x.2.2⟩

/-- Is the SIGNATURE section accepted (R414)? -/
def State.signed (s : State) (all : List Byte) (secs : List (Nat × Nat × List Byte)) : Bool :=
  match secs.find? (·.1 == tySignature) with
  | none => false
  | some (_, off, body) =>
    let key := body.take 32
    let digest := (body.drop 32).take 32
    s.trusted.contains key && digest == fitBytes 32 (Config.digest (all.take off)) && Config.verifies key digest ((body.drop 64).take 7856)

/-- The checks of Table 24-5 in order: the code of the first that fails, or what the image holds. -/
def State.checkImage (s : State) (p : Partition) (addr len : Nat) (reqsig : Bool) : Except Nat Loaded :=
  let all := s.mem.readN addr len
  match parseImage all (len / 64 + 1) 0 with
  | none => .error rstFormat
  | some secs =>
    if !imageOrder (secs.map (·.1)) then .error rstFormat
    else match loadImage? s p secs with
      | none => .error rstFormat
      | some l =>
        let i (k : Nat) : Nat := l.info.getD k 0
        if i 0 ≠ 0 then .error rstFormat
        else if reqsig && !s.signed all secs then .error rstSignature
        else if p.quotas.clusters < i 4 ∨ p.quotas.hbm < i 5 ∨ p.quotas.lpddr < i 6 ∨ p.quotas.pairs < i 8
            ∨ !p.owns addr ∨ !p.owns (addr + len - 1) ∨ p.meetsReserved addr len then .error rstCapacity
        else if !(l.pairs.isEmpty && l.slots.isEmpty) && i 1 != s.devId then .error rstDevice
        else .ok l

/-! ## Loading it (R407) -/

/-- Take room of the pool for an empty table of a number of bytes. -/
def State.newTable (s : State) (part bytes : Nat) : Option (Nat × State) :=
  (s.takeTable part bytes).map fun x => (x.1, x.2.put x.1 (zeroBytes bytes))

/-- Put a leaf at its level, making the tables above it. -/
def State.mapLeaf : Nat → State → Nat → Nat → Nat → Nat → Nat → Nat → Option State
  | 0, _, _, _, _, _, _, _ => none
  | fuel + 1, s, part, va, target, word, level, base =>
    let a := base + 8 * levelIndex va level
    if level = target then some (s.put a (leBytes 8 word))
    else match classify (s.read64 a) level va with
      | .inr next => State.mapLeaf fuel s part va target word (level + 1) next
      | .inl _ => match s.newTable part (8 * levelCount (level + 1)) with
        | none => none
        | some (t, s) =>
          State.mapLeaf fuel (s.put a (leBytes 8 (2 ^ 63 + t / 2 ^ 8))) part va target word (level + 1) t

/-- The first frame from a number up that the grant holds and a test does not refuse. -/
def freeFrom (refused : Nat → Bool) : Nat → Nat → Option Nat
  | 0, _ => none
  | fuel + 1, f => if refused f then freeFrom refused fuel (f + 1) else some f

/-- A leaf of an image of a device as this device maps it: a DUP or MIGRATE page of the image's device is now a page of this one; a page
of a peer gets a FRAME that no section of the image names, so it is a free value: DESIGN CHOICE (log entry 85). -/
def State.leafHere (s : State) (from_ : Nat) (x : LeafInfo) : LeafInfo :=
  let l := leafFields x.word
  let l : Leaf := if (l.mode = 3 ∨ l.mode = 4) ∧ l.peer = from_ then { l with peer := s.devId } else l
  let count := 2 ^ (leafBits x.level - 16)
  { x with word := leafWord true (if s.imaged (leafWord true l) then l else { l with frame := Config.restoredFrame x.va % 2 ^ 32 / count * count }) }

/-- Map one leaf (R407): staged data in place, as one leaf where its alignment allows and else as 64 KiB leaves; zeroed frames
of the grant for a page of length 0; a peer's page as it was. -/
def State.restoreLeaf (s : State) (p : Partition) (addr : Nat) (refused : Nat → Bool) (pages : List (Nat × Nat × Nat)) (cursor : Nat) (l : LeafInfo) :
    Option (State × Nat) :=
  let put (s : State) (va level word : Nat) : Option State := s.mapLeaf 4 p.no va level word 0 p.quotas.root
  let count := 2 ^ (leafBits l.level - 16)
  if !s.imaged l.word then (put s l.va l.level l.word).map fun s => (s, cursor)
  else match pages.find? (·.1 == l.va) with
    | none => none
    | some (_, n, off) =>
      if n ≠ 0 then
        let f := (addr + off) / 2 ^ 16
        if f % count = 0 then (put s l.va l.level (l.word + f)).map fun s => (s, cursor)
        else ((List.range count).foldl (fun (o : Option State) k => o.bind fun s => put s (l.va + 65536 * k) 3 (l.word + f + k)) (some s)).map fun s => (s, cursor)
      else (List.range count).foldl (fun (o : Option (State × Nat)) k => o.bind fun (s, cur) =>
        (freeFrom refused ((p.hi + p.quotas.lpddr * 2 ^ 30) / 2 ^ 16) cur).bind fun f =>
          (put (s.put (f * 2 ^ 16) (zeroBytes 65536)) (l.va + 65536 * k) 3 (l.word + f)).map fun s => (s, f + 1)) (some (s, cursor))

/-- The page tables and pages of an image (R407 step 2). -/
def State.restoreMemory (s : State) (p : Partition) (addr len : Nat) (l : Loaded) : Option State :=
  let rings := l.queues.map fun q => (q.1.attr.ring, 128 * q.1.attr.depth)
  let refused (f : Nat) : Bool :=
    let a := f * 2 ^ 16
    !p.owns a || p.meetsReserved a 65536 || overlaps a 65536 addr len || overlaps a 65536 p.quotas.root 65536
      || rings.any fun r => overlaps a 65536 r.1 r.2
  let s := s.put p.quotas.root (zeroBytes 65536)
  let s := s.onPart p.no fun p => { p with pool := p.pool.filter fun f => l.pairs.all fun x => !overlaps (f * 2 ^ 16) 65536 x.base (128 * x.cap) }
  let s := (l.pages.filter fun x => reservedRef x.1 && x.2.1 != 0).foldl (fun s x =>
    s.put (p.reserved + x.1 % 2 ^ 48) (s.mem.readN (addr + x.2.2) x.2.1)) s
  (l.leaves.foldl (fun (o : Option (State × Nat)) x => o.bind fun (s, cur) =>
    s.restoreLeaf p addr refused l.pages cur (s.leafHere (l.info.getD 1 0) x))
    (some (s, min p.lo p.hi / 2 ^ 16))).map (·.1)

/-- The control block of a queue (Table 22-3). -/
def Queue.block (x : Queue) : List Byte :=
  let a := x.attr
  leBytes 8 x.tail ++ leBytes 8 x.head ++ leBytes 8 a.ring ++ leBytes 4 a.depth ++ leBytes 1 a.domain
    ++ leBytes 1 (bit a.prog + 2 * bit a.strictfp + 4 * bit a.oncancel) ++ leBytes 1 x.state.code ++ [0]
    ++ leBytes 8 a.cring ++ leBytes 4 a.ckey ++ leBytes 4 a.cdepth ++ zeroBytes 16

/-- Queues with their control blocks and the entries between HEAD and TAIL. -/
def State.restoreQueue (s : State) (q : Queue × List Byte) : State :=
  let s := s.put q.1.ctl q.1.block
  (List.range q.1.held).foldl (fun s k =>
    s.put (q.1.attr.ring + 128 * ((q.1.head + k) % q.1.attr.depth)) ((q.2.drop (128 * k)).take 128)) s

/-- A record has a pending atomic, whose reply can no longer arrive: it is faulted with X_ATOMIC_LOST, and CODE and its resume
block are kept (R407 step 5). -/
def State.loseAtomics (s : State) (part rec : Nat) : State :=
  let lost := ((s.savedOf part rec).bind (·.resume)).map fun r => !r.pending.isEmpty
  if lost.getD false then
    let s := s.hubWrite part rec 56 8 (trapCause { no := .atomicLost })
    let s := s.onPart part fun p => { p with ready := p.ready.filter (·.cont != rec) }
    (s.onSaved part rec fun x => { x with resume := x.resume.map fun r => { r with pending := [] } }).setRecSt part rec 4 0
  else s

/-- A SUSPEND waiter is registered and evaluated at once (R407 step 4). -/
def State.rewait (s : State) (part : Nat) (w : Nat × Nat × Nat) : State :=
  match s.xlatOf (s.walk part (va52 w.2.1)) .watched 3 (va52 w.2.1) with
  | .ok loc _ =>
    let m : Monitor := ⟨.record part w.1, w.2.1, loc.pa, w.2.2, 0, false, false, false⟩
    if m.met (s.watchedValue m) then s.releaseWaiter m (s.watchedValue m) else s.register part m
  | _ => s

/-- The entries of a pair's send log stand in its region again (R296). -/
def State.restoreLog (s : State) (x : Pair) : State :=
  (x.log.foldl (fun (acc : State × Pair) e => (acc.1.logEntry acc.2 e, { acc.2 with log := acc.2.log ++ [e] })) (s, { x with log := [] })).1

/-- Add a difference of times to the deadline of each entry that a queue's ring holds. -/
def State.shiftRing (s : State) (by_ : Nat) (q : Queue) : State :=
  (List.range q.held).foldl (fun s k =>
    let a := q.attr.ring + 128 * ((q.head + k) % q.attr.depth) + 16
    s.put a (leBytes 8 ((leNat (s.mem.readN a 8) + by_) % 2 ^ 64))) s

/-- Add a difference of times to every deadline (R408): of tasks, of the descriptors not yet taken, and of records. -/
def State.shiftDeadlines (s : State) (part : Nat) (by_ : Nat) : State :=
  let s := s.onPart part fun p => { p with
    tasks := p.tasks.map fun t => { t with desc := t.desc.map fun d =>
      { d with deadline := (d.deadline + by_) % 2 ^ 64, raw := d.raw.take 16 ++ leBytes 8 ((d.deadline + by_) % 2 ^ 64) ++ d.raw.drop 24 } }
    ready := p.ready.map fun r => if s.background part r.task then r else { r with deadline := (r.deadline + by_) % 2 ^ 64 } }
  let s := (((s.part? part).map (·.queues)).getD []).foldl (State.shiftRing · by_) s
  (((s.part? part).map (·.recs)).getD []).foldl (fun s r =>
    if s.background part r.2 then s else s.hubWrite part r.1 24 8 ((s.readRec part r.1 24 8 + by_) % 2 ^ 64)) s

/-- The tables, records, jobs and admission of an image (R407 steps 3 to 7); the partition is then quiesced. -/
def State.restoreTables (s : State) (part : Nat) (l : Loaded) (shift : Bool) : State :=
  let c (k : Nat) : Nat := l.ctl.getD k 0
  let s := s.onPart part fun p => { p with
    quotas := { p.quotas with wdog := c 7 }
    srseed := BitVec.ofNat 64 (c 0), ulim := c 1, premin := c 2, wcore := c 3, wcopy := c 4, wcoll := c 5, monfull := c 6
    rr := c 9, nextIdx := c 10, nextAdm := c 11
    groups := (List.range 256).foldl (fun b g => bankSet Group.unused b g (l.groups.getD g Group.unused)) []
    queues := l.queues.map (·.1), tasks := l.tasks
    recs := l.recs.recs.map fun r => (r.1, r.2.1)
    handlers := l.recs.handlers, ready := l.recs.ready
    replicas := (l.leaves.filter fun x => !x.replicas.isEmpty).map fun x => (x.va, x.replicas)
    quiesced := true, cut := true }
  let s := l.queues.foldl State.restoreQueue s
  let s : State := { s with
    pairs := s.pairs ++ l.pairs, slots := s.slots ++ l.slots, saved := s.saved ++ l.recs.saved, chans := s.chans ++ l.chans
    colls := s.colls ++ l.colls, relTimeout := if goodTimeout (c 8) then c 8 else s.relTimeout }
  let s := l.recs.recs.foldl (fun s r => match s.recPa part r.1 with
    | some pa => s.put pa r.2.2
    | none => s) s
  let s := l.pairs.foldl State.restoreLog s
  let s := l.colls.foldl (fun s c => s.finishColl c.cid) s
  let s := if shift then s.shiftDeadlines part ((s.now + 2 ^ 64 - l.info.getD 3 0 % 2 ^ 64) % 2 ^ 64) else s
  let s := l.waiters.foldl (fun s w => s.rewait part w) s
  let s := l.recs.recs.foldl (fun s r => s.loseAtomics part r.1) s
  let s := l.recs.reoffer.foldl (fun s r => match s.offer part r.1 r.2 with
    | some s => s
    | none => s.deliver part r.1 r.2.no) s
  s.retestAll part

/-- Does a partition hold a task, a queue or an open pair (Table 24-1)? -/
def State.occupied (s : State) (p : Partition) : Bool :=
  p.tasks.any (fun t => !t.finished) || !p.queues.isEmpty || s.pairs.any (·.part == p.no) || s.slots.any (·.part == p.no)

/-- RESTORE (R406–R408). -/
def execRestore (part addr len : Nat) (shift reqsig : Bool) (s : State) : Out :=
  .next <| s.command fun s => match s.part? part with
    | none => s.notify .refused
    | some p =>
      if s.occupied p then s.notify .refused
      else match s.checkImage p addr len reqsig with
        | .error code => s.notify (.rst code)
        | .ok l => match s.restoreMemory p addr len l with
          | none => s.notify (.rst rstCapacity)
          | some s => (s.restoreTables part l shift).notify (.rst rstOk)

end Sys2Proof.Machine
end

