-- ==== Sys2Proof/Machine/Vector.lean ====
section
/-! DEFINITION. The meanings of the vector and predicate instructions (R140–R163). -/

namespace Sys2Proof.Machine

/-! ## Operands of both forms (R140) -/

/-- The operands of a VR or VRL word: vector numbers already moved by the sticky offset (R73, R143). -/
structure VArgs where
  d : Nat
  a : Nat
  b : Nat
  c : Nat
  p : Nat
  t : Nat
  fd : Nat
  u : Nat

/-- The operands of a VR word: U is 0 (R146). -/
def State.shortArgs (s : State) (o : VR) : VArgs := ⟨s.vnum o.d, s.vnum o.a, s.vnum o.b, 0, o.p, o.t, 0, 0⟩
def State.longArgs (s : State) (o : VL) : VArgs := ⟨s.vnum o.d, s.vnum o.a, s.vnum o.b, s.vnum o.c, o.px, o.t, o.fd, o.u⟩

/-- Integer elements: T 0–4, or an integer format without a scale; none is X_FORMAT (R142, R146). -/
def State.intElt (s : State) (x : VArgs) : Option IntElt :=
  if x.t = 6 then
    let f := s.core.rfmt x.fd
    if f.isInt && f.scale == 0 then some ⟨f.width, f.lane, f.sgn, f.nzr⟩ else none
  else some ⟨typeWidth x.t, typeWidth x.t, x.u == 0, false⟩

/-- The float format of an element-type code; none is X_FORMAT (R61, R142, R149). -/
def State.floatOf (s : State) (t fd : Nat) : Option Fmt :=
  match t with
  | 2 => some Fmt.bf16
  | 3 => some Fmt.fp32
  | 5 => some Fmt.f16
  | _ => let f := s.core.rfmt fd; if !f.isInt && f.scale == 0 then some f else none

/-- Width and lane width of an element of any type (R148, R156–R159). -/
def State.anyElt (s : State) (x : VArgs) : Nat × Nat :=
  if x.t = 6 then let f := s.core.rfmt x.fd; (f.width, f.lane) else (typeWidth x.t, typeWidth x.t)

/-- The lanes of V[r] with their numbers. -/
def State.lanes (s : State) (l r : Nat) : List Nat := lanesOf l (4096 / l) (s.core.rv r)

/-- Which of n lanes are active (R141). -/
def State.active (s : State) (n p : Nat) : List Bool := activeLanes n (s.core.rp p)

/-- Land lane results, with the flags of the active lanes (R35, R141). -/
def State.putLanes (s : State) (bound d l : Nat) (rs : List (Option (Nat × Flags))) : State :=
  (s.raiseFlags (rs.foldl (fun g r => g ||| (r.map (·.2)).getD 0) 0)).result bound [laneWrite d l 0 (rs.map (·.map (·.1)))]

/-- A lanewise operation on three sources: the function sees the lane number and the codes. -/
def State.lanewise (s : State) (x : VArgs) (l : Nat) (f : Nat → Nat → Nat → Nat → Nat × Flags) : List (Option (Nat × Flags)) :=
  let n := 4096 / l
  let a := (s.lanes l x.a).toArray
  let b := (s.lanes l x.b).toArray
  let c := (s.lanes l x.c).toArray
  (s.active n x.p).zipIdx.map fun q =>
    if q.1 then some (f q.2 (a.getD q.2 0) (b.getD q.2 0) (c.getD q.2 0)) else none

/-! ## Integer arithmetic (R146) -/

/-- An integer instruction: exact result from the integers read, narrowed once. -/
def State.intOp (s : State) (x : VArgs) (bound : Nat) (f : IntElt → Nat → Nat → Nat → (Int × Flags)) : Out :=
  .next <| match s.intElt x with
  | none => s.refuse .format
  | some e => s.putLanes bound x.d e.lane (s.lanewise x e.lane fun _ a b c =>
      let (v, g) := f e a b c
      let (y, h) := e.narrow s.core.ctx.sat v
      (y, g ||| h))

/-- Two integer sources. -/
def int2 (f : IntElt → Int → Int → Int) (e : IntElt) (a b _c : Nat) : Int × Flags :=
  let (a, g) := e.code a
  let (b, h) := e.code b
  (f e (e.int a) (e.int b), g ||| h)

def int1 (f : IntElt → Nat → Int) (e : IntElt) (a _b _c : Nat) : Int × Flags :=
  let (a, g) := e.code a
  (f e a, g)

/-- Two codes read unsigned. -/
def code2 (f : IntElt → Nat → Nat → Int) (e : IntElt) (a b _c : Nat) : Int × Flags :=
  let (a, g) := e.code a
  let (b, h) := e.code b
  (f e a b, g ||| h)

def vAdd := int2 fun _ a b => a + b
def vSub := int2 fun _ a b => a - b
def vMul := int2 fun _ a b => a * b
def vMulh := int2 fun e a b => a * b / (2 ^ e.w : Nat)
def vMad (e : IntElt) (a b c : Nat) : Int × Flags :=
  let (x, g) := vMul e a b 0
  let (c, h) := e.code c
  (x + e.int c, g ||| h)
def vMin := int2 fun _ a b => min a b
def vMax := int2 fun _ a b => max a b
def vAbs := int1 fun e a => ((e.int a).natAbs : Int)
def vNeg := int1 fun e a => -(e.int a)
def vAnd := code2 fun _ a b => (a &&& b : Nat)
def vOr := code2 fun _ a b => (a ||| b : Nat)
def vXor := code2 fun _ a b => (a ^^^ b : Nat)
def vNot := int1 fun e a => (2 ^ e.w - 1 - a : Nat)
def vShl (e : IntElt) (a b _c : Nat) : Int × Flags :=
  let (a, g) := e.code a
  let (b, h) := e.code b
  (e.int a * 2 ^ (b % e.w), g ||| h)
def vShr := code2 fun e a b => (a / 2 ^ (b % e.w) : Nat)
def vSra := code2 fun e a b => toSigned e.w a / (2 ^ (b % e.w) : Nat)
def vPopc := int1 fun e a => (ones e.w a : Nat)
def vClz := int1 fun e a => (leading e.w a : Nat)

def execVadd (o : VR) (s : State) : Out := s.intOp (s.shortArgs o) 2 vAdd
def execVsub (o : VR) (s : State) : Out := s.intOp (s.shortArgs o) 2 vSub
def execVmul (o : VR) (s : State) : Out := s.intOp (s.shortArgs o) 4 vMul
def execVmulh (o : VR) (s : State) : Out := s.intOp (s.shortArgs o) 4 vMulh
def execVmin (o : VR) (s : State) : Out := s.intOp (s.shortArgs o) 2 vMin
def execVmax (o : VR) (s : State) : Out := s.intOp (s.shortArgs o) 2 vMax
def execVabs (o : VR) (s : State) : Out := s.intOp (s.shortArgs o) 2 vAbs
def execVneg (o : VR) (s : State) : Out := s.intOp (s.shortArgs o) 2 vNeg
def execVand (o : VR) (s : State) : Out := s.intOp (s.shortArgs o) 1 vAnd
def execVor (o : VR) (s : State) : Out := s.intOp (s.shortArgs o) 1 vOr
def execVxor (o : VR) (s : State) : Out := s.intOp (s.shortArgs o) 1 vXor
def execVnot (o : VR) (s : State) : Out := s.intOp (s.shortArgs o) 1 vNot
def execVshl (o : VR) (s : State) : Out := s.intOp (s.shortArgs o) 2 vShl
def execVshr (o : VR) (s : State) : Out := s.intOp (s.shortArgs o) 2 vShr
def execVsra (o : VR) (s : State) : Out := s.intOp (s.shortArgs o) 2 vSra
def execVpopc (o : VR) (s : State) : Out := s.intOp (s.shortArgs o) 2 vPopc
def execVclz (o : VR) (s : State) : Out := s.intOp (s.shortArgs o) 2 vClz
def execVmad (o : VL) (s : State) : Out := s.intOp (s.longArgs o) 5 vMad
def execVaddLong (o : VL) (s : State) : Out := s.intOp (s.longArgs o) 2 vAdd
def execVsubLong (o : VL) (s : State) : Out := s.intOp (s.longArgs o) 2 vSub
def execVmulLong (o : VL) (s : State) : Out := s.intOp (s.longArgs o) 4 vMul
def execVmulhLong (o : VL) (s : State) : Out := s.intOp (s.longArgs o) 4 vMulh
def execVminLong (o : VL) (s : State) : Out := s.intOp (s.longArgs o) 2 vMin
def execVmaxLong (o : VL) (s : State) : Out := s.intOp (s.longArgs o) 2 vMax
def execVabsLong (o : VL) (s : State) : Out := s.intOp (s.longArgs o) 2 vAbs
def execVnegLong (o : VL) (s : State) : Out := s.intOp (s.longArgs o) 2 vNeg
def execVandLong (o : VL) (s : State) : Out := s.intOp (s.longArgs o) 1 vAnd
def execVorLong (o : VL) (s : State) : Out := s.intOp (s.longArgs o) 1 vOr
def execVxorLong (o : VL) (s : State) : Out := s.intOp (s.longArgs o) 1 vXor
def execVnotLong (o : VL) (s : State) : Out := s.intOp (s.longArgs o) 1 vNot
def execVshlLong (o : VL) (s : State) : Out := s.intOp (s.longArgs o) 2 vShl
def execVshrLong (o : VL) (s : State) : Out := s.intOp (s.longArgs o) 2 vShr
def execVsraLong (o : VL) (s : State) : Out := s.intOp (s.longArgs o) 2 vSra
def execVpopcLong (o : VL) (s : State) : Out := s.intOp (s.longArgs o) 2 vPopc
def execVclzLong (o : VL) (s : State) : Out := s.intOp (s.longArgs o) 2 vClz

/-! ## Comparison and selection (R147, R148) -/

/-- Land a predicate: bits of active lanes are written, those of inactive lanes below n kept, the rest cleared (R46). -/
def State.putPred (s : State) (bound pd n : Nat) (rs : List (Option (Bool × Flags))) : State :=
  let (v, m) := rs.zipIdx.foldl (fun (acc : Nat × Nat) r =>
    match r.1 with
    | some (true, _) => (acc.1 + 2 ^ r.2, acc.2 + 2 ^ r.2)
    | some (false, _) => (acc.1, acc.2 + 2 ^ r.2)
    | none => acc) (0, 2 ^ 1024 - 2 ^ n)
  (s.raiseFlags (rs.foldl (fun g r => g ||| (r.map (·.2)).getD 0) 0)).result bound
    [.p pd (BitVec.ofNat 1024 v) (BitVec.ofNat 1024 m)]

def State.compareLanes (s : State) (x : VArgs) (l : Nat) (f : Nat → Nat → Bool × Flags) : List (Option (Bool × Flags)) :=
  let n := 4096 / l
  let a := (s.lanes l x.a).toArray
  let b := (s.lanes l x.b).toArray
  (s.active n x.p).zipIdx.map fun q => if q.1 then some (f (a.getD q.2 0) (b.getD q.2 0)) else none

def execVcmp (o : VL) (s : State) : Out :=
  let x := { s.longArgs o with u := 0 }
  .next <| match s.intElt x with
  | none => s.refuse .format
  | some e => s.putPred 2 o.pd (4096 / e.lane) (s.compareLanes x e.lane fun a b =>
      let (a, g) := e.code a
      let (b, h) := e.code b
      (intCond o.sel e.w a b, g ||| h))

def execVfcmp (o : VL) (s : State) : Out :=
  let x := s.longArgs o
  .next <| match s.floatOf o.t o.fd with
  | none => s.refuse .format
  | some f => s.putPred 2 o.pd (4096 / f.lane) (s.compareLanes x f.lane fun a b =>
      let (a, g) := f.operand a
      let (b, h) := f.operand b
      let (r, k) := floatCond o.sel a b
      (r, g ||| h ||| k))

/-- Bit copies of whole lanes: the source code of each lane by its number. -/
def State.copyLanes (s : State) (x : VArgs) (bound w l : Nat) (f : Nat → Nat) : State :=
  s.putLanes bound x.d l ((s.active (4096 / l) x.p).zipIdx.map fun q => if q.1 then some (f q.2 % 2 ^ w, 0) else none)

def execVsel (o : VL) (s : State) : Out :=
  let x := s.longArgs o
  let (w, l) := s.anyElt x
  let a := (s.lanes l x.a).toArray
  let b := (s.lanes l x.b).toArray
  let sp := (s.core.rp o.pd).toNat
  .next (s.copyLanes x 1 w l fun i => if hasBit sp i then a.getD i 0 else b.getD i 0)

/-! ## Float arithmetic (R149, R150) -/

/-- A float instruction: a function of format, mode, SAT, draw and the codes of a lane. -/
def State.floatOp (s : State) (x : VArgs) (bound : Nat) (f : Fmt → Nat → Bool → Nat → Nat → Nat → Nat → Nat × Flags) : Out :=
  .next <| match s.floatOf x.t x.fd with
  | none => s.refuse .format
  | some fm =>
    let (ds, s') := s.draws (4096 / fm.lane)
    let ds := ds.toArray
    s'.putLanes bound x.d fm.lane (s.lanewise x fm.lane fun i a b c => f fm s.core.ctx.rnd s.core.ctx.sat (ds.getD i 0) a b c)

/-- A float instruction that does not round. -/
def State.floatCopy (s : State) (x : VArgs) (bound : Nat) (f : Fmt → Nat → Nat → Nat × Flags) : Out :=
  .next <| match s.floatOf x.t x.fd with
  | none => s.refuse .format
  | some fm => s.putLanes bound x.d fm.lane (s.lanewise x fm.lane fun _ a b _ => f fm a b)

/-- A special function; the FP32 column of Table 2-9 is that of T = 3 (R149). -/
def State.special (s : State) (x : VArgs) (bound : Nat) (fn : SpecialFn) : Out :=
  s.floatCopy x bound fun f a _ => fn.run (x.t == 3) f a

/-- Store a result with the flags of its operands. -/
def stored (f : Fmt) (mode : Nat) (sat : Bool) (draw : Nat) (r : Val × Flags) (g : Flags) (sticky : Bool := false) : Nat × Flags :=
  let (c, h) := f.store mode sat draw r.1 sticky
  (c, g ||| r.2 ||| h)

def vfAdd (f : Fmt) (mode : Nat) (sat : Bool) (draw a b _c : Nat) : Nat × Flags :=
  let (x, g) := f.operand a
  let (y, h) := f.operand b
  stored f mode sat draw (Val.sum mode [x, y]) (g ||| h)
def vfSub (f : Fmt) (mode : Nat) (sat : Bool) (draw a b _c : Nat) : Nat × Flags :=
  let (x, g) := f.operand a
  let (y, h) := f.operand b
  stored f mode sat draw (Val.sum mode [x, y.negate]) (g ||| h)
def vfMul (f : Fmt) (mode : Nat) (sat : Bool) (draw a b _c : Nat) : Nat × Flags :=
  let (x, g) := f.operand a
  let (y, h) := f.operand b
  stored f mode sat draw (x.mul y) (g ||| h)
def vfMa (f : Fmt) (mode : Nat) (sat : Bool) (draw a b c : Nat) : Nat × Flags :=
  let (x, g) := f.operand a
  let (y, h) := f.operand b
  let (z, k) := f.operand c
  let (p, m) := x.mul y
  stored f mode sat draw (Val.sum mode [p, z]) (g ||| h ||| k ||| m)
def vfDiv (f : Fmt) (mode : Nat) (sat : Bool) (draw a b _c : Nat) : Nat × Flags :=
  let (x, g) := f.operand a
  let (y, h) := f.operand b
  let (r, sticky, k) := divVal x y
  stored f mode sat draw (r, k) (g ||| h) sticky
def vfSqrt (f : Fmt) (mode : Nat) (_sat : Bool) (draw a _b _c : Nat) : Nat × Flags :=
  let (x, g) := f.operand a
  let (r, sticky, k) := sqrtVal x
  stored f mode false draw (r, k) g sticky
def vfMin (f : Fmt) (a b : Nat) : Nat × Flags := f.minMax false a b
def vfMax (f : Fmt) (a b : Nat) : Nat × Flags := f.minMax true a b
/-- VFABS and VFNEG act on the sign bit only (R149). -/
def vfAbs (f : Fmt) (a _b : Nat) : Nat × Flags :=
  let a := a % 2 ^ f.width
  (if f.sgn then a % 2 ^ (f.width - 1) else a, 0)
def vfNeg (f : Fmt) (a _b : Nat) : Nat × Flags :=
  let a := a % 2 ^ f.width
  (if !f.sgn then a else if f.nzr && a == 0 then 0 else a ^^^ 2 ^ (f.width - 1), 0)

def execVfadd (o : VR) (s : State) : Out := s.floatOp (s.shortArgs o) 4 vfAdd
def execVfsub (o : VR) (s : State) : Out := s.floatOp (s.shortArgs o) 4 vfSub
def execVfmul (o : VR) (s : State) : Out := s.floatOp (s.shortArgs o) 4 vfMul
def execVfdiv (o : VR) (s : State) : Out := s.floatOp (s.shortArgs o) 18 vfDiv
def execVfsqrt (o : VR) (s : State) : Out := s.floatOp (s.shortArgs o) 18 vfSqrt
def execVfmin (o : VR) (s : State) : Out := s.floatCopy (s.shortArgs o) 2 vfMin
def execVfmax (o : VR) (s : State) : Out := s.floatCopy (s.shortArgs o) 2 vfMax
def execVfabs (o : VR) (s : State) : Out := s.floatCopy (s.shortArgs o) 1 vfAbs
def execVfneg (o : VR) (s : State) : Out := s.floatCopy (s.shortArgs o) 1 vfNeg
def execVrcp (o : VR) (s : State) : Out := s.special (s.shortArgs o) 8 .rcp
def execVrsq (o : VR) (s : State) : Out := s.special (s.shortArgs o) 8 .rsq
def execVexp2 (o : VR) (s : State) : Out := s.special (s.shortArgs o) 10 .exp2
def execVlog2 (o : VR) (s : State) : Out := s.special (s.shortArgs o) 10 .log2
def execVtanh (o : VR) (s : State) : Out := s.special (s.shortArgs o) 12 .tanh
def execVfaddLong (o : VL) (s : State) : Out := s.floatOp (s.longArgs o) 4 vfAdd
def execVfsubLong (o : VL) (s : State) : Out := s.floatOp (s.longArgs o) 4 vfSub
def execVfmulLong (o : VL) (s : State) : Out := s.floatOp (s.longArgs o) 4 vfMul
def execVfdivLong (o : VL) (s : State) : Out := s.floatOp (s.longArgs o) 18 vfDiv
def execVfsqrtLong (o : VL) (s : State) : Out := s.floatOp (s.longArgs o) 18 vfSqrt
def execVfminLong (o : VL) (s : State) : Out := s.floatCopy (s.longArgs o) 2 vfMin
def execVfmaxLong (o : VL) (s : State) : Out := s.floatCopy (s.longArgs o) 2 vfMax
def execVfabsLong (o : VL) (s : State) : Out := s.floatCopy (s.longArgs o) 1 vfAbs
def execVfnegLong (o : VL) (s : State) : Out := s.floatCopy (s.longArgs o) 1 vfNeg
def execVrcpLong (o : VL) (s : State) : Out := s.special (s.longArgs o) 8 .rcp
def execVrsqLong (o : VL) (s : State) : Out := s.special (s.longArgs o) 8 .rsq
def execVexp2Long (o : VL) (s : State) : Out := s.special (s.longArgs o) 10 .exp2
def execVlog2Long (o : VL) (s : State) : Out := s.special (s.longArgs o) 10 .log2
def execVtanhLong (o : VL) (s : State) : Out := s.special (s.longArgs o) 12 .tanh
def execVfma (o : VL) (s : State) : Out := s.floatOp (s.longArgs o) 5 vfMa

/-! ## Conversions (R151–R155) -/

/-- A conversion between lanes of two widths: n elements, SEL picking the narrow lanes; none is X_ILLEGAL (R151). -/
def convLanes (ls ld sel : Nat) : Option (Nat × Nat × Nat) :=
  let n := 4096 / max ls ld
  if sel < max ls ld / min ls ld then
    some (n, if ls < ld then sel * n else 0, if ld < ls then sel * n else 0)
  else none

/-- The n source codes from a lane up, with the activity of each element. -/
def State.convSource (s : State) (x : VArgs) (ls n lo : Nat) : List (Option Nat) :=
  let a := (s.lanes ls x.a).toArray
  (s.active n x.p).zipIdx.map fun q => if q.1 then some (a.getD (lo + q.2) 0) else none

/-- A conversion of elements one by one; the function sees the element number, the draw and the code. -/
def State.convert (s : State) (x : VArgs) (bound ls ld sel : Nat) (f : Nat → Nat → Nat → Nat × Flags) : State :=
  match convLanes ls ld sel with
  | none => s.refuse .illegal
  | some (n, lo, dlo) =>
    let (ds, s') := s.draws n
    let ds := ds.toArray
    let rs := (s.convSource x ls n lo).zipIdx.map fun q => q.1.map (f q.2 (ds.getD q.2 0))
    (s'.raiseFlags (rs.foldl (fun g r => g ||| (r.map (·.2)).getD 0) 0)).result bound
      [laneWrite x.d ld dlo (rs.map (·.map (·.1)))]

def execVcvt (o : VL) (s : State) : Out :=
  let fs := s.core.rfmt o.fs
  let fd := s.core.rfmt o.fd
  .next <| if fs.scale ≠ 0 ∨ fd.scale ≠ 0 then s.refuse .format
  else s.convert (s.longArgs o) 4 fs.lane fd.lane o.sel fun _ draw c =>
    let (v, g) := match fs.value c with
      | .reserved => (if fd.isInt then Val.zero else .nan false, Flags.nv)
      | v => (v, 0)
    stored fd s.core.ctx.rnd s.core.ctx.sat draw (v, 0) g

/-- The MX format of VQNT and VDQNT (R154, R155). -/
def mxOk (f : Fmt) : Bool := f.scale == 1 && decide (f.width ≤ 8)

def execVqnt (o : VL) (s : State) : Out :=
  let x := s.longArgs o
  let f := s.core.rfmt o.fd
  .next <| match s.floatOf o.t 0 with
  | none => s.refuse .format
  | some src =>
    if !mxOk f then s.refuse .format
    else match convLanes src.lane f.lane o.sel with
      | none => s.refuse .illegal
      | some (n, lo, dlo) =>
        let (ds, s') := s.draws n
        let xs := (s.convSource x src.lane n lo).map (·.map fun c => (src.operand c).1)
        let (scales, codes, g) := quantiseAll f s.core.ctx.rnd ds xs
        let w := scales.zipIdx.foldl (fun a q => a + q.1 * 2 ^ (8 * q.2)) 0
        ((s'.raiseFlags g).result 8 [laneWrite x.d f.lane dlo codes]).result 8 [.s o.sd (BitVec.ofNat 64 w)]

def execVdqnt (o : VL) (s : State) : Out :=
  let f := s.core.rfmt o.fd
  let word := (s.rs o.sd).toNat
  .next <| match s.floatOf o.t 0 with
  | none => s.refuse .format
  | some dst =>
    if !mxOk f then s.refuse .format
    else s.convert (s.longArgs o) 4 f.lane dst.lane o.sel fun i draw c =>
      let sc := scaleValue (field word (8 * (i / 32)) 8)
      let r : Val × Flags :=
        if sc.isNan then (.nan false, Flags.nv)
        else match f.value c with
          | .reserved => (.nan false, Flags.nv)
          | v => v.mul sc
      stored dst s.core.ctx.rnd s.core.ctx.sat draw r 0

/-- VI2F never raises UF (R153). -/
def execVi2f (o : VL) (s : State) : Out :=
  let w := typeWidth o.t
  .next <| match s.floatOf o.tf o.fd with
  | none => s.refuse .format
  | some dst => s.convert (s.longArgs o) 4 w dst.lane o.sel fun _ draw c =>
      let (y, g) := stored dst s.core.ctx.rnd s.core.ctx.sat draw (Val.ofInt (if o.uc = 1 then c else toSigned w c), 0) 0
      (y, g &&& ~~~Flags.uf)

def execVf2i (o : VL) (s : State) : Out :=
  let w := typeWidth o.t
  .next <| match s.floatOf o.tf o.fd with
  | none => s.refuse .format
  | some src => s.convert (s.longArgs o) 4 src.lane w o.sel fun _ draw c =>
      let (v, g) := src.operand c
      stored (Fmt.int (o.uc == 0) w) s.core.ctx.rnd false draw (v, 0) g

/-! ## Permutation and lane moves (R156–R159) -/

def execVperm (o : VL) (s : State) : Out :=
  let x := s.longArgs o
  let (w, l) := s.anyElt x
  let n := 4096 / l
  let a := (s.lanes l x.a).toArray
  let b := (s.lanes l x.b).toArray
  let k := (s.lanes l x.c).toArray
  .next <| if l ≤ 8 then s.refuse .illegal
  else s.copyLanes x 4 w l fun i => let j := k.getD i 0 % (2 * n); if j < n then a.getD j 0 else b.getD (j - n) 0

def execVshuf (o : VL) (s : State) : Out :=
  let x := s.longArgs o
  let a := (s.lanes 8 x.a).toArray
  let k := (s.lanes 8 x.c).toArray
  .next (s.copyLanes x 3 8 8 fun j =>
    let k := k.getD j 0
    if 128 ≤ k then 0 else a.getD (64 * (j / 64) + k % 64) 0)

/-- VSLIDE: k lanes down or up, filled from V[B] (R157). -/
def State.slide (s : State) (x : VArgs) (up : Bool) (k : Nat) : State :=
  let (w, l) := s.anyElt x
  let n := 4096 / l
  let a := (s.lanes l x.a).toArray
  let b := (s.lanes l x.b).toArray
  if n < k then s.refuse .illegal
  else s.copyLanes x 2 w l fun i =>
    if up then (if k ≤ i then a.getD (i - k) 0 else b.getD (n + i - k) 0)
    else if i + k < n then a.getD (i + k) 0 else b.getD (i + k - n) 0

def execVslide (o : VR) (s : State) : Out := .next (s.slide (s.shortArgs o) false 1)
def execVslideLong (o : VL) (s : State) : Out := .next (s.slide (s.longArgs o) (o.x == 1) o.k)

def execVbcast (o : VR) (s : State) : Out :=
  let x := s.shortArgs o
  let (w, l) := s.anyElt x
  .next (s.copyLanes x 2 w l fun _ => (s.rs o.a).toNat)
def execVbcastLong (o : VL) (s : State) : Out :=
  let x := s.longArgs o
  let (w, l) := s.anyElt x
  .next <| if o.x = 1 then
      (if 4096 / l ≤ o.k then s.refuse .illegal
       else let c := (s.lanes l x.a).getD o.k 0; s.copyLanes x 2 w l fun _ => c)
    else s.copyLanes x 2 w l fun _ => (s.rs o.a).toNat

def execVext (o : VR) (s : State) : Out :=
  let x := s.shortArgs o
  let (w, l) := s.anyElt x
  .next (s.result 3 [.s o.d (BitVec.ofNat 64 ((s.lanes l x.a).getD ((s.rs o.b).toNat % (4096 / l)) 0 % 2 ^ w))])
def execVextLong (o : VL) (s : State) : Out :=
  let x := s.longArgs o
  let (w, l) := s.anyElt x
  .next <| if 4096 / l ≤ o.k then s.refuse .illegal
    else
      let c := (s.lanes l x.a).getD o.k 0 % 2 ^ w
      s.result 3 [.s o.d (if o.x = 1 then BitVec.ofInt 64 (toSigned w c) else BitVec.ofNat 64 c)]

/-- VINS: one lane of V[D] (R158). -/
def State.insertLane (s : State) (x : VArgs) (lane : Nat) (v : Word) : State :=
  let (w, l) := s.anyElt x
  if 4096 / l ≤ lane then s.refuse .illegal
  else s.result 2 [laneWrite x.d l lane [some (v.toNat % 2 ^ w)]]

def execVins (o : VR) (s : State) : Out :=
  let x := s.shortArgs o
  .next (s.insertLane x ((s.rs o.b).toNat % (4096 / (s.anyElt x).2)) (s.rs o.a))
def execVinsLong (o : VL) (s : State) : Out := .next (s.insertLane (s.longArgs o) o.k (s.rs o.a))

/-- VCMPR (R159): the active lanes packed down, zeros above. -/
def State.compressLanes (s : State) (x : VArgs) : State :=
  let (w, l) := s.anyElt x
  let n := 4096 / l
  let kept := ((s.active n x.p).zip (s.lanes l x.a)).filterMap fun q => if q.1 then some (q.2 % 2 ^ w) else none
  s.result 4 [laneWrite x.d l 0 ((kept ++ List.replicate (n - kept.length) 0).map some)]

/-- VEXPD (R159): lane r of V[A] to the r-th active lane. -/
def State.expandLanes (s : State) (x : VArgs) : State :=
  let (w, l) := s.anyElt x
  let n := 4096 / l
  let a := (s.lanes l x.a).toArray
  let (rs, _) := (s.active n x.p).foldl (fun (acc : List (Option Nat) × Nat) q =>
    if q then (some (a.getD acc.2 0 % 2 ^ w) :: acc.1, acc.2 + 1) else (none :: acc.1, acc.2)) ([], 0)
  s.result 4 [laneWrite x.d l 0 rs.reverse]

def execVcmpr (o : VR) (s : State) : Out := .next (s.compressLanes (s.shortArgs o))
def execVcmprLong (o : VL) (s : State) : Out := .next (s.compressLanes (s.longArgs o))
def execVexpd (o : VR) (s : State) : Out := .next (s.expandLanes (s.shortArgs o))
def execVexpdLong (o : VL) (s : State) : Out := .next (s.expandLanes (s.longArgs o))

/-! ## Reductions and scans (R38, R160, R161) -/

/-- The codes of the active lanes. -/
def State.actives (s : State) (x : VArgs) (l : Nat) : List Nat :=
  ((s.active (4096 / l) x.p).zip (s.lanes l x.a)).filterMap fun q => if q.1 then some q.2 else none

/-- Write lane 0 with flags (R160). -/
def State.putLane0 (s : State) (bound d l : Nat) (r : Nat × Flags) : State :=
  (s.raiseFlags r.2).result bound [laneWrite d l 0 [some r.1]]

def State.sumLanes (s : State) (x : VArgs) : State :=
  match s.intElt x with
  | none => s.refuse .format
  | some e =>
    let cs := (s.actives x e.lane).map e.code
    let g := cs.foldl (fun g c => g ||| c.2) 0
    let (y, h) := e.narrow s.core.ctx.sat (cs.foldl (fun a c => a + e.int c.1) 0)
    s.putLane0 6 x.d e.lane (y, g ||| h)

/-- One level of the tree of R38. -/
def treeLevel (add : Nat → Nat → Nat × Flags) : List (Option Nat) → List (Option Nat) × Flags
  | a :: b :: r =>
    let (rest, g) := treeLevel add r
    match a, b with
    | some x, some y => let (z, h) := add x y; (some z :: rest, g ||| h)
    | some x, none => (some x :: rest, g)
    | none, y => (y :: rest, g)
  | l => (l, 0)

def treeSum (add : Nat → Nat → Nat × Flags) : Nat → List (Option Nat) → Nat × Flags
  | 0, l => (((l.head?).join).getD 0, 0)
  | n + 1, l =>
    let (l, g) := treeLevel add l
    let (r, h) := treeSum add n l
    (r, g ||| h)

def State.treeLanes (s : State) (x : VArgs) : State :=
  match s.floatOf x.t x.fd with
  | none => s.refuse .format
  | some f =>
    let n := 4096 / f.lane
    let leaves := ((s.active n x.p).zip (s.lanes f.lane x.a)).map fun q => if q.1 then some (q.2 % 2 ^ f.width) else none
    s.putLane0 14 x.d f.lane (treeSum (fun a b => vfAdd f s.core.ctx.rnd false 0 a b 0) (Nat.log2 n) leaves)

/-- VRMAX and VRMIN: greatest or least active lane, float by FK (R160); with no active lane the canonical NaN without a flag, also
where R22 writes it as +0: DESIGN CHOICE (log entry 68). -/
def State.extremeLanes (s : State) (x : VArgs) (fk isMax : Bool) : State :=
  if fk then
    match s.floatOf x.t x.fd with
    | none => s.refuse .format
    | some f => s.putLane0 6 x.d f.lane (f.extreme isMax (s.actives x f.lane))
  else
    match s.intElt x with
    | none => s.refuse .format
    | some e =>
      let cs := (s.actives x e.lane).map e.code
      let g := cs.foldl (fun g c => g ||| c.2) 0
      let best := match cs with
        | [] => if isMax then e.lo else e.hi
        | c :: r => r.foldl (fun a c => if isMax then max a (e.int c.1) else min a (e.int c.1)) (e.int c.1)
      s.putLane0 6 x.d e.lane (toBits e.w best, g)

/-- VSCAN: inclusive running sums over the active lanes (R161). `first` makes the first running value of a code, `next`
the following one. -/
def scanLanes (first : Nat → Nat × Flags) (next : Nat → Nat → Nat × Flags) :
    List (Option Nat) → Option Nat → List (Option (Nat × Flags))
  | [], _ => []
  | none :: r, acc => none :: scanLanes first next r acc
  | some c :: r, none => let x := first c; some x :: scanLanes first next r (some x.1)
  | some c :: r, some a => let x := next a c; some x :: scanLanes first next r (some x.1)

def State.scan (s : State) (x : VArgs) (fk : Bool) : State :=
  let src (l : Nat) : List (Option Nat) :=
    ((s.active (4096 / l) x.p).zip (s.lanes l x.a)).map fun q => if q.1 then some q.2 else none
  if fk then
    match s.floatOf x.t x.fd with
    | none => s.refuse .format
    | some f => s.putLanes 16 x.d f.lane (scanLanes (fun c => let (v, g) := f.operand c; stored f 0 false 0 (v, 0) g)
        (fun a c => vfAdd f s.core.ctx.rnd false 0 a c 0) (src f.lane) none)
  else
    match s.intElt x with
    | none => s.refuse .format
    | some e => s.putLanes 16 x.d e.lane (scanLanes (fun c => let (c, g) := e.code c; let (y, h) := e.narrow s.core.ctx.sat (e.int c); (y, g ||| h))
        (fun a c => let (a, k) := e.code a; let (c, g) := e.code c; let (y, h) := e.narrow s.core.ctx.sat (e.int a + e.int c); (y, k ||| g ||| h))
        (src e.lane) none)

def execVrsum (o : VR) (s : State) : Out := .next (s.sumLanes (s.shortArgs o))
def execVrsumLong (o : VL) (s : State) : Out := .next (s.sumLanes (s.longArgs o))
def execVrfsum (o : VR) (s : State) : Out := .next (s.treeLanes (s.shortArgs o))
def execVrfsumLong (o : VL) (s : State) : Out := .next (s.treeLanes (s.longArgs o))
def execVrmax (o : VR) (s : State) : Out := .next (s.extremeLanes (s.shortArgs o) false true)
def execVrmaxLong (o : VL) (s : State) : Out := .next (s.extremeLanes (s.longArgs o) (o.fk == 1) true)
def execVrmin (o : VR) (s : State) : Out := .next (s.extremeLanes (s.shortArgs o) false false)
def execVrminLong (o : VL) (s : State) : Out := .next (s.extremeLanes (s.longArgs o) (o.fk == 1) false)
def execVscan (o : VR) (s : State) : Out := .next (s.scan (s.shortArgs o) false)
def execVscanLong (o : VL) (s : State) : Out := .next (s.scan (s.longArgs o) (o.fk == 1))

/-! ## Predicate operations (R162, R163) -/

def State.putP (s : State) (d : Nat) (x : PWord) : Out := .next (s.result 1 [.p d x allOnesP])

def execPand (d a b : Nat) (s : State) : Out := s.putP d (s.core.rp a &&& s.core.rp b)
def execPor (d a b : Nat) (s : State) : Out := s.putP d (s.core.rp a ||| s.core.rp b)
def execPxor (d a b : Nat) (s : State) : Out := s.putP d (s.core.rp a ^^^ s.core.rp b)
def execPnot (d a : Nat) (s : State) : Out := s.putP d (~~~s.core.rp a)
def execPandn (d a b : Nat) (s : State) : Out := s.putP d (s.core.rp a &&& ~~~s.core.rp b)
def execPmov (d a : Nat) (s : State) : Out := s.putP d (s.core.rp a)

/-- The number of lanes that LC selects (R162). -/
def predLanes (lc : Nat) : Nat := 1024 / 2 ^ lc

def execPcnt (lc r a : Nat) (s : State) : Out := s.putS 2 r (BitVec.ofNat 64 (ones (predLanes lc) (s.core.rp a).toNat))
def execPfirst (lc r a : Nat) (s : State) : Out := s.putS 2 r (BitVec.ofNat 64 (lowest (predLanes lc) (s.core.rp a).toNat))
def execPsetn (lc r d : Nat) (s : State) : Out :=
  s.putP d (BitVec.ofNat 1024 (2 ^ min (s.rs r).toNat (predLanes lc) - 1))

end Sys2Proof.Machine
end

