-- ==== Sys2Proof/Machine/Matrix.lean ====
section
/-! DEFINITION. The meanings of the tile and matrix instructions (R164–R188): tile groups, matrix work, the drain
comparison with its replays, drains, row and column moves, and the sums of tile registers. -/

namespace Sys2Proof.Machine

/-! ## TZERO (R167, R168) -/

/-- The identity of a kind (R167). -/
def GroupKind.identity : GroupKind → W32
  | .ring | .orAnd | .maxTimes => 0
  | .minPlus => 0x7F800000
  | .maxPlus => 0xFF800000

def GroupKind.ofMk (mk : Nat) : GroupKind :=
  match mk with
  | 0 => .ring | 1 => .minPlus | 2 => .maxPlus | 3 => .maxTimes | _ => .orAnd

/-- A set opened by TZERO. -/
def AccSet.opening (fa fb : W32) (kind : GroupKind) (replays : Nat) : AccSet :=
  { AccSet.empty with
    status := .opened, fa := fa, fb := fb, kind := kind, replays := replays
    data := sparse 0 (Array.replicate 16384 kind.identity) }

/-- The snapshot that TZERO takes: of the core as it stands, or, where other op words of its bundle have executed at an earlier
issue, of what was kept since then (R168). -/
def Core.atTzero (c : Core) : Snapshot :=
  match c.start with
  | some (n, g) =>
    if c.done = 0 then c.snapshot
    else
      let now := c.snapshot
      { g with
        loads := now.loads.filter fun l => decide (l.seq < n)
        lands := now.lands.filter fun l => decide (l.seq < n)
        gens := ⟨g.gens.vec, c.gens.arr⟩ }
  | none => c.snapshot

/-- Mark an accumulator set as written (R219). -/
def Core.markAcc (c : Core) (n : Nat) : Core := { c with written := { c.written with acc := c.written.acc ||| 2 ^ n } }

/-- TZERO (R167). Matrix work issued before it has ended when it acts (log entry 69), and what earlier phases owe has been performed, so
that the CTL.FSTAT which the snapshot holds has its flags (R35, R168). -/
def execTzero (mk fb fa set : Nat) (s : State) : Out :=
  let s := s.settle
  let c := s.core.arrayDrain
  let kind := GroupKind.ofMk mk
  .next <| if !arrayAccepts kind (c.rfmt fa) (c.rfmt fb) then s.refuse .format
  else if c.ctx.rep ≠ 0 then s.refuse .illegal
  else if c.loads.any fun l => match l.dest with
      | .tile .. => true
      | _ => false then s.refuse .groupViolation
  else match c.applyRetirements with
    | none => s.freeze .retire
    | some c' =>
      let other := c'.acc (1 - set)
      let c' := if other.status = .opened then c'.setAcc (1 - set) { other with status := .idle, pending := false } else c'
      let restarts := (c.acc set).pending && c.group.map (fun g => (g.1, g.2.pc)) == some (set, c.pc)
      let replays := if restarts then (c.acc set).replays else 0
      let c' := c'.setAcc set (AccSet.opening (c.rf fa) (c.rf fb) kind replays)
      { s with core := ({ c' with group := some (set, c.atTzero), drained := false }).markAcc set }

/-! ## Matrix work (R172–R175) -/

/-- Queue a matrix instruction; with two outstanding the core freezes (R174). An armed injection goes to the first one
that names its set (R49). -/
def State.queueMatrix (s : State) (tmsr : Bool) (nv seg tb ta set : Nat) : State :=
  let c := s.core
  let a := c.acc set
  let k : Int := (seg : Int) + c.ctx.off
  let (e, _) := segOf a.fmtA.lane
  if k < 0 ∨ 9 < k ∨ e < nv ∨ a.status ≠ .opened ∨ (a.kind = .ring) = tmsr then s.refuse .illegal
  else if 2 ≤ c.array.length then s.freeze .array
  else
    let inject := injectDue c.inject set && !(c.array.any (·.disarms))
    s.onCore fun c => { c with array := c.array ++ [MatrixOp.mk tmsr nv k.toNat tb ta set c.ctx.rnd (if inject then some c.inject else none) inject] }.markAcc set

def execTmma (nv seg tb ta set : Nat) (s : State) : Out := .next (s.queueMatrix false nv seg tb ta set)
def execTmsr (nv seg tb ta set : Nat) (s : State) : Out := .next (s.queueMatrix true nv seg tb ta set)

/-- The array runs the instruction ahead to its end (R173–R175); a freeze that waits for it ends. -/
def execArrayExecute (s : State) : Out :=
  .next (s.onCore fun c => if c.array.isEmpty then c else
    { c.arrayRun with frozen := if c.frozen = some .array then none else c.frozen })

/-! ## The drain comparison and replays (R178–R180) -/

/-- The threshold of a unit (R394, Table 23-2). -/
def unitThreshold : HwUnit → Nat
  | .arrayRow .. | .arrayCol .. => 3
  | .core _ => 16
  | .slice _ => 32
  | .hbmChannel _ | .lpChannel _ => 64
  | .lane _ => 1024
  | .engine _ | .jasper _ | .opal _ => 8
  | .hubTable _ | .dieTlb _ | .agate _ => 0

/-- The row of Table 23-2 of a unit. -/
def unitRow : HwUnit → Nat
  | .arrayRow .. | .arrayCol .. => 0
  | .core _ => 1
  | .slice _ => 2
  | .hbmChannel _ | .lpChannel _ => 3
  | .lane _ => 4
  | .engine _ => 5
  | .jasper _ => 6
  | .opal _ => 7
  | .hubTable _ | .dieTlb _ | .agate _ => 8

def State.limitOf (s : State) (u : HwUnit) : Nat :=
  let n := bankGet 0 s.limits (unitRow u)
  if n = 0 then unitThreshold u else n

/-- Count the events of failing or corrected lines in the Beryl map of the acting core (R182). -/
def State.countLines (s : State) (ev : List (Bool × Nat)) : State :=
  ev.foldl (fun s e =>
    let u : HwUnit := if e.1 then .arrayRow s.core.phys (s.core.physLine e.1 e.2) else .arrayCol s.core.phys (s.core.physLine e.1 e.2 - 256)
    let k := s.limitOf u
    { s with corr := (s.corr + 1) % 2 ^ 64 }.onCore fun c => c.countLine k e) s

/-- A landing load that is performed again sends its READs again (R76, R179). -/
def LoadLanding.unasked (l : LoadLanding) : LoadLanding :=
  if l.data.isSome then l else { l with parts := l.parts.map fun p => { p with tag := none } }

def State.resendReads (s : State) : State := s.onCore fun c => { c with loads := c.loads.map (·.unasked) }

/-- The same for every member of the acting core's fused set. -/
def State.resendAll (s : State) : State :=
  match s.core.fused with
  | none => s.resendReads
  | some f => (fusedSet f.size s.core.phys).foldl (fun s k => s.onCoreN k fun c => { c with loads := c.loads.map (·.unasked) }) s

/-- A flag word with the bits of a mask taken from another. -/
def takeBits (mask : Nat) (x y : Word) : Word := let m := BitVec.ofNat 64 mask; (x &&& ~~~m) ||| (y &&& m)

/-- A mask of the keys that a bank lists. -/
def keyMask {α : Type} (b : Bank α) : Nat := b.foldl (fun m x => m ||| 2 ^ x.1) 0

/-- Restore the restart snapshot and resume issue at the restart point (R179); what it restores counts as written (R219). Rings, barrier
groups and memory stay as they are, so that a BAR, SBACQ, SBREL, FLSET or FLCLR of the group acts again by its own rule, and changed
memory is computed on (R170). -/
def Core.rewind (c : Core) (n : Nat) (g : Snapshot) : Core :=
  let c := c.setAcc n { c.acc n with pending := true }
  let c := c.setFl (takeBits g.own c.fl g.fl)
  { c with
    written := { c.written with
      s := c.written.s ||| keyMask g.s, fl := c.written.fl ||| c.fl.toNat, pat := c.written.pat ||| keyMask g.pat }
    s := g.s, fstat := g.fstat, pat := g.pat, fmt := g.fmt, stepr := g.stepr, hist := g.hist, safecnt := g.safecnt
    gens := g.gens, loads := g.loads, lands := g.lands
    pc := g.pc, rep := 0, done := 0, current := none, gated := false, branch := none, bubble := false, leave := none, frozen := none
    drained := false, closed := false, start := none, here := [] }

/-- A replay of a set whose comparison has failed: REPLAYS counts it. -/
def Core.replay (c : Core) (n : Nat) (g : Snapshot) : Core :=
  (c.setAcc n { c.acc n with replays := (c.acc n).replays + 1 }).rewind n g

/-- The other members of a fused set issue with the acting one: they restart with it (log entry 32). -/
def State.rewindOthers (s : State) : State :=
  match s.core.fused with
  | none => s
  | some f =>
    ((fusedSet f.size s.core.phys).foldl (fun s k =>
      if k = s.core.phys then s
      else match (s.coreOf k).group with
        | some (n, g) => (s.onCoreN k fun d => d.arrayDrain.rewind n g)
        | none => s) s)

/-- The comparison of the set whose TDRAIN is frozen (R178): pass, correction, replay, or the trap of R180. -/
def execDrainComparison (s : State) : Out :=
  .next <| match s.core.frozen, s.core.group with
  | some .drain, some (n, g) =>
    match (s.core.acc n).compare with
    | .pass a _ ev => (s.countLines ev).onCore fun c => { c.setAcc n a with drained := true, frozen := none }
    | .replay ev =>
      let a := s.core.acc n
      if 2 ≤ a.replays then
        match s.frameInTransit with
        | some va => s.freeze (.transit va)
        | none =>
          ((s.countLines ev).onCore fun c => { c.setAcc n { a with replays := 0, pending := false } with frozen := none }).takeTrap
            { no := .tileUnrecoverable }
      else
        let s := s.countLines ev
        let s := if a.replays = 1 then
            match s.core.suspect (a.kind != .ring) ev with
            | some l => s.onCore fun c => (c.swapLine (c.physLine l.1 l.2)).getD c
            | none => s
          else s
        (s.onCore fun c => c.replay n g).rewindOthers.resendAll
  | _, _ => s

/-! ## TDRAIN (R176–R181) -/

/-- One cell converted for a drain (R181). -/
def drainCode (ints : Bool) (f : Fmt) (mode : Nat) (sat : Bool) (draw : Nat) (w : W32) : Nat × Flags :=
  if ints then
    let v := toSigned 32 w.toNat
    if f.isInt then
      let (n, exact) := roundTo mode draw (decide (v < 0)) v.natAbs f.bias 0 false
      let e : IntElt := ⟨f.width, f.lane, f.sgn, f.nzr⟩
      let (c, g) := e.narrow sat (if v < 0 then -(n : Int) else (n : Int))
      (c, g ||| flagIf (!exact) Flags.nx)
    else f.store mode sat draw (Val.ofInt v)
  else stored f mode sat draw (Fmt.fp32.value w.toNat, 0) 0

/-- What a drain reads of its op word: format, mode, SAT. -/
structure DrainArgs where
  f : Fmt
  mode : Nat
  sat : Bool

/-- One row of a set converted: the scale codes of its blocks, its element codes where it drains them, flags. -/
def AccSet.drainRow (a : AccSet) (x : DrainArgs) (whole : Bool) (gen : List Nat) (i : Nat) : List Nat × List (Option Nat) × Flags :=
  let cols := if a.kind = .ring then 128 else 64
  let draw (j : Nat) : Nat := rotl32 (genAt gen j) (i % 32)
  let cell (j : Nat) : W32 := bankGet 0 a.data (128 * i + j)
  if x.f.scale = 1 then
    let val (j : Nat) : Option Val :=
      if j < cols then some (if a.ints then Val.ofInt (toSigned 32 (cell j).toNat) else Fmt.fp32.value (cell j).toNat)
      else if whole then some Val.zero else none
    quantiseAll x.f x.mode ((List.range 128).map draw) ((List.range 128).map val)
  else
    let rs := (List.range 128).map fun j =>
      if j < cols then some (drainCode a.ints x.f x.mode x.sat (draw j) (cell j))
      else if whole then some (0, 0) else none
    ([], rs.map (·.map (·.1)), rs.foldl (fun g r => g ||| (r.map (·.2)).getD 0) 0)

/-- Rows drained in order, with the array's generators after them: under SR those of the converted columns step once a
row (R181). -/
def AccSet.drainRows (a : AccSet) (x : DrainArgs) (whole : Bool) (rows : List Nat) (gen : List Nat) :
    List (List Nat × List (Option Nat) × Flags) × List Nat :=
  rows.foldl (fun acc i =>
    let gen := if x.mode = 5 then stepGens (if a.kind = .ring then 128 else 64) acc.2 else acc.2
    (acc.1 ++ [a.drainRow x whole gen i], gen)) ([], gen)

/-- A row placed in a tile register row at a byte offset `at0`, as R121 and R181 place it: elements at the lane width, the
scale code of block b at byte 480 + k0 ÷ 32 + b. -/
def placeRow (f : Fmt) (at0 : Nat) (r : List Nat × List (Option Nat) × Flags) : VWord × VWord :=
  let l := f.lane
  let put (acc : Nat × Nat) (lo n v : Nat) : Nat × Nat := (acc.1 + v % 2 ^ n * 2 ^ lo, acc.2 + (2 ^ n - 1) * 2 ^ lo)
  let acc := r.2.1.zipIdx.foldl (fun acc c => match c.1 with
    | some k => put acc (8 * at0 + l * c.2) l k
    | none => acc) (0, 0)
  let blocks := if r.2.1.all Option.isSome then 4 else 2
  let acc := (r.1.take blocks).zipIdx.foldl (fun acc c => put acc (8 * (480 + 8 * at0 / l / 32 + c.2)) 8 c.1) acc
  (BitVec.ofNat 4096 acc.1, BitVec.ofNat 4096 acc.2)

/-- Lane values of width l from lane 0, absent ones untouched. -/
def laneRow (d l : Nat) (xs : List (Option Nat)) : RegWrite := laneWrite d l 0 xs

def rowFlags (rs : List (List Nat × List (Option Nat) × Flags)) : Flags := rs.foldl (fun g r => g ||| r.2.2) 0

/-- Close the group, or drain a checked set: `k` is the drain itself (R177). -/
def State.drainSet (s : State) (set : Nat) (storing : Bool) (pre : Option TrapNo) (k : State → AccSet → State) : State :=
  let c := s.core
  let a := c.acc set
  match a.status with
  | .idle => s.refuse .illegal
  | .checked => if s.inGroup && storing then s.refuse .groupViolation else match pre with
    | some t => s.refuse t
    | none => k s a
  | .opened =>
    match pre with
    | some t => s.refuse t
    | none =>
      if c.array.any (·.set == set) then s.freeze .array
      else if !c.drained then s.freeze .drain
      else
        let a := { a with status := .checked, pending := false }
        let s := s.onCore fun c => { (c.setAcc set a) with group := none, drained := false, closed := true }
        k (s.raiseFlags a.flags) a

/-- The drain's arguments. -/
def State.drainArgs (s : State) (f : Nat) : DrainArgs := ⟨s.core.rfmt f, s.core.ctx.rnd, s.core.ctx.sat⟩

/-- Put the generators back after a drain. -/
def State.withArrGens (s : State) (g : List Nat) : State := s.onCore fun c => { c with gens := { c.gens with arr := g } }

def execTdrainTile (f bo r set : Nat) (s : State) : Out :=
  let x := s.drainArgs f
  let pre := if x.f.scale = 2 then some TrapNo.format else if !boOk x.f bo then some .illegal else none
  .next <| s.drainSet set true pre fun s a =>
    let (rs, g) := a.drainRows x false (List.range 128) s.core.gens.arr
    ((s.withArrGens g).raiseFlags (rowFlags rs)).result 132
      (rs.zipIdx.map fun q => let (v, m) := placeRow x.f (32 * bo) q.1; .t r q.2 v m)

def execTdrainVector (f row r set : Nat) (s : State) : Out :=
  let x := s.drainArgs f
  let i : Int := (row : Int) + s.core.ctx.off
  let pre := if i < 0 ∨ 127 < i then some TrapNo.illegal else if x.f.scale ≠ 0 then some .format else none
  .next <| s.drainSet set false pre fun s a =>
    let (rs, g) := a.drainRows x false [i.toNat] s.core.gens.arr
    ((s.withArrGens g).raiseFlags (rowFlags rs)).result 4 [laneRow r x.f.lane (rs.flatMap (·.2.1))]

/-- The tile image of a drain to memory, its sums formed from the values as written (R181). -/
def drainImage (f : Fmt) (rs : List (List Nat × List (Option Nat) × Flags)) : List Byte :=
  let t : Tile := ⟨((rs.flatMap (·.2.1)).map (·.getD 0)).toArray, #[], #[], (rs.flatMap (·.1)).toArray⟩
  (t.summed f).bytes f

def execTdrainMemory (f r set sc chn : Nat) (off : Int) (s : State) : Out :=
  let x := s.drainArgs f
  let ea := toBits 64 ((s.rs r).toNat + off + s.core.fusedOff)
  let pre := if x.f.scale = 2 then some TrapNo.format else none
  .next <| s.drainSet set true pre fun s a =>
    let (rs, g) := a.drainRows x true (List.range 128) s.core.gens.arr
    let s := ((s.withArrGens g).raiseFlags (rowFlags rs)).onCore fun c => { c with ctx := { c.ctx with scope := sc } }
    s.putItems chn [(ea, drainImage x.f rs)] 64

/-! ## Row and column moves (R185, R186) -/

/-- The row that a move names, moved by the sticky offset. -/
def State.moved (s : State) (n : Nat) : Int := (n : Int) + s.core.ctx.off

/-- The bytes of 128 elements at BQ fit (R185). -/
def bqOk (f : Fmt) (bq : Nat) : Bool := decide (64 * bq + 16 * f.lane ≤ if f.scale = 0 then 512 else 480)

def execTwr (cv bq f v row tr : Nat) (s : State) : Out :=
  let fm := s.core.rfmt f
  let i := s.moved row
  .next <| if s.inGroup then s.refuse .groupViolation
  else if i < 0 ∨ 127 < i then s.refuse .illegal
  else if cv = 1 ∧ fm.scale = 2 then s.refuse .format
  else if !bqOk fm bq then s.refuse .illegal
  else
    let c := s.core
    let (r, s) : (List Nat × List (Option Nat) × Flags) × State :=
      if cv = 0 then (([], (lanesOf fm.lane 128 (c.rv v)).map fun x => some (x % 2 ^ fm.width), 0), s)
      else
        let (ds, s) := s.draws 128
        let xs := lanesOf 32 128 (c.rv v)
        if fm.scale = 1 then (quantiseAll fm c.ctx.rnd ds (xs.map fun x => some (Fmt.fp32.value x)), s)
        else
          let rs := xs.zipIdx.map fun x => stored fm c.ctx.rnd c.ctx.sat (ds.getD x.2 0) (Fmt.fp32.value x.1, 0) 0
          (([], rs.map fun x => some x.1, rs.foldl (fun g x => g ||| x.2) 0), s)
    let (w, m) := placeRow fm (64 * bq) r
    (s.raiseFlags r.2.2).result 4 [.t tr i.toNat w m]

/-- Element k of tile-register row i as FP32 under the mode (R24, R28, R34). -/
def Core.tileFp32 (c : Core) (fm : Fmt) (tr i k draw : Nat) : Nat × Flags :=
  let (v, g) := operandElem fm false (c.rt tr i).toNat k
  stored Fmt.fp32 c.ctx.rnd c.ctx.sat draw (v, 0) g

def execTrdr (cv bq f v row tr : Nat) (s : State) : Out :=
  let fm := s.core.rfmt f
  let i := s.moved row
  .next <| if i < 0 ∨ 127 < i then s.refuse .illegal
  else if !bqOk fm bq then s.refuse .illegal
  else
    let c := s.core
    let k0 := 512 * bq / fm.lane
    if cv = 0 then
      let x := (c.rt tr i.toNat).toNat
      s.result 4 [laneRow v fm.lane ((List.range 128).map fun j => some (field x (fm.lane * (k0 + j)) fm.lane % 2 ^ fm.width))]
    else
      let (ds, s) := s.draws 128
      let rs := (List.range 128).map fun j => c.tileFp32 fm tr i.toNat (k0 + j) (ds.getD j 0)
      (s.raiseFlags (rs.foldl (fun g x => g ||| x.2) 0)).result 4 [laneRow v 32 (rs.map fun x => some x.1)]

def execTrdc (cv f v j tr : Nat) (s : State) : Out :=
  let fm := s.core.rfmt f
  let l := fm.lane
  let col := s.moved j
  let n := if cv = 0 then 4096 / l else 128
  .next <| if col < 0 ∨ (4096 / l : Nat) < col + (n / 128 : Nat) then s.refuse .illegal
  else if cv = 1 ∧ fm.scale ≠ 0 ∧ 480 * 8 < l * (col.toNat + 1) then s.refuse .illegal
  else
    let c := s.core
    if cv = 0 then
      s.result 6 [laneRow v l ((List.range n).map fun k =>
        some (field (c.rt tr (k % 128)).toNat (l * (col.toNat + k / 128)) l % 2 ^ fm.width))]
    else
      let (ds, s) := s.draws 128
      let rs := (List.range 128).map fun i => c.tileFp32 fm tr i col.toNat (ds.getD i 0)
      (s.raiseFlags (rs.foldl (fun g x => g ||| x.2) 0)).result 6 [laneRow v 32 (rs.map fun x => some x.1)]

/-! ## TCHK and TGEN (R187) -/

def execTgen (v bo f tr : Nat) (s : State) : Out :=
  let fm := s.core.rfmt f
  .next <| if !boOk fm bo then s.refuse .illegal
  else
    let t := (s.core.tileAt fm tr bo).summed fm
    s.result 136 [laneRow v 32 (t.col.toList.map some), laneRow (v + 1) 32 (t.row.toList.map some)]

/-- The code and the writes of TCHK (Table 8-7). -/
def Core.tileCheck (c : Core) (fm : Fmt) (tr bo v : Nat) : Nat × List RegWrite :=
  let sums (r : Nat) : Array Nat := (lanesOf 32 128 (c.rv r)).toArray
  let t : Tile := { c.tileAt fm tr bo with col := sums v, row := sums (v + 1) }
  let rows := (List.range 128).filter fun i => !t.rowPass fm i
  let cols := (List.range 128).filter fun j => !t.colPass fm j
  let lane (r k x : Nat) : RegWrite := laneWrite r 32 k [some x]
  match rows, cols with
  | [], [] => (0, [])
  | [i], [] => (1 + i * 2 ^ 16, [lane (v + 1) i (lineSum fm (t.rowValues fm i))])
  | [], [j] => (1 + 2 ^ 15 + j * 2 ^ 16, [lane v j (lineSum fm (t.colValues fm j))])
  | [i], [j] => match t.correct fm i j with
    | some t' =>
      let lo := 256 * bo + fm.lane * j
      (2 + i * 2 ^ 16 + j * 2 ^ 24,
        [.t tr i (BitVec.ofNat 4096 (t'.elems.getD (128 * i + j) 0 * 2 ^ lo)) (BitVec.ofNat 4096 ((2 ^ fm.lane - 1) * 2 ^ lo))])
    | none => (3, [])
  | _, _ => (3, [])

def execTchk (sd v bo f tr : Nat) (s : State) : Out :=
  let fm := s.core.rfmt f
  .next <| if s.inGroup then s.refuse .groupViolation
  else if !boOk fm bo then s.refuse .illegal
  else
    let (code, ws) := s.core.tileCheck fm tr bo v
    s.result 140 (.s sd (BitVec.ofNat 64 code) :: ws)

end Sys2Proof.Machine
end

