-- ==== Sys2Proof/Machine/Errors.lean ====
section
/-! DEFINITION. Errors (R391–R398): what an error check finds, event windows, the retirement of units, the move of a memory
channel's pages, and fatal errors with their dumps. -/

namespace Sys2Proof.Machine

/-! ## Cores leave service (R183, R394, R397) -/

/-- Nothing runs any more on a retired core: its logical number becomes vacant, its partition's barriers and groups are tested
again, and what waits for its window goes (R225, R343, R397). -/
def State.vacate (s : State) (n : Nat) : State :=
  let s := { s with pages := s.pages.filter fun (x : Nat × Nat × Bool) => x.2.1 != n }
  match s.parts.find? fun p => (p.logical n).isSome with
  | none => s
  | some p =>
    let l := (p.logical n).getD 0
    let s := s.onPart p.no fun p => (List.range 256).foldl Partition.advance { p with cores := p.cores.set l none }
    (State.retestLost { s with windows := s.windows.filter fun w => !(w.part == p.no && w.core == l) } p.no (2 ^ l))

/-- A core is retired, where a continuation runs on it at the write-back that its retirement asks for (R394). -/
def State.retireCore (s : State) (n : Nat) : State :=
  if s.retired.contains (HwUnit.core n) then s
  else if (s.coreOf n).running then
    ({ s with doomed := if s.doomed.contains n then s.doomed else s.doomed ++ [n] } : State).onCoreN n fun c => { c with preempt := true }
  else ({ s with retired := s.retired ++ [.core n], doomed := s.doomed.filter (· != n) } : State).vacate n

/-- A core that waits for its retirement and that no continuation runs on any more. -/
def State.emptied (s : State) : Option Nat := s.doomed.find? fun n => !(s.coreOf n).running

/-! ## Retirement (R394, R395) -/

/-- The atomics already queued at a home slice are performed before its addresses move (R395). -/
def State.drainSlice (s : State) (n : Nat) : State :=
  s.finishAtoms (s.atoms.filter fun a => a.loc.peer.isNone && s.sliceOf a.loc.pa == n)

/-- The other units of which one must stay: the engines of a die, the Opals of the module. -/
def lastOf (s : State) (us : List HwUnit) (u : HwUnit) : Bool := us.all fun v => v == u || s.retired.contains v

def enginesOf (die : Nat) : List HwUnit := (List.range 32).map fun k => .engine (32 * die + k)
def allOpals : List HwUnit := (List.range 4).map .opal

/-- A physical line of an array, columns above 256, is marked for the next TZERO (R182). -/
def State.markLine (s : State) (core p k : Nat) : State :=
  s.onCoreN core fun c => if k ≤ bankGet 0 c.beryl p ∧ !c.marked.contains p ∧ !c.lost.contains p then { c with marked := c.marked ++ [p] } else c

/-- Events of a unit in the current window. -/
def State.eventCount (s : State) (u : HwUnit) : Nat := ((s.events.find? (·.1 == u)).map (·.2)).getD 0

/-- The lanes of the UALink station of a lane, four a station (R14). -/
def stationOf (lane : Nat) : List HwUnit := (List.range 4).map fun k => .lane (lane / 4 * 4 + k)

/-- The width at which the station of a lane runs: x4, with one lane retired x2, with two x1, and 0 once it is retired (R17, Table
23-2, log entry 74). -/
def State.stationWidth (s : State) (lane : Nat) : Nat :=
  match ((stationOf lane).filter s.retired.contains).length with
  | 0 => 4
  | 1 => 2
  | 2 => 1
  | _ => 0

/-- What the retirement of a unit does (Table 23-2). -/
def State.retire (s : State) (u : HwUnit) : State :=
  let gone (s : State) : State := { s with retired := s.retired ++ [u] }
  match u with
  | .core n | .jasper n => s.retireCore n
  | .slice n => gone (s.drainSlice n)
  | .lane n =>
    let s := gone s
    if s.stationWidth n = 0 then { s with retired := s.retired ++ (stationOf n).filter (!s.retired.contains ·) } else s
  | .engine e =>
    if lastOf s (enginesOf (e / 32)) u then s
    else
      let s := gone s
      { s with
        params := s.params.filter (·.1 != e)
        chans := s.chans.map fun c => { c with walk := c.walk.map fun w => if w.engine = e then { w with engine := s.engineOn e } else w } }
  | .opal d =>
    if lastOf s allOpals u then s
    else
      let mine := s.colls.filter fun c => s.opalAt c.die == d
      let s := gone s
      let s : State := { s with transit := s.transit.map fun x => if x.1 = d then (s.opalAt d, x.2) else x
                                issuing := s.issuing.filter (·.1 != d) }
      mine.foldl (fun s c => (c.blocks.filter (·.flying)).foldl (fun s b => s.reissueBlock c b) s) s
  | .hbmChannel n => if s.retiring.contains n then s else { s with retiring := s.retiring ++ [n] }
  | .lpChannel n => if s.retiring.contains (256 + n) then s else { s with retiring := s.retiring ++ [256 + n] }
  | .arrayRow .. | .arrayCol .. | .hubTable _ | .dieTlb _ | .agate _ => s

def execUnitRetirement (u : HwUnit) (s : State) : Out :=
  .next <| if s.cutting.isSome then s
  else match u with
  | .arrayRow c l => s.markLine c l (s.limitOf u)
  | .arrayCol c l => s.markLine c (256 + l) (s.limitOf u)
  | _ => if s.retired.contains u || decide (s.eventCount u < s.limitOf u) then s else s.retire u

/-- Has a count that reached its threshold nothing left to do: the unit is retired, on its way there, or the last that must stay? -/
def State.servedCount (s : State) (u : HwUnit) : Bool :=
  s.retired.contains u || match u with
  | .core n | .jasper n => s.retired.contains (.core n) || s.doomed.contains n
  | .hbmChannel n => s.retiring.contains n
  | .lpChannel n => s.retiring.contains (256 + n)
  | .engine e => lastOf s (enginesOf (e / 32)) u
  | .opal _ => lastOf s allOpals u
  | .hubTable _ | .dieTlb _ | .agate _ => true
  | _ => false

/-- A window of 2^30 cc has ended (R394): every count starts again, the Beryl maps' too (R182). A count that has reached its
threshold stands until its unit is retired. -/
def execEventWindowEnd (s : State) : Out :=
  .next <| if s.cc / 2 ^ 30 = s.window then s
  else { s with
      events := s.events.filter fun e => decide (s.limitOf e.1 ≤ e.2) && !s.servedCount e.1
      window := s.cc / 2 ^ 30 }.onCores fun c => { c with beryl := [] }

/-! ## Memory channels (R396) -/

def channelUnit (ch : Nat) : HwUnit := if ch < 256 then .hbmChannel ch else .lpChannel (ch - 256)
/-- First byte and size: 2 GiB of HBM4, 16 GiB of LPDDR-6 (log entry 4). -/
def channelRange (ch : Nat) : Nat × Nat := if ch < 256 then (ch * hbmChannelSize, hbmChannelSize) else (2 ^ 40 + (ch - 256) * 2 ^ 34, 2 ^ 34)
def onChannel (ch pa n : Nat) : Bool := overlaps pa n (channelRange ch).1 (channelRange ch).2

/-- The first page of this device's memory that a leaf of some partition places on a channel: partition, address, frame. -/
def State.pageOn (s : State) (ch : Nat) : Option (Nat × Nat × Nat) :=
  s.parts.findSome? fun p => ((s.leaves p).filter fun x => s.holdsData x.2.2).findSome? fun (va, level, e) =>
    ((List.range (2 ^ (leafBits level - 16))).find? fun k => onChannel ch (((leafFields e).frame + k) * 2 ^ 16) 65536).map
      fun k => (p.no, va + 65536 * k, (leafFields e).frame + k)

/-- What of a partition stands on a channel and cannot move as a page: tables, the control area, send logs, queue rings, and a page
whose move is not finished. While any does, the channel stays in service: DESIGN CHOICE (log entry 57). -/
def State.fixedOn (s : State) (ch : Nat) : Bool :=
  s.parts.any fun p =>
    onChannel ch p.reserved (2 ^ 24) || (s.tables p).any (fun t => onChannel ch t.2.2 (8 * levelCount t.1))
      || p.queues.any (fun q => onChannel ch q.attr.ring (128 * q.attr.depth)) || !p.migrations.isEmpty
      || s.pairs.any fun x => x.part == p.no && onChannel ch x.base (128 * x.cap)

/-- Move one page to a frame of its partition's pool, by the steps of a migration to this device itself (R377, R396); not while a word of
it is watched, or another move of it runs or waits (R376, R377). -/
def State.movePage (s : State) (part va frame : Nat) : State :=
  match s.part? part, s.pageLeaf part va with
  | some p, some (l, _) =>
    match p.pool with
    | [] => s
    | f :: rest =>
      if s.watched frame || p.onTheMove va || p.mail.any (·.va == pageBase va) then s
      else ((s.onPart part fun p => { p with pool := rest }).beginMove { p with pool := rest } (pageBase va) s.devId f l).getD s
  | _, _ => s

/-- A retiring channel: its next page moves, or, nothing being left on it, it leaves service (R396). -/
def execChannelRetirement (ch : Nat) (s : State) : Out :=
  .next <| if !s.retiring.contains ch then s
  else
    let s : State := { s with parts := s.parts.map fun p => { p with pool := p.pool.filter fun f => !onChannel ch (f * 2 ^ 16) 65536 } }
    match s.pageOn ch with
    | some (part, va, frame) => s.movePage part va frame
    | none =>
      if s.fixedOn ch then s
      else { s with retiring := s.retiring.filter (· != ch), retired := s.retired ++ [channelUnit ch] }

/-- The healthy capacity of a partition's grants in GiB (R396). -/
def State.grantLeft (s : State) (p : Partition) : Nat × Nat :=
  let lost (lo n : Nat) : Nat := ((List.range 320).filter fun ch => s.retired.contains (channelUnit ch)).foldl (fun a ch =>
    let (b, k) := channelRange ch
    a + (min (lo + n) (b + k) - max lo b)) 0
  (p.quotas.hbm - lost p.lo (p.quotas.hbm * 2 ^ 30) / 2 ^ 30, p.quotas.lpddr - lost p.hi (p.quotas.lpddr * 2 ^ 30) / 2 ^ 30)

/-! ## Poison (R392) -/

/-- A block becomes poisoned: code 5, stored as it is. -/
def State.poison (s : State) (blk : Nat) : State :=
  { s with
    poisoned := if s.poisoned.contains blk then s.poisoned else s.poisoned ++ [blk]
    renewed := bankDrop s.renewed blk
    blockMeta := if (stackOf (blk * 256)).isSome then bankSet 1 s.blockMeta blk 5 else s.blockMeta }

/-! ## Fatal errors (R393, R409) -/

/-- A fatal error of a partition: its cores stop with nothing written back, its queues close, the host is told, and the dump is
written. A QUIESCE in progress ends REFUSED (R402). -/
def State.fatalError (s : State) (part unit : Nat) : State :=
  if s.dumps.any (·.1 == part) then s
  else match s.part? part with
  | none => s
  | some _ =>
    let s := s.fatalPart part
    let s := s.onPart part fun p => { p with queues := p.queues.map fun q => { q with state := .closed } }
    let s := (((s.part? part).map (·.queues)).getD []).foldl (fun s q => s.showQueue part q.q) s
    let s : State := match s.cutting with
      | some (ps, _, _) =>
        if ps.contains part then
          (ps.foldl (fun (s : State) n => s.onPart n fun p => { p with quiesced := false }) { s with cutting := none }).notify .refused
        else s
      | none => s
    let s := s.notify (.fatal part unit)
    match s.part? part with
    | some p =>
      let bs := s.dump p unit 0
      { s.put (part * dumpSlot) bs with dumps := s.dumps ++ [(part, bs)] }
    | none => s

/-! ## The loss of a combining record (R311) -/

/-- Both copies of a decombining record are lost: its requests get no reply and time out, a peer's at that peer; the merged request
may have been performed before. A record of which one copy is lost is rebuilt from the other, and nothing changes. -/
def State.loseRecord (s : State) (k : Nat) (applied : Bool) : State :=
  match s.combs[k]? with
  | none => s
  | some r =>
    let s := match (if applied then s.merged r.id else none) with
      | some m => if m.old.isNone && m.loc.peer.isNone && m.inRecord.isNone then s.performAtom m else s
      | none => s
    let lost (a : Atom) : Bool := a.inRecord == some r.id && match a.owner with
      | .peer .. => true
      | _ => false
    { s with combs := s.combs.filter (·.id != r.id), atoms := s.atoms.filter fun a => a.owner != .comb r.id && !lost a }

/-- One event of an array line, in its core's Beryl map: at its threshold the line is marked (R182). -/
def State.lineEvent (s : State) (core p limit : Nat) : State :=
  ({ s with corr := (s.corr + 1) % 2 ^ 64 }.onCoreN core fun c =>
    { c with beryl := bankSet 0 c.beryl p (bankGet 0 c.beryl p + 1) }).markLine core p limit

def execErrorEvent (e : ErrorEvent) (s : State) : Out :=
  .next <| match e with
  | .corrected (.arrayRow c l) => s.lineEvent c l (s.limitOf (.arrayRow c l))
  | .corrected (.arrayCol c l) => s.lineEvent c (256 + l) (s.limitOf (.arrayCol c l))
  | .corrected u => s.countUnit u
  | .eccFailed addr => s.poison (addr / 256)
  | .metadataFailed addr => (List.range 128).foldl (fun s k => s.poison (addr / 32768 * 128 + k)) s
  | .recordLost k applied => s.loseRecord k applied
  | .fatalPartition p unit => s.fatalError p unit
  | .fatalModule unit => s.parts.foldl (fun s p => s.fatalError p.no unit) s
  | .unitFailed u =>
    if s.retired.contains u then s
    else if s.cutting.isSome then { s with events := s.events.filter (·.1 != u) ++ [(u, max (s.limitOf u) (s.eventCount u))] }
    else s.retire u

end Sys2Proof.Machine
end

