-- ==== Sys2Proof/Machine/Preempt.lean ====
section
/-! DEFINITION. How a continuation leaves a core and comes back (R92–R98, R217, R220, R350–R353): write-backs at safe points and
at waiting bundles, pick-ups, the traps due at a boundary (R356, R359), watchdogs (R360–R362) and overruns (R344). -/

namespace Sys2Proof.Machine

/-! ## Traps due at a boundary (R356, R359) -/

/-- X_WATCHDOG or X_ATOMIC_LOST, where one waits for the core's next boundary. -/
def Core.schedulerTrap (c : Core) : Option Trap :=
  if c.watchdog then some { no := .watchdog } else c.atomLost.map fun pc => { no := .atomicLost, named := some pc }

def State.dueTrap (s : State) : Option Trap := s.core.schedulerTrap.or s.core.landTrap

/-! ## Write-back of the acting continuation -/

/-- The core is idle. -/
def State.idle (s : State) : State := { s with core := s.core.idled, pages := s.unpinned s.core.phys }

/-- Ready, or suspended until the last pending reply (R129, R222). -/
def State.readyOrPending (s : State) (part rec : Nat) : State :=
  if (s.pendingAtoms part rec).isEmpty then s.readyRec part rec else s.setRecSt part rec 3 3

/-- Write the acting continuation back, at a safe point or with a resume block, and let `k` say what its record becomes. A marked
record is then cancelled (R345); a failed frame write faults it (R221), and so does a trap of the scheduler that waited: it is not
withdrawn (R359). -/
def State.putBack (s : State) (safe : Bool) (k : State → Nat → Nat → State) : State :=
  let c := s.core
  let marked := s.cancelMarked
  let (s, fail) := s.writeBackAt safe 0 c.pc c.rep c.done
  if marked then s.idle.endRec c.part c.cont 5
  else
    let s := match c.schedulerTrap, fail with
      | some t, _ => s.faultRec c.part c.cont t (t.named.getD c.pc) false
      | none, some f => s.faultRec c.part c.cont f c.pc false
      | none, none => k s c.part c.cont
    s.idle

/-- Write the acting core's set back together (R230), nothing being done while a page of one frame is in transit (R378). -/
def State.putBackAll (s : State) (safe : Bool) (k : State → Nat → Nat → State) : State :=
  if (s.memberWhere fun s => s.frameInTransit.isSome).isSome then s else s.eachMember fun s => s.putBack safe k

/-- The acting core, and its set, let go at the safe point that its bundle was (R92, R100). -/
def State.leaveSafe (s : State) : State := s.putBackAll true State.readyOrPending

/-- X_OVERRUN at a safe point, with the entry of that point as the save set (R219, R344, R359); it names the safe-point bundle. -/
def State.overrunTrap (s : State) (pc : Nat) : State :=
  match s.frameInTransit with
  | some _ => s
  | none => (s.onTask s.core.part s.core.task fun t => { t with overrun := false }).takeTrapAt true { no := .overrun, named := some pc }

/-- Pre-emption or X_OVERRUN is taken at a safe point, where it is due (R92, R100, R359). -/
def State.letGo (s : State) (pc : Nat) : State :=
  if (s.memberWhere State.cancelMarked).isSome then s.leaveSafe
  else match s.memberWhere State.overrunHere with
    | some n => (s.focus n).overrunTrap pc
    | none => if s.preempting then s.leaveSafe else s.eachMember fun s => s.onCore fun c => { c with leave := none }

/-- A continuation that does not suspend goes on, unless pre-emption or X_OVERRUN is due at its safe point (R95, R96). -/
def State.carryOn (s : State) (pc : Nat) : State :=
  let due := s.preempting || (s.memberWhere State.overrunHere).isSome
  s.eachMember fun s => s.onCore fun c => { c with leave := if due then some (.preempt pc) else none }

/-- A hub read of a record's bytes meets poison (R392). -/
def State.recPoison (s : State) (part a n : Nat) : State :=
  match s.recPa part a with
  | some pa => s.poisonRead pa n
  | none => s

/-- The stores issued so far are performed before the core reads a word at its home slice (R95, R96, R133), the count of its record or
the word of SUSPEND. -/
def State.published (s : State) : State :=
  let s := (s.phaseStart 0).settleOf s.core.phys
  match s.core.leave with
  | some (.join _) => s.recPoison s.core.part (s.core.cont + 16) 4
  | some (.suspend _ pa _) => s.poisonRead pa 4
  | _ => s

/-- Where the word of a SUSPEND stands now. -/
def State.waitWord (s : State) (va pa : Nat) : Nat :=
  match s.xlatOf (s.lookup s.core.phys s.core.part (va52 va)) .watched 3 (va52 va) with
  | .ok loc _ => loc.pa
  | _ => pa

/-- Register a suspended record, with the evaluation that registration is (R96, R132): a store of its own write-back may have
changed the word. -/
def State.registerNow (s : State) (part : Nat) (m : Monitor) : State :=
  let s := s.poisonRead m.pa m.size
  let v := s.watchedValue m
  if m.met v then s.releaseWaiter m v else s.register part m

/-- Does the word that the acting continuation waits for at its JOIN or SUSPEND keep it out (R95, R96)? -/
def State.staysOut (s : State) : Bool :=
  match s.core.leave with
  | some (.join _) => s.readRec s.core.part s.core.cont 16 4 != 0
  | some (.suspend va pa _) => leNat (s.seenN (Path.ofCore s.core.phys s.core.issued) (s.waitWord va pa) 4) == 0
  | _ => false

/-- What the record of the acting core, just written back, becomes at its JOIN or SUSPEND (R95, R96): suspended while its word
keeps it out. -/
def State.settleLeave (s : State) (part rec : Nat) : State :=
  match s.core.leave with
  | some (.join _) => if s.readRec part rec 16 4 = 0 then s.readyOrPending part rec else s.setRecSt part rec 3 1
  | some (.suspend va pa _) =>
    (s.setRecSt part rec 3 2).registerNow part ⟨.record part rec, va, s.waitWord va pa, 4, 0, false, false, false⟩
  | _ => s.readyOrPending part rec

/-- JOIN and SUSPEND once their bundle has retired: the set goes on together, or is written back together where the word of one
member keeps it out (R95, R96, R230). -/
def State.suspendNow (s : State) (pc : Nat) : State :=
  let t := s.eachMember State.published
  if (t.memberWhere State.staysOut).isNone then t.carryOn pc
  else if (s.memberWhere fun s => s.frameInTransit.isSome).isSome then s
  else t.putBackAll true State.settleLeave

/-- EXIT once its bundle has retired (R98): a trap of the scheduler that waited ends the task as it would have (R359). -/
def State.exited (s : State) : State :=
  let c := s.core
  let t := s.alone.exitNow
  match c.schedulerTrap with
  | some { no := .watchdog, .. } => t.ending c.part c.task 0x22
  | some _ => t.atomicLost c.part c.task
  | none => t

/-- Has the acting continuation executed a JOIN, SUSPEND, YIELD or EXIT, whose bundle has retired? What they do at the home slice
comes before any event of the boundary (R107). -/
def Core.departing (c : Core) : Bool :=
  !c.gated && match c.leave with
  | some .exit | some (.join _) | some (.suspend ..) | some .yield => true
  | _ => false

/-- The continuation leaves its core as its bundle has said (R92–R98). -/
def State.leaveNow (s : State) : State :=
  match s.core.leave with
  | none => s
  | some .exit => s.exited
  | some (.join pc) | some (.suspend _ _ pc) => s.suspendNow pc
  | some .yield => s.leaveSafe
  | some (.preempt pc) => s.letGo pc
  | some .decouple => s.onCore fun c => { c with leave := none }

/-- The acting core lets go at a gated or frozen bundle, or at a restart point (R76, R352); one whose array has no spare line
left then leaves service (R183). -/
def State.abandon (s : State) : State :=
  let t := s.putBackAll false State.readyOrPending
  if s.core.frozen = some .retire then t.retireCore s.core.phys else t

/-- May the acting core's set be let go now outside a safe point (R100, R352)? A member whose FUSE has completed retires it first
(R99). -/
def State.yields (s : State) : Bool :=
  let stuck (c : Core) : Bool := c.gated || c.frozen.isSome || c.acc0.pending || c.acc1.pending
  s.core.frozen == some .retire
    || (s.preempting && (s.memberWhere fun s => stuck s.core).isSome
      && !(s.core.fuseArrived.isSome && s.core.released.any (·.1 == 7)))

/-- WRITE_BACK (R220): the acting continuation leaves its core where it may; a trap that is due comes first (R359). -/
def execWriteBack (s : State) : Out :=
  .next <| if !s.core.running then s
  else if s.core.departing then s.leaveNow
  else if (s.memberWhere fun s => s.dueTrap.isSome).isSome then s
  else if s.core.leave.isSome ∧ !s.core.gated then s.leaveNow
  else if s.yields then s.abandon
  else s

/-- A pre-emption request reaches a core; at an idle one it is void (R352). -/
def execPreemptionRequest (core : Nat) (s : State) : Out :=
  .next (if (s.coreOf core).running then s.onCoreN core fun c => { c with preempt := true } else s)

/-- TRAP_ENTRY: the trap that is due is taken (R356). -/
def execTrapEntry (t : Trap) (s : State) : Out := .next (if s.core.running ∧ s.dueTrap = some t then s.takeTrap t else s)

/-! ## Pick-up (R215–R217) -/

/-- A place by its virtual address now. -/
def State.placeNow (s : State) (cached : Bool) (va : Nat) : Xlat :=
  s.xlatOf (s.lookup s.core.phys s.core.part (va52 va)) .read (if cached then 0 else 4) (va52 va)

/-- The trap of the first recorded load whose page does not translate any more (R76). -/
def State.lostPlace (s : State) : Option Trap :=
  s.core.loads.findSome? fun l => if l.data.isSome then none else l.parts.findSome? fun p => match s.placeNow p.cached p.va with
    | .trap t => some { no := t, addr := p.va, named := some l.pc }
    | _ => none

/-- The address of a recorded load whose page is in transit. -/
def State.movingPlace (s : State) : Option Nat :=
  s.core.loads.findSome? fun l => if l.data.isSome then none else l.parts.findSome? fun p => match s.placeNow p.cached p.va with
    | .transit => some p.va
    | _ => none

/-- The loads of a resume block are performed again at the places that their addresses have now (R76). Where a page does not
translate the continuation traps, all of them recorded again; where one is in transit the core waits for it (R378). -/
def State.replaceLoads (s : State) : State :=
  match s.lostPlace, s.movingPlace with
  | some t, _ => s.onCore fun c => { c with landTrap := some t }
  | none, some va => s.freeze (.place va)
  | none, none => s.onCore fun c => { c with loads := c.loads.map fun l => if l.data.isSome then l else
      { l with parts := l.parts.map fun p => match s.placeNow p.cached p.va with
        | .ok loc cached =>
          let scratch := s.core.inScratch (va52 p.va)
          { p with
            loc := loc, cached := cached && l.scope != 4, fixed := scratch
            own := if scratch then (s.mem.readN loc.pa p.size).map some else p.own }
        | _ => p } }

/-- Armed tests are evaluated again at once, at the places that their words have now, and wait there (R198). A test whose word is no
longer readable stays armed and is not evaluated: DESIGN CHOICE (log entry 77). -/
def State.retryTests (s : State) : State :=
  s.core.tests.foldl (fun s t => match s.placeNow true t.va with
    | .ok loc _ =>
      let s := s.onCore fun c => { c with tests := c.tests.map fun x => if x = t then { t with loc := loc } else x }
      s.registerNow s.core.part ⟨.test s.core.phys t.fl, t.va, loc.pa, 8, t.mask, true, false, s.core.inScratch (va52 t.va)⟩
    | _ => s) s

/-- What a restored context does before its first bundle: its loads, its tests, its channels and its preload (R76, R198, R250,
R348). -/
def State.resumed (s : State) : State :=
  let c := s.core
  let s : State := { s with chans := s.chans.map fun x =>
    if x.part = c.part ∧ x.cont = c.cont then { x with cluster := clusterOf c.phys } else x }
  let s := s.onCores fun d => if d.preload = some c.cont then { d with preload := none, bank := [] } else d
  s.replaceLoads.resendReads.retryTests

/-- What a pick makes of the acting core's preload (R348): the pages of the record that it picks stand in its scratchpad, those that no
core has taken meanwhile; otherwise they are dropped. -/
def State.usePreload (s : State) (part rec : Nat) : State :=
  let c := s.core
  let s := s.onCore fun c => { c with preload := none, bank := [] }
  if c.preload ≠ some rec then s
  else c.bank.foldl (fun s k =>
    let key := part * 2 ^ 48 + k
    if s.pages.any (·.1 == key) then s else
    let s := s.makeRoom c.phys key
    { s with pages := bankPut s.pages key (c.phys, false) }) s

/-- One core picks one record. -/
def State.takeRecord (s : State) (part : Nat) (r : Ready) : State :=
  let s := (s.usePreload part r.cont).pickUp part r
  if s.core.running then s.resumed else s

/-- The record of a fused set for a member. -/
def Partition.fellow (p : Partition) (r : Ready) (m : Nat) : Option Ready :=
  p.ready.find? fun q => q.fus == r.fus && q.lead == r.lead && q.mem == m

/-- Which core picks which record with the one that a core has chosen: its own, or each member its record (R230). -/
def Partition.picks (p : Partition) (core : Nat) (r : Ready) : List (Nat × Ready) :=
  if r.fus = 0 then [(core, r)]
  else
    let size := if r.fus = 1 then 2 else 4
    (fusedSet size core).filterMap fun n => (p.fellow r (n % size)).map fun q => (n, q)

/-- Does a restore meet a page in transit (R378), or bytes of a peer that have not come, for which the pick-up waits? -/
def State.pickMoves (s : State) (part : Nat) (x : Nat × Ready) : Bool :=
  match (s.focus x.1).restored part x.2.cont with
  | .error t => trapWaits t
  | .ok _ => false

/-- The READ that a restore needs and that is not out. -/
def State.pickNeeds (s : State) (part : Nat) (x : Nat × Ready) : Option (Nat × Nat × Nat × Nat) :=
  match (s.focus x.1).restored part x.2.cont with
  | .error t => (trapNeeds t).bind fun r => if (s.issueRead x.1 r.1 r.2.1 r.2.2.1).isSome then none else some r
  | .ok _ => none

/-- The bytes of a frame that a pick-up reads, by the registers that are live (R217, R219). -/
def LiveMask.reads (m : LiveMask) : List (Nat × Nat) :=
  [(0x50, 0x70), (0x200, 64), (0x400, 1024), (0xA00, 8)]
    ++ (bitsIn m.s 64).map (fun n => (0x800 + 8 * n, 8)) ++ (bitsIn m.pat 8).map (fun n => (0xA40 + 64 * n, 64))
    ++ (bitsIn m.sb 16).map (fun n => (0xC40 + 8 * n, 8)) ++ (bitsIn m.p 96).map (fun n => (0x1000 + 128 * n, 128))
    ++ (bitsIn m.v 32).map (fun n => (0x4000 + 512 * n, 512)) ++ (bitsIn m.acc 2).map (fun n => (accArea n, 0x10880))
    ++ (bitsIn m.t 8).map fun n => (0x40000 + 0x10000 * n, 0x10000)

/-- What a pick-up reads meets poison: the record, and what it restores of the frame (R392). -/
def State.pickPoison (s : State) (part : Nat) (x : Nat × Ready) : State :=
  if s.poisoned.isEmpty then s
  else
    let s := s.recPoison part x.2.cont 64
    match (s.focus x.1).restored part x.2.cont with
    | .ok (c, _) => (c.saved.reads).foldl (fun s a => s.poisonRange part .read (c.frame + a.1) a.2) s
    | .error _ => s

/-- Where a member of a set faults at its pick-up, its record is of no set any more, and the others go on each for itself (R100, R230). -/
def State.pickedApart (s : State) (part : Nat) (xs : List (Nat × Ready)) : State :=
  if xs.all fun x => (s.coreOf x.1).running then s
  else xs.foldl (fun s x =>
    if (s.coreOf x.1).running then s.onCoreN x.1 fun c => { c with fused := none, lastFused := if c.fused.isSome then c.fused else c.lastFused }
    else if s.recSt part x.2.cont = 4 then s.setRecBits part x.2.cont 10 4 0 else s) s

/-- PICK_UP: an idle core picks as R216 says; a fused set is picked whole, member m on core m (R230). -/
def execPickUp (core : Nat) (s : State) : Out :=
  .next <| match s.parts.find? fun p => (p.logical core).isSome with
  | none => s
  | some p =>
    if (s.coreOf core).running || p.fatal then s
    else match s.choose p core with
      | none => s
      | some (r, rr) =>
        let xs := (s.readyNow p).picks core r
        let s := xs.foldl (fun s x => s.pickPoison p.no x) s
        if ((s.part? p.no).map (·.fatal)).getD false then s
        else match xs.findSome? fun x => (s.pickNeeds p.no x).map fun r => (x.1, r) with
        | some (n, d, pa, k, va) => (s.sendRead n d pa k va).2
        | none =>
          if xs.any (s.pickMoves p.no) then s
          else
            let s := xs.foldl (fun s x => (s.focus x.1).takeRecord p.no x.2) (s.onPart p.no fun p => { p with rr := rr })
            (xs.foldl (fun s x => (s.focus x.1).dropUsed) s).pickedApart p.no xs |>.focus core

/-- Would an idle core pick a record now? -/
def State.mayPick (s : State) (p : Partition) (core : Nat) : Bool :=
  !(s.coreOf core).running && !p.fatal && match s.choose p core with
    | some (r, _) =>
      let xs := (s.readyNow p).picks core r
      (xs.any fun x => (s.pickNeeds p.no x).isSome) || !xs.any (s.pickMoves p.no)
    | none => false

/-- An idle core that may pick a record, if there is one: no such record is left unpicked (R231). -/
def State.idlePick (s : State) : Option Nat :=
  s.parts.findSome? fun p => if p.ready.isEmpty then none else (p.cores.filterMap id).find? (s.mayPick p)

/-! ## Watchdogs (R360–R362) -/

def State.persists (s : State) (part idx : Nat) : Bool := ((s.task? part idx).bind (·.desc)).any (·.persist)
def State.period (s : State) (part : Nat) : Nat := ((s.part? part).map (·.quotas.wdog)).getD 0

/-- Has a core's timer reached the period? -/
def State.coreLate (s : State) (n : Nat) : Bool :=
  let c := s.coreOf n
  c.running && !c.watchdog && s.persists c.part c.task && decide (s.period c.part ≤ s.now - c.coreTimer)

/-- X_WATCHDOG of a core timer is due at the core's next bundle boundary. -/
def execWatchdogCoreTimer (core : Nat) (s : State) : Out :=
  .next (if s.coreLate core then s.onCoreN core fun c => { c with watchdog := true } else s)

/-- Has a task's heartbeat timer reached the period? -/
def State.taskLate (s : State) (part idx : Nat) : Bool :=
  match s.task? part idx with
  | some t => t.state == .running && s.persists part idx && decide (s.period part ≤ s.now - t.hbTimer)
  | none => false

/-- The core of the lowest logical number that runs a task. -/
def State.firstRunner (s : State) (part idx : Nat) : Option Nat :=
  (s.part? part).bind fun p => (p.cores.filterMap id).find? fun n => let c := s.coreOf n; c.running && c.part == part && c.task == idx

/-- A heartbeat timer raises X_WATCHDOG on the first core that runs the task; without one the scheduler ends the task. -/
def execWatchdogHeartbeatTimer (part idx : Nat) (s : State) : Out :=
  .next <| if !s.taskLate part idx then s
  else
    let s := s.onTask part idx fun t => { t with hbTimer := s.now }
    match s.firstRunner part idx with
    | some n => s.onCoreN n fun c => { c with watchdog := true }
    | none => s.ending part idx 0x22

/-! ## Overruns (R344) -/

/-- The preload candidates of the cores that run a demoted task ask for pre-emption (R347, R348). -/
def State.askCandidates (s : State) (part idx : Nat) : State :=
  (s.allCores.filter fun c => c.running && c.part == part && c.task == idx).foldl (fun s c =>
    match (s.part? part).bind fun p => p.ready.find? fun r => c.preload == some r.cont && !r.asked with
    | some r => s.askFor part r
    | none => s) s

/-- Has a task passed the budget in force, which still counts? -/
def Task.over (t : Task) : Bool :=
  t.state == .running && decide (256 * t.budget < t.charge) && !(t.cls == 2 && t.dem && (t.desc.map (·.policy)).getD 0 == 1)

def execBudgetOverrun (part idx : Nat) (s : State) : Out :=
  .next <| match s.task? part idx with
  | none => s
  | some t => match t.desc with
    | none => s
    | some d =>
      if !t.over then s
      else if d.policy = 1 then (s.onTask part idx fun t => { t with cls := 2, dem := true }).askCandidates part idx
      else if d.policy = 2 ∧ d.handler ≠ 0 ∧ !t.graced then
        s.onTask part idx fun t => { t with budget := ceilDiv t.charge 256 + 2 ^ (d.grace + 10), graced := true, overrun := true }
      else s.ending part idx 0x20

end Sys2Proof.Machine
end

