-- ==== Sys2Proof/Machine/Hosting.lean ====
section
/-! DEFINITION. The host's side (R384–R390, R399–R402): RDMA, partitions, groups, queues, swaps, pairs, communicators, the
reachability table, QUIESCE and THAW. -/

namespace Sys2Proof.Machine

/-! ## RDMA (R384, R385, R388) -/

/-- Control blocks stand in the control area by queue number (Table 22-3, log entry 7). -/
def Partition.ctlAt (p : Partition) (q : Nat) : Nat := p.reserved + 64 * q

/-- The range of a partition's memory key (R385): of the keys 4·partition on, its HBM and its LPDDR grant, and its dump slot (R409). The
numbers are a DESIGN CHOICE (log entry 84). -/
def Partition.keyRange (p : Partition) (key : Nat) : Option (Nat × Nat) :=
  if key = 4 * p.no then some (p.lo, p.quotas.hbm * 2 ^ 30)
  else if key = 4 * p.no + 1 then some (p.hi, p.quotas.lpddr * 2 ^ 30)
  else if key = 4 * p.no + 2 then some (p.no * dumpSlot, dumpSlot)
  else none

/-- Does a range lie in that of a key? -/
def Partition.keyed (p : Partition) (key a n : Nat) : Bool :=
  (p.keyRange key).any fun x => decide (x.1 ≤ a) && decide (a + n ≤ x.1 + x.2)

/-- May the host write or read a range under the partition's keys (R385)? The grant without its reserved region, in which
control blocks may be read; a ring of a PROG queue may be read only (R388). After a fatal error its dump slot may be read (R409). -/
def State.hostMay (s : State) (p : Partition) (write : Bool) (a n : Nat) : Bool :=
  (!write && s.dumps.any (fun d => d.1 == p.no) && decide (p.no * dumpSlot ≤ a) && decide (a + n ≤ (p.no + 1) * dumpSlot))
  || s.granted p.no a n
    && (if p.meetsReserved a n then
          !write && p.queues.any fun q => decide (q.ctl ≤ a) && decide (a + n ≤ q.ctl + 64)
        else true)
    && !(write && p.queues.any fun q => q.attr.prog && overlaps a n q.attr.ring (128 * q.attr.depth))

/-- A host operation reaches the partition of its queue pair, of which each has its own: 256 from 256·partition on, a DESIGN CHOICE (log
entry 84). Data traffic on the management VLAN is dropped (R384). -/
def State.hostOp (s : State) (h : HostAccess) (k : State → Partition → State) : State :=
  s.command fun s =>
    if s.mgmtVlan = some h.vlan then s
    else match s.part? (h.qp / 256) with
      | none => s.notify .accessNak
      | some p => k s p

def execRdmaWrite (h : HostAccess) (addr : Nat) (data : List Byte) (s : State) : Out :=
  .next <| s.hostOp h fun s p =>
    if !p.keyed h.key addr data.length || !s.hostMay p true addr data.length then s.notify .accessNak
    else (cut addr data.length).foldl (fun s x => s.perform x.1 ((data.drop x.2.2).take x.2.1) (covering x.1 x.2.2 data.length)) s

def execRdmaRead (h : HostAccess) (addr len : Nat) (s : State) : Out :=
  .next <| s.hostOp h fun s p =>
    if !p.keyed h.key addr len || !s.hostMay p false addr len then s.notify .accessNak
    else (s.poisonRead addr len).notify (.data (s.mem.readN addr len))

/-- The entries of `n` places of a queue's ring from `at_` on take their indices in order (R335). -/
def State.indexEntries (s : State) (part : Nat) (x : Queue) (at_ n : Nat) : State :=
  (List.range n).foldl (fun s k =>
    match s.part? part with
    | none => s
    | some p =>
      let s := s.onPart part fun p => p.enter x.q ((at_ + k) % x.attr.depth) none
      s.onQueue part x.q fun q => { q with idx := q.idx ++ [p.nextIdx] }) s

/-- Entries that the host's advance of TAIL posts take their indices (R335); at or above a close mark they take none (R416). -/
def State.postEntries (s : State) (part : Nat) (x : Queue) (n : Nat) : State :=
  if x.state = .closed ∨ x.mark.isSome then s else s.indexEntries part x x.tail n

/-- FETCH_AND_ADD on a queue's TAIL, or on a granted word. -/
def execFetchAndAdd (h : HostAccess) (addr : Nat) (v : Word) (s : State) : Out :=
  .next <| s.hostOp h fun s p =>
    if addr % 8 ≠ 0 then s.notify .invalidNak
    else if !p.keyed h.key addr 8 then s.notify .accessNak
    else match p.queues.find? (·.ctl == addr) with
      | some x =>
        if x.attr.prog then s.notify .accessNak
        else
          let s := (s.postEntries p.no x v.toNat).onQueue p.no x.q fun q => { q with tail := (q.tail + v.toNat) % 2 ^ 64 }
          (s.showQueue p.no x.q).notify (.old (BitVec.ofNat 64 x.tail))
      | none =>
        if !s.hostMay p true addr 8 then s.notify .accessNak
        else
          let old := BitVec.ofNat 64 (leNat (s.mem.readN addr 8))
          (s.perform addr (leBytes 8 (old + v).toNat)).notify (.old old)

def execInvalidRequest (_code : Nat) (s : State) : Out := .next (s.command fun s => s.notify .invalidNak)

/-! ## Partitions (R386, R387) -/

/-- The healthy clusters that no partition holds, in physical order. -/
def State.freeClusters (s : State) : List Nat :=
  (List.range 64).filter fun c => (List.range 4).all fun k => !s.retired.contains (.core (4 * c + k))
    && s.parts.all fun p => (p.logical (4 * c + k)).isNone

/-- The first run of `n` GiB from one of a list of bases that is healthy and in no grant. -/
def State.freeRun (s : State) (bases : List Nat) (n : Nat) : Option Nat :=
  bases.find? fun b => (List.range n).all fun k =>
    let a := b + k * 2 ^ 30
    (b + n * 2 ^ 30 ≤ (if b < 2 ^ 40 then hbmSize else 2 ^ 41)) && !s.parts.any (fun p => p.owns a) && !s.retired.contains (channelOf a)

/-- HBM4 grants start above the first GiB, which holds the dump slots (R409, log entry 7). -/
def State.freeHbm (s : State) (n : Nat) : Option Nat := s.freeRun ((List.range 510).map fun k => (k + 1) * 2 ^ 30) n
def State.freeLpddr (s : State) (n : Nat) : Option Nat := s.freeRun ((List.range 1024).map fun k => 2 ^ 40 + k * 2 ^ 30) n

/-- Are quotas within their ranges (Table 22-2)? -/
def quotasFit (q : Quotas) : Bool :=
  decide (1 ≤ q.clusters) && decide (q.clusters ≤ 64) && decide (2 ^ 26 ≤ q.reserved)
    && decide (q.reserved ≤ (q.hbm + q.lpddr) * 2 ^ 30) && decide (q.pairs ≤ 4096) && q.root % 2 ^ 16 == 0
    && decide (q.root < 2 ^ 48) && decide (1000 ≤ q.wdog) && decide (q.wdog ≤ 10000000000) && decide (q.tag < 2 ^ 32)

/-- A new partition on a list of clusters with its grants: the registers of Table 3-2, empty tables, and the pool of R371. -/
def Partition.new (no : Nat) (q : Quotas) (clusters : List Nat) (lo hi : Nat) : Partition :=
  let frames (x : Nat × Nat) : List Nat := (List.range (x.2 / 2 ^ 16)).map (x.1 / 2 ^ 16 + ·)
  let p : Partition :=
  { no := no, quotas := q, srseed := 1, ulim := 0xE000, premin := 20000, wcore := 256, wcopy := 64, wcoll := 128, monfull := 0
    groups := [], cores := clusters.flatMap fun c => (List.range 4).map fun k => some (4 * c + k)
    recs := [], ready := [], rr := 0, nextIdx := 0, queues := [], tasks := [], nextAdm := 1, lo := lo, hi := hi, handlers := []
    swapped := false, quiesced := false, cut := false, fatal := false, holds := []
    pool := []
    replicas := [], collapses := [], migrations := [], moved := [], mappers := [], mail := [], nextTable := 0, moving := [], shots := [] }
  { p with pool := ((p.reservedParts.flatMap frames).drop 256).filter (· != q.root / 2 ^ 16) }

/-- The healthy clusters of the module. -/
def State.healthyClusters (s : State) : Nat :=
  ((List.range 64).filter fun c => (List.range 4).all fun k => !s.retired.contains (.core (4 * c + k))).length

/-- Are there clusters for a partition that asks for `n` (R387)? Those of all partitions together are no more than are healthy. -/
def State.clustersFit (s : State) (n : Nat) : Bool :=
  decide (n ≤ s.freeClusters.length) && decide ((s.parts.map (·.quotas.clusters)).foldl (· + ·) n ≤ s.healthyClusters)

def execCreatePartition (part : Nat) (q : Quotas) (s : State) : Out :=
  .next <| s.command fun s =>
    if 16 ≤ part ∨ (s.part? part).isSome ∨ !quotasFit q ∨ s.parts.any (·.quotas.tag == q.tag) ∨ !s.clustersFit q.clusters then s.notify .refused
    else match s.freeHbm q.hbm, s.freeLpddr q.lpddr with
      | some lo, some hi =>
        { s with parts := s.parts ++ [Partition.new part q (s.freeClusters.take q.clusters) lo hi] }.notify .ok
      | _, _ => s.notify .refused

/-- Is a monitor one of a partition's records or of its cores? -/
def Monitor.ofPart (m : Monitor) (s : State) (part : Nat) : Bool :=
  match m.who with
  | .record p _ => p == part
  | .core n _ | .test n _ => (s.coreOf n).part == part

/-- Everything that a partition held in the module goes with it. -/
def State.freePartition (s : State) (part : Nat) : State :=
  let s := s.onCores fun c =>
    let c := if c.running ∧ c.part = part then c.idled else c
    { c with tlb := c.tlb.filter (·.1 != part) }
  { s with
    parts := s.parts.filter (·.no != part)
    pubs := s.pubs.filter (·.part != part), atoms := s.atoms.filter (·.part != part)
    monitors := s.monitors.filter fun m => !m.ofPart s part
    pages := s.pages.filter fun (x : Nat × Nat × Bool) => x.1 / 2 ^ 48 != part
    saved := s.saved.filter (·.part != part), chans := s.chans.filter (·.part != part), rings := s.rings.filter (·.part != part)
    windows := s.windows.filter (·.part != part), colls := s.colls.filter (·.part != part), comms := s.comms.filter (·.2 != part)
    egress := s.egress.filter (·.part != part), pairs := s.pairs.filter (·.part != part), slots := s.slots.filter (·.part != part)
    access := s.access.filter (·.1 != part), dieTlb := s.dieTlb.filter (·.2.1 != part), walkCache := s.walkCache.filter (·.2.1 != part), agate := s.agate.filter (·.2.1 != part)
    dumps := s.dumps.filter (·.1 != part) }

def execDestroyPartition (part : Nat) (s : State) : Out :=
  .next <| s.command fun s => match s.part? part with
  | none => s.notify .refused
  | some p =>
    if p.queues.any (·.state != .closed) || (!p.fatal && p.tasks.any fun t => !t.finished) then s.notify .busy
    else (s.freePartition part).notify .ok

/-! ## Groups (R223, R224) -/

/-- The memberships of a logical core in groups of KIND 1 to 3, but for one group. -/
def Partition.memberships (p : Partition) (g l : Nat) : Nat :=
  ((List.range 256).filter fun k => k != g && (p.group k).kind != 0 && hasBit (p.group k).members l).length

def Partition.groupRefused (p : Partition) (g kind members : Nat) : Bool :=
  decide (2 ^ (4 * p.quotas.clusters) ≤ members)
    || (kind != 0 && (List.range 256).any fun l => hasBit members l && decide (4 ≤ p.memberships g l))

def execSetGroup (part g kind : Nat) (members : Nat) (s : State) : Out :=
  .next <| s.command fun s => match s.part? part with
  | none => s.notify .refused
  | some p =>
    let e := p.group g
    if 256 ≤ g ∨ 4 ≤ kind then s.notify .refused
    else if p.groupRefused g kind members then s.notify .admGroup
    else if e.arr ≠ 0 ∨ e.next ≠ 0 ∨ p.tasks.any (fun t => !t.finished && ((s.describe part t).desc.any fun d => d.pgroup == g)) then s.notify .busy
    else (s.onPart part fun p => { p with groups := bankSet Group.unused p.groups g { e with kind := kind, members := members } }).notify .ok

/-! ## Queues (R334, R349, R416) -/

def powerOf2 (n : Nat) : Bool := n != 0 && 2 ^ Nat.log2 n == n

/-- Are queue attributes within Tables 18-4 and 22-3, the ring in the partition's grant? -/
def State.queueFits (s : State) (part : Nat) (a : QueueAttr) : Bool :=
  decide (16 ≤ a.depth) && decide (a.depth ≤ 4096) && powerOf2 a.depth && decide (a.domain < 64) && a.ring % 128 == 0
    && s.granted part a.ring (128 * a.depth) && (a.cring == 0 || powerOf2 a.cdepth)

def execCreateQueue (part q : Nat) (attr : QueueAttr) (s : State) : Out :=
  .next <| s.command fun s => match s.part? part with
  | none => s.notify .refused
  | some p =>
    if 64 ≤ q ∨ p.queues.any (·.q == q) ∨ !s.queueFits part attr then s.notify .refused
    else
      let x : Queue := ⟨q, attr, p.ctlAt q, .opened, none, 0, 0, [], 0⟩
      let s := s.onPart part fun p => { p with queues := p.queues ++ [x] }
      (s.perform x.ctl x.block).notify .ok

/-- QUEUE_RESET (R349). A close mark ends, and the entries at or above it, which had no indices (R416), take them now, so that all that is
not yet taken is taken and cancelled: DESIGN CHOICE (log entry 83). -/
def execQueueReset (part q : Nat) (s : State) : Out :=
  .next <| s.command fun s => match s.part? part, s.queue? part q with
  | some p, some x =>
    if x.state = .resetting then s.notify .busy
    else
      let s := s.onQueue part q fun x => { x with state := .resetting, mark := none }
      let s := (s.indexEntries part x (x.head + x.idx.length) (x.held - x.idx.length)).showQueue part q
      let mine := p.tasks.filter fun t => t.q == q && (t.state == .waiting || t.state == .running)
      (mine.foldl (fun s t => s.ending part t.idx 0x21) s).notify .ok
  | _, _ => s.notify .refused

def execCloseQueue (part q : Nat) (s : State) : Out :=
  .next <| s.command fun s => match s.queue? part q with
  | none => s.notify .refused
  | some x =>
    if x.state ≠ .opened ∨ x.mark.isSome then s.notify .refused
    else (s.onQueue part q fun x => { x with mark := some x.tail }).notify .ok

/-! ## Swaps (R354, R355) -/

/-- Every core that runs a continuation of a partition is asked to let go. -/
def State.askAll (s : State) (part : Nat) : State :=
  s.onCores fun c => if c.running ∧ c.part = part then { c with preempt := true } else c

def execSwapOut (part : Nat) (s : State) : Out :=
  .next <| s.command fun s => match s.part? part with
  | none => s.notify .refused
  | some p =>
    if p.swapped then s.notify .refused
    else ((s.onPart part fun p => { p with swapped := true }).askAll part).notify .ok

def execSwapIn (part : Nat) (s : State) : Out :=
  .next <| s.command fun s => match s.part? part with
  | none => s.notify .refused
  | some p => if p.swapped then (s.onPart part fun p => { p with swapped := false }).notify .ok else s.notify .refused

/-! ## Control registers of a partition (R47, R386) -/

def Partition.setCtl (p : Partition) (c : Nat) (v : Word) : Option Partition :=
  match c with
  | 0x020 => some { p with srseed := v }
  | 0x021 => some { p with ulim := min v.toNat 0x10000 }
  | 0x022 => some { p with premin := v.toNat }
  | 0x023 => some { p with wcore := v.toNat }
  | 0x024 => some { p with wcopy := v.toNat }
  | 0x025 => some { p with wcoll := v.toNat }
  | 0x026 => some p
  | _ => none

def execSetCtl (part c : Nat) (v : Word) (s : State) : Out :=
  .next <| s.command fun s => match (s.part? part).bind fun p => p.setCtl c v with
  | none => s.notify .refused
  | some q => (s.onPart part fun _ => q).notify .ok

/-! ## Pairs, communicators, reachability (R390, R292) -/

/-- Open ends of pairs of a partition. -/
def State.pairEnds (s : State) (part : Nat) : Nat := (s.pairs.filter (·.part == part)).length + (s.slots.filter (·.part == part)).length

/-- The frames of a send log. -/
def logFrames (base cap : Nat) : List Nat :=
  (List.range ((base + 128 * cap - 1) / 2 ^ 16 + 1 - base / 2 ^ 16)).map (base / 2 ^ 16 + ·)

/-- Does a send log of a partition stand on a frame? -/
def State.logOn (s : State) (part f : Nat) : Bool := s.pairs.any fun x => x.part == part && (logFrames x.base x.cap).contains f

/-- May a send log stand at a range (Table 22-4)? In the reserved region outside its control area, over no other send log and over no
frame that the page agent holds. -/
def State.logFits (s : State) (p : Partition) (base cap : Nat) : Bool :=
  powerOf2 cap && decide (4096 ≤ cap) && decide (cap ≤ 1048576) && decide (p.reserved + 2 ^ 24 ≤ base ∨ base + 128 * cap ≤ p.reserved)
    && (p.reservedParts.any fun x => decide (x.1 ≤ base) && decide (base + 128 * cap ≤ x.1 + x.2))
    && (s.pairs.all fun x => x.part != p.no || !overlaps base (128 * cap) x.base (128 * x.cap))
    && (logFrames base cap).all fun f => p.pool.contains f || s.logOn p.no f

def execOpenPair (part : Nat) (o : PairOpen) (s : State) : Out :=
  .next <| s.command fun s => match s.part? part with
  | none => s.notify .refused
  | some p =>
    if 15 ≤ o.chn ∨ 1024 ≤ o.peer ∨ p.quotas.pairs ≤ s.pairEnds part then s.notify .refused
    else if o.source then
      if (s.pair? o.peer o.chn).isSome ∨ !s.logFits p o.logBase o.logCap then s.notify .refused
      else
        let s := s.onPart part fun p => { p with pool := p.pool.filter fun f => !(logFrames o.logBase o.logCap).contains f }
        { s with pairs := s.pairs ++ [Pair.mk part o.peer o.chn 1 0 0 0 0 false o.logBase o.logCap 0 [] [] [] s.now] }.notify .ok
    else if (s.slot? o.peer o.chn).isSome then s.notify .refused
    else { s with slots := s.slots ++ [Slot.mk part o.peer o.chn 0 0 (List.replicate 8 0) [] s.now 0] }.notify .ok

def execClosePair (part : Nat) (source : Bool) (peer chn : Nat) (s : State) : Out :=
  .next <| s.command fun s =>
    if source then
      match s.pairs.find? fun x => x.part == part && x.dev == peer && x.chn == chn with
      | none => s.notify .refused
      | some x =>
        if x.out ≠ 0 ∨ !x.log.isEmpty then s.notify .busy
        else
          let s : State := { s with pairs := s.pairs.erase x }
          (s.onPart part fun p => { p with pool := p.pool ++ (logFrames x.base x.cap).filter fun f => !s.logOn part f }).notify .ok
    else
      match s.slots.find? fun x => x.part == part && x.dev == peer && x.chn == chn with
      | none => s.notify .refused
      | some x => if x.held.isEmpty then { s with slots := s.slots.erase x }.notify .ok else s.notify .busy

def execOpenComm (part comm : Nat) (s : State) : Out :=
  .next <| s.command fun s =>
    if (s.part? part).isNone ∨ 256 ≤ comm ∨ s.comms.any (·.1 == comm) then s.notify .refused
    else { s with comms := s.comms ++ [(comm, part)] }.notify .ok

/-- The communicator of a command: as it was read, or as it stands in memory before that. -/
def State.commOf (s : State) (c : CollCmd) : Option Nat :=
  if c.read then some (Coll.of c.cmd).comm else match s.peek (s.collAgent c) c.va 64 with
    | .ok bs => some (Coll.of bs).comm
    | .error _ => none

def execCloseComm (comm : Nat) (s : State) : Out :=
  .next <| s.command fun s =>
    if !s.comms.any (·.1 == comm) then s.notify .refused
    else if s.colls.any fun c => s.commOf c == some comm then s.notify .busy
    else { s with comms := s.comms.filter (·.1 != comm) }.notify .ok

/-- The READs to a peer end: a load that waits for one raises X_PAGE at its bundle, and what was frozen for one tries again
(R305). -/
def State.endReads (s : State) (dev : Nat) : State :=
  let tags := (s.reads.filter fun r => r.dev == dev && r.data.isNone).map (·.tag)
  let s := { s with reads := s.reads.filter fun r => !tags.contains r.tag }
  let lost (p : LoadPart) : Bool := match p.tag with
    | some k => tags.contains k
    | none => false
  let waits (l : LoadLanding) : Bool := l.data.isNone && l.parts.any lost
  s.onCores fun c =>
    let c := match c.loads.find? waits with
      | some l => { c with
        loads := c.loads.filter fun l => !waits l
        landTrap := c.landTrap.or (some { no := .page, addr := ((l.parts.find? lost).map LoadPart.va).getD 0, named := some l.pc }) }
      | none => c
    match c.frozen with
    | some .load => if c.dataReady then { c with frozen := none } else c
    | some (.reads rs) => if rs.any fun r => r.1 == dev then { c with frozen := none } else c
    | _ => c

def execSetReach (dev : Nat) (v : Bool) (s : State) : Out :=
  .next <| s.command fun s =>
    if 1024 ≤ dev then s.notify .refused
    else
      let s := { s with reach := setField s.reach dev 1 (if v then 1 else 0) }
      (if v then s else s.endReads dev).notify .ok

/-! ## QUIESCE and THAW (R399–R402) -/

/-- A walking record is written with OWN = 1 and RESUME = the chunks performed; it stays at the head of its channel (R400). -/
def parkedRecord (bs : List Byte) (resume : Nat) : List Byte :=
  let ctrl := field (leNat bs) 288 32
  bs.take 36 ++ leBytes 4 (ctrl - ctrl % 2 + 1) ++ (bs.drop 40).take 10 ++ leBytes 6 resume ++ (bs.drop 56).take 8

def State.parkChan (s : State) (c : Chan) : State :=
  match c.walk with
  | none => s
  | some w =>
    let s := match w.bytes, w.started with
      | some bs, some run => match s.aim c.agent (Xfer.of bs).chn w.va (wholeBytes (parkedRecord bs run.pos)) none with
        | .ok plan => s.emit { c.agent with key := noteKey c.agent.key } (Xfer.of bs).chn plan
        | .error _ => s
      | _, _ => s
    let at_ (h : Head) : Head := { h with va := w.va }
    let s := match w.bytes, w.started with
      | some bs, some run =>
        let sb := (Xfer.of bs).sbi
        let word := s.ringWord c sb
        if run.taken then s.setRingWord c sb (sbCounts word (SbWord.of word).filled ((SbWord.of word).free + 1)) none else s
      | _, _ => s
    { s with windows := s.windows.filter fun x => x.job != c.agent.key && x.job != bitKey c.agent.key, reads := s.reads.filter (·.core != c.agent.key) }.onChan c fun x => { x with heads := (x.heads.take 1).map at_ ++ x.heads.drop 1, walk := none }

/-- The values of attached rings go to the frames of their contexts (R269). -/
def State.parkRings (s : State) (part : Nat) : State :=
  let mine := s.rings.filter fun r => r.part == part && r.life == 0
  let s := mine.foldl (fun s r => s.hubWrite part (s.recFrame part r.cont) (0xC40 + 8 * r.sb) 8 r.word.toNat) s
  { s with rings := s.rings.filter (·.part != part) }

/-- The communicators of a partition. -/
def State.commsOf (s : State) (part : Nat) : List Nat := (s.comms.filter (·.2 == part)).map (·.1)

/-- The cut of a partition (R400 steps 3 to 8, R401). -/
def State.cutPart (s : State) (part : Nat) : State :=
  let s := (s.chans.filter (·.part == part)).foldl State.parkChan s
  let s := (s.parkRings part).flushPart part
  let s := (s.atoms.filter fun a => a.loc.peer.isNone && match a.owner with
    | .cont q _ => q == part
    | _ => false).foldl (fun s a => match a.old with
      | some (v, _) => s.deliverReply a v
      | none => s) s
  let comms := s.commsOf part
  let keys := (s.colls.filter (·.part == part)).map fun c => (s.collAgent c).key
  let s : State := { s with
    transit := s.transit.filter fun x => !comms.contains (Packet.of x.2.payload).comm
    issuing := s.issuing.filter fun x => !comms.contains (Packet.of x.2.payload).comm
    agate := s.agate.filter (·.2.1 != part)
    reads := s.reads.filter fun r => !keys.contains r.core }
  s.onPart part fun p => { p with cut := true }

/-- Is a chunk or slot of a channel in hand that can still be brought to its boundary (R400)? What waits for a core that no longer runs
the task cannot. -/
def State.inHand (s : State) (c : Chan) : Bool :=
  (((c.walk.bind (·.started)).map (·.busy)).getD false) && s.windows.all fun w =>
    !(w.job == c.agent.key || w.job == bitKey c.agent.key) || w.failed != 0 || (s.windowOpen w).isSome

/-- Is an exchange of a partition's page agent in progress: at the home or the holder, at a device that rewrites its leaf, or at a writer
(R402)? -/
def Partition.exchanging (p : Partition) : Bool :=
  !p.collapses.all (·.granted) || !p.migrations.isEmpty || !p.mail.isEmpty || !p.moving.isEmpty
    || p.holds.any fun h => h.trap.no == .wprot && !h.asked

/-- Nothing of a partition runs, no chunk of it is in hand, no exchange of its page agent is in progress, and once what may be performed is
performed every store is, and every atomic is or has left the egress (R400, R401, R402). -/
def State.cutReady (s : State) (part : Nat) : Bool :=
  !(s.allCores.any fun c => c.running && c.part == part) && !(s.chans.any fun c => c.part == part && s.inHand c)
    && (match s.part? part with
      | some p => !p.fatal && !p.exchanging
      | none => true)
    && (let t := s.flushPart part
      t.pubs.all (·.part != part) && t.egress.all (·.part != part) && t.atoms.all fun a => a.part != part || a.old.isSome || a.sent)

/-- The cut of a QUIESCE in progress, once it can be made: the images follow one another at the destination, and the command is
answered. -/
def State.finishCut (s : State) : State :=
  match s.cutting with
  | none => s
  | some (ps, dest, key) =>
    if !ps.all s.cutReady then s
    else
      let s := ps.foldl State.cutPart { s with cutting := none }
      let s := if dest = 0 then s else (ps.foldl (fun (acc : State × Nat) n =>
        match acc.1.part? n with
        | none => acc
        | some p =>
          let bs := acc.1.image p
          (acc.1.notify (.image acc.2 key bs), acc.2 + bs.length + padTo 65536 bs.length)) (s, dest)).1
      s.notify .ok

def execQuiesce (part : Nat) (dest key : Nat) (s : State) : Out :=
  .next <| s.command fun s =>
    let ps := if part = 0xFF then s.parts.map (·.no) else [part]
    if s.cutting.isSome then s.notify .busy
    else if ps.any fun n => match s.part? n with
        | some p => p.quiesced || p.swapped || p.fatal
        | none => true then s.notify .refused
    else
      let s := ps.foldl (fun s n => (s.onPart n fun p => { p with quiesced := true }).askAll n) s
      { s with cutting := some (ps, dest, key) }.finishCut

/-- A fault that a restore has left for the scheduler is taken (R407, R346). -/
def State.takeLost (s : State) (part rec : Nat) : State :=
  if s.recSt part rec = 4 ∧ s.readRec part rec 56 1 = trapCode .atomicLost then
    let s := s.atomicLost part (s.readRec part rec 20 4)
    if s.recSt part rec = 4 then s.endRec part rec 5 else s
  else s

/-- THAW (R399): as SWAP_IN, with ingress open and every timer started (R407, R408). -/
def execThaw (part : Nat) (s : State) : Out :=
  .next <| s.command fun s => match s.part? part with
  | none => s.notify .refused
  | some p =>
    if !p.quiesced || s.cutting.isSome then s.notify .refused
    else
      let s := s.onPart part fun p => { p with
        quiesced := false, cut := false, swapped := false, tasks := p.tasks.map fun t => { t with hbTimer := s.now } }
      let s : State := { s with
        slots := s.slots.map fun x => if x.part = part then { x with timer := s.now } else x
        pairs := s.pairs.map fun x => if x.part = part then { x with heard := s.now, rels := x.rels.map fun r => { r with sent := s.now } } else x
        colls := s.colls.map fun c => if c.part = part then { c with blocks := c.blocks.map fun b => { b with since := s.now } } else c }
      ((p.recs.foldl (fun s r => s.takeLost part r.1) s)).notify .ok

end Sys2Proof.Machine
end

