-- ==== Sys2Proof/Machine/Issue.lean ====
section
/-! DEFINITION. Issuing bundles: fetch (R59), the decode checks (R66), sticky slots and repeats (R72, R73), guarded
bundles (R74, R75), fused sets (R100), issue cycles (R67, R350), and the bundle's end. Parametrised by the meaning of
one op word, `exec`. -/

namespace Sys2Proof.Machine

noncomputable section

abbrev Exec := Instr → State → Host.Outcome State Fault Refusal

/-! ## Fetch (R59, R108) -/

inductive Fetched where
  | ok (b : Bundle)
  | trap (t : Trap)
  | transit (va : Nat)

def Fetched.ofTrap (t : Trap) : Fetched := if inTransit t then .transit t.addr else .trap t

/-- Fetch and decode the bundle at the acting core's address (R56–R59, checks 1 to 3 of Table 4-6). -/
def State.fetch (s : State) : Fetched :=
  let c := s.core
  match s.peekWord c.part c.pc with
  | .error t => .ofTrap t
  | .ok w =>
    match decodeHeader w with
    | .error _ => .trap { no := .illegal }
    | .ok h =>
      match s.readVa c.part .exec c.pc (4 * h.wc) with
      | .error t => .ofTrap t
      | .ok bs =>
        match decodeBytes bs with
        | .ok b => .ok b
        | .error _ => .trap { no := .illegal }

/-! ## The op words of one issue (R58, R72, R73) -/

/-- One op word with the slot number and what its context gives it. -/
structure Todo where
  slot : Nat
  op : SlotOp
  scope : Nat
  off : Int

def slotNo : Sys2Proof.Slot → Nat
  | .i1 => 0 | .i2 => 1 | .m1 => 2 | .m2 => 3 | .v1 => 4 | .v2 => 5 | .x => 6 | .e => 7

def emptySticky : Sticky := ⟨none, 0, 0⟩

/-- The slots M1, M2, V1, V2 and X keep histories 0 to 4 (R72). -/
def stickySlot (k : Nat) : Bool := decide (2 ≤ k) && decide (k ≤ 6)

def isTzero : Instr → Bool
  | .tzero .. => true
  | _ => false

/-- A repetition of a bundle is about to issue for the first time. -/
def Core.opening (c : Core) : Bool := c.done == 0 && !c.gated

/-- Decoding an op word for a sticky slot replaces its history and sets its offset to 0 (R72): at the first issue of a bundle,
before its checks (log entry 24). What a TZERO of the bundle must not see of it is kept here (R168). -/
def Core.decoded (c : Core) (b : Bundle) : Core :=
  if c.rep = 0 ∧ c.opening then
    let c := { c with hist := b.ops.foldl (fun h (o : SlotOp) =>
        let k := slotNo o.slot
        if stickySlot k then bankSet emptySticky h (k - 2) ⟨some o.word, b.scope, 0⟩ else h) c.hist }
    { c with start := if b.ops.any (fun o => isTzero o.instr) || b.header.stk then some (c.issued, c.snapshot) else none }
  else c

/-- The op words of a bundle for the current repetition, in mask order (R58, R73). -/
def Core.todos (c : Core) (b : Bundle) : List Todo :=
  if b.header.stk then
    (List.range 8).filterMap fun k =>
      if stickySlot k then
        let h := bankGet emptySticky c.hist (k - 2)
        (h.op.bind OpWord.read).map fun o => ⟨k, o, h.scope, h.off⟩
      else (b.ops.find? fun o => slotNo o.slot == k).map fun o => ⟨k, o, b.scope, 0⟩
  else b.ops.map fun o => ⟨slotNo o.slot, o, b.scope, 0⟩

/-- Do two op words write one register (R62)? -/
def conflict : List Todo → Bool
  | [] => false
  | t :: r =>
    let ws := writesOf t.off t.op.instr
    (r.any fun u => (writesOf u.off u.op.instr).any ws.contains) || conflict r

/-- Is the operand that advances with the sticky offset in its range (R60, R73, R172, R176, R185)? -/
def Todo.inRange (t : Todo) : Bool :=
  let within (n : Nat) (k : Nat) : Bool := decide (0 ≤ (n : Int) + t.off) && decide ((n : Int) + t.off ≤ k)
  match t.op.instr with
  | .tmma _ seg _ _ _ | .tmsr _ seg _ _ _ => within seg 9
  | .tdrainVector _ row _ _ | .twr _ _ _ _ row _ | .trdr _ _ _ _ row _ => within row 127
  | .trdc _ _ _ col _ => within col 1023
  | _ => true

/-- Checks 4 to 6 of Table 4-6, with check 2 for the operands that have advanced, at the first issue of a repetition (R73, R74). -/
def Core.bundleTrap (c : Core) (b : Bundle) : Option TrapNo :=
  if !c.opening then none
  else if !(c.todos b).all Todo.inRange || conflict (c.todos b) then some .illegal
  else if b.orphan then some .prefixOrphan
  else if b.header.stk && (List.range 5).any (fun k => (bankGet emptySticky c.hist k).op.isNone) then some .illegal
  else none

def Core.guardOpen (c : Core) (t : Todo) : Bool :=
  match t.op.pfx.guard with
  | some f => c.flag f
  | none => true

/-- The order in which the op words of an issue act. SPAWN publishes what was issued before its bundle (R94). TZERO takes its snapshot before any write of its bundle and opens
the group for all of it (R168, R169); CTLW to CTL.FSTAT applies before the flags that its bundle raises (R104); FENCE
concerns what was issued before its bundle (R135); a TDRAIN that may close the group comes last, its bundle being inside
the group (R169). All others act in mask order (R110). -/
def actingOrder (inside : Bool) (ts : List Todo) : List Todo :=
  let rank (t : Todo) : Nat := match t.op.instr with
    | .tzero .. => 0
    | .ctlw 0 _ | .fence _ | .spawn .. => 1
    | .tdrainTile .. | .tdrainVector .. | .tdrainMemory .. => if inside then 3 else 2
    | .trap _ | .brk _ => 4
    | _ => 2
  [0, 1, 2, 3, 4].flatMap fun k => ts.filter fun t => rank t == k

def maskOf (ts : List Todo) : Nat := ts.foldl (fun m t => m ||| 2 ^ t.slot) 0

/-- What the acting op word reads besides its operands. -/
def Core.withCtx (c : Core) (b : Bundle) (all : List Todo) (t : Todo) : Core :=
  { c with
    ctx := { slot := t.slot, rnd := t.op.pfx.rnd.getD 0, sat := t.op.pfx.sat, scope := t.scope, off := t.off
             wc := b.header.wc, rep := b.header.rep, full := c.done ||| 2 ^ t.slot == maskOf all, opens := all.any fun t => isTzero t.op.instr }
    waiting := false }

/-- The op word has executed: it joins the done mask, and a sticky slot's offset advances (R73, R74). -/
def Core.executed (c : Core) (b : Bundle) (t : Todo) (step : Int) : Core :=
  let c := { c with done := c.done ||| 2 ^ t.slot }
  if b.header.stk && stickySlot t.slot then
    let h := bankGet emptySticky c.hist (t.slot - 2)
    { c with hist := bankSet emptySticky c.hist (t.slot - 2) { h with off := h.off + step } }
  else c

/-- TRAP and BREAK raise their trap after the other slots have acted (R102). -/
def raisesLate : Instr → Bool
  | .trap _ | .brk _ => true
  | _ => false

/-- What the op words of one issue did. -/
inductive Ran where
  | acted (s : State) (n : Nat)
  | trapped (t : Trap)
  | took (s : State)
  | froze (f : Freeze)
  | stopped (o : Host.Outcome State Fault Refusal)

/-- An instruction of which a bundle sets CTL.SAFECNT to 0 at its issue (R350). -/
def isSafePoint : Instr → Bool
  | .safe _ | .join _ | .suspend _ _ | .yield _ => true
  | _ => false

/-- Does a bundle hold one, guarded or not? -/
def holdsSafe (b : Bundle) : Bool := b.ops.any fun o => isSafePoint o.instr

/-- Run op words in order. A trap or a freeze of one undoes the others (R71); one that waits stays outside the done
mask (R74). -/
def runOps (exec : Exec) (b : Bundle) (all : List Todo) : List Todo → State → Nat → Ran
  | [], s, n => .acted s n
  | t :: r, s, n =>
    let step := s.core.rstep (t.slot - 2)
    match exec t.op.instr { s with core := s.core.withCtx b all t, trapTaken := none } with
    | .next s' =>
      match s'.trapTaken with
      | some tr => if raisesLate t.op.instr then .took s' else .trapped tr
      | none =>
        match s'.core.frozen with
        | some f => .froze f
        | none =>
          if s'.core.waiting then
            runOps exec b all r { s' with core := { s'.core with waiting := false, waited := s'.core.waited ||| 2 ^ t.slot } } n
          else
            runOps exec b all r { s' with core := s'.core.executed b t step } (n + 1)
    | o => .stopped o

/-- The guard flag that an op word reads. -/
def Todo.guards (t : Todo) : List Reg := t.op.pfx.guard.toList.map .fl

/-- One issue of a bundle on the acting core: what may execute now does (R68, R74, R350). Of several traps X_EARLY_READ comes
first, then X_SAFE_DISTANCE, then those of the slots in mask order (log entry 24). X_SAFE_DISTANCE is due where this issue
counts: always at the first, and later where an op word executes. -/
def State.runMember (exec : Exec) (b : Bundle) (s : State) : Ran :=
  let c := s.core
  let all := c.todos b
  let left := all.filter fun t => !hasBit c.done t.slot
  let go := left.filter c.guardOpen
  let far := decide (4096 ≤ c.safecnt) && !holdsSafe b
  let late : Trap := { no := .safeDistance }
  if c.mode.getLsbD 0 && c.readsEarly (left.flatMap Todo.guards ++ go.flatMap fun t => readsOf t.off t.op.instr) then .trapped { no := .earlyRead }
  else if far && !c.gated then .trapped late
  else match runOps exec b all (actingOrder (c.group.isSome || c.closed) go) s 0 with
    | .acted s' n => if far && n != 0 then .trapped late else .acted s' n
    | .trapped t =>
      if far then .trapped late
      else match runOps exec b all go s 0 with
        | .trapped u => .trapped u
        | _ => .trapped t
    | .took s' => if far then .trapped late else .took s'
    | r => r

/-! ## The crew: the acting core, or the members of its fused set (R99, R100) -/

/-- Who issues with the acting core: itself until its FUSE bundle has retired, then its whole set; none while another
member has still to retire its own or to be picked up (R99, R230). -/
def State.crew (s : State) : List Nat :=
  match s.core.fused with
  | none => [s.core.phys]
  | some f =>
    if s.core.fuseArrived.isSome then [s.core.phys]
    else
      let ns := fusedSet f.size s.core.phys
      if ns.all fun k => let c := s.coreOf k
          c.running && c.fuseArrived.isNone && (c.fused.map (·.lead)) == some f.lead then ns
      else []

/-- The members of a crew stand at the bundle of the first, the lead (R100). -/
def State.gather (s : State) (crew : List Nat) : State :=
  let c := s.coreOf (crew.headD s.core.phys)
  (crew.foldl (fun s k => s.onCoreN k fun d => { d with pc := c.pc, rep := c.rep, current := c.current }) s).focus c.phys

/-- An issue cycle of one core ends: counts run down, CTL.SAFECNT counts (R75, R350). -/
def Core.issueCycle (c : Core) (safe : Bool) : Core :=
  { c.countDown with safecnt := if safe then 0 else c.safecnt + 1, flChanged := false, requeue := false }

/-- Whether the done mask of a member is full for a bundle. -/
def Core.maskFull (c : Core) (b : Bundle) : Bool := (maskOf (c.todos b) &&& c.done) == maskOf (c.todos b)

/-- What the last repetition of a safe point asks for stands only where pre-emption or X_OVERRUN is due (R92, R344); a
fused set is decoupled here (R101). -/
def State.leaveAtRetire (s : State) : State :=
  match s.core.leave with
  | some (.preempt _) =>
    if s.preempting || (s.memberWhere State.overrunHere).isSome then s else s.onCore fun c => { c with leave := none }
  | some .decouple => s.onCore fun c => { c with leave := none, fused := none, lastFused := c.fused }
  | _ => s

/-- Instructions that end their core's phase as PH does (R94, R191). -/
def endsPhase : Instr → Bool
  | .spawn .. | .cpost .. | .dcfg .. | .coll .. | .frel .. | .tpost .. => true
  | _ => false

/-- The safe point that a bundle made stands once its last repetition has issued (R92, R219). -/
def Core.pointed (c : Core) : Core :=
  match c.point with
  | some (idx, live) => { c with safeIdx := idx, saved := live, written := LiveMask.none, point := none }
  | none => c

/-- An op word whose wait is a progress event when it ends (R360). -/
def gatedWait : Instr → Bool
  | .waita .. | .fence _ | .bar _ | .flwait .. | .sbacq .. | .cwait .. | .vldxWait _ => true
  | _ => false

/-- Does the end of a bundle's repetition end a gated wait (R360): of one of those op words, or of a guarded one? -/
def Core.progressed (c : Core) (b : Bundle) : Bool :=
  c.gated && (c.todos b).any fun t => (hasBit c.waited t.slot && gatedWait t.op.instr) || t.op.pfx.guard.isSome

/-- A write that waits for the end of the whole bundle: FMTSET's (R106). -/
def atBundleEnd : RegWrite → Bool
  | .fmt .. => true
  | _ => false

/-- The writes that a bundle's retirement makes, or the end of one of its repetitions: they stand over what lands at the same
boundary (R54, R70). -/
def Core.lateWrites (c : Core) (last : Bool) : Core :=
  let ws := c.late.filter fun w => last || !atBundleEnd w
  { c.writes ws with
    late := c.late.filter fun w => !last && atBundleEnd w
    here := if ws.isEmpty then c.here else insertSeq (c.issued, ws) c.here }

/-- The end of one repetition, or of the bundle, on the acting core (R67, R73, R133); the lead decides a branch. A repetition
before the last makes no safe point (R92). -/
def State.endRepetition (b : Bundle) (branch : Option Nat) (s : State) : State :=
  let c := s.core
  let last := branch.isSome || c.rep == b.header.rep
  let s := s.onCore fun c => { c.lateWrites last with coreTimer := if c.progressed b then s.now else c.coreTimer }
  if last then
    let s := s.onCore fun c => { c.pointed with
      pc := branch.getD ((c.pc + 4 * b.header.wc) % 2 ^ 64), rep := 0, done := 0, current := none, gated := false, branch := none
      closed := false, start := none
      bubble := branch.isSome, waited := 0, released := [], fuseArrived := none, stall := none }
    let s := s.leaveAtRetire
    if b.header.ph || b.ops.any (fun o => endsPhase o.instr) then s.phaseStart 0 else s
  else s.onCore fun c => { c with
    rep := c.rep + 1, done := 0, current := some b, gated := false, branch := none, closed := false, start := none, leave := none, point := none, waited := 0
    released := [], stall := none }

/-- Run one issue on every member in turn, from the state at the issue. -/
def runCrew (exec : Exec) (b : Bundle) (s0 : State) : List Nat → State → Nat → Ran
  | [], s, n => .acted s n
  | k :: r, s, n =>
    match (s.focus k).runMember exec b with
    | .acted s' m => runCrew exec b s0 r s' (n + m)
    | .trapped t => .took ((s0.focus k).takeTrap t)
    | .took _ => match (s0.focus k).runMember exec b with
      | .took s' => .took s'
      | x => x
    | .froze f => .took ((s0.focus k).freeze f)
    | .stopped o => .stopped o

/-- Apply a change to each of a list of cores in turn, then act on the first again. -/
def State.each (s : State) (ns : List Nat) (f : State → State) : State :=
  (ns.foldl (fun s n => f (s.focus n)) s).focus (ns.headD s.core.phys)

/-- Issue the bundle at the acting core's address, or reissue it (R66–R75, R100). -/
def State.issueBundle (exec : Exec) (b : Bundle) (s : State) : Host.Outcome State Fault Refusal :=
  let crew := s.crew
  let s := s.each crew fun s => s.onCore (·.decoded b)
  match crew.findSome? fun k => ((s.coreOf k).bundleTrap b).map fun t => (k, t) with
  | some (k, t) => .next ((s.focus k).takeTrap { no := t })
  | none =>
    match runCrew exec b s crew s 0 with
    | .acted s' n =>
      let s' := s'.focus (crew.headD s'.core.phys)
      if n = 0 ∧ s'.core.gated ∧ !(crew.all fun k => (s'.coreOf k).maskFull b) then
        .next (s'.each crew fun s => s.onCore fun c => { c with gated := true, flChanged := false, requeue := false })
      else
        let s' := s'.each crew fun s => s.dropUsed.onCore (·.issueCycle (holdsSafe b))
        if crew.all fun k => (s'.coreOf k).maskFull b then
          let branch := s'.core.branch
          .next (s'.each crew (State.endRepetition b branch))
        else .next (s'.each crew fun s => s.onCore fun c => { c with gated := true, current := some b })
    | .trapped t => .next (s.takeTrap t)
    | .took s' => .next s'
    | .froze f => .next (s.freeze f)
    | .stopped o => o

/-- A fetch of a poisoned block is fatal to its partition (R392). -/
def State.fetchPoison (s : State) (b : Bundle) : State :=
  if s.poisoned.isEmpty then s
  else
    let s := match s.corePoison s.core.phys s.core.part (va52 s.core.pc) with
      | some a => s.poisonRead a 8
      | none => s
    s.poisonRange s.core.part .exec s.core.pc (4 * b.header.wc)

/-- Fetch and issue, from the lead's address (R59, R100). A bundle that has issued is not fetched again (R74). -/
def State.issue (exec : Exec) (s : State) : Host.Outcome State Fault Refusal :=
  let s := s.gather s.crew
  match s.core.current with
  | some b => s.issueBundle exec b
  | none => match s.fetch with
  | .trap t => .next (s.takeTrap t)
  | .transit va => .next (s.freeze (.transit va))
  | .ok b =>
    let s := s.fetchPoison b
    if s.core.running then s.issueBundle exec b else .next s

/-- The trap of the next bundle, if its issue takes one before its op words act: at a safe point it comes before X_OVERRUN and
pre-emption (R66, R359). -/
def State.nextTrap (exec : Exec) (s : State) : Option State :=
  match ({ s with trapTaken := none }.each s.crew fun s => s.onCore fun c => { c with leave := none }).issue exec with
  | .next t => match t.trapTaken with
    | some tr => if tr.no = .syscall ∨ tr.no = .brk then none else some t
    | none => none
  | _ => none

end

end Sys2Proof.Machine
end

