-- ==== Sys2Proof/Machine/Power.lean ====
section
/-! DEFINITION. Rails, power, bring-up, identity (R410–R415). -/

namespace Sys2Proof.Machine

/-! ## Rails (R410, R412) -/

/-- Every rail is down: the module holds no state. What stands for the outside world goes on. -/
def State.powerOff (s : State) : State := { State.reset with fresh := s.fresh, agenda := s.agenda, turn := s.turn, pace := s.pace, settings := s.settings }

def execRailLoss (s : State) : Out := .next s.powerOff

/-- Bring-up (Table 25-2): a firmware image whose signature fails stops it at step 2; else the module runs, no peer is reachable,
every event count starts at 0, and the management VLAN is set (R384). -/
def execBringUp (fw : Firmware) (devId vlan : Nat) (s : State) : Out :=
  .next <| if s.rails || s.boot != 0 then s
  else if !fw.signed then { s with boot := 2 }
  else { s with rails := true, boot := 1, firmware := fw.digest % 2 ^ 256, devId := devId % 1024, reach := 0, events := [], mgmtVlan := some vlan }

/-! ## Power (R411) -/

def execSetPowerLimit (watts : Nat) (s : State) : Out :=
  .next <| s.command fun s => if 400 ≤ watts ∧ watts ≤ 1600 then { s with powerLimit := watts }.notify .ok else s.notify .refused

/-- A measurement steps the core clock by 100 MHz; at 110 °C every rail goes off. -/
def execPowerMeasurement (watts temp : Nat) (s : State) : Out :=
  .next <| if !s.rails then s
  else if 110 ≤ temp then s.powerOff
  else
    let clock := if s.powerLimit < watts ∨ 95 < temp then max 7 (s.cclk - 1)
      else if watts < s.powerLimit ∧ temp < 95 then min 14 (s.cclk + 1) else s.cclk
    { s with power := watts % 2 ^ 16, temp := temp, cclk := clock }

/-- The telemetry register (Table 25-4). -/
def State.sideband (s : State) : Nat := s.power * 2 ^ 48 + s.temp % 2 ^ 8 * 2 ^ 40 + s.cclk * 2 ^ 32 + s.boot * 2 ^ 28

/-! ## Identity (R413) -/

/-- What an attestation report covers: nonce, device ID, certificate, measurements of boot code and firmware, health record. -/
def State.attested (s : State) (nonce : List Byte) : List Byte :=
  nonce ++ leBytes 2 s.devId ++ Config.certificate ++ fitBytes 32 (Config.digest Config.bootCode) ++ leBytes 32 s.firmware ++ leBytes 32 s.health

def execAttest (nonce : List Byte) (s : State) : Out :=
  .next <| s.command fun s =>
    let r := s.attested nonce
    s.notify (.report (r ++ fitBytes 7856 (Config.sign (fitBytes 32 (Config.digest r)))))

def execSetTrust (install : Bool) (key : List Byte) (s : State) : Out :=
  .next <| s.command fun s =>
    if !install then { s with trusted := s.trusted.filter (· != key) }.notify .ok
    else if 16 ≤ s.trusted.length then s.notify .refused
    else if s.trusted.contains key then s.notify .ok
    else { s with trusted := s.trusted ++ [key] }.notify .ok

end Sys2Proof.Machine
end

