-- ==== Sys2Proof/Machine/Dispatch.lean ====
section
/-! DEFINITION. The dispatch: one arm per constructor of `Instr`, each one call of its meaning. -/

namespace Sys2Proof.Machine

def exec (i : Instr) (s : State) : Host.Outcome State Fault Refusal :=
  match i with
  | .add d a b => Sys2Proof.Machine.execAdd d a b s
  | .sub d a b => Sys2Proof.Machine.execSub d a b s
  | .mul d a b => Sys2Proof.Machine.execMul d a b s
  | .mulh d a b => Sys2Proof.Machine.execMulh d a b s
  | .mulhu d a b => Sys2Proof.Machine.execMulhu d a b s
  | .div d a b => Sys2Proof.Machine.execDiv d a b s
  | .divu d a b => Sys2Proof.Machine.execDivu d a b s
  | .rem d a b => Sys2Proof.Machine.execRem d a b s
  | .remu d a b => Sys2Proof.Machine.execRemu d a b s
  | .and d a b => Sys2Proof.Machine.execAnd d a b s
  | .or d a b => Sys2Proof.Machine.execOr d a b s
  | .xor d a b => Sys2Proof.Machine.execXor d a b s
  | .andn d a b => Sys2Proof.Machine.execAndn d a b s
  | .shl d a b => Sys2Proof.Machine.execShl d a b s
  | .shr d a b => Sys2Proof.Machine.execShr d a b s
  | .sra d a b => Sys2Proof.Machine.execSra d a b s
  | .rotr d a b => Sys2Proof.Machine.execRotr d a b s
  | .clz d a => Sys2Proof.Machine.execClz d a s
  | .ctz d a => Sys2Proof.Machine.execCtz d a s
  | .popc d a => Sys2Proof.Machine.execPopc d a s
  | .min d a b => Sys2Proof.Machine.execMin d a b s
  | .max d a b => Sys2Proof.Machine.execMax d a b s
  | .minu d a b => Sys2Proof.Machine.execMinu d a b s
  | .maxu d a b => Sys2Proof.Machine.execMaxu d a b s
  | .seq d a b => Sys2Proof.Machine.execSeq d a b s
  | .slt d a b => Sys2Proof.Machine.execSlt d a b s
  | .sltu d a b => Sys2Proof.Machine.execSltu d a b s
  | .sext d a f => Sys2Proof.Machine.execSext d a f s
  | .zext d a f => Sys2Proof.Machine.execZext d a f s
  | .sel d a b c => Sys2Proof.Machine.execSel d a b c s
  | .bfx d a pos len sx => Sys2Proof.Machine.execBfx d a pos len sx s
  | .bfi d a b pos len => Sys2Proof.Machine.execBfi d a b pos len s
  | .addi d a imm => Sys2Proof.Machine.execAddi d a imm s
  | .andi d a imm => Sys2Proof.Machine.execAndi d a imm s
  | .ori d a imm => Sys2Proof.Machine.execOri d a imm s
  | .xori d a imm => Sys2Proof.Machine.execXori d a imm s
  | .shli d a imm => Sys2Proof.Machine.execShli d a imm s
  | .shri d a imm => Sys2Proof.Machine.execShri d a imm s
  | .srai d a imm => Sys2Proof.Machine.execSrai d a imm s
  | .addiLong d a imm => Sys2Proof.Machine.execAddiLong d a imm s
  | .andiLong d a imm => Sys2Proof.Machine.execAndiLong d a imm s
  | .oriLong d a imm => Sys2Proof.Machine.execOriLong d a imm s
  | .xoriLong d a imm => Sys2Proof.Machine.execXoriLong d a imm s
  | .shliLong d a imm => Sys2Proof.Machine.execShliLong d a imm s
  | .shriLong d a imm => Sys2Proof.Machine.execShriLong d a imm s
  | .sraiLong d a imm => Sys2Proof.Machine.execSraiLong d a imm s
  | .movi d md imm => Sys2Proof.Machine.execMovi d md imm s
  | .moviHi d imm => Sys2Proof.Machine.execMoviHi d imm s
  | .step slot src a imm => Sys2Proof.Machine.execStep slot src a imm s
  | .beq a b off => Sys2Proof.Machine.execBeq a b off s
  | .bne a b off => Sys2Proof.Machine.execBne a b off s
  | .blt a b off => Sys2Proof.Machine.execBlt a b off s
  | .bge a b off => Sys2Proof.Machine.execBge a b off s
  | .bltu a b off => Sys2Proof.Machine.execBltu a b off s
  | .bgeu a b off => Sys2Proof.Machine.execBgeu a b off s
  | .bpany p lc off => Sys2Proof.Machine.execBpany p lc off s
  | .bpnone p lc off => Sys2Proof.Machine.execBpnone p lc off s
  | .jmp off => Sys2Proof.Machine.execJmp off s
  | .jmpi a => Sys2Proof.Machine.execJmpi a s
  | .call a off => Sys2Proof.Machine.execCall a off s
  | .calli a b => Sys2Proof.Machine.execCalli a b s
  | .ret a => Sys2Proof.Machine.execRet a s
  | .loop a off => Sys2Proof.Machine.execLoop a off s
  | .beqLong a b off => Sys2Proof.Machine.execBeqLong a b off s
  | .bneLong a b off => Sys2Proof.Machine.execBneLong a b off s
  | .bltLong a b off => Sys2Proof.Machine.execBltLong a b off s
  | .bgeLong a b off => Sys2Proof.Machine.execBgeLong a b off s
  | .bltuLong a b off => Sys2Proof.Machine.execBltuLong a b off s
  | .bgeuLong a b off => Sys2Proof.Machine.execBgeuLong a b off s
  | .bpanyLong p lc off => Sys2Proof.Machine.execBpanyLong p lc off s
  | .bpnoneLong p lc off => Sys2Proof.Machine.execBpnoneLong p lc off s
  | .jmpLong off => Sys2Proof.Machine.execJmpLong off s
  | .callLong a off => Sys2Proof.Machine.execCallLong a off s
  | .loopLong a off => Sys2Proof.Machine.execLoopLong a off s
  | .phase => Sys2Proof.Machine.execPhase s
  | .ldb d a land off => Sys2Proof.Machine.execLdb d a land off s
  | .ldbs d a land off => Sys2Proof.Machine.execLdbs d a land off s
  | .ldh d a land off => Sys2Proof.Machine.execLdh d a land off s
  | .ldhs d a land off => Sys2Proof.Machine.execLdhs d a land off s
  | .ldw d a land off => Sys2Proof.Machine.execLdw d a land off s
  | .ldws d a land off => Sys2Proof.Machine.execLdws d a land off s
  | .ldd d a land off => Sys2Proof.Machine.execLdd d a land off s
  | .stb d a chn off => Sys2Proof.Machine.execStb d a chn off s
  | .sth d a chn off => Sys2Proof.Machine.execSth d a chn off s
  | .stw d a chn off => Sys2Proof.Machine.execStw d a chn off s
  | .std d a chn off => Sys2Proof.Machine.execStd d a chn off s
  | .vld d a land off => Sys2Proof.Machine.execVld d a land off s
  | .vst d a chn off => Sys2Proof.Machine.execVst d a chn off s
  | .vldp land pt d => Sys2Proof.Machine.execVldp land pt d s
  | .vldpSet land pt a => Sys2Proof.Machine.execVldpSet land pt a s
  | .vstp chn pt d => Sys2Proof.Machine.execVstp chn pt d s
  | .vstpSave pt a => Sys2Proof.Machine.execVstpSave pt a s
  | .vgth esz ix a d land px => Sys2Proof.Machine.execVgth esz ix a d land px s
  | .vsct esz ix a d px chn => Sys2Proof.Machine.execVsct esz ix a d px chn s
  | .tld bo t f a land => Sys2Proof.Machine.execTld bo t f a land s
  | .tst bo t f a chn => Sys2Proof.Machine.execTst bo t f a chn s
  | .prf cnt a lv off => Sys2Proof.Machine.execPrf cnt a lv off s
  | .spin n a => Sys2Proof.Machine.execSpin n a s
  | .sprel n a => Sys2Proof.Machine.execSprel n a s
  | .aadd o => Sys2Proof.Machine.execAadd o s
  | .afadd o => Sys2Proof.Machine.execAfadd o s
  | .axchg o => Sys2Proof.Machine.execAxchg o s
  | .acas o => Sys2Proof.Machine.execAcas o s
  | .aand o => Sys2Proof.Machine.execAand o s
  | .aor o => Sys2Proof.Machine.execAor o s
  | .axor o => Sys2Proof.Machine.execAxor o s
  | .amin o => Sys2Proof.Machine.execAmin o s
  | .amax o => Sys2Proof.Machine.execAmax o s
  | .aminu o => Sys2Proof.Machine.execAminu o s
  | .amaxu o => Sys2Proof.Machine.execAmaxu o s
  | .afmin o => Sys2Proof.Machine.execAfmin o s
  | .afmax o => Sys2Proof.Machine.execAfmax o s
  | .waita sz a d b off => Sys2Proof.Machine.execWaita sz a d b off s
  | .wake sz b a => Sys2Proof.Machine.execWake sz b a s
  | .vadd o => Sys2Proof.Machine.execVadd o s
  | .vsub o => Sys2Proof.Machine.execVsub o s
  | .vmul o => Sys2Proof.Machine.execVmul o s
  | .vmulh o => Sys2Proof.Machine.execVmulh o s
  | .vmad o => Sys2Proof.Machine.execVmad o s
  | .vmin o => Sys2Proof.Machine.execVmin o s
  | .vmax o => Sys2Proof.Machine.execVmax o s
  | .vabs o => Sys2Proof.Machine.execVabs o s
  | .vneg o => Sys2Proof.Machine.execVneg o s
  | .vand o => Sys2Proof.Machine.execVand o s
  | .vor o => Sys2Proof.Machine.execVor o s
  | .vxor o => Sys2Proof.Machine.execVxor o s
  | .vnot o => Sys2Proof.Machine.execVnot o s
  | .vshl o => Sys2Proof.Machine.execVshl o s
  | .vshr o => Sys2Proof.Machine.execVshr o s
  | .vsra o => Sys2Proof.Machine.execVsra o s
  | .vcmp o => Sys2Proof.Machine.execVcmp o s
  | .vsel o => Sys2Proof.Machine.execVsel o s
  | .vpopc o => Sys2Proof.Machine.execVpopc o s
  | .vclz o => Sys2Proof.Machine.execVclz o s
  | .vaddLong o => Sys2Proof.Machine.execVaddLong o s
  | .vsubLong o => Sys2Proof.Machine.execVsubLong o s
  | .vmulLong o => Sys2Proof.Machine.execVmulLong o s
  | .vmulhLong o => Sys2Proof.Machine.execVmulhLong o s
  | .vminLong o => Sys2Proof.Machine.execVminLong o s
  | .vmaxLong o => Sys2Proof.Machine.execVmaxLong o s
  | .vabsLong o => Sys2Proof.Machine.execVabsLong o s
  | .vnegLong o => Sys2Proof.Machine.execVnegLong o s
  | .vandLong o => Sys2Proof.Machine.execVandLong o s
  | .vorLong o => Sys2Proof.Machine.execVorLong o s
  | .vxorLong o => Sys2Proof.Machine.execVxorLong o s
  | .vnotLong o => Sys2Proof.Machine.execVnotLong o s
  | .vshlLong o => Sys2Proof.Machine.execVshlLong o s
  | .vshrLong o => Sys2Proof.Machine.execVshrLong o s
  | .vsraLong o => Sys2Proof.Machine.execVsraLong o s
  | .vpopcLong o => Sys2Proof.Machine.execVpopcLong o s
  | .vclzLong o => Sys2Proof.Machine.execVclzLong o s
  | .vfadd o => Sys2Proof.Machine.execVfadd o s
  | .vfsub o => Sys2Proof.Machine.execVfsub o s
  | .vfmul o => Sys2Proof.Machine.execVfmul o s
  | .vfma o => Sys2Proof.Machine.execVfma o s
  | .vfmin o => Sys2Proof.Machine.execVfmin o s
  | .vfmax o => Sys2Proof.Machine.execVfmax o s
  | .vfabs o => Sys2Proof.Machine.execVfabs o s
  | .vfneg o => Sys2Proof.Machine.execVfneg o s
  | .vfcmp o => Sys2Proof.Machine.execVfcmp o s
  | .vfdiv o => Sys2Proof.Machine.execVfdiv o s
  | .vfsqrt o => Sys2Proof.Machine.execVfsqrt o s
  | .vrcp o => Sys2Proof.Machine.execVrcp o s
  | .vrsq o => Sys2Proof.Machine.execVrsq o s
  | .vexp2 o => Sys2Proof.Machine.execVexp2 o s
  | .vlog2 o => Sys2Proof.Machine.execVlog2 o s
  | .vtanh o => Sys2Proof.Machine.execVtanh o s
  | .vfaddLong o => Sys2Proof.Machine.execVfaddLong o s
  | .vfsubLong o => Sys2Proof.Machine.execVfsubLong o s
  | .vfmulLong o => Sys2Proof.Machine.execVfmulLong o s
  | .vfminLong o => Sys2Proof.Machine.execVfminLong o s
  | .vfmaxLong o => Sys2Proof.Machine.execVfmaxLong o s
  | .vfabsLong o => Sys2Proof.Machine.execVfabsLong o s
  | .vfnegLong o => Sys2Proof.Machine.execVfnegLong o s
  | .vfdivLong o => Sys2Proof.Machine.execVfdivLong o s
  | .vfsqrtLong o => Sys2Proof.Machine.execVfsqrtLong o s
  | .vrcpLong o => Sys2Proof.Machine.execVrcpLong o s
  | .vrsqLong o => Sys2Proof.Machine.execVrsqLong o s
  | .vexp2Long o => Sys2Proof.Machine.execVexp2Long o s
  | .vlog2Long o => Sys2Proof.Machine.execVlog2Long o s
  | .vtanhLong o => Sys2Proof.Machine.execVtanhLong o s
  | .vcvt o => Sys2Proof.Machine.execVcvt o s
  | .vqnt o => Sys2Proof.Machine.execVqnt o s
  | .vdqnt o => Sys2Proof.Machine.execVdqnt o s
  | .vi2f o => Sys2Proof.Machine.execVi2f o s
  | .vf2i o => Sys2Proof.Machine.execVf2i o s
  | .vperm o => Sys2Proof.Machine.execVperm o s
  | .vshuf o => Sys2Proof.Machine.execVshuf o s
  | .vslide o => Sys2Proof.Machine.execVslide o s
  | .vbcast o => Sys2Proof.Machine.execVbcast o s
  | .vext o => Sys2Proof.Machine.execVext o s
  | .vins o => Sys2Proof.Machine.execVins o s
  | .vcmpr o => Sys2Proof.Machine.execVcmpr o s
  | .vexpd o => Sys2Proof.Machine.execVexpd o s
  | .vslideLong o => Sys2Proof.Machine.execVslideLong o s
  | .vbcastLong o => Sys2Proof.Machine.execVbcastLong o s
  | .vextLong o => Sys2Proof.Machine.execVextLong o s
  | .vinsLong o => Sys2Proof.Machine.execVinsLong o s
  | .vcmprLong o => Sys2Proof.Machine.execVcmprLong o s
  | .vexpdLong o => Sys2Proof.Machine.execVexpdLong o s
  | .vrsum o => Sys2Proof.Machine.execVrsum o s
  | .vrfsum o => Sys2Proof.Machine.execVrfsum o s
  | .vrmax o => Sys2Proof.Machine.execVrmax o s
  | .vrmin o => Sys2Proof.Machine.execVrmin o s
  | .vscan o => Sys2Proof.Machine.execVscan o s
  | .vrsumLong o => Sys2Proof.Machine.execVrsumLong o s
  | .vrfsumLong o => Sys2Proof.Machine.execVrfsumLong o s
  | .vrmaxLong o => Sys2Proof.Machine.execVrmaxLong o s
  | .vrminLong o => Sys2Proof.Machine.execVrminLong o s
  | .vscanLong o => Sys2Proof.Machine.execVscanLong o s
  | .pand d a b => Sys2Proof.Machine.execPand d a b s
  | .por d a b => Sys2Proof.Machine.execPor d a b s
  | .pxor d a b => Sys2Proof.Machine.execPxor d a b s
  | .pnot d a => Sys2Proof.Machine.execPnot d a s
  | .pandn d a b => Sys2Proof.Machine.execPandn d a b s
  | .pcnt lc r a => Sys2Proof.Machine.execPcnt lc r a s
  | .pfirst lc r a => Sys2Proof.Machine.execPfirst lc r a s
  | .psetn lc r d => Sys2Proof.Machine.execPsetn lc r d s
  | .pmov d a => Sys2Proof.Machine.execPmov d a s
  | .tzero mk fb fa set => Sys2Proof.Machine.execTzero mk fb fa set s
  | .tmma nv seg tb ta set => Sys2Proof.Machine.execTmma nv seg tb ta set s
  | .tmsr nv seg tb ta set => Sys2Proof.Machine.execTmsr nv seg tb ta set s
  | .tdrainTile f bo r set => Sys2Proof.Machine.execTdrainTile f bo r set s
  | .tdrainVector f row r set => Sys2Proof.Machine.execTdrainVector f row r set s
  | .tdrainMemory f r set sc chn off => Sys2Proof.Machine.execTdrainMemory f r set sc chn off s
  | .twr cv bq f v row tr => Sys2Proof.Machine.execTwr cv bq f v row tr s
  | .trdr cv bq f v row tr => Sys2Proof.Machine.execTrdr cv bq f v row tr s
  | .trdc cv f v j tr => Sys2Proof.Machine.execTrdc cv f v j tr s
  | .tchk sd v bo f tr => Sys2Proof.Machine.execTchk sd v bo f tr s
  | .tgen v bo f tr => Sys2Proof.Machine.execTgen v bo f tr s
  | .safe idx => Sys2Proof.Machine.execSafe idx s
  | .spawn a b => Sys2Proof.Machine.execSpawn a b s
  | .join idx => Sys2Proof.Machine.execJoin idx s
  | .suspend a idx => Sys2Proof.Machine.execSuspend a idx s
  | .yield idx => Sys2Proof.Machine.execYield idx s
  | .exit => Sys2Proof.Machine.execExit s
  | .fuse a n => Sys2Proof.Machine.execFuse a n s
  | .decpl => Sys2Proof.Machine.execDecpl s
  | .rejn => Sys2Proof.Machine.execRejn s
  | .trap code => Sys2Proof.Machine.execTrap code s
  | .tret a => Sys2Proof.Machine.execTret a s
  | .tretNext a => Sys2Proof.Machine.execTretNext a s
  | .ctlr c d => Sys2Proof.Machine.execCtlr c d s
  | .ctlw c a => Sys2Proof.Machine.execCtlw c a s
  | .injectArm a => Sys2Proof.Machine.execInjectArm a s
  | .sbDescriptorWrite n a => Sys2Proof.Machine.execSbDescriptorWrite n a s
  | .getid k d => Sys2Proof.Machine.execGetid k d s
  | .time d => Sys2Proof.Machine.execTime d s
  | .hbeat a => Sys2Proof.Machine.execHbeat a s
  | .fmtset f a => Sys2Proof.Machine.execFmtset f a s
  | .brk code => Sys2Proof.Machine.execBrk code s
  | .fence sc => Sys2Proof.Machine.execFence sc s
  | .bar g => Sys2Proof.Machine.execBar g s
  | .flset f => Sys2Proof.Machine.execFlset f s
  | .flclr f => Sys2Proof.Machine.execFlclr f s
  | .flwait f v => Sys2Proof.Machine.execFlwait f v s
  | .sbacq d sb => Sys2Proof.Machine.execSbacq d sb s
  | .sbrel sb => Sys2Proof.Machine.execSbrel sb s
  | .cpost ch a => Sys2Proof.Machine.execCpost ch a s
  | .cwait a b => Sys2Proof.Machine.execCwait a b s
  | .ctest f a b => Sys2Proof.Machine.execCtest f a b s
  | .cpinv => Sys2Proof.Machine.execCpinv s
  | .cqry ch d => Sys2Proof.Machine.execCqry ch d s
  | .dcfg a => Sys2Proof.Machine.execDcfg a s
  | .vldx land d => Sys2Proof.Machine.execVldx land d s
  | .vldxWait d => Sys2Proof.Machine.execVldxWait d s
  | .coll a => Sys2Proof.Machine.execColl a s
  | .frel chn b a d => Sys2Proof.Machine.execFrel chn b a d s
  | .fchq chn a d => Sys2Proof.Machine.execFchq chn a d s
  | .tpost b a d => Sys2Proof.Machine.execTpost b a d s
  | .tcancel a d => Sys2Proof.Machine.execTcancel a d s
  | .guardReissue => Sys2Proof.Machine.execGuardReissue s
  | .queueStallReissue => Sys2Proof.Machine.execQueueStallReissue s
  | .resultLanding k => Sys2Proof.Machine.execResultLanding k s
  | .loadLanding k => Sys2Proof.Machine.execLoadLanding k s
  | .loadDataReturn k => Sys2Proof.Machine.execLoadDataReturn k s
  | .tableWalk part va => Sys2Proof.Machine.execTableWalk part va s
  | .scratchPageMove page => Sys2Proof.Machine.execScratchPageMove page s
  | .arrayExecute => Sys2Proof.Machine.execArrayExecute s
  | .drainComparison => Sys2Proof.Machine.execDrainComparison s
  | .windowWrite k => Sys2Proof.Machine.execWindowWrite k s
  | .heldWindowWrite k => Sys2Proof.Machine.execHeldWindowWrite k s
  | .preemptionRequest core => Sys2Proof.Machine.execPreemptionRequest core s
  | .writeBack => Sys2Proof.Machine.execWriteBack s
  | .pickUp core => Sys2Proof.Machine.execPickUp core s
  | .trapEntry t => Sys2Proof.Machine.execTrapEntry t s
  | .homeSliceAtomic k => Sys2Proof.Machine.execHomeSliceAtomic k s
  | .storePerform k => Sys2Proof.Machine.execStorePerform k s
  | .monitorReread k => Sys2Proof.Machine.execMonitorReread k s
  | .atomicReply k reply => Sys2Proof.Machine.execAtomicReply k reply s
  | .atomicTimeout k => Sys2Proof.Machine.execAtomicTimeout k s
  | .combiningRequest stage port req => Sys2Proof.Machine.execCombiningRequest stage port req s
  | .decombineReply k old => Sys2Proof.Machine.execDecombineReply k old s
  | .watchdogCoreTimer core => Sys2Proof.Machine.execWatchdogCoreTimer core s
  | .watchdogHeartbeatTimer part idx => Sys2Proof.Machine.execWatchdogHeartbeatTimer part idx s
  | .budgetOverrun part idx => Sys2Proof.Machine.execBudgetOverrun part idx s
  | .recordRead k => Sys2Proof.Machine.execRecordRead k s
  | .recordStart k => Sys2Proof.Machine.execRecordStart k s
  | .chunkMove k => Sys2Proof.Machine.execChunkMove k s
  | .recordComplete k => Sys2Proof.Machine.execRecordComplete k s
  | .slotWrite k => Sys2Proof.Machine.execSlotWrite k s
  | .decoderSourceRead => Sys2Proof.Machine.execDecoderSourceRead s
  | .headerParse => Sys2Proof.Machine.execHeaderParse s
  | .blockDecode => Sys2Proof.Machine.execBlockDecode s
  | .crcCompare => Sys2Proof.Machine.execCrcCompare s
  | .cycleBoundCutoff => Sys2Proof.Machine.execCycleBoundCutoff s
  | .decoderDestWrite => Sys2Proof.Machine.execDecoderDestWrite s
  | .postedWriteEgress k => Sys2Proof.Machine.execPostedWriteEgress k s
  | .write m => Sys2Proof.Machine.execWrite m s
  | .release m => Sys2Proof.Machine.execRelease m s
  | .releaseFlagWrite k => Sys2Proof.Machine.execReleaseFlagWrite k s
  | .accept m => Sys2Proof.Machine.execAccept m s
  | .resend m => Sys2Proof.Machine.execResend m s
  | .releaseTimeout k => Sys2Proof.Machine.execReleaseTimeout k s
  | .sourceReleaseTimer k => Sys2Proof.Machine.execSourceReleaseTimer k s
  | .atomic m => Sys2Proof.Machine.execAtomic m s
  | .read m => Sys2Proof.Machine.execRead m s
  | .readReply m => Sys2Proof.Machine.execReadReply m s
  | .readRetry k => Sys2Proof.Machine.execReadRetry k s
  | .keyRotation station key => Sys2Proof.Machine.execKeyRotation station key s
  | .previousKeyDrop station => Sys2Proof.Machine.execPreviousKeyDrop station s
  | .collectiveCommandRead k => Sys2Proof.Machine.execCollectiveCommandRead k s
  | .blockIssue k => Sys2Proof.Machine.execBlockIssue k s
  | .collPacket m => Sys2Proof.Machine.execCollPacket m s
  | .collectiveTimeout k => Sys2Proof.Machine.execCollectiveTimeout k s
  | .taskTake part q => Sys2Proof.Machine.execTaskTake part q s
  | .taskDispatch part idx => Sys2Proof.Machine.execTaskDispatch part idx s
  | .groupHold part idx => Sys2Proof.Machine.execGroupHold part idx s
  | .taskComplete part idx => Sys2Proof.Machine.execTaskComplete part idx s
  | .taskRerun part idx => Sys2Proof.Machine.execTaskRerun part idx s
  | .preload core => Sys2Proof.Machine.execPreload core s
  | .agateFrameWrite k => Sys2Proof.Machine.execAgateFrameWrite k s
  | .rdmaWrite h addr data => Sys2Proof.Machine.execRdmaWrite h addr data s
  | .rdmaRead h addr len => Sys2Proof.Machine.execRdmaRead h addr len s
  | .fetchAndAdd h addr v => Sys2Proof.Machine.execFetchAndAdd h addr v s
  | .createPartition part q => Sys2Proof.Machine.execCreatePartition part q s
  | .destroyPartition part => Sys2Proof.Machine.execDestroyPartition part s
  | .setGroup part g kind members => Sys2Proof.Machine.execSetGroup part g kind members s
  | .createQueue part q attr => Sys2Proof.Machine.execCreateQueue part q attr s
  | .queueReset part q => Sys2Proof.Machine.execQueueReset part q s
  | .queueReopen part q => Sys2Proof.Machine.execQueueReopen part q s
  | .closeQueue part q => Sys2Proof.Machine.execCloseQueue part q s
  | .queueClosed part q => Sys2Proof.Machine.execQueueClosed part q s
  | .swapOut part => Sys2Proof.Machine.execSwapOut part s
  | .swapIn part => Sys2Proof.Machine.execSwapIn part s
  | .setCtl part c v => Sys2Proof.Machine.execSetCtl part c v s
  | .resume part rec => Sys2Proof.Machine.execResume part rec s
  | .deliver part rec => Sys2Proof.Machine.execDeliver part rec s
  | .openPair part o => Sys2Proof.Machine.execOpenPair part o s
  | .closePair part source peer chn => Sys2Proof.Machine.execClosePair part source peer chn s
  | .openComm part comm => Sys2Proof.Machine.execOpenComm part comm s
  | .closeComm comm => Sys2Proof.Machine.execCloseComm comm s
  | .setReach dev v => Sys2Proof.Machine.execSetReach dev v s
  | .quiesce part dest key => Sys2Proof.Machine.execQuiesce part dest key s
  | .thaw part => Sys2Proof.Machine.execThaw part s
  | .restore part addr len shift reqsig => Sys2Proof.Machine.execRestore part addr len shift reqsig s
  | .setPowerLimit watts => Sys2Proof.Machine.execSetPowerLimit watts s
  | .attest nonce => Sys2Proof.Machine.execAttest nonce s
  | .setTrust install key => Sys2Proof.Machine.execSetTrust install key s
  | .shootdown part va pages whole => Sys2Proof.Machine.execShootdown part va pages whole s
  | .collapse tag va frame requester => Sys2Proof.Machine.execCollapse tag va frame requester s
  | .invalidate tag va owner frame home => Sys2Proof.Machine.execInvalidate tag va owner frame home s
  | .grant tag va => Sys2Proof.Machine.execGrant tag va s
  | .owned tag va => Sys2Proof.Machine.execOwned tag va s
  | .nopart tag va req => Sys2Proof.Machine.execNopart tag va req s
  | .migrationThreshold part va => Sys2Proof.Machine.execMigrationThreshold part va s
  | .migrationRequest tag va requester note => Sys2Proof.Machine.execMigrationRequest tag va requester note s
  | .errorEvent e => Sys2Proof.Machine.execErrorEvent e s
  | .unitRetirement u => Sys2Proof.Machine.execUnitRetirement u s
  | .eventWindowEnd => Sys2Proof.Machine.execEventWindowEnd s
  | .channelRetirement ch => Sys2Proof.Machine.execChannelRetirement ch s
  | .powerMeasurement watts temp => Sys2Proof.Machine.execPowerMeasurement watts temp s
  | .railLoss => Sys2Proof.Machine.execRailLoss s
  | .bringUp fw devId vlan => Sys2Proof.Machine.execBringUp fw devId vlan s
  | .scratchPageRefill page => Sys2Proof.Machine.execScratchPageRefill page s
  | .tpostCopyComplete => Sys2Proof.Machine.execTpostCopyComplete s
  | .collapseAcknowledgement tag va dev => Sys2Proof.Machine.execCollapseAcknowledgement tag va dev s
  | .migrationRewrite tag va final sender place => Sys2Proof.Machine.execMigrationRewrite tag va final sender place s
  | .invalidRequest code => Sys2Proof.Machine.execInvalidRequest code s

end Sys2Proof.Machine
end

