-- ==== Sys2Proof/Machine/Schedule.lean ====
section
/-! DEFINITION. What acts next (log entry 3): the agenda of the outside world; what is due by the clock; the cycle of one core;
and, where a core waits or is idle, what the other agents of the module have to do. Every order that the manual leaves open is
reached by some agenda and some choice of cores; where both are empty a fixed order is taken. -/

namespace Sys2Proof.Machine

noncomputable section

/-! ## Time (R9, R343) -/

/-- Core cycles pass: device time goes on at the core clock's rate, and each running continuation's task is charged. -/
def State.tick (s : State) (k : Nat) : State :=
  let ns := (s.cc + k) * 10 / s.cclk - s.cc * 10 / s.cclk
  let s := (s.allCores.filter (·.running)).foldl (fun s c =>
    s.charge c.part c.task (k * ((s.part? c.part).map (·.wcore)).getD 0)) s
  { s with cc := s.cc + k, now := (s.now + ns) % 2 ^ 64 }

def mapNext (f : State → State) : Out → Out
  | .next s => .next (f s)
  | .fault e => .fault e
  | .refused r => .refused r

/-! ## What is due by the clock -/

/-- The first number below a bound that passes a test. -/
def firstIdx {α : Type} (p : α → Bool) (l : List α) : Option Nat := l.findIdx? p

/-- The event that is due, if any: the end of an event window, a fatal error to be handled, a watchdog, an overrun, or a
timeout. -/
def State.dueEvent (s : State) : Option Instr :=
  if s.cc / 2 ^ 30 ≠ s.window then some .eventWindowEnd
  else match s.parts.find? fun p => p.fatal && !s.dumps.any (·.1 == p.no) with
  | some p => some (.errorEvent (.fatalPartition p.no 0))
  | none =>
  match s.allCores.find? fun c => s.coreLate c.phys with
  | some c => some (.watchdogCoreTimer c.phys)
  | none =>
  match s.parts.findSome? fun p => (p.tasks.find? fun t => s.taskLate p.no t.idx).map fun t => (p.no, t.idx) with
  | some (p, i) => some (.watchdogHeartbeatTimer p i)
  | none =>
  match s.parts.findSome? fun p => (p.tasks.find? (·.over)).map fun t => (p.no, t.idx) with
  | some (p, i) => some (.budgetOverrun p i)
  | none =>
  match firstIdx s.atomicExpired s.atoms with
  | some k => some (.atomicTimeout k)
  | none =>
  match firstIdx (fun p => p.overdue s.now s.relTimeout && !s.ingressCut p.part) s.pairs with
  | some k => some (.sourceReleaseTimer k)
  | none =>
  match firstIdx (fun x => x.expired s.now s.relTimeout && !s.ingressCut x.part) s.slots with
  | some k => some (.releaseTimeout k)
  | none =>
  match firstIdx (fun c => (s.lateBlock c).isSome && !s.parkedPart c.part) s.colls with
  | some k => some (.collectiveTimeout k)
  | none => (firstIdx (fun r => r.data.isNone && decide (s.relTimeout ≤ s.now - r.since)) s.reads).map .readRetry

/-- A device enters the list that a page has. -/
def listed (l : List (Nat × List Nat)) (va dev : Nat) : List (Nat × List Nat) :=
  let old := ((l.find? (·.1 == va)).map (·.2)).getD []
  l.filter (·.1 != va) ++ [(va, if old.contains dev then old else old ++ [dev])]

/-- A setting of the management core is taken, where its value is one that it may set (R300, R376, R394). -/
def State.set (s : State) : Setting → State
  | .relTimeout ns => if goodTimeout ns then { s with relTimeout := ns } else s
  | .migration k n => { s with thresholds := (List.range 16).map fun i => if i = k then n % 2 ^ 16 else s.thresholds.getD i 0 }
  | .events row n => if 1 ≤ n ∧ n ≤ 65535 ∧ row < 8 then { s with limits := bankSet 0 s.limits row n } else s
  | .replica part va dev => s.onPart part fun p => { p with replicas := listed p.replicas (pageBase va) dev }
  | .mapper part va dev => s.onPart part fun p => { p with mappers := listed p.mappers (pageBase va) dev }

/-! ## What the other agents have to do -/

/-- Writes to DUP pages whose home is this device: their COLLAPSE stays local (R373). -/
def State.localCollapses (s : State) : List Instr :=
  s.parts.flatMap fun p => (p.holds.filter (·.trap.no == .wprot)).filterMap fun h =>
    match s.pageLeaf p.no h.va with
    | some (l, _) =>
      if (l.mode = 3 ∧ l.peer = s.devId) ∨ p.collapses.any (·.va == pageBase h.va) then some (.collapse p.quotas.tag (pageBase h.va) l.frame s.devId) else none
    | none => none

/-- What waits at a page agent is taken up again. -/
def AgentMail.again (tag : Nat) : AgentMail → Instr
  | .collapse va frame requester => .collapse tag va frame requester
  | .request va requester frame => .migrationRequest tag va requester (.to frame)
  | .invalidate va owner frame home _ => .invalidate tag va owner frame home
  | .rewrite va final sender holder frame => .migrationRewrite tag va final sender ⟨holder, frame⟩

/-- Steps that some agent of the module might take now, in a fixed order. -/
def State.waiting (s : State) : List Instr :=
  let upTo (n : Nat) (f : Nat → Instr) : List Instr := (List.range n).map f
  upTo s.pubs.length .storePerform ++ upTo s.atoms.length .homeSliceAtomic ++ upTo s.atoms.length (fun k => .atomicReply k none)
    ++ upTo s.egress.length .postedWriteEgress ++ [.tpostCopyComplete]
    ++ upTo s.windows.length .windowWrite ++ upTo s.windows.length .heldWindowWrite ++ upTo s.slots.length .releaseFlagWrite
    ++ [.headerParse, .blockDecode, .crcCompare, .decoderDestWrite, .decoderSourceRead]
    ++ (List.range s.chans.length).flatMap (fun k => [.recordRead k, .recordStart k, .chunkMove k, .slotWrite k, .recordComplete k])
    ++ (List.range s.colls.length).flatMap (fun k => [.collectiveCommandRead k, .blockIssue k])
    ++ (s.transit ++ s.issuing).map (fun x => .collPacket x.2) ++ upTo s.monitors.length .monitorReread
    ++ s.parts.flatMap (fun p => p.tasks.flatMap (fun t => [.taskComplete p.no t.idx, .taskRerun p.no t.idx] ++ (if t.edges.isEmpty then [.groupHold p.no t.idx] else []) ++ [.taskDispatch p.no t.idx])
        ++ p.queues.flatMap fun q => [.taskTake p.no q.q, .queueReopen p.no q.q, .queueClosed p.no q.q])
    ++ s.parts.flatMap (fun p => (p.cores.filterMap id).map .pickUp)
    ++ s.events.map (fun e => .unitRetirement e.1) ++ s.retiring.map .channelRetirement
    ++ s.localCollapses ++ s.access.map (fun x => .migrationThreshold x.1 (x.2.1 * 65536))
    ++ s.parts.flatMap (fun p => p.mail.map (AgentMail.again p.quotas.tag))
    ++ (if s.agate.isEmpty then [] else [.agateFrameWrite 0])

/-- The first of some steps that changes the state. -/
def firstChange (exec : Exec) (s : State) : List Instr → Option Out
  | [] => none
  | i :: r => match exec i s with
    | .next t => if t = s then firstChange exec s r else some (.next t)
    | o => some o

/-- The running core after the acting one, in physical order and round again. -/
def State.nextCore (s : State) : Nat :=
  let ns := (s.allCores.filter (·.running)).map (·.phys)
  let later := ns.filter fun n => decide (s.core.phys < n)
  let least (l : List Nat) : Option Nat := l.foldl (fun m n => some (match m with
    | some k => min k n
    | none => n)) none
  ((least later).or (least ns)).getD s.core.phys

/-- The acting core can do nothing itself: another agent acts, or time passes and the next running core acts. -/
def State.others_ (exec : Exec) (s : State) (k : Nat) : Out :=
  match s.resendNext with
  | some t => .next t
  | none => (firstChange exec s s.waiting).getD (.next ((s.tick k).focus s.nextCore))

/-! ## The cycle of a core -/

/-- READs that a frozen bundle needs and that are not out are sent (R118, R202); with all of them in, the freeze ends. -/
def State.askFrozen (s : State) (rs : List (Nat × Nat × Nat × Nat)) : State :=
  let n := s.core.phys
  let missing := rs.filter fun r => (s.issueRead n r.1 r.2.1 r.2.2.1).isNone
  if missing.isEmpty then s.readsCame
  else missing.foldl (fun s r => (s.sendRead n r.1 r.2.1 r.2.2.1 r.2.2.2).2) s

/-- An atomic of the acting core that may be performed at a home slice of this device now: where no agenda says otherwise, before the
loads issued after it have their values. -/
def State.ownAtomic (s : State) : Option Nat :=
  firstIdx (fun a => a.core == s.core.phys && a.old.isNone && a.inRecord.isNone && a.loc.peer.isNone && s.mayGo a && !s.behind a) s.atoms

/-- What a frozen core waits for happens, where it can (R69, R108, R118, R177, R183, R244, R378); otherwise others act. A trap that is
due interrupts the frozen bundle (R356, R362), and a request for pre-emption is taken at once (R352). -/
def State.thawCore (exec : Exec) (s : State) (f : Freeze) (k : Nat) : Out :=
  let away := match s.dueTrap with
    | some t => exec (.trapEntry t) s
    | none => if s.yields then exec .writeBack s else .next s
  match away with
  | .next t =>
    if t ≠ s then .next t
    else
      let step : Out := match f with
        | .load =>
          let s := s.feedPops
          match s.ownAtomic with
          | some j => exec (.homeSliceAtomic j) s
          | none => match firstIdx (fun l => l.left == 0 && l.data.isNone && !l.isAtomic) s.core.loads with
            | some j => exec (.loadDataReturn j) s
            | none => .next (if s.core.dataReady then s.onCore fun c => { c with frozen := none } else s)
        | .order => .next (if s.mustWait then s.settle.fixLoads s.core.phys else s.onCore fun c => { c with frozen := none })
        | .publish => .next (if s.finishOwn.owing then s.finishOwn else s.onCore fun c => { c with frozen := none })
        | .refill (p :: _) => if (s.pageHolder p).isSome then exec (.scratchPageMove p) s else exec (.scratchPageRefill p) s
        | .array => exec .arrayExecute s
        | .drain => if s.core.array.isEmpty then exec .drainComparison s else exec .arrayExecute s
        | .reads rs => .next (s.askFrozen rs)
        | .refill [] | .log => .next (s.onCore fun c => { c with frozen := none })
        | .transit va =>
          match s.lookup s.core.phys s.core.part (va52 va) with
          | .transit .. => .next s
          | _ => .next (s.onCore fun c => { c with frozen := none })
        | .place va =>
          match s.lookup s.core.phys s.core.part (va52 va) with
          | .transit .. => .next s
          | _ => .next (s.onCore fun c => { c with frozen := none }).replaceLoads
        | .retire => .next s
        | .poison pa => .next ((s.poisonRead pa 8).onCore fun c => { c with frozen := none })
      match step with
      | .next t => if t = s then s.others_ exec k else .next t
      | o => o
  | o => o

/-- The cycle that follows a taken branch (R67, R350): counts run down, and nothing issues. -/
def Core.bubbleCycle (c : Core) : Core := { c.countDown with bubble := false, safecnt := c.safecnt + 1 }


/-- The acting continuation leaves its core; where a page of its frame is in transit it waits, and others act (R378). -/
def State.goAway (exec : Exec) (s : State) (k : Nat) : Out :=
  match exec .writeBack s with
  | .next t => if t = s then s.others_ exec k else .next t
  | o => o

/-- The acting core's cycle, its crew being those that issue with it. What a JOIN, SUSPEND, YIELD or EXIT does at the home slice
comes first of all: its bundle retires with it (R107). Then, at the boundary, what is due lands, which the cycle after a
taken branch has too (R69); then the first of R359's events, or the issue of its bundle. An op word that
executes at a later issue reads what has landed by then, what its own bundle's LOOP wrote too (log entry 70). -/
def State.coreCycle (exec : Exec) (crew : List Nat) (k : Nat) (s : State) : Out :=
  if s.core.departing then s.goAway exec k
  else if s.core.done = 0 ∧ ((s.part? s.core.part).map (·.fatal)).getD false then .next (s.each crew fun s => s.onCore Core.stopped)
  else
  let s := s.each crew fun s => s.feedPops.rereadTiles
  if !(crew.all fun n => (s.coreOf n).dataReady) then
    .next (s.each crew fun s => if s.core.dataReady then s else s.freeze .load)
  else
    let s := s.each crew State.landNow
    if s.core.bubble then .next ((s.each crew fun s => s.onCore Core.bubbleCycle).tick k)
    else
      match crew.find? fun n => ((s.focus n).dueTrap).isSome with
      | some n => match (s.focus n).dueTrap with
        | some t => exec (.trapEntry t) (s.focus n)
        | none => .next s
      | none =>
        if s.core.leave.isSome ∧ !s.core.gated then
          match s.nextTrap exec with
          | some t => .next (t.tick k)
          | none => s.goAway exec k
        else if s.yields then s.goAway exec k
        else if s.core.gated then
          match firstChange exec s s.waiting with
          | some o => o
          | none => mapNext (fun t => (t.tick k).focus t.nextCore) (s.issue exec)
        else mapNext (fun t => t.tick k) (s.issue exec)

/-- A core whose turn it is (R69, R100): an idle one leaves the others to act, a member of a fused set acts as its lead. -/
def State.coreStep (exec : Exec) (k : Nat) (s : State) : Out :=
  if !s.core.running then s.others_ exec k
  else
    let crew := s.crew
    if crew.isEmpty then s.others_ exec k
    else match crew.find? fun n => (s.coreOf n).frozen.isSome with
      | some n =>
        let s := s.focus n
        match s.core.frozen with
        | some f => s.thawCore exec f k
        | none => .next s
      | none => (s.focus (crew.headD s.core.phys)).coreCycle exec crew k

/-! ## One step -/

/-- Management commands wait until a QUIESCE has been answered (R386); another QUIESCE is answered BUSY (R402). -/
def waitsForCut : Instr → Bool
  | .createPartition .. | .destroyPartition _ | .setGroup .. | .createQueue .. | .queueReset .. | .closeQueue .. | .swapOut _ | .swapIn _
  | .setCtl .. | .resume .. | .deliver .. | .openPair .. | .closePair .. | .openComm .. | .closeComm _ | .setReach .. | .thaw _ | .restore ..
  | .setPowerLimit _ | .attest _ | .setTrust .. => true
  | _ => false

/-- A gated core whose bundle is to be reissued at once: a flag has changed, or an entry has left its queue (R74, R194). -/
def State.recalled (s : State) : Option Nat :=
  (s.allCores.find? fun c => c.running && c.gated && c.frozen.isNone && (c.flChanged || c.requeue)).map (·.phys)

/-- The step of the core whose turn it is, and the cycles it takes. Where no choice of cores says otherwise an idle core that may
pick a record does so first (R231). -/
def State.turnStep (exec : Exec) (s : State) : Out :=
  let k := 1 + s.pace.headD 0
  let s : State := { s with pace := s.pace.drop 1 }
  match s.turn with
  | n :: r => ({ s with turn := r }.focus n).coreStep exec k
  | [] => match s.idlePick with
    | some n => exec (.pickUp n) s
    | none => s.coreStep exec k

/-- A write-back at a safe point that an agenda names comes too early: the next bundle traps first (R359). -/
def State.tooEarly (exec : Exec) (s : State) (i : Instr) : Bool :=
  i == .writeBack && !s.core.departing && s.core.leave.isSome && !s.core.gated && (s.nextTrap exec).isSome

/-- One step of the machine, given the meaning of an instruction. -/
def State.advance (exec : Exec) (s : State) : Out :=
  match s.emptied with
  | some n => .next (s.retireCore n)
  | none =>
  match s.recalled with
  | some n =>
    let t := s.focus n
    if t.crew.isEmpty then .next (t.onCore fun c => { c with flChanged := false, requeue := false })
    else t.coreStep exec 1
  | none =>
  match s.shotDone with
  | some t => .next t
  | none =>
    match s.settings with
    | x :: r => .next ({ s with settings := r }.set x)
    | [] =>
    match s.agenda with
    | i :: r =>
      if s.cutting.isSome && waitsForCut i then s.turnStep exec
      else if s.tooEarly exec i then { s with agenda := r }.turnStep exec
      else exec i { s with agenda := r, trapTaken := none }
    | [] =>
      match s.cutting with
      | some (ps, _, _) =>
        if ps.all s.cutReady then .next s.finishCut
        else match s.dueEvent with
          | some i => exec i s
          | none => s.turnStep exec
      | none =>
        match s.dueEvent with
        | some i => exec i s
        | none => s.turnStep exec

end

end Sys2Proof.Machine
end

