-- ==== Sys2Proof/Machine/Step.lean ====
section
/-! DEFINITION. One step of the machine, and an instruction placed where the next step fetches it. -/

namespace Sys2Proof.Machine

noncomputable section

/-- Does a partition's root pointer name no physical address (R363)? CREATE_PARTITION makes none such. -/
def State.badRoot (s : State) : Option Nat := (s.parts.find? fun p => decide (2 ^ 48 ≤ p.quotas.root)).map (·.quotas.root)

/-- One step: what acts next acts (log entry 3). -/
def step (s : State) : Host.Outcome State Fault Refusal :=
  match s.badRoot with
  | some a => .fault (.noSuchAddress a)
  | none => s.advance exec

/-! ## An instruction as the next to run (log entry 10) -/

/-- Where the placed instruction stands: virtual addresses of its bundle, of its record and of its frame; the 1 GiB from physical
1 GiB on is mapped at 0, readable, writable and executable. -/
def placedCode : Nat := 0x200000
def placedRecord : Nat := 0x300000
def placedFrame : Nat := 0x400000
def placedBase : Nat := 2 ^ 30

/-- The partition that runs it: one cluster, its page tables at the start of its grant. -/
def placedPartition : Partition :=
  { Partition.new 0 ⟨1, 1, 0, 2 ^ 26, 0, placedBase, 100000000, true, 0⟩ [0] placedBase (2 ^ 40) with
    pool := [], recs := [(placedRecord, 0)], nextIdx := 1
    tasks := [{ Task.queued 0 0 0 none with state := .running, runs := 1, budget := 2 ^ 40, cls := 1 }] }

/-- Its page tables: a level-0 entry to the table that follows the root, and there one 1 GiB LOCAL leaf. -/
def placedTables (m : Memory) : Memory :=
  (m.writeN placedBase (leBytes 8 (2 ^ 63 + (placedBase + 2 ^ 16) / 2 ^ 8))).writeN (placedBase + 2 ^ 16)
    (leBytes 8 (leafWord true ⟨0, 0, 0, true, true, true, placedBase / 2 ^ 16⟩))

/-- The record of the continuation, running, first start. -/
def placedRecordBytes : List Byte :=
  leBytes 8 placedCode ++ leBytes 8 placedFrame ++ leBytes 8 0 ++ leBytes 8 (2 ^ 64 - 1) ++ leBytes 4 2 ++ leBytes 4 0xFFFF ++ leBytes 24 0

/-- The words of a bundle that holds one op word, by the class that accepts it; a header word is itself the bundle. -/
def placedWords (nbits w : Nat) : List Nat :=
  let w := w % 2 ^ nbits
  let lo := w % 2 ^ 32
  if kindOf lo = 3 then [lo]
  else
    let w2 := if kindOf lo = 1 then some (w / 2 ^ 32 % 2 ^ 32) else none
    let ws := lo :: w2.toList
    let slot := ([Cls.I, .M, .V, .X, .E].findSome? fun c => (decodeOp c lo w2).toOption.map fun i => firstSlot c i).getD 0
    encodeHeader ⟨2 ^ slot, 0, false, false, ws.length + 1⟩ :: ws

/-- A state in which the next step fetches and runs the instruction: the acting core runs a continuation of the placed partition
at a bundle that holds it, and nothing else is due before. -/
def State.withFetchWord (s : State) (nbits w : Nat) : State :=
  let code := (placedWords nbits w).flatMap (leBytes 4)
  { s with
    core := { s.core with
      phys := 0, part := 0, running := true, cont := placedRecord, task := 0, deadline := 2 ^ 64 - 1, scratch := 0x800000, frame := placedFrame, parent := 0
      pc := placedCode, rep := 0, done := 0, gated := false, frozen := none, bubble := false, branch := none, leave := none, point := none, current := none, closed := false, start := none
      waited := 0, flChanged := false, requeue := false, lands := [], loads := [], fused := none, fuseArrived := none, preempt := false
      landTrap := none, atomLost := none, watchdog := false, tlb := [] }
    others := [], doomed := [], parts := [placedPartition], atoms := [], pairs := [], slots := [], colls := [], reads := [], dieTlb := [], walkCache := [], retired := []
    poisoned := [], renewed := [], cutting := none, window := s.cc / 2 ^ 30, settings := [], agenda := [], turn := [], pace := []
    mem := ((placedTables s.mem).writeN (placedBase + placedRecord) placedRecordBytes).writeN (placedBase + placedCode) code }

end

end Sys2Proof.Machine
end

