-- ==== Sys2Proof/Safety.lean ====
section
/-! DEFINITION. What counts as a safe run, the invariant of every step, and the terms in which the statements speak of what an
instruction changes and leaves: bytes of memory, the acting core, results in flight, lanes. -/

namespace Sys2Proof.Machine

/-! ## Safe runs -/

/-- The machine does not stop in the next `n` steps. -/
def runsFor : Nat → State → Prop
  | 0, _ => True
  | n + 1, s => ∃ t, step s = .next t ∧ runsFor n t

/-- A safe run never stops. -/
def State.safe (s : State) : Prop := ∀ n, runsFor n s

/-- The invariant of memory: canonical, so that equal memories are equal data. -/
def State.inv (s : State) : Prop := s.mem.wf = true

/-- The registers of a core stand in canonical banks. -/
def Core.banks (c : Core) : Prop := bankWf 0 c.s = true ∧ bankWf 0 c.v = true ∧ bankWf 0 c.p = true ∧ bankWf 0 c.t = true

/-! ## Frames -/

/-- Every byte outside `n` bytes from `a` on reads as before. -/
def sameBytesBut (s t : State) (a n : Nat) : Prop := ∀ x, x < a ∨ a + n ≤ x → t.mem.read x = s.mem.read x

/-- Only the acting core has changed. -/
def onlyCore (s t : State) : Prop := { t with core := s.core } = s

/-- The registers S, V, P and T, the flags, the formats, the patterns, the accumulators and the control registers of a core are
those of another. -/
def sameRegisters (c d : Core) : Prop :=
  d.s = c.s ∧ d.v = c.v ∧ d.p = c.p ∧ d.t = c.t ∧ d.fl = c.fl ∧ d.fmt = c.fmt ∧ d.pat = c.pat ∧ d.stepr = c.stepr
    ∧ d.acc0 = c.acc0 ∧ d.acc1 = c.acc1 ∧ d.fstat = c.fstat ∧ d.mode = c.mode ∧ d.sb = c.sb ∧ d.sbPos = c.sbPos ∧ d.sbAcq = c.sbAcq
    ∧ d.qstall = c.qstall ∧ d.inject = c.inject

/-! ## Results in flight (R68) -/

/-- The instruction completes with one scalar result of latency bound `l` in flight to S[d], of which `P` holds, and nothing
else. -/
def writesScalar (i : Instr) (s : State) (l d : Nat) (P : Word → Prop) : Prop :=
  ∃ z, exec i s = .next (s.result l [.s d z]) ∧ P z

/-- The instruction completes with one predicate result of latency bound `l` in flight to P[d], of which `P` holds, and nothing
else. -/
def writesPredicate (i : Instr) (s : State) (l d : Nat) (P : PWord → Prop) : Prop :=
  ∃ z, exec i s = .next (s.result l [.p d z allOnesP]) ∧ P z

/-- Lane k of width l of a vector register. -/
def Core.lane (c : Core) (l r k : Nat) : Nat := field (c.rv r).toNat (l * k) l

/-- Bit k of a predicate register. -/
def Core.act (c : Core) (p k : Nat) : Bool := (c.rp p).getLsbD k

/-- The instruction completes with one result a lane of width l in flight to V[d]: lane k receives `r k`, and keeps what it
holds where that is none; the flags of all lanes are raised, and nothing else changes. -/
def writesLanes (i : Instr) (s : State) (bound d l : Nat) (r : Nat → Option (Nat × Flags)) : Prop :=
  exec i s = .next (s.putLanes bound d l ((List.range (4096 / l)).map r))

/-- The instruction takes a trap that names only its number. -/
def raises (i : Instr) (s : State) (t : TrapNo) : Prop := exec i s = .next (s.takeTrap { no := t })

/-- An integer vector instruction (R141, R146): of each active lane the exact integer `f` of the codes read, narrowed once, with
the flags of the `n` sources and of the narrowing; an element type without integers raises X_FORMAT. -/
def integerLanes (i : Instr) (s : State) (x : VArgs) (bound n : Nat) (f : IntElt → Nat → Nat → Nat → Int) : Prop :=
  (s.intElt x = none → raises i s .format) ∧
  ∀ e, s.intElt x = some e → writesLanes i s bound x.d e.lane fun k =>
    let a := e.code (s.core.lane e.lane x.a k)
    let b := e.code (s.core.lane e.lane x.b k)
    let c := e.code (s.core.lane e.lane x.c k)
    let y := e.narrow s.core.ctx.sat (f e a.1 b.1 c.1)
    let g : Flags := if n = 1 then a.2 else if n = 2 then a.2 ||| b.2 else a.2 ||| b.2 ||| c.2
    if s.core.act x.p k then some (y.1, g ||| y.2) else none

/-- A bit copy of whole lanes of width l, elements of width w: active lane k receives `f k`. -/
def copiesLanes (i : Instr) (s : State) (x : VArgs) (bound w l : Nat) (f : Nat → Nat) : Prop :=
  writesLanes i s bound x.d l fun k => if s.core.act x.p k then some (f k % 2 ^ w, 0) else none

/-! ## Accesses (R108, R109) -/

/-- What an instruction does by the answer of its checks: with the pieces it goes on as `k` says; a trap is taken; a wait freezes
the core and does nothing else. -/
def accesses (i : Instr) (s : State) (r : Checked) (k : List Piece → State → Prop) : Prop :=
  (∀ ps, r = .ok ps → ∃ t, exec i s = .next t ∧ k ps t) ∧
  (∀ t, r = .trap t → exec i s = .next (s.takeTrap t)) ∧
  (∀ f, r = .freeze f → exec i s = .next { s with core := { s.core with frozen := some f } })

/-- `t` is `u` with one landing load more, whose READs to peers may be out, on its way to `dest`, to land when `land` issue cycles have passed; registers and
memory are those of `u`. -/
def loadOut (u t : State) (dest : LoadDest) (land : Nat) (parts : List LoadPart) : Prop :=
  (∃ l : LoadLanding, t.core.loads = u.core.loads ++ [l]
      ∧ { l with parts := l.parts.map fun (p : LoadPart) => { p with tag := none } } = ⟨parts, dest, land, u.core.ctx.scope, u.core.pc, u.core.issued, u.core.phase, none⟩)
    ∧ t.core.issued = u.core.issued + 1 ∧ sameRegisters u.core t.core ∧ t.mem = u.mem

/-- The writes of a store of items with their pieces: what falls into one aligned 64-byte unit is one write (R233). -/
def unitsStored (items : List (Nat × List Byte)) (pss : List (List Piece)) : List Stored :=
  ((items.zip pss).flatMap fun x => x.2.map fun p => (p, (x.1.2.drop p.off).take p.size)).foldl
    (fun ws p => addStored ⟨p.1.va, p.1.loc, p.1.scratch, p.2.map some⟩ ws) []

/-- A store of items (byte address, bytes): a tile group refuses it; a misaligned first item raises X_ALIGN at its address; where
every item is admitted and lies in local memory outside the scratch segment, its bytes join the unpublished stores in order,
memory, registers and everything else staying as they are once the ended phase is settled. -/
def storesItems (i : Instr) (s : State) (chn : Nat) (items : List (Nat × List Byte)) (align : Nat) : Prop :=
  (s.inGroup = true → raises i s .groupViolation) ∧
  (s.inGroup = false →
    (∀ it r, items = it :: r → it.1 % align ≠ 0 → exec i s = .next (s.takeTrap { no := .align, addr := it.1 })) ∧
    ∀ pss : List (List Piece),
      items.map (fun it => s.check .write s.core.ctx.scope it.1 it.2.length align) = pss.map .ok →
      (∀ ps ∈ pss, ∀ p ∈ ps, p.loc.peer = none ∧ p.scratch = false) →
      let u := s.settle
      let ws := unitsStored items pss
      exec i s = .next { u with core := { u.core with
        stores := u.core.stores ++ ws.map fun w => ⟨w.va, w.loc, w.bytes, u.core.ctx.scope, chn, wholeBlock ws w⟩ } })

/-- No wait and no armed test watches memory, and no block is poisoned: what a write does besides changing memory is then the
controllers' work alone. -/
def State.unwatched (s : State) : Prop := s.monitors = [] ∧ s.poisoned = []


/-! ## One bundle at its issue (R59, R66–R75) -/

/-- Nothing is due before the acting core's next issue but that issue: no agent, clock or other core acts, and the core runs an
unfused bundle that has not issued, with no request, trap or landing due at the boundary. -/
def State.calm (s : State) : Prop :=
  s.badRoot = none ∧ s.recalled = none ∧ s.agenda = [] ∧ s.turn = [] ∧ s.pace = [] ∧ s.cutting = none ∧ s.dueEvent = none
    ∧ s.poisoned = [] ∧ s.core.running = true ∧ s.core.fused = none ∧ s.core.frozen = none ∧ s.core.bubble = false
    ∧ s.core.leave = none ∧ s.core.gated = false ∧ s.core.preempt = false ∧ s.core.watchdog = false ∧ s.core.atomLost = none
    ∧ s.core.landTrap = none ∧ s.core.stream = none ∧ s.core.loads = [] ∧ (∀ l ∈ s.core.lands, l.left ≠ 0)
    ∧ s.core.done = 0 ∧ s.core.mode.getLsbD 0 = false ∧ s.core.safecnt < 4096 ∧ s.settings = [] ∧ s.idlePick = none
    ∧ s.core.current = none ∧ s.core.closed = false ∧ s.core.point = none ∧ s.yields = false ∧ s.emptied = none ∧ s.shotDone = none
    ∧ ((s.part? s.core.part).map (·.fatal)).getD false = false

end Sys2Proof.Machine
end

