-- ==== Sys2Proof/Certificates/Slice0/Obligations.lean ====
section
/-! DEFINITION. The statements for the provers. Each docstring says which rules of the manual it formalises. -/

open Sys2Proof Sys2Proof.Machine

/-! ## Encoding and whole-machine statements (04, 11, 19, 25) -/

/-- For every instruction whose operands lie in their ranges and that has an encoding, the decoder of its slot class reads
the encoded word, with its operand word where it has one, as that very instruction. Events and PHASE have no op word; PHASE
is a header word. -/
def Obligations.DecodeEncodeRoundTrip : Prop :=
  ∀ (i : Instr) (e : Enc), i.wellFormed = true → encode i = some e → decodeOp e.cls e.w e.w2 = .ok i

/-- Where the decoder of a class accepts a 32-bit word, with or without a 32-bit operand word, the instruction's operands lie
in their ranges and its encoding is that class and those very words: no bit of a word is ignored, and no two words of a class
mean the same instruction. -/
def Obligations.DecodedWordsReencode : Prop :=
  ∀ (c : Cls) (w : Nat) (w2 : Option Nat) (i : Instr), w < 2 ^ 32 → (∀ v, w2 = some v → v < 2 ^ 32) →
    decodeOp c w w2 = .ok i → i.wellFormed = true ∧ encode i = some ⟨c, w, w2⟩

/-- One or two words of each slot class, taken from the worked examples, with their prefixes' bundle header: ADD, ADDI, BNE;
LDD with its offset, AADD without return; VFADD, VQNT; TZERO, TDRAIN to a vector; SAFE, SPAWN, CPOST; and the header of an
empty bundle with PH. -/
def Obligations.WorkedExampleWordsDecode : Prop :=
  decodeOp .I 0x00E41004 none = .ok (.add 8 8 7) ∧
  decodeOp .I 0x05001284 none = .ok (.addi 9 0 40) ∧
  decodeOp .I 0x01C49104 none = .ok (.bne 8 9 14) ∧
  decodeOp .M 0x01820E1D (some 0x80) = .ok (.ldd 7 4 12 128) ∧
  decodeOp .M 0x80020081 (some 0x20000000) = .ok (.aadd ⟨1, 0, 0, 4, 0, 8, 0, 0⟩) ∧
  decodeOp .V 0x03188280 none = .ok (.vfadd ⟨0, 3, 3, 2, 1⟩) ∧
  decodeOp .V 0x03008AC5 (some 0x00122000) = .ok (.vqnt ⟨3, 0, 2, 5, 2, 0, 0, 0x12⟩) ∧
  decodeOp .X 0x00008804 none = .ok (.tzero 0 2 2 0) ∧
  decodeOp .X 0x40148010 none = .ok (.tdrainVector 0 5 8 0) ∧
  decodeOp .E 0x00000604 none = .ok (.safe 3) ∧
  decodeOp .E 0x004A0008 none = .ok (.spawn 20 2) ∧
  decodeOp .E 0x000046C0 none = .ok (.cpost 3 4) ∧
  decodeBundle [0x00018003] = .ok ⟨⟨0, 0, false, true, 1⟩, 0, false, [], false⟩

/-- Where nothing else is due (log entry 3) and the header at the acting core's address and the words after it decode to a
bundle of one op word, unguarded or with its flag set, that passes checks 4 to 6, the step is exec of that instruction in its
slot's context; then its bit joins the done mask, an issue cycle passes, the repetition or the bundle ends (next bundle,
phase, branch), and one core cycle passes. If the instruction raises a trap, the step takes that trap from the state at the
issue, its own effects undone, and one core cycle passes. -/
def Obligations.StepRunsDecodedInstruction : Prop :=
  ∀ (s : State) (w : Nat) (h : Sys2Proof.Header) (bs : List Byte) (b : Bundle) (o : SlotOp),
    s.calm → s.peekWord s.core.part s.core.pc = .ok w → decodeHeader w = .ok h →
    s.readVa s.core.part .exec s.core.pc (4 * h.wc) = .ok bs → decodeBytes bs = .ok b →
    b.ops = [o] → b.header.stk = false →
    (∀ f, o.pfx.guard = some f → s.core.flag f = true) →
    let n := s.core.phys
    let t : Todo := ⟨slotNo o.slot, o, b.scope, 0⟩
    let s1 := s.onCore fun c => c.decoded b
    s1.core.bundleTrap b = none →
    ∀ u, exec o.instr { s1 with core := s1.core.withCtx b [t] t, trapTaken := none } = .next u →
      (u.trapTaken = none → u.core.frozen = none → u.core.waiting = false → u.core.phys = n → u.core.done = 0 →
        let v := u.onCore fun c => { c with done := 2 ^ slotNo o.slot }
        let x := v.each [n] fun y => y.dropUsed.onCore fun c => c.issueCycle (holdsSafe b)
        step s = .next ((x.each [n] (State.endRepetition b x.core.branch)).tick 1)) ∧
      (∀ tr, u.trapTaken = some tr → raisesLate o.instr = false → step s = .next ((s1.takeTrap tr).tick 1))

/-- Model's choice (log entry 3), not a rule: where no core that is to be retired has emptied, no gated bundle is to be
reissued and no shootdown has ended, the next step takes the first setting that the management core has made (log entry 76).
With none, and no QUIESCE in progress, it is exec of the first entry of the agenda, which leaves it, unless that is a
write-back at a safe point before which the next bundle traps (R359); with an empty agenda it is exec of the event that is
due by the clock. -/
def Obligations.AgendaAndDueEventsAct : Prop :=
  ∀ (s : State), s.badRoot = none → s.emptied = none → s.recalled = none → s.shotDone = none →
    (∀ x r, s.settings = x :: r → step s = .next ({ s with settings := r }.set x)) ∧
    (s.settings = [] → s.cutting = none →
    (∀ i r, s.agenda = i :: r → s.tooEarly exec i = false → step s = exec i { s with agenda := r, trapTaken := none }) ∧
    (∀ i, s.agenda = [] → s.dueEvent = some i → step s = exec i s))

/-- In every state in which each partition's root pointer is a physical address of 48 bits, which is what CREATE_PARTITION
installs, the step answers a next state: no instruction and no event of this model ends in a fault or a refusal. In the
others the step is the fault that names the address. -/
def Obligations.NeverStops : Prop :=
  ∀ (s : State), (s.badRoot = none → ∃ t, step s = .next t) ∧ (∀ a, s.badRoot = some a → step s = .fault (.noSuchAddress a))

/-- In every state whose memory lists its bytes with strictly rising addresses and no byte equal to what an unlisted address
reads as (log entry 1), the memory of the next state, whatever instruction, trap, landing, engine, agent or event acted, is
in that form too. Equal memories are therefore equal data in every run. -/
def Obligations.StepKeepsMemoryCanonical : Prop :=
  ∀ (s t : State), s.inv → step s = .next t → t.inv

/-- State.reset meets the invariant of every step, holds no partition, so that no root pointer is in force, and every bank of
its acting core is canonical. -/
def Obligations.ResetInvariant : Prop :=
  State.reset.inv ∧ State.reset.parts = [] ∧ State.reset.badRoot = none ∧ Core.banks State.reset.core

/-- FMT0 to FMT5 hold the presets of Table 2-4 and FMT6 to FMT15 the FP32 descriptor; FSTAT, MODE, FLAGS, SAFECNT, INJECT,
the queue stalls and the stream-buffer descriptors are 0; the power limit is 1,600 W; POWER, TEMP and BOOT are 0 and CCLK is
14; no event has been counted and nothing is retired. A partition starts with SRSEED 1, ULIM 0xE000, PREMIN 20,000, weights
256, 64 and 128 and MONFULL 0. S0 reads 0 and P0 all ones. -/
def Obligations.ResetValues : Prop :=
  let c := State.reset.core
  (List.range 16).map c.rf = [0x147F0820, 0x147F0810, 0x4C070408, 0x540F0508, 0x44010204, 0x04000008, 0x147F0820, 0x147F0820,
    0x147F0820, 0x147F0820, 0x147F0820, 0x147F0820, 0x147F0820, 0x147F0820, 0x147F0820, 0x147F0820] ∧
  c.fstat = 0 ∧ c.mode = 0 ∧ c.fl = 0 ∧ c.safecnt = 0 ∧ c.inject = 0 ∧ c.qstall = [] ∧ c.sb = [] ∧ c.rs 0 = 0 ∧ c.rp 0 = allOnesP ∧
  State.reset.powerLimit = 1600 ∧ State.reset.power = 0 ∧ State.reset.temp = 0 ∧ State.reset.cclk = 14 ∧ State.reset.boot = 0 ∧
  State.reset.corr = 0 ∧ State.reset.retired = [] ∧
  ∀ (no : Nat) (q : Quotas) (cl : List Nat) (root reserved : Nat),
    let p := Partition.new no q cl root reserved
    p.srseed = 1 ∧ p.ulim = 0xE000 ∧ p.premin = 20000 ∧ p.wcore = 256 ∧ p.wcopy = 64 ∧ p.wcoll = 128 ∧ p.monfull = 0

/-! ## Scalar arithmetic (05) -/

/-- For every state and every operand, ADD, SUB, MUL, MULH and MULHU (R82) and ADDI in both formats (R85) complete: the state
changes only by one result in flight to S[D], of latency bound 1, or 3 for the products, whose value is the low (MULH, MULHU:
the high) 64 bits of the exact sum, difference or product of the integers read. For every state and operands the bitwise
instructions AND, OR, XOR, ANDN, the shifts SHL, SHR, SRA and the rotation ROTR, and ANDI, ORI, XORI, SHLI, SHRI, SRAI in
both formats, complete with one result in flight of latency bound 1. Each of its 64 bits is said: of the shifts by the amount
modulo 64, of the immediate forms from the sign-extended immediate. -/
def Obligations.ScalarSumsProductsAndBits : Prop :=
  (∀ (s : State) (d a b : Nat) (imm : Int),
    let x := s.rs a
    let y := s.rs b
    writesScalar (.add d a b) s 1 d (fun z => z.toNat = (x.toNat + y.toNat) % 2 ^ 64) ∧
    writesScalar (.sub d a b) s 1 d (fun z => (z.toNat : Int) = ((x.toNat : Int) - y.toNat) % 2 ^ 64) ∧
    writesScalar (.mul d a b) s 3 d (fun z => z.toNat = x.toNat * y.toNat % 2 ^ 64) ∧
    writesScalar (.mulh d a b) s 3 d (fun z => z.toInt = x.toInt * y.toInt / 2 ^ 64) ∧
    writesScalar (.mulhu d a b) s 3 d (fun z => z.toNat = x.toNat * y.toNat / 2 ^ 64) ∧
    writesScalar (.addi d a imm) s 1 d (fun z => (z.toNat : Int) = ((x.toNat : Int) + imm) % 2 ^ 64) ∧
    writesScalar (.addiLong d a imm) s 1 d (fun z => (z.toNat : Int) = ((x.toNat : Int) + imm) % 2 ^ 64)) ∧
  (∀ (s : State) (d a b : Nat) (imm : Int),
    let x := s.rs a
    let y := s.rs b
    let i : Word := BitVec.ofInt 64 imm
    let n := y.toNat % 64
    let m := (imm % 64).toNat
    let shl (n : Nat) (z : Word) : Prop := ∀ k < 64, z.getLsbD k = (decide (n ≤ k) && x.getLsbD (k - n))
    let shr (n : Nat) (z : Word) : Prop := ∀ k < 64, z.getLsbD k = (decide (k + n < 64) && x.getLsbD (k + n))
    let sra (n : Nat) (z : Word) : Prop := ∀ k < 64, z.getLsbD k = x.getLsbD (min (k + n) 63)
    (writesScalar (.and d a b) s 1 d fun z => ∀ k < 64, z.getLsbD k = (x.getLsbD k && y.getLsbD k)) ∧
    (writesScalar (.or d a b) s 1 d fun z => ∀ k < 64, z.getLsbD k = (x.getLsbD k || y.getLsbD k)) ∧
    (writesScalar (.xor d a b) s 1 d fun z => ∀ k < 64, z.getLsbD k = (x.getLsbD k != y.getLsbD k)) ∧
    (writesScalar (.andn d a b) s 1 d fun z => ∀ k < 64, z.getLsbD k = (x.getLsbD k && !y.getLsbD k)) ∧
    writesScalar (.shl d a b) s 1 d (shl n) ∧ writesScalar (.shr d a b) s 1 d (shr n) ∧ writesScalar (.sra d a b) s 1 d (sra n) ∧
    (writesScalar (.rotr d a b) s 1 d fun z => ∀ k < 64, z.getLsbD k = x.getLsbD ((k + n) % 64)) ∧
    (∀ j ∈ [Instr.andi d a imm, Instr.andiLong d a imm],
      writesScalar j s 1 d fun z => ∀ k < 64, z.getLsbD k = (x.getLsbD k && i.getLsbD k)) ∧
    (∀ j ∈ [Instr.ori d a imm, Instr.oriLong d a imm],
      writesScalar j s 1 d fun z => ∀ k < 64, z.getLsbD k = (x.getLsbD k || i.getLsbD k)) ∧
    (∀ j ∈ [Instr.xori d a imm, Instr.xoriLong d a imm],
      writesScalar j s 1 d fun z => ∀ k < 64, z.getLsbD k = (x.getLsbD k != i.getLsbD k)) ∧
    (∀ j ∈ [Instr.shli d a imm, Instr.shliLong d a imm], writesScalar j s 1 d (shl m)) ∧
    (∀ j ∈ [Instr.shri d a imm, Instr.shriLong d a imm], writesScalar j s 1 d (shr m)) ∧
    (∀ j ∈ [Instr.srai d a imm, Instr.sraiLong d a imm], writesScalar j s 1 d (sra m)))

/-- For every state and operands DIV and REM, and DIVU and REMU, complete with a quotient q and a remainder r in flight to
S[D] of latency bound 12. A zero divisor gives the quotient of all ones and the dividend as remainder; the signed overflow
gives -2^63 and 0; otherwise the dividend is q times the divisor plus r, r is smaller in magnitude than the divisor, and a
signed r that is not 0 has the dividend's sign. -/
def Obligations.ScalarDivision : Prop :=
  ∀ (s : State) (d a b : Nat),
    let x := s.rs a
    let y := s.rs b
    ∃ q r q' r' : Word,
      writesScalar (.div d a b) s 12 d (· = q) ∧ writesScalar (.rem d a b) s 12 d (· = r) ∧
      writesScalar (.divu d a b) s 12 d (· = q') ∧ writesScalar (.remu d a b) s 12 d (· = r') ∧
      (y = 0 → q = BitVec.allOnes 64 ∧ r = x ∧ q' = BitVec.allOnes 64 ∧ r' = x) ∧
      (x.toInt = -2 ^ 63 ∧ y.toInt = -1 → q.toInt = -2 ^ 63 ∧ r = 0) ∧
      (y ≠ 0 ∧ ¬ (x.toInt = -2 ^ 63 ∧ y.toInt = -1) →
        x.toInt = y.toInt * q.toInt + r.toInt ∧ r.toInt.natAbs < y.toInt.natAbs ∧ (r.toInt = 0 ∨ (r.toInt < 0 ↔ x.toInt < 0))) ∧
      (y ≠ 0 → x.toNat = y.toNat * q'.toNat + r'.toNat ∧ r'.toNat < y.toNat)

/-- For every state and operands these instructions complete with one result in flight of latency bound 1: the counts of
leading and trailing zeros and of one bits; the signed and unsigned lesser and greater; 1 or 0 by the comparison; the low 8,
16 or 32 bits sign- or zero-extended; and S[A] or S[B] by whether S[C] differs from 0. For every state and every POS below 64
and LEN of 1 to 64, BFX completes with a result whose bit k is bit POS + k of S[A] for k below LEN, bits above 63 reading as
zero; with SX the bits above the field repeat bit min(POS + LEN, 64) - 1 of S[A]. BFI completes with S[A] in which bits POS
to POS + LEN - 1 below 64 are the low bits of S[B]. For every state, MOVI completes with the 32-bit immediate zero-extended
(MD 0) or sign-extended (MD 1), MOVI_HI with the immediate above the low half that S[D] holds at issue, and STEP with the
step register of its slot receiving the immediate or the low 32 bits of S[A]. -/
def Obligations.ScalarCountsFieldsAndImmediates : Prop :=
  (∀ (s : State) (d a b c : Nat),
    let x := s.rs a
    let y := s.rs b
    (writesScalar (.clz d a) s 1 d fun z =>
      z.toNat ≤ 64 ∧ (∀ k < z.toNat, x.getLsbD (63 - k) = false) ∧ (z.toNat < 64 → x.getLsbD (63 - z.toNat) = true)) ∧
    (writesScalar (.ctz d a) s 1 d fun z =>
      z.toNat ≤ 64 ∧ (∀ k < z.toNat, x.getLsbD k = false) ∧ (z.toNat < 64 → x.getLsbD z.toNat = true)) ∧
    (writesScalar (.popc d a) s 1 d fun z => z.toNat = ((List.range 64).filter fun k => x.getLsbD k).length) ∧
    (writesScalar (.min d a b) s 1 d fun z => z.toInt = min x.toInt y.toInt) ∧
    (writesScalar (.max d a b) s 1 d fun z => z.toInt = max x.toInt y.toInt) ∧
    (writesScalar (.minu d a b) s 1 d fun z => z.toNat = min x.toNat y.toNat) ∧
    (writesScalar (.maxu d a b) s 1 d fun z => z.toNat = max x.toNat y.toNat) ∧
    (writesScalar (.seq d a b) s 1 d fun z => z.toNat = if x.toNat = y.toNat then 1 else 0) ∧
    (writesScalar (.slt d a b) s 1 d fun z => z.toNat = if x.toInt < y.toInt then 1 else 0) ∧
    (writesScalar (.sltu d a b) s 1 d fun z => z.toNat = if x.toNat < y.toNat then 1 else 0) ∧
    (∀ f w, (f, w) ∈ [(0, 8), (1, 16), (2, 32)] →
      (writesScalar (.sext d a f) s 1 d fun z => z.toInt = (x.toNat : Int).bmod (2 ^ w)) ∧
      (writesScalar (.zext d a f) s 1 d fun z => z.toNat = x.toNat % 2 ^ w)) ∧
    (writesScalar (.sel d a b c) s 1 d fun z => z = if (s.rs c).toNat = 0 then y else x)) ∧
  ((∀ (s : State) (d a b pos len : Nat), pos < 64 → 1 ≤ len → len ≤ 64 →
    let x := s.rs a
    let y := s.rs b
    let top := min (pos + len) 64
    (writesScalar (.bfx d a pos len 0) s 1 d fun z => ∀ k < 64, z.getLsbD k = (decide (k < len) && decide (pos + k < 64) && x.getLsbD (pos + k))) ∧
    (writesScalar (.bfx d a pos len 1) s 1 d fun z => ∀ k < 64, z.getLsbD k = x.getLsbD (if pos + k < top then pos + k else top - 1)) ∧
    (writesScalar (.bfi d a b pos len) s 1 d fun z =>
      ∀ k < 64, z.getLsbD k = if pos ≤ k ∧ k < pos + len then y.getLsbD (k - pos) else x.getLsbD k)) ∧
  (∀ (s : State) (d a slot imm : Nat) (i : Int), imm < 2 ^ 32 → -2 ^ 31 ≤ i → i < 2 ^ 31 →
    (writesScalar (.movi d 0 imm) s 1 d fun z => z.toNat = imm) ∧
    (writesScalar (.movi d 1 imm) s 1 d fun z => z.toInt = if imm < 2 ^ 31 then (imm : Int) else imm - 2 ^ 32) ∧
    (writesScalar (.moviHi d imm) s 1 d fun z => z.toNat / 2 ^ 32 = imm ∧ z.toNat % 2 ^ 32 = (s.rs d).toNat % 2 ^ 32) ∧
    (∃ z : BitVec 32, exec (.step slot 0 a i) s = .next (s.result 1 [.step slot z]) ∧ z.toInt = i) ∧
    (∃ z : BitVec 32, exec (.step slot 1 a i) s = .next (s.result 1 [.step slot z]) ∧ z.toNat = (s.rs a).toNat % 2 ^ 32)))

/-- Putting a result in flight leaves every register and every byte of memory. When it lands (RESULT_LANDING) and no result
issued later has been written at the same boundary (R70), S[D] reads the value, S0 reading 0; every other S register, the V,
P and T registers, the flags, the formats, the patterns, the step registers, the accumulators, CTL.FSTAT, CTL.MODE and memory
are as before. For every lane width that divides 4096, when the lane results of a vector instruction land, lane k of V[D]
holds the result given for it, modulo the lane's width, and a lane given none keeps its value; every other V register, the S,
P and T registers, the flags and memory are as before. -/
def Obligations.ResultsLandAlone : Prop :=
  (∀ (s : State) (bound d : Nat) (x : Word), s.core.banks → (∀ h ∈ s.core.here, h.1 ≤ s.core.issued) →
    let t := s.result bound [.s d x]
    sameRegisters s.core t.core ∧ t.mem = s.mem ∧
    ∃ u, exec (.resultLanding s.core.lands.length) t = .next u ∧
      (∀ r, u.rs r = if r = d ∧ d ≠ 0 then x else s.rs r) ∧ u.rs 0 = 0 ∧
      sameRegisters s.core { u.core with s := s.core.s } ∧ u.mem = s.mem) ∧
  (∀ (s : State) (bound d l : Nat) (r : Nat → Option Nat), s.core.banks → (∀ h ∈ s.core.here, h.1 ≤ s.core.issued) → 0 < l → l ∣ 4096 →
    ∃ u, exec (.resultLanding s.core.lands.length) (s.result bound [laneWrite d l 0 ((List.range (4096 / l)).map r)]) = .next u ∧
      (∀ k < 4096 / l, u.core.lane l d k = match r k with
        | some v => v % 2 ^ l
        | none => s.core.lane l d k) ∧
      (∀ n, n ≠ d → u.core.rv n = s.core.rv n) ∧
      sameRegisters s.core { u.core with v := s.core.v } ∧ u.mem = s.mem)

/-! ## Control (05) -/

/-- For every state and each of the eight conditional branches in both formats: not taken, the state is unchanged; taken with
a target whose word is a bundle header, the only change is the branch to the bundle's header plus OFF times 4 modulo 2^64;
taken with another target word or a misaligned target, the bundle raises X_TARGET at that address; taken to a page in
transit, the core freezes until it has moved (R378). The conditions compare the registers of the lead as signed and unsigned
integers, or test bits n - 1 to 0 of the predicate with n = 1024 / 2^LC. For every state: with a good target JMP and JMP_LONG
branch to the header plus OFF times 4, JMPI and RET to the address in S[A], and nothing else changes; CALL, CALL_LONG and
CALLI also put the address of the header that follows the bundle in flight to the link register with latency bound 1, CALLI
taking its target from S[B] as read at issue. With a bad target each raises X_TARGET there, with one in transit it freezes,
and no link register is written. For every state LOOP and LOOP_LONG put S[A] minus 1 modulo 2^64 in flight to S[A] with
latency bound 1. With S[A] = 1 nothing else changes; with any other value, 0 included, which wraps to the greatest number,
the bundle also branches to its target; a bad target raises X_TARGET, one in transit freezes the core. -/
def Obligations.BranchesCallsAndLoops : Prop :=
  (∀ (s : State) (a b lc : Nat) (off : Int),
    let x := s.leadCore.rs a
    let y := s.leadCore.rs b
    let some1 : Prop := ∃ k < 1024 / 2 ^ lc, (s.leadCore.rp a).getLsbD k = true
    let target := (((s.core.pc : Int) + 4 * off) % 2 ^ 64).toNat
    let rows : List (Instr × Prop) :=
      [(.beq a b off, x = y), (.bne a b off, x ≠ y), (.blt a b off, x.toInt < y.toInt), (.bge a b off, y.toInt ≤ x.toInt),
       (.bltu a b off, x.toNat < y.toNat), (.bgeu a b off, y.toNat ≤ x.toNat), (.bpany a lc off, some1), (.bpnone a lc off, ¬ some1),
       (.beqLong a b off, x = y), (.bneLong a b off, x ≠ y), (.bltLong a b off, x.toInt < y.toInt), (.bgeLong a b off, y.toInt ≤ x.toInt),
       (.bltuLong a b off, x.toNat < y.toNat), (.bgeuLong a b off, y.toNat ≤ x.toNat), (.bpanyLong a lc off, some1),
       (.bpnoneLong a lc off, ¬ some1)]
    ∀ r ∈ rows,
      (¬ r.2 → exec r.1 s = .next s) ∧
      (r.2 → s.badTarget target = false → s.codeMoves s.core.part target = false →
        exec r.1 s = .next { s with core := { s.core with branch := some target } }) ∧
      (r.2 → s.badTarget target = false → s.codeMoves s.core.part target = true →
        exec r.1 s = .next { s with core := { s.core with frozen := some (.transit target) } }) ∧
      (r.2 → s.badTarget target = true → exec r.1 s = .next (s.takeTrap { no := .target, addr := target }))) ∧
  ((∀ (s : State) (a b : Nat) (off : Int),
    let rel := (((s.core.pc : Int) + 4 * off) % 2 ^ 64).toNat
    let link : Word := BitVec.ofNat 64 (s.core.pc + 4 * s.core.ctx.wc)
    let go (t : State) (target : Nat) : State := { t with core := { t.core with branch := some target } }
    let bare : List (Instr × Nat) := [(.jmp off, rel), (.jmpLong off, rel), (.jmpi a, (s.leadCore.rs a).toNat), (.ret a, (s.leadCore.rs a).toNat)]
    let linked : List (Instr × Nat) := [(.call a off, rel), (.callLong a off, rel), (.calli a b, (s.leadCore.rs b).toNat)]
    (∀ r ∈ bare, s.badTarget r.2 = false → s.codeMoves s.core.part r.2 = false → exec r.1 s = .next (go s r.2)) ∧
    (∀ r ∈ linked, s.badTarget r.2 = false → s.codeMoves s.core.part r.2 = false → exec r.1 s = .next (go (s.result 1 [.s a link]) r.2)) ∧
    (∀ r ∈ bare ++ linked, s.badTarget r.2 = false → s.codeMoves s.core.part r.2 = true →
      exec r.1 s = .next { s with core := { s.core with frozen := some (.transit r.2) } }) ∧
    (∀ r ∈ bare ++ linked, s.badTarget r.2 = true → exec r.1 s = .next (s.takeTrap { no := .target, addr := r.2 }))) ∧
  (∀ (s : State) (a : Nat) (off : Int),
    let x := s.leadCore.rs a
    let target := (((s.core.pc : Int) + 4 * off) % 2 ^ 64).toNat
    ∃ z : Word, z.toNat = (x.toNat + 2 ^ 64 - 1) % 2 ^ 64 ∧
      ∀ i ∈ [Instr.loop a off, Instr.loopLong a off],
        (x.toNat = 1 → exec i s = .next (s.result 1 [.s a z])) ∧
        (x.toNat ≠ 1 → s.badTarget target = false → s.codeMoves s.core.part target = false →
          exec i s = .next { s.result 1 [.s a z] with core := { (s.result 1 [.s a z]).core with branch := some target } }) ∧
        (x.toNat ≠ 1 → s.badTarget target = false → s.codeMoves s.core.part target = true →
          exec i s = .next { s with core := { s.core with frozen := some (.transit target) } }) ∧
        (x.toNat ≠ 1 → s.badTarget target = true → exec i s = .next (s.takeTrap { no := .target, addr := target }))))

/-- In a state whose acting core has no landing load, PHASE ends the phase: every local store of the phase joins the
published stores in issue order with its scope, every store to a peer joins the posted writes, the core's list of stores and
its snapshot are empty, the phase number grows by 1, and no byte of memory changes. In a state whose memory is canonical and
unwatched, a published store before which nothing need be performed (no earlier operation of its core on its bytes, no
overlapping store held on its path) and which has reached its point of coherence, or has device scope or wider and waits for
no earlier phase, is performed by STORE_PERFORM: the bytes that it writes read at its place, every other byte reads as
before, the store leaves the published stores, the registers stay, and memory stays canonical. A store of narrower scope
first reaches its point of coherence and changes no byte; one that must wait for an operation of an earlier phase stays where
it is. -/
def Obligations.StoresArePublishedAndPerformed : Prop :=
  (∀ (s : State), s.core.loads = [] →
    ∃ t, exec .phase s = .next t ∧
      t.pubs = s.pubs ++ (s.core.stores.filter fun st => st.loc.peer.isNone).map (fun st =>
        ⟨s.core.phys, s.core.task, s.core.part, st.loc, st.bytes, st.scope, st.chn, st.whole, s.core.issued, false⟩) ∧
      t.egress = s.egress ++ s.core.stores.flatMap (fun st => match st.loc.peer with
        | some d => postedOf (some (s.core.phys, s.core.issued)) 0 s.core.part s.core.task d st.chn st.loc.pa st.va (laidOver [] st.bytes) none
        | none => []) ∧
      t.core.stores = [] ∧ t.core.snap = [] ∧ t.core.phase = s.core.phase + 1 ∧ sameRegisters s.core t.core ∧ t.mem = s.mem) ∧
  (∀ (s : State) (k : Nat) (p : PubStore), s.pubs[k]? = some p → s.unwatched → s.mem.wf = true →
    (s.aheadOf p = [] → p.atPoint = true ∨ 3 ≤ p.scope ∧ s.held p.core p.seq = false →
      ∃ t, exec (.storePerform k) s = .next t ∧
        (∀ j < p.bytes.length, t.mem.read (p.loc.pa + j) = (p.bytes.getD j none).getD (s.mem.read (p.loc.pa + j))) ∧
        sameBytesBut s t p.loc.pa p.bytes.length ∧ t.pubs = s.pubs.erase p ∧ t.core = s.core ∧ t.mem.wf = true) ∧
    (s.aheadOf p = [] → p.scope ≤ 2 → p.atPoint = false → s.held p.core p.seq = false →
      exec (.storePerform k) s = .next { s with pubs := s.pubs.erase p ++ [{ p with atPoint := true }] }) ∧
    (p.atPoint = false → s.held p.core p.seq = true → exec (.storePerform k) s = .next s))

/-! ## Memory (06) -/

/-- For every access of n bytes: where the address is not a multiple of the alignment the checks answer X_ALIGN with that
address, whatever the page. Where no block is poisoned and it is aligned, n is positive and bits 63 to 52 differ from bit 51,
X_PAGE with that address; where it is aligned, canonical and lies in the window range, X_PERM with that address; and a byte
that no check refuses is answered with a physical place of the page that translation finds. -/
def Obligations.ChecksOfAnAccess : Prop :=
  ∀ (s : State) (a : Access) (scope ea n align : Nat),
    (ea % align ≠ 0 → s.check a scope ea n align = .trap { no := .align, addr := ea }) ∧
    (s.poisoned = [] → ea % align = 0 → 0 < n → ea < 2 ^ 64 → canonical ea = false → s.check a scope ea n align = .trap { no := .page, addr := ea }) ∧
    (s.poisoned = [] → ea % align = 0 → 0 < n → ea < 2 ^ 64 → canonical ea = true → inWindow (va52 ea) = true →
      s.check a scope ea n align = .trap { no := .perm, addr := ea }) ∧
    (∀ ps, s.check a scope ea n align = .ok ps → ea % align = 0 ∧
      ∀ p ∈ ps, ∃ e level, s.lookup s.core.phys s.core.part p.va = .leaf e level ∧ s.denied a scope (leafFields e) = none ∧
        (p.loc, p.cached) = s.place e level p.va)

/-- For every state the scalar loads of 1, 2, 4 and 8 bytes, VLD of 512 and VLDP_SET of 64 compute S[A] plus OFF plus the
sticky and the fused offset modulo 2^64. Where the checks admit it, the load joins the landing loads with its destination,
size, sign extension and landing count; no register and no byte of memory changes. Where they do not, the trap is taken or
the core freezes. In a tile group TLD raises X_GROUP_VIOLATION; outside one, with a BO that the format does not allow,
X_ILLEGAL. Otherwise, where the checks admit the image's bytes at the 64-byte-aligned address, it joins the landing loads
with its destination tile, quarter and the format word captured at issue; no register and no byte of memory changes. PRF
completes with the state as it is. SPIN and SPREL name the N + 1 pages of 64 KiB from the page of their address that lie in
the scratch segment; for one page, SPIN makes it resident on the core, pinned if it was or if fewer than 28 pages of the core
are pinned, once there is room: with 32 other pages on the core one that is not pinned is written back; SPREL ends the pin of
a page of the core. Neither changes a register or a byte of memory. An address that is not canonical raises X_PAGE. -/
def Obligations.LoadsHintsAndPins : Prop :=
  ((∀ (s : State) (d a land : Nat) (off : Int),
    let ea := s.eaM a off
    let u := s.settle
    (∀ r ∈ [(Instr.ldb d a land off, 1, false), (.ldbs d a land off, 1, true), (.ldh d a land off, 2, false), (.ldhs d a land off, 2, true),
        (.ldw d a land off, 4, false), (.ldws d a land off, 4, true), (.ldd d a land off, 8, false)],
      accesses r.1 s (s.check .read s.scope ea r.2.1 r.2.1) fun ps t =>
        loadOut u t (.s d r.2.1 r.2.2) land (u.loadParts u.scope (ps.map fun p => (p, p.off))).1) ∧
    (accesses (.vld d a land off) s (s.check .read s.scope ea 512 64) fun ps t =>
      loadOut u t (.v d) land (u.loadParts u.scope (ps.map fun p => (p, p.off))).1) ∧
    (accesses (.vldpSet land d a) s (s.check .read s.scope (s.eaM a 0) 64 64) fun ps t =>
      loadOut u t (.pat d) land (u.loadParts u.scope (ps.map fun p => (p, p.off))).1) ∧
    ea = (((s.rs a).toNat + off + s.core.ctx.off + s.core.fusedOff) % 2 ^ 64).toNat) ∧
  (∀ (s : State) (bo t f a land : Nat),
    let fm := s.core.rfmt f
    let u := s.settle
    (s.inGroup = true → raises (.tld bo t f a land) s .groupViolation) ∧
    (s.inGroup = false → boOk fm bo = false → raises (.tld bo t f a land) s .illegal) ∧
    (s.inGroup = false → boOk fm bo = true →
      accesses (.tld bo t f a land) s (s.check .read s.scope (s.eaM a 0) (tileSize fm) 64) fun ps v =>
        loadOut u v (.tile t bo (s.core.rf f).toNat false) land (u.loadParts u.scope (ps.map fun p => (p, p.off))).1))) ∧
  (∀ (s : State) (cnt a lv : Nat) (off : Int),
    exec (.prf cnt a lv off) s = .next s ∧
    let first := s.eaM a 0 % 2 ^ 52 / 2 ^ 16 * 2 ^ 16
    let key := pageKey s.core.part first
    let old := bankGet (s.core.phys + 1, false) s.pages key
    (canonical (s.eaM a 0) = false → ∀ n, ∀ i ∈ [Instr.spin n a, .sprel n a], exec i s = .next (s.takeTrap { no := .page, addr := s.eaM a 0 })) ∧
    (canonical (s.eaM a 0) = true →
      (s.core.inScratch first = true →
        (let u := s.makeRoom s.core.phys key
         let mine := s.pages.filter fun p => p.2.1 == s.core.phys && p.1 != key
         exec (.spin 0 a) s = .next { u with pages := bankPut u.pages key (s.core.phys, decide (old = (s.core.phys, true)) || decide (s.pinCount < 28)) } ∧
         (mine.length < 32 → u = s) ∧
         (32 ≤ mine.length → (∃ p ∈ mine, p.2.2 = false) → ∃ p ∈ mine, p.2.2 = false ∧ u.pages = s.pages.filter (·.1 != p.1))) ∧
        (old.1 = s.core.phys → exec (.sprel 0 a) s = .next { s with pages := bankPut s.pages key (s.core.phys, false) }) ∧
        (old.1 ≠ s.core.phys → exec (.sprel 0 a) s = .next s)) ∧
      (∀ n, ∃ t u, exec (.spin n a) s = .next t ∧ exec (.sprel n a) s = .next u ∧ { t with pages := s.pages, fresh := s.fresh } = s ∧ { u with pages := s.pages } = s)))

/-- VLDP resolves the addresses of its 512 / esz elements; where every element is admitted one landing load of them to V[D]
goes out, lane i at byte i times esz, and PAT[PT] is written at once with POS advanced. VGTH does so for the active elements,
element i at S[A] plus its unsigned 32-bit index times the element size. A trap of the resolution or of an element is taken,
a wait freezes the core. In a tile group VSTP raises X_GROUP_VIOLATION. Otherwise, with the addresses of its 512 / esz
elements resolved, every element admitted to local memory outside the scratch segment and no phase owed, element i of V[D]
joins the unpublished stores at address i, in order, the elements within one aligned 64-byte unit as one write, PAT[PT] is
written at once with POS advanced by 512 / esz, and memory stays. -/
def Obligations.PatternAndGatherAccesses : Prop :=
  (∀ (s : State) (land pt d esz ix a px : Nat),
    let p := Pattern.of (s.core.rpat pt)
    (∀ t, s.resolve p (512 / p.esz) = .trap t → exec (.vldp land pt d) s = .next (s.takeTrap t)) ∧
    (∀ f, s.resolve p (512 / p.esz) = .freeze f → exec (.vldp land pt d) s = .next { s with core := { s.core with frozen := some f } }) ∧
    (∀ as u, s.resolve p (512 / p.esz) = .ok as u →
      let r := u.checkList .read (as.zipIdx.map fun x => (x.1, p.esz * x.2)) p.esz
      (∀ ps, r.1 = .ok ps → ∃ t, exec (.vldp land pt d) s = .next t ∧ ∃ v, loadOut u.settle v (.v d) land (u.settle.loadParts u.settle.scope r.2).1 ∧
        t = v.onCore fun c => c.write (.pat pt (p.advance (v.core.rpat pt) (512 / p.esz)))) ∧
      (∀ t, r.1 = .trap t → exec (.vldp land pt d) s = .next (u.takeTrap t)) ∧
      (∀ f, r.1 = .freeze f → exec (.vldp land pt d) s = .next { u with core := { u.core with frozen := some f } })) ∧
    (let n := if esz = 3 then 64 else 128
     let act := (List.range n).filter fun i => s.core.act px i
     let items := act.map fun i => (s.eaM a ((s.core.lane 32 ix i * 2 ^ esz : Nat) : Int), 2 ^ esz * i)
     accesses (.vgth esz ix a d land px) s (s.checkList .read items (2 ^ esz)).1 fun _ t =>
       loadOut s.settle t (.v d) land (s.settle.loadParts s.settle.scope (s.checkList .read items (2 ^ esz)).2).1)) ∧
  (∀ (s : State) (chn pt d : Nat),
    let p := Pattern.of (s.core.rpat pt)
    (s.inGroup = true → raises (.vstp chn pt d) s .groupViolation) ∧
    ∀ as u pss, s.inGroup = false → s.resolve p (512 / p.esz) = .ok as u → u.inGroup = false → u.core.unsettled = false →
      u.trapTaken = none → u.core.frozen = none →
      as.map (fun x => u.check .write u.core.ctx.scope x p.esz p.esz) = pss.map .ok →
      (∀ ps ∈ pss, ∀ q ∈ ps, q.loc.peer = none ∧ q.scratch = false) →
      let ws := unitsStored (as.zipIdx.map fun x => (x.1, leBytes p.esz (s.core.lane (8 * p.esz) d x.2))) pss
      let stored : List OwnStore := ws.map fun w => ⟨w.va, w.loc, w.bytes, u.core.ctx.scope, chn, wholeBlock ws w⟩
      exec (.vstp chn pt d) s = .next (({ u with core := { u.core with stores := u.core.stores ++ stored } } : State).onCore fun c =>
        c.write (.pat pt (p.advance (u.core.rpat pt) (512 / p.esz)))))

/-- For a pattern record whose IND bit is 0, lane i has the linear position q = (POS + i) mod N, N the product of the four
extents (0 counting as 1), the coordinates t of q with dimension 0 fastest, c_d = ORG_d + t_d clamped to 0 to LIM_d - 1 where
LIM_d is not 0, and the address BASE plus the sum of c_d times the signed step of dimension d plus the sticky and fused
offsets, modulo 2^64; POS advances by 512 / esz modulo N. -/
def Obligations.PatternAddresses : Prop :=
  ∀ (x : BitVec 512) (i : Nat) (o : Int),
    let b (lo n : Nat) : Nat := x.toNat / 2 ^ (8 * lo) % 2 ^ (8 * n)
    let ext (d : Nat) : Nat := max 1 (b (32 + 2 * d) 2)
    let n := ext 0 * ext 1 * ext 2 * ext 3
    let q := (b 56 4 + i) % n
    let t : Nat → Nat
      | 0 => q % ext 0
      | 1 => q / ext 0 % ext 1
      | 2 => q / ext 0 / ext 1 % ext 2
      | _ => q / ext 0 / ext 1 / ext 2 % ext 3
    let c (d : Nat) : Int :=
      let y : Int := ((b (48 + 2 * d) 2 : Nat) : Int).bmod (2 ^ 16) + (t d : Int)
      if b (40 + 2 * d) 2 = 0 then y else min (max y 0) ((b (40 + 2 * d) 2 : Int) - 1)
    let step (d : Nat) : Int := ((b (16 + 4 * d) 4 : Nat) : Int).bmod (2 ^ 32)
    let p := Pattern.of x
    p.esz = 2 ^ (b 60 1 % 4) ∧ p.ind = decide (b 60 1 / 4 % 2 = 1) ∧
    (p.ind = false → ∀ e, p.address i e o =
      ((((b 0 8 : Nat) : Int) + o + c 0 * step 0 + c 1 * step 1 + c 2 * step 2 + c 3 * step 3) % 2 ^ 64).toNat) ∧
    (∀ k, (p.advance x k).toNat = x.toNat - b 56 4 * 2 ^ 448 + (b 56 4 + k) % n % 2 ^ 32 * 2 ^ 448)

/-- In a state with no published store, no posted write or atomic on its way and no poisoned block, LOAD_DATA_RETURN of a
local load of one piece with no own store over it and no line in the snapshot fixes its data to the device's bytes at its
place, memory staying as it is: memory's bytes below physical address 2^47, and, at the statistics pages that the model
places from there on (log entry 11), such as the hub statistics', the counters' bytes. LOAD_LANDING of the only load, due and
with its data and no result issued later written at the same boundary (R70), writes S[D] with the little-endian value,
sign-extended from the load's size or zero-extended, and no other S register. -/
def Obligations.LoadedValueIsMemory : Prop :=
  ∀ (s : State) (l : LoadLanding) (p : LoadPart),
    s.core.loads = [l] → l.data = none → l.parts = [p] → p.loc.peer = none → p.own = [] → p.cached = false → p.fixed = false → p.size ≤ 64 - p.loc.pa % 64 →
    bankGet [] s.core.snap (p.loc.pa / 64) = [] → s.pubs = [] → s.atoms = [] → s.egress = [] → s.poisoned = [] → s.mem.wf = true → s.core.banks → (∀ h ∈ s.core.here, h.1 ≤ l.seq) →
    ∀ d n sx, l.dest = .s d n sx →
      (∃ t, exec (.loadDataReturn 0) s = .next t ∧ t.mem = s.mem ∧ t.core.loads = [{ l with data := some ((List.range p.size).map fun k => s.deviceByte (p.loc.pa + k)) }] ∧
        sameRegisters s.core t.core) ∧
      (∀ pa < 2 ^ 47, s.deviceByte pa = s.mem.read pa) ∧
      (∀ k < 4, ∀ off < 8, s.deviceByte (2 ^ 47 + 0x10000 + 8 * k + off) =
        BitVec.ofNat 8 ([s.fabDrop, s.collDrop, s.collBusy, s.viol].getD k 0 / 2 ^ (8 * off))) ∧
      (l.left = 0 → s.core.lands = [] → ∀ bs : List Byte, ∀ u : State, u = { s with core := { s.core with loads := [{ l with data := some bs }] } } →
        ∃ t, exec (.loadLanding 0) u = .next t ∧ t.core.loads = [] ∧ t.mem = s.mem ∧
          ∀ r, t.rs r = if r = d ∧ d ≠ 0 then
            (if sx then BitVec.ofInt 64 (((leNat bs : Nat) : Int).bmod (2 ^ (8 * n))) else BitVec.ofNat 64 (leNat bs)) else s.rs r)

/-- For every state the stores of the low 1, 2, 4 or 8 bytes of S[D], of V[D], of PAT[PT], of the active elements of V[D] at
their indexed addresses, and of a tile register's checksummed image with regenerated sums: in a tile group they raise
X_GROUP_VIOLATION; a misaligned address raises X_ALIGN; admitted to local memory outside the scratch segment, each piece's
bytes join the core's unpublished stores in order, those within one aligned 64-byte unit as one write, at the address the
effective address names, and memory and all else stay. TST with a BO that its format does not allow raises X_ILLEGAL. -/
def Obligations.StoresJoinThePhase : Prop :=
  ∀ (s : State) (d a chn esz ix px pt t bo f : Nat) (off : Int),
    let ea := s.eaM a off
    let fm := s.core.rfmt f
    let act := (List.range (if esz = 3 then 64 else 128)).filter fun i => s.core.act px i
    storesItems (.stb d a chn off) s chn [(ea, leBytes 1 (s.rs d).toNat)] 1 ∧
    storesItems (.sth d a chn off) s chn [(ea, leBytes 2 (s.rs d).toNat)] 2 ∧
    storesItems (.stw d a chn off) s chn [(ea, leBytes 4 (s.rs d).toNat)] 4 ∧
    storesItems (.std d a chn off) s chn [(ea, leBytes 8 (s.rs d).toNat)] 8 ∧
    storesItems (.vst d a chn off) s chn [(ea, leBytes 512 (s.core.rv d).toNat)] 64 ∧
    storesItems (.vstpSave pt a) s 0 [(s.eaM a 0, leBytes 64 (s.core.rpat pt).toNat)] 64 ∧
    storesItems (.vsct esz ix a d px chn) s chn
      (act.map fun i => (s.eaM a ((s.core.lane 32 ix i * 2 ^ esz : Nat) : Int), leBytes (2 ^ esz) (s.core.lane (8 * 2 ^ esz) d i))) (2 ^ esz) ∧
    (boOk fm bo = true → storesItems (.tst bo t f a chn) s chn [(s.eaM a 0, ((s.core.tileAt fm t bo).summed fm).bytes fm)] 64) ∧
    (boOk fm bo = false → s.inGroup = false → raises (.tst bo t f a chn) s .illegal)

/-! ## Atomics and synchronisation (06) -/

/-- For every state and operands the thirteen atomics and WAKE raise X_GROUP_VIOLATION in a tile group. Outside one, where
the check of the 4- or 8-byte word admits it, one request joins those on their way, with its operation, size, place,
operands, rounding mode, issue order and whether it returns; a returning one also joins the landing loads with destination
S[D] and its landing count. No register and no byte of memory changes after the earlier loads have their values. -/
def Obligations.AtomicsGoToTheHomeSlice : Prop :=
  ∀ (s : State) (o : AT) (sz b a : Nat),
    let u := s.settle.fixLoads s.core.phys
    let request (op : AtomOp) (sz : Nat) (ret : Bool) (ea : Nat) (x y : Word) (l : Loc) : Atom :=
      ⟨u.nextAtom, .cont u.core.part u.core.cont, u.core.phys, u.core.part, u.core.task, op, sz, l, va52 ea, x, y, u.core.ctx.rnd, ret,
        l.peer.isSome, u.core.pc, u.core.issued, u.now, false, false, none, [], none, none⟩
    let loads (ret : Bool) (d land : Nat) : List LoadLanding :=
      if ret then u.core.loads ++ [⟨[], .atomic d u.nextAtom, land, u.core.ctx.scope, u.core.pc, u.core.issued, u.core.phase, none⟩] else u.core.loads
    let goes (i : Instr) (op : AtomOp) (sz : Nat) (ret : Bool) (d land ea : Nat) (x y : Word) : Prop :=
      (s.inGroup = true → raises i s .groupViolation) ∧
      (s.inGroup = false → accesses i s (s.check .atomic s.scope ea (if sz = 0 then 4 else 8) (if sz = 0 then 4 else 8)) fun ps t =>
        ∃ l, ps.head?.map (·.loc) = some l ∧ t = { u with
          atoms := u.atoms ++ [request op sz ret ea x y l], nextAtom := (u.nextAtom + 1) % 2 ^ 32
          core := { u.core with issued := u.core.issued + 1, loads := loads ret d land } })
    (∀ r ∈ [(Instr.aadd o, AtomOp.add), (.afadd o, .fadd), (.axchg o, .xchg), (.acas o, .cas), (.aand o, .and), (.aor o, .or), (.axor o, .xor),
        (.amin o, .min), (.amax o, .max), (.aminu o, .minu), (.amaxu o, .maxu), (.afmin o, .fmin), (.afmax o, .fmax)],
      goes r.1 r.2 o.sz (o.nr == 0) o.d o.land (s.eaM o.a o.off) (s.rs o.b) (s.rs o.c)) ∧
    goes (.wake sz b a) .wake sz false 0 0 (s.eaM a 0) (s.rs b) 0

/-- In a canonical, unwatched memory, a local request that is not yet performed, joined or sent, before which nothing of its
core and no store held on its path need be performed, is performed by HOME_SLICE_ATOMIC in one step: the n-bit word at its
place becomes the sum, the operand, the bitwise result, or the signed or unsigned lesser or greater of old word and operand,
ACAS writing only where the old word equals its compare value; every other byte reads as before; a returning request keeps
the old word for its reply; another is done with. -/
def Obligations.HomeSlicePerformsAtomically : Prop :=
  ∀ (s : State) (k : Nat) (a : Atom), s.atoms[k]? = some a → s.unwatched → s.mem.wf = true →
    a.old = none → a.inRecord = none → a.sent = false → s.behind a = false → s.held a.core a.seq = false → s.aheadAtom a = [] → a.loc.peer = none → (∃ p r, a.owner = .cont p r) →
    let n := if a.sz = 0 then 4 else 8
    let m : Nat := 2 ^ (8 * n)
    let old := leNat (s.mem.readN a.loc.pa n)
    let b := a.b.toNat % m
    let sg (x : Nat) : Int := (x : Int).bmod m
    ∀ new, (a.op, new) ∈ [(AtomOp.add, (old + b) % m), (.xchg, b), (.wake, b), (.cas, if old = a.c.toNat % m then b else old), (.and, old &&& b),
        (.or, old ||| b), (.xor, old ^^^ b), (.min, if sg b < sg old then b else old), (.max, if sg old < sg b then b else old),
        (.minu, min old b), (.maxu, max old b)] →
      ∃ t, exec (.homeSliceAtomic k) s = .next t ∧ leNat (t.mem.readN a.loc.pa n) = new ∧ sameBytesBut s t a.loc.pa n ∧ t.mem.wf = true ∧
        (a.op = .cas → old ≠ a.c.toNat % m → t.mem = s.mem) ∧ t.core = s.core ∧
        t.atoms = if a.ret then s.atoms.map fun x => if x.id = a.id then { x with old := some (BitVec.ofNat 64 old, 0) } else x
          else s.atoms.filter (·.id != a.id)

/-- With no load outstanding, no atomic on its way, no block poisoned and nothing of an earlier phase owed, WAITA of an
admitted local word, not yet waiting, completes with the word, as the core's path shows it (R238), to S[D] at the bundle's
retirement where it differs from the n low bits of S[B]; otherwise it registers one waiter on the word and stays outside the
done mask. Already waiting, it takes up the value that a releasing evaluation read, and waits where there is none.
MONITOR_REREAD of a waiter that had fallen back releases it when the word differs. -/
def Obligations.WaitsOnAWord : Prop :=
  ∀ (s : State) (sz a d b : Nat) (off : Int),
    let n := if sz = 0 then 4 else 8
    let cmp : Word := BitVec.ofNat 64 ((s.rs b).toNat % 2 ^ (8 * n))
    (s.begun = false → s.core.unsettled = false → s.core.loads = [] → s.atoms = [] → s.poisoned = [] → s.mustWait = false →
      accesses (.waita sz a d b off) s (s.check .watched s.scope (s.eaM a off) n n) fun ps t =>
        ∃ p, ps.head? = some p ∧
          let w : Word := BitVec.ofNat 64 (leNat (s.seenN (Path.ofCore s.core.phys s.core.issued) p.loc.pa n))
          (s.pubs = [] → s.mem.wf = true → p.loc.pa + n ≤ 2 ^ 47 → w = BitVec.ofNat 64 (leNat (s.mem.readN p.loc.pa n))) ∧
          (w ≠ cmp → t = { s with core := { s.core with late := s.core.late ++ [.s d w] } }) ∧
          (w = cmp → t.core.waiting = true ∧ t.mem = s.mem ∧ sameRegisters s.core t.core ∧ ∃ f, t.monitors = s.monitors ++
            [⟨.core s.core.phys s.core.ctx.slot, p.va, p.loc.pa, n, cmp, false, f, false⟩])) ∧
    (s.begun = true → ∀ v, (s.core.released.find? (·.1 == s.core.ctx.slot)) = some (s.core.ctx.slot, v) →
      ∃ t, exec (.waita sz a d b off) s = .next t ∧ t.core.late = s.core.late ++ [.s d v] ∧ t.core.waiting = s.core.waiting ∧ t.mem = s.mem) ∧
    (s.begun = true → (s.core.released.find? (·.1 == s.core.ctx.slot)) = none →
      exec (.waita sz a d b off) s = .next { s with core := { s.core with waiting := true } }) ∧
    (∀ k (m : Monitor) slot, s.monitors[k]? = some m → s.poisoned = [] → m.fallen = true → m.bitmap = false → m.who = .core s.core.phys slot → s.watchedFrom m ≠ m.value →
      exec (.monitorReread k) s = .next { s with
        monitors := s.monitors.erase m, core := { s.core with released := s.core.released ++ [(slot, s.watchedFrom m)] } })

/-- FENCE at scope core completes with the state as it is; at a wider scope it completes where the core's atomics are
performed, its published stores are visible at the scope, at fabric scope its posted writes have left, and its loads have
their data. FLSET and FLCLR put 1 or 0 in flight to the flag with latency bound 1. FLWAIT completes where the flag has the
value. BAR of a member of a barrier group whose other members have all arrived, not yet waiting and with nothing owed,
completes: the group's generation grows by 1, every mark is cleared, and a new phase starts; with a generation recorded that
has not completed it waits; by a core that is no member it raises X_PERM. For a configured ring with a filled slot SBACQ puts
BASE times 64 plus the read position times the slot size in flight to S[D] with latency bound 2, FILLED falls by 1, the read
position goes to the next slot round the ring and the acquired count grows by 1; without a filled slot it waits; on a ring of
no slots it raises X_ILLEGAL. SBREL with an acquired slot returns it: FREE grows by 1 and the acquired count falls by 1; with
none it raises X_ILLEGAL. -/
def Obligations.FencesFlagsBarriersAndRings : Prop :=
  (∀ (s : State) (sc f v g : Nat),
    exec (.fence 0) s = .next s ∧
    (sc ≠ 0 → s.core.loads = [] → (s.fenced sc = true → exec (.fence sc) s = .next s) ∧
      (s.fenced sc = false → exec (.fence sc) s = .next { s with core := { s.core with waiting := true } })) ∧
    exec (.flset f) s = .next (s.result 1 [.fl f true]) ∧ exec (.flclr f) s = .next (s.result 1 [.fl f false]) ∧
    (s.core.fl.getLsbD f = decide (v = 1) → exec (.flwait f v) s = .next s) ∧
    (s.core.fl.getLsbD f ≠ decide (v = 1) → exec (.flwait f v) s = .next { s with core := { s.core with waiting := true } }) ∧
    (∀ g' gen, s.core.barWait = some (g', gen) → (((s.part? s.core.part).map (·.group g')).getD Group.unused).completed gen = false →
      exec (.bar g) s = .next { s with core := { s.core with waiting := true } }) ∧
    ∀ p l, s.part? s.core.part = some p → p.logical s.core.phys = some l → s.core.barWait = none →
      let e := p.group g
      (e.kind ≠ 2 ∨ hasBit e.members l = false → raises (.bar g) s .perm) ∧
      (e.kind = 2 → hasBit e.members l = true → hasBit e.arr l = false → e.next = 0 → e.gen < 2 ^ 30 →
        (∀ k < 256, hasBit e.members k = true → p.vacant k = false → k = l ∨ hasBit e.arr k = true) → p.vacant l = false → l < 256 →
        s.begun = false → s.core.loads = [] → s.core.stores = [] → s.pubs = [] → s.atoms = [] → s.egress = [] → bankWf Group.unused p.groups = true →
        ∃ t q, exec (.bar g) s = .next t ∧ t.core.waiting = s.core.waiting ∧ t.core.barWait = none ∧ t.core.phase = s.core.phase + 2 ∧
          t.part? s.core.part = some q ∧ q.group g = { e with gen := (e.gen + 1) % 2 ^ 30, arr := 0, next := 0 } ∧ t.mem = s.mem)) ∧
  (∀ (s : State) (d n : Nat),
    let w := bankGet 0 s.core.sb n
    let r := SbWord.of w
    let pos := bankGet 0 s.core.sbPos n
    let acq := bankGet 0 s.core.sbAcq n
    let ring (u : State) (w : Word) (pos acq : Nat) : State := { u with core := u.core.setRing n w pos acq }
    (r.slots = 0 → raises (.sbacq d n) s .illegal) ∧
    (r.slots ≠ 0 → r.filled = 0 → exec (.sbacq d n) s = .next { s with core := { s.core with waiting := true } }) ∧
    (r.slots ≠ 0 → r.filled ≠ 0 → ∃ w', exec (.sbacq d n) s =
        .next (ring (s.result 2 [.s d (BitVec.ofNat 64 (r.base * 64 + pos * r.size))]) w' ((pos + 1) % r.slots) (acq + 1)) ∧
      (SbWord.of w').filled = r.filled - 1 ∧ (SbWord.of w').free = r.free ∧ (SbWord.of w').slots = r.slots) ∧
    (acq = 0 → raises (.sbrel n) s .illegal) ∧
    (acq ≠ 0 → r.free < 511 → ∃ w', exec (.sbrel n) s = .next (ring s w' pos (acq - 1)) ∧
      (SbWord.of w').free = r.free + 1 ∧ (SbWord.of w').filled = r.filled ∧ (SbWord.of w').slots = r.slots))

/-! ## Continuations and system instructions (05, 10, 19) -/

/-- No block being poisoned, with an index below the safe table's entry count, SAFE, and outside a tile group JOIN, SUSPEND
on an admitted word and YIELD, note the safe point and the departure; EXIT notes the departure when the parent's counter
admits an atomic. Registers and memory stay. At the end of the bundle's last repetition, where the bundle ends no phase, the
entry becomes current, its registers the save set, and the written-since masks are cleared; an earlier repetition makes no
safe point. An index not below the count, or 0xFFFE or 0xFFFF, raises X_ILLEGAL; a table page in transit, or bytes of a table
at a peer, freeze the core; in a tile group all but SAFE raise X_GROUP_VIOLATION; a refused counter word of EXIT raises its
trap. -/
def Obligations.SafePointsAndDepartures : Prop :=
  ∀ (s : State) (a idx : Nat),
    let n := s.safeCount s.core.part s.core.task
    let here := s.safeMoves s.core.part s.core.task idx
    let marked (l : Leave) : State := { s with core := { s.core with
      point := some (idx, s.safeEntry s.core.part s.core.task idx), leave := some l } }
    (s.poisoned = [] → here = none → idx < n → idx < 0xFFFE → exec (.safe idx) s = .next (marked (.preempt s.core.pc)) ∧
      (s.inGroup = false → exec (.join idx) s = .next (marked (.join s.core.pc)) ∧ exec (.yield idx) s = .next (marked .yield) ∧
        accesses (.suspend a idx) s (s.check .watched 3 (s.rs a).toNat 4 4) fun ps t =>
          ∃ p, ps.head? = some p ∧ t = marked (.suspend p.va p.loc.pa s.core.pc))) ∧
    (s.poisoned = [] → here = none → n ≤ idx ∨ idx = 0xFFFE ∨ idx = 0xFFFF → raises (.safe idx) s .illegal ∧
      (s.inGroup = false → raises (.join idx) s .illegal ∧ raises (.yield idx) s .illegal ∧ raises (.suspend a idx) s .illegal)) ∧
    (∀ f, here = some f → exec (.safe idx) s = .next { s with core := { s.core with frozen := some f } } ∧
      (s.inGroup = false → ∀ i ∈ [Instr.join idx, .yield idx, .suspend a idx],
        exec i s = .next { s with core := { s.core with frozen := some f } })) ∧
    (s.inGroup = true → raises (.join idx) s .groupViolation ∧ raises (.yield idx) s .groupViolation ∧
      raises (.suspend a idx) s .groupViolation ∧ raises .exit s .groupViolation) ∧
    (s.inGroup = false → accesses .exit s (s.parentCheck s.core.parent) fun _ t => t = { s with core := { s.core with leave := some .exit } }) ∧
    ∀ (b : Bundle) (live : LiveMask), s.core.point = some (idx, live) → b.header.ph = false → b.ops.any (fun o => endsPhase o.instr) = false →
      let t := State.endRepetition b none s
      (s.core.rep = b.header.rep → t.core.safeIdx = idx ∧ t.core.saved = live ∧ t.core.written = LiveMask.none ∧ t.core.point = none) ∧
      (s.core.rep ≠ b.header.rep → t.core.safeIdx = s.core.safeIdx ∧ t.core.saved = s.core.saved ∧ t.core.point = none)

/-- In a tile group SPAWN raises X_GROUP_VIOLATION. Outside one, with a 64-byte aligned writable record at S[A], a counter
word of S[B] that admits an atomic, and a record whose state is none of ready, running, suspended and faulted, once all that
the core has issued before is performed (until then it freezes), the core's stores are published at least at device scope,
then JOIN 0, TASK, DEADLINE, state 0, SAFEIDX 0xFFFF, PARENT, SCRATCH and cause 0 are written to the record in this order,
the parent's counter grows by 1 where S[B] is not 0, the record is listed as published with channels of its own, and it
becomes ready. A record in one of those states raises X_ILLEGAL; a refused record or counter word its trap, and one in
transit freezes the core. -/
def Obligations.SpawnPublishesAChild : Prop :=
  ∀ (s : State) (a b : Nat),
    let r := (s.rs a).toNat
    let parent := (s.rs b).toNat
    let v := s.finishOwn
    let u := (v.publishNow 3).settle
    let c := u.core
    (s.inGroup = true → raises (.spawn a b) s .groupViolation) ∧
    (s.inGroup = false → r % 64 ≠ 0 → exec (.spawn a b) s = .next (s.takeTrap { no := .align, addr := r })) ∧
    (s.inGroup = false → ∀ t, s.check .record 3 r 64 64 = .trap t → exec (.spawn a b) s = .next (s.takeTrap t)) ∧
    (s.inGroup = false → ∀ f, s.check .record 3 r 64 64 = .freeze f → exec (.spawn a b) s = .next { s with core := { s.core with frozen := some f } }) ∧
    ∀ ps, s.inGroup = false → s.check .record 3 r 64 64 = .ok ps →
      (∀ t, s.parentCheck parent = .trap t → exec (.spawn a b) s = .next (s.takeTrap t)) ∧
      (∀ f, s.parentCheck parent = .freeze f → exec (.spawn a b) s = .next { s with core := { s.core with frozen := some f } }) ∧
      ∀ qs, s.parentCheck parent = .ok qs →
      (v.owing = true → exec (.spawn a b) s = .next { v with core := { v.core with frozen := some .publish } }) ∧
      (v.owing = false → 1 ≤ v.recSt v.core.part (va52 r) ∧ v.recSt v.core.part (va52 r) ≤ 4 → exec (.spawn a b) s = .next (v.takeTrap { no := .illegal })) ∧
      (v.owing = false → ¬ (1 ≤ v.recSt v.core.part (va52 r) ∧ v.recSt v.core.part (va52 r) ≤ 4) →
        ∃ t, exec (.spawn a b) s = .next t ∧
          let fields : List (Nat × Nat × Nat) := [(16, 4, 0), (20, 4, c.task), (24, 8, c.deadline), (32, 4, 0), (36, 2, 0xFFFF), (40, 8, parent),
            (48, 8, c.scratch), (56, 8, 0)]
          let v := fields.foldl (fun v f => v.hubWrite c.part r f.1 f.2.1 f.2.2) u
          let w := if parent = 0 then v else v.hubWrite c.part parent 16 4 ((v.readRec c.part parent 16 4 + 1) % 2 ^ 32)
          t = (((w.dropSaved c.part r).orphanChans c.part r).onPart c.part fun p => { p with recs := p.recs.filter (·.1 != r) ++ [(r, c.task)] }).readyRec c.part r)

/-- FUSE of the last member to arrive, all of them with the same N and the rest of its bundle executed, fuses it with its
index, its own stride and the lead's record, in a core that is fused already too (log entry 32); while a member is missing it
waits with its arrival noted, and retires when the last has arrived; where members name different sizes it waits and
X_ILLEGAL is due; by a task that does not hold the shape it raises X_PERM. DECPL marks a fused core to decouple after its
bundle and does nothing in another. REJN retires at once in a core that has never fused, and otherwise once its release has
come or every member waits in REJN; until then it waits. -/
def Obligations.TandemFusion : Prop :=
  ∀ (s : State) (a n : Nat),
    let size := if n = 0 then 2 else 4
    let u : State := { s with core := { s.core with fuseArrived := some (size, (s.rs a).toInt) } }
    let done := s.core.released.find? (·.1 == s.core.ctx.slot)
    (∀ v, done = some (s.core.ctx.slot, v) →
      exec (.fuse a n) s = .next { s with core := { s.core with released := s.core.released.filter (·.1 != s.core.ctx.slot) } }) ∧
    (done = none → s.holdsSet size = false → raises (.fuse a n) s .perm) ∧
    (done = none → s.holdsSet size = true → s.disagreeing size ≠ [] →
      ∃ t, exec (.fuse a n) s = .next t ∧ t.core.waiting = true ∧ t.core.landTrap = some { no := .illegal } ∧ t.mem = s.mem) ∧
    (done = none → s.holdsSet size = true → s.disagreeing size = [] → s.core.ctx.full = false →
      exec (.fuse a n) s = .next { s with core := { s.core with waiting := true } }) ∧
    (done = none → s.holdsSet size = true → s.disagreeing size = [] → s.core.ctx.full = true →
      (u.allArrived size = false → exec (.fuse a n) s = .next { u with core := { u.core with waiting := true } }) ∧
      (u.allArrived size = true → ∃ t, exec (.fuse a n) s = .next t ∧ t.core.waiting = s.core.waiting ∧
        t.core.fused = some ⟨size, s.core.phys % size, (s.rs a).toInt, (u.coreOf (s.core.phys / size * size)).cont⟩ ∧
        t.mem = s.mem ∧ sameRegisters s.core t.core)) ∧
    (∀ f, s.core.fused = some f → exec .decpl s = .next { s with core := { s.core with leave := some .decouple } }) ∧
    (s.core.fused = none → exec .decpl s = .next s) ∧
    (s.core.lastFused = none → exec .rejn s = .next s) ∧
    (∀ f v, s.core.lastFused = some f → s.core.released.find? (·.1 == s.core.ctx.slot) = some (s.core.ctx.slot, v) →
      exec .rejn s = .next { s with core := { s.core with released := s.core.released.filter (·.1 != s.core.ctx.slot) } }) ∧
    (∀ f, s.core.lastFused = some f → s.core.released.find? (·.1 == s.core.ctx.slot) = none →
      let v : State := { s with core := { s.core with rejoined := true } }
      ((v.rejoining f).length ≠ f.size → exec .rejn s = .next { v with core := { v.core with waiting := true } }) ∧
      ((v.rejoining f).length = f.size → ∃ t, exec .rejn s = .next t ∧ t.core.waiting = s.core.waiting ∧ t.mem = s.mem))

/-- Where every other op word of the bundle has executed, TRAP and BREAK, after the bundle's late writes, take X_SYSCALL and
X_BREAK with the code as ARG and the next bundle as resume point: the target of a branch that the bundle took, else the
header that follows. Otherwise they take it at their own bundle, with their slot in the done mask. Taking a trap whose frame
is not in transit leaves the core without a continuation and marks the trap. -/
def Obligations.SoftwareTrapsEnterTheHandler : Prop :=
  ∀ (s : State) (code : Nat),
    (∀ r ∈ [(Instr.trap code, TrapNo.syscall), (.brk code, .brk)],
      (s.core.ctx.full = true → exec r.1 s = .next (({ s with core := { s.core.writes s.core.late with late := [], gated := false, closed := false, start := none, current := none } } : State).takeTrap
        { no := r.2, arg := code, resume := some (s.core.branch.getD ((s.core.pc + 4 * s.core.ctx.wc) % 2 ^ 64)) })) ∧
      (s.core.ctx.full = false → exec r.1 s = .next (({ s with core := { s.core with done := s.core.done ||| 2 ^ s.core.ctx.slot } } : State).takeTrap
        { no := r.2, arg := code }))) ∧
    ∀ t : Trap, s.frameInTransit = none →
      (s.takeTrap t).trapTaken = some t ∧ (s.takeTrap t).core.running = false ∧ (s.takeTrap t).core.cont = 0

/-- With the stores of an ended phase performed, where S[A] names a published record of the partition in the faulted state
with a readable frame and the handler's parent word admits an atomic, TRET releases the record at its resume point and
TRET_NEXT writes the address of the following bundle as its resume point, drops its done mask and landing loads, clears RES
and releases it; both then leave as by EXIT. Where S[A] names no such record, or the resume point is no bundle, they raise
X_ILLEGAL; a resume point or parent word in transit freezes the core, a refused parent word raises its trap. -/
def Obligations.ReturnsFromAnException : Prop :=
  ∀ (s : State) (a : Nat),
    let r := (s.rs a).toNat
    let part := s.core.part
    let u := s.settle
    let q := u.core.part
    let frozen (t : State) (f : Freeze) : State := { t with core := { t.core with frozen := some f } }
    let gone (t : State) : State := { t with core := { t.core with leave := some .exit } }
    (u.tretOk r = false → raises (.tret a) s .illegal ∧ raises (.tretNext a) s .illegal) ∧
    (u.tretOk r = true ↔ (∃ p, u.part? q = some p ∧ ∃ x ∈ p.recs, x.1 = r) ∧ u.recSt q r = 4 ∧ u.recState q r / 2 ^ 9 % 2 = 0) ∧
    (u.tretOk r = true → u.codeMoves part (u.recCode part r) = true → exec (.tretNext a) s = .next (frozen s (.transit (u.recCode part r)))) ∧
    (u.tretOk r = true → ∀ f, u.parentCheck u.core.parent = .freeze f → exec (.tret a) s = .next (frozen u f)) ∧
    (u.tretOk r = true → ∀ t, u.parentCheck u.core.parent = .trap t → exec (.tret a) s = .next (u.takeTrap t)) ∧
    (u.tretOk r = true → ∀ ps, u.parentCheck u.core.parent = .ok ps →
      exec (.tret a) s = .next (gone (u.releaseFaulted q r)) ∧
      ∀ next, u.codeMoves part (u.recCode part r) = false → u.bundleAfter part (u.recCode part r) = some next →
        exec (.tretNext a) s = .next (gone ((((u.hubWrite part r 0 8 next).onSaved part r fun x =>
          { x with resume := x.resume.bind (·.skipped next) }).setRecBits part r 6 1 0).releaseFaulted part r))) ∧
    (u.tretOk r = true → u.codeMoves part (u.recCode part r) = false → u.bundleAfter part (u.recCode part r) = none → raises (.tretNext a) s .illegal)

/-- For every state CTLR of each index of Table 3-2 puts that register's value in flight to S[D] with latency bound 2,
reserved bits reading 0 and CTL.FSTAT with the flags of what the ended phases owed (R35), and of any other index raises
X_ILLEGAL; GETID puts the identifier of kinds 0 to 8 in flight and raises X_ILLEGAL for another; TIME puts the device time in
ns in flight with latency bound 4. -/
def Obligations.ControlRegisterReads : Prop :=
  ∀ (s : State) (d : Nat),
    let c := s.core
    let reads (i : Nat) (x : Nat) : Prop := writesScalar (.ctlr i d) s 2 d fun z => z.toNat = x % 2 ^ 64
    (∃ z : Word, exec (.ctlr 0 d) s = .next (s.settle.result 2 [.s d z]) ∧ z.toNat = s.settle.core.fstat.toNat) ∧ reads 1 c.mode.toNat ∧ reads 2 c.fl.toNat ∧ reads 3 c.safecnt ∧ reads 4 c.task ∧ reads 5 c.cont ∧
    (∀ k < 8, reads (8 + k) (bankGet 0 c.qstall k).toNat) ∧ reads 0x11 c.inject.toNat ∧ (∀ k < 16, reads (0x40 + k) (bankGet 0 c.sb k).toNat) ∧
    reads 0x10 (s.logicalOf c.phys + 1024 * c.phys) ∧
    (∀ p, s.part? c.part = some p → reads 0x20 p.srseed.toNat ∧ reads 0x21 p.ulim ∧ reads 0x22 p.premin ∧ reads 0x23 p.wcore ∧
      reads 0x24 p.wcopy ∧ reads 0x25 p.wcoll ∧ reads 0x26 p.monfull) ∧
    (∀ i, i ∈ [6, 7] ∨ (0x12 ≤ i ∧ i < 0x20) ∨ (0x27 ≤ i ∧ i < 0x40) ∨ 0x50 ≤ i → raises (.ctlr i d) s .illegal) ∧
    (∀ r ∈ [(0, s.logicalOf c.phys), (1, c.phys), (2, c.phys / 4 % 16), (3, c.phys / 64), (4, s.devId), (5, c.part), (6, c.task), (7, c.member), (8, c.cont)],
      writesScalar (.getid r.1 d) s 2 d fun z => z.toNat = r.2 % 2 ^ 64) ∧
    (∀ k, 9 ≤ k → raises (.getid k d) s .illegal) ∧
    (writesScalar (.time d) s 4 d fun z => z.toNat = s.now % 2 ^ 64)

/-- CTLW of S[A] clears the CTL.FSTAT bits written as 1, those that the atomics of ended phases have set among them (R35),
sets CTL.MODE to the low two bits, puts all 64 flags in flight, sets a stall counter; writes to the read-only registers
change nothing; a register of the partition raises X_PERM; an unlisted index X_ILLEGAL. A write of CTL.INJECT keeps ARM, SET,
ROW, COL and BIT, leaves queued matrix instructions their injections without the clearing of ARM (log entry 34), and with ARM
where the partition's debug is off it raises X_PERM. A descriptor write of an idle ring within the scratch segment sets FREE
to SLOTS, FILLED to 0 and restarts the ring; of a busy one it raises X_ILLEGAL. HBEAT with a value above the greatest
recorded for the task records it and restarts the task's heartbeat timer and the core's timer at the device time; with
another value nothing changes. FMTSET with a well-formed descriptor in the low 32 bits of S[A] leaves it to the retirement of
its bundle, whose last repetition writes FMT[F]; with another it raises X_FORMAT. -/
def Obligations.ControlRegisterWrites : Prop :=
  (∀ (s : State) (a : Nat),
    let x := s.rs a
    exec (.ctlw 0 a) s = .next { s.settle with core := { s.settle.core with fstat := s.settle.core.fstat &&& ~~~(x.setWidth 6) } } ∧
    exec (.ctlw 1 a) s = .next { s with core := { s.core with mode := x.setWidth 2 } } ∧
    exec (.ctlw 2 a) s = .next (s.result 1 [.fls x]) ∧
    (∀ i ∈ [3, 4, 5, 0x10], exec (.ctlw i a) s = .next s) ∧
    (∀ k < 8, exec (.ctlw (8 + k) a) s = .next { s with core := { s.core with qstall := bankSet 0 s.core.qstall k x } }) ∧
    (∀ k < 7, raises (.ctlw (0x20 + k) a) s .perm) ∧
    (∀ i, i ∈ [6, 7] ∨ (0x12 ≤ i ∧ i < 0x20) ∨ (0x27 ≤ i ∧ i < 0x40) ∨ 0x50 ≤ i → raises (.ctlw i a) s .illegal) ∧
    (∀ i ∈ [Instr.injectArm a, .ctlw 0x11 a],
      (x.getLsbD 31 = true → (∀ p, s.part? s.core.part = some p → p.quotas.debug = false) → raises i s .perm) ∧
      (x.getLsbD 31 = false ∨ (∃ p, s.part? s.core.part = some p ∧ p.quotas.debug = true) →
        exec i s = .next { s with core := { s.core with inject := x &&& 0xFFFF001F#64, array := s.core.array.map fun m => { m with disarms := false } } })) ∧
    (∀ n < 16, ∀ i ∈ [Instr.sbDescriptorWrite n a, .ctlw (0x40 + n) a],
      let r := SbWord.of x
      (s.ringBusy n = true ∨ 0x1000000 < r.base * 64 + r.slots * r.size → raises i s .illegal) ∧
      (s.ringBusy n = false → r.base * 64 + r.slots * r.size ≤ 0x1000000 →
        ∃ w, exec i s = .next { s with core := s.core.setRing n w 0 0 } ∧ (SbWord.of w).filled = 0 ∧ (SbWord.of w).free = r.slots ∧
          (SbWord.of w).slots = r.slots ∧ (SbWord.of w).size = r.size ∧ (SbWord.of w).base = r.base))) ∧
  (∀ (s : State) (a f : Nat),
    (∀ t, s.task? s.core.part s.core.task = some t →
      (t.hbeat < (s.rs a).toNat → ∃ u t', exec (.hbeat a) s = .next u ∧ u.task? s.core.part s.core.task = some t' ∧
        t' = { t with hbeat := (s.rs a).toNat, hbTimer := s.now } ∧ u.core = { s.core with coreTimer := s.now } ∧ u.mem = s.mem) ∧
      ((s.rs a).toNat ≤ t.hbeat → exec (.hbeat a) s = .next s)) ∧
    (descWellFormed ((s.rs a).toNat % 2 ^ 32) = true →
      ∃ z : W32, z.toNat = (s.rs a).toNat % 2 ^ 32 ∧ exec (.fmtset f a) s = .next { s with core := { s.core with late := s.core.late ++ [.fmt f z] } }) ∧
    (∀ (b : Bundle) (z : W32), s.core.late = [.fmt f z] → b.header.ph = false → b.ops.any (fun o => endsPhase o.instr) = false →
      let t := State.endRepetition b none s
      (s.core.rep = b.header.rep → t.core.fmt = (s.core.write (.fmt f z)).fmt ∧ t.core.late = []) ∧
      (s.core.rep ≠ b.header.rep → t.core.fmt = s.core.fmt ∧ t.core.late = s.core.late)) ∧
    (descWellFormed ((s.rs a).toNat % 2 ^ 32) = false → raises (.fmtset f a) s .format))

/-! ## Engine commands and the weight decoder (09, 13) -/

/-- Once all that the core issued before is performed, until which it freezes, CPOST of 0 re-kicks its channel; of a 64-byte
aligned readable and writable head it queues the head after a phase start at device scope; on a full queue it raises X_QFULL
or waits and counts. CPINV drops the parameter caches of its cluster's engines and of those that walk its chains; CQRY
answers CURRENT, STATE, LAST and COUNT. Where the core owes nothing to memory and no block is poisoned, CWAIT on a word that,
on the core's path, holds its mask starts a phase once the rest of its bundle has executed, and else registers and waits;
CTEST writes 1 to its flag and disarms a test on it, or 0 and arms one that waits on the word, or stalls on eight. In a group
CPOST and CPINV raise X_GROUP_VIOLATION. -/
def Obligations.CopyChannelsAndBitmapWaits : Prop :=
  ∀ (s : State) (ch a b d f : Nat),
    let c := s.core
    let h := (s.rs a).toNat
    let mask := s.rs b
    let x := s.myChan ch
    let v := s.finishOwn
    let k := v.core
    let y := v.myChan ch
    let kicked : Chan := { y with walk := y.walk.map fun w => { w with parked := false } }
    let u := v.enginePost
    let posted (y : Chan) : Prop :=
      (v.owing = true → exec (.cpost ch a) s = .next { v with core := { k with frozen := some .publish } }) ∧
      (v.owing = false → ∃ t, exec (.cpost ch a) s = .next t ∧ { t with chans := u.chans } = u ∧
        t.chan? k.part k.cont ch = some y ∧ ∀ z, z.is k.part k.cont ch = false → (z ∈ t.chans ↔ z ∈ u.chans))
    let word (p : Piece) : Word := BitVec.ofNat 64 (leNat (s.seenN (Path.ofCore c.phys c.issued) p.loc.pa 8))
    let others := c.tests.filter (·.fl != f)
    (s.inGroup = true → raises (.cpost ch a) s .groupViolation ∧ raises .cpinv s .groupViolation) ∧
    (s.inGroup = false → h = 0 → posted kicked) ∧
    (s.inGroup = false → h ≠ 0 → h % 64 ≠ 0 → exec (.cpost ch a) s = .next (s.takeTrap { no := .align, addr := h })) ∧
    (∀ ps, s.inGroup = false → h ≠ 0 → s.check .rw 3 h 1 64 = .ok ps →
      (x.heads.length < 16 → posted { kicked with heads := y.heads ++ [⟨h, k.task, false⟩], cluster := clusterOf k.phys }) ∧
      (16 ≤ x.heads.length → c.mode.getLsbD 1 = true → raises (.cpost ch a) s .qfull) ∧
      (16 ≤ x.heads.length → c.mode.getLsbD 1 = false → s.freshIssue = true → exec (.cpost ch a) s = .next { s with core := { c with
        qstall := bankSet 0 c.qstall ch (bankGet 0 c.qstall ch + 1), stall := some (.chan ch), waiting := true } })) ∧
    (s.inGroup = false →
      let es := (List.range 8).map (s.engineFor (clusterOf c.phys)) ++ (s.chans.filter fun y => y.of c.part c.cont).filterMap fun y => y.walk.map (·.engine)
      exec .cpinv s = .next { s with params := s.params.filter fun p => !es.contains p.1 }) ∧
    writesScalar (.cqry ch d) s 4 d (fun z => z = BitVec.ofNat 64
      ((match x.walk with | some w => va52 w.va / 64 * 2 ^ 18 | none => ((x.heads.head?).map fun y => va52 y.va / 64 * 2 ^ 18).getD 0) +
        (if x.heads = [] then (if x.bad then 3 else 0) else if (x.walk.map (·.parked)).getD false then 2 else 1) * 2 ^ 16 +
        x.last * 256 + x.heads.length)) ∧
    (s.begun = true → (∀ y ∈ c.released, y.1 ≠ c.ctx.slot) → exec (.cwait a b) s = .next { s with core := { c with waiting := true } }) ∧
    (s.begun = true → (∃ y ∈ c.released, y.1 = c.ctx.slot) → c.ctx.full = true → exec (.cwait a b) s = .next (s.phaseStart 0)) ∧
    (c.unsettled = false → c.loads = [] → s.atoms = [] → s.poisoned = [] → s.mustWait = false → ∀ p ps, s.checkBitmap h = .ok (p :: ps) →
      (s.begun = false → word p &&& mask = mask →
        let v := s.onCore fun c => { c with released := c.released ++ [(c.ctx.slot, word p)] }
        (c.ctx.full = true → exec (.cwait a b) s = .next (v.phaseStart 0)) ∧
        (c.ctx.full = false → exec (.cwait a b) s = .next { v with core := { v.core with waiting := true } })) ∧
      (s.begun = false → word p &&& mask ≠ mask → ∃ t fallen, exec (.cwait a b) s = .next t ∧ t.core = { c with waiting := true } ∧
        t.mem = s.mem ∧ t.monitors = s.monitors ++ [⟨.core c.phys c.ctx.slot, p.va, p.loc.pa, 8, mask, true, fallen, (p :: ps).any (·.scratch)⟩]) ∧
      (word p &&& mask = mask → exec (.ctest f a b) s = .next (({ s with
          core := { c with tests := others }, monitors := s.monitors.filter fun m => m.who != .test c.phys f } : State).result 2 [.fl f true])) ∧
      (word p &&& mask ≠ mask → others.length < 8 → ∃ t fallen, exec (.ctest f a b) s = .next t ∧ t.mem = s.mem ∧
        t.core = ({ c with tests := others ++ [⟨p.va, p.loc, mask, f, c.issued⟩] } : Core).result 2 [.fl f false] ∧
        t.monitors = (s.monitors.filter fun m => m.who != .test c.phys f)
          ++ [⟨.test c.phys f, p.va, p.loc.pa, 8, mask, true, fallen, (p :: ps).any (·.scratch)⟩]) ∧
      (word p &&& mask ≠ mask → 8 ≤ others.length → c.mode.getLsbD 1 = true → raises (.ctest f a b) s .qfull) ∧
      (word p &&& mask ≠ mask → 8 ≤ others.length → c.mode.getLsbD 1 = false →
        exec (.ctest f a b) s = .next { s with core := { c with stall := some .tests, waiting := true } })) ∧
    (c.gated = true → (c.flChanged = true → exec .guardReissue s = .next s) ∧ (c.requeue = true → exec .queueStallReissue s = .next s)) ∧
    (c.gated = false → ∀ k, (s.allCores.find? (fun c => c.gated && c.flChanged) = some k → exec .guardReissue s = .next (s.focus k.phys)) ∧
      (s.allCores.find? (fun c => c.gated && c.requeue) = some k → exec .queueStallReissue s = .next (s.focus k.phys))) ∧
    (∀ n, s.badRoot = none → s.emptied = none → s.recalled = some n → (s.focus n).crew ≠ [] → step s = (s.focus n).coreStep exec 1)

/-- In a group all three raise X_GROUP_VIOLATION. DCFG with a readable, 64-byte aligned record of local memory raises the
first failing check of Table 9-5, freezes for earlier operations of the core or for a peer's reply, or starts a stream at the
record's source and first block, with nothing read, released or written, after a phase start at device scope. VLDX on a FIFO
stream puts a 512-byte pop of V[D] in flight, the next 512 bytes in order, and VLDX_WAIT on a written one answers the
completed blocks once everything is written, raises the failure's trap, or waits; the wrong kind or no stream is X_ILLEGAL.
Registers and memory stay. -/
def Obligations.DecoderStreamsAndPops : Prop :=
  ∀ (s : State) (a land d : Nat),
    let c := s.core
    let m := (s.rs a).toNat
    (s.inGroup = true → raises (.dcfg a) s .groupViolation ∧ raises (.vldx land d) s .groupViolation ∧ raises (.vldxWait d) s .groupViolation) ∧
    (s.inGroup = false → c.stream = none → raises (.vldx land d) s .illegal ∧ raises (.vldxWait d) s .illegal) ∧
    (s.inGroup = false → m % 64 ≠ 0 → exec (.dcfg a) s = .next (s.takeTrap { no := .align, addr := m })) ∧
    let v := s.finishOwn
    let frozen (f : Freeze) : State := { v with core := { v.core with frozen := some f } }
    (∀ p ps, s.inGroup = false → s.check .read 3 m 64 64 = .ok (p :: ps) →
      (v.owing = true → exec (.dcfg a) s = .next (frozen .publish)) ∧
      (v.owing = false → ∀ w u, v.readNow 0 p = (.inr w, u) → exec (.dcfg a) s = .next (frozen w))) ∧
    (∀ p ps bs r, s.inGroup = false → s.check .read 3 m 64 64 = .ok (p :: ps) → v.owing = false → v.readNow 0 p = (.inl bs, r) →
      let u := r
      (∀ t, u.core.cfgTrap bs = some t → exec (.dcfg a) s = .next (u.takeTrap { no := t })) ∧
      (u.core.cfgTrap bs = none → ∃ t st, exec (.dcfg a) s = .next t ∧ t.core.stream = some st ∧
        let n := leNat bs
        st.cfg = ⟨field n 0 64, field n 64 32, field n 96 16, field n 112 8, field n 120 8, field n 128 64, field n 192 8, field n 200 8,
          field n 208 8, field n 216 8, field n 224 32, (u.core.rfmt (field n 208 4)).lane⟩ ∧
        st.next = field n 0 64 ∧ st.blk = field n 224 32 ∧ st.phase = .reading ∧ st.buf = [] ∧ st.ahead = [] ∧ st.fifo = [] ∧ st.taken = 0 ∧ st.written = 0 ∧ st.completed = 0
          ∧ st.fail = none ∧ t.mem = (u.enginePost).mem ∧ sameRegisters (u.enginePost).core t.core)) ∧
    (∀ st, s.inGroup = false → c.stream = some st →
      (st.cfg.dest ≠ 0 → raises (.vldx land d) s .illegal) ∧
      (st.cfg.dest = 0 → raises (.vldxWait d) s .illegal ∧ exec (.vldx land d) s = .next { s with core := { c with
        loads := c.loads ++ [⟨[], .pop d st.popNext, land, c.ctx.scope, c.pc, c.issued, c.phase, none⟩]
        issued := c.issued + 1
        stream := some { st with popNext := st.popNext + 512 } } }) ∧
      (st.cfg.dest ≠ 0 → ¬ (st.written = st.avail ∧ (st.phase = .done ∨ st.fail.isSome = true)) →
        exec (.vldxWait d) s = .next { s with core := { c with waiting := true } }) ∧
      (st.cfg.dest ≠ 0 → st.written = st.avail →
        (st.fail = none → st.phase = .done → exec (.vldxWait d) s = .next { s with core := { c with
          late := c.late ++ [.s d (BitVec.ofNat 64 st.completed)] } }) ∧
        (∀ b row stat, st.fail = some (b, row, stat) → exec (.vldxWait d) s = .next (s.takeTrap
          { no := if row = 2 then .decRatio else if row = 3 ∨ row = 4 then .decLength else .decCheck, arg := b, stat := stat }))))

/-- While the acting continuation's stream has not failed: a source read takes the next bytes up to a 64-byte unit from
memory, those of the block in decode and then, while it goes on, the next block's header; a complete header fails its block
if malformed (row 1) or above the declared ratio (row 2), else is parsed with 4 or 8 cycles; a whole block with room is
decoded, cut off past its length or its cycle bound (row 3) or failed short of its length (row 4), its cycles counted; its
CRC is compared 2 cycles later: past the bound it is cut off, with a wrong CRC it fails (row 5), else its bytes join the FIFO
and the next block begins. A released unit goes to a tile register's row outside a group; a block's bytes leave the FIFO when
all of them have been written. Nothing else of registers or memory changes. -/
def Obligations.DecoderReadsChecksAndReleases : Prop :=
  ∀ (s : State) (st : Stream), s.core.running = true → s.core.stream = some st → st.fail = none →
    let set (x : Stream) : State := { s with core := { s.core with stream := some x } }
    let h := Machine.Header.of st.buf
    let bound := h.exp / 16 + 64
    let failed (row stat : Nat) (out : List Byte) : Stream := { st with
      fail := some (st.blk, row, stat), fifo := st.fifo ++ (if st.cfg.dest = 0 then [] else out), buf := [], ahead := [], yield := [] }
    let unit (x : Nat) : Nat := (x + 63) / 64 * 64 % 2 ^ 64
    let start := if st.wanted = 0 ∧ st.ahead = [] then unit st.next else st.next
    let n := min (if st.wanted ≠ 0 then st.wanted else st.ahead?) (64 - start % 64)
    (n = 0 → exec .decoderSourceRead s = .next s) ∧
    (∀ bs, 0 < n → s.peek s.decAgent start n = .ok bs → s.reads = [] →
      (st.wanted ≠ 0 → exec .decoderSourceRead s = .next (set { st with buf := st.buf ++ bs, next := (start + n) % 2 ^ 64 })) ∧
      (st.wanted = 0 → exec .decoderSourceRead s = .next (set { st with ahead := st.ahead ++ bs, next := (start + n) % 2 ^ 64 }))) ∧
    (∀ e, 0 < n → s.peek s.decAgent start n = .error (.fail e) →
      let stat := if e = stPage then e else stPerm
      (st.wanted ≠ 0 → exec .decoderSourceRead s = .next (set (failed 0 stat []))) ∧
      (st.wanted = 0 → exec .decoderSourceRead s = .next (set { st with aheadFail := some stat }))) ∧
    (st.phase = .reading → headerLen st.cfg.codec ≤ st.buf.length →
      (headerBad st.cfg st.buf = true → exec .headerParse s = .next (set (failed 1 stOk []))) ∧
      (headerBad st.cfg st.buf = false → st.cfg.ratio * h.clen < h.exp * 256 → exec .headerParse s = .next (set (failed 2 stOk []))) ∧
      (headerBad st.cfg st.buf = false → h.exp * 256 ≤ st.cfg.ratio * h.clen →
        exec .headerParse s = .next (set { st with phase := .parsed, cycles := if st.cfg.codec = 0 then 4 else 8 }))) ∧
    (st.phase = .parsed → st.fifo.length + h.exp ≤ 8192 → headerLen st.cfg.codec + h.clen ≤ st.buf.length →
      let out := blockBytes st.cfg h st.buf
      let w := if st.cfg.codec = 0 then 32 else 16
      let cy := st.cycles + (h.exp + (w - 1)) / w
      (st.capacity < min out.length h.exp → exec .blockDecode s = .next (set (failed 3 stLength (out.take st.capacity)))) ∧
      (min out.length h.exp ≤ st.capacity → h.exp < out.length ∨ bound < cy → exec .blockDecode s = .next (set (failed 3 stLength (out.take h.exp)))) ∧
      (min out.length h.exp ≤ st.capacity → out.length < h.exp → cy ≤ bound → exec .blockDecode s = .next (set (failed 4 stOk out))) ∧
      (min out.length h.exp ≤ st.capacity → out.length = h.exp → cy ≤ bound → exec .blockDecode s =
        .next (set { st with phase := .decoded, yield := out, crc := crc32c out, cycles := cy }))) ∧
    (st.phase = .parsed ∨ st.phase = .decoded → bound < st.cycles →
      exec .cycleBoundCutoff s = .next (set (failed 3 stLength st.yield))) ∧
    (st.cycles ≤ bound → exec .cycleBoundCutoff s = .next s) ∧
    (st.phase = .decoded →
      (bound < st.cycles + 2 → exec .crcCompare s = .next (set (failed 3 stLength st.yield))) ∧
      (st.cycles + 2 ≤ bound → st.crc ≠ h.crc → exec .crcCompare s = .next (set (failed 5 stOk []))) ∧
      (st.cycles + 2 ≤ bound → st.crc = h.crc →
        let new : Stream := { st with
          fifo := st.fifo ++ st.yield
          ends := if st.cfg.dest = 0 then [] else st.ends ++ [st.taken + st.fifo.length + st.yield.length]
          blk := st.blk + 1, next := if st.ahead = [] then unit st.next else st.next, buf := st.ahead, ahead := [], aheadFail := none
          yield := [], crc := 0, cycles := 0
          phase := if st.blk + 1 = st.cfg.nblk then .done else .reading }
        (st.aheadFail = none → exec .crcCompare s = .next (set new)) ∧
        ∀ e, st.aheadFail = some e → exec .crcCompare s = .next (set { new with fail := some (new.blk, 0, e), buf := [] }))) ∧
    (st.written = st.avail → exec .decoderDestWrite s = .next s) ∧
    (st.written ≠ st.avail → st.cfg.dest = 1 → s.inGroup = true → exec .decoderDestWrite s = .next s) ∧
    (st.written ≠ st.avail → st.cfg.dest = 1 → s.inGroup = false →
      let row := 16 * st.cfg.lane
      let b := 32 * st.cfg.dbo + st.written % row
      let bs := (st.fifo.drop (st.written - st.taken)).take (min (64 - b % 64) (row - st.written % row))
      let past := st.written + bs.length
      let full := st.ends.filter fun e => decide (e ≤ past)
      let base := full.foldl max st.taken
      st.cfg.dtile < 8 → st.cfg.drow + st.written / row < 128 → b + bs.length ≤ 512 →
      ∃ t, exec .decoderDestWrite s = .next t ∧ onlyCore s t ∧ t.core.s = s.core.s ∧ t.core.v = s.core.v ∧ t.core.p = s.core.p ∧
        t.core.stream = some { st with
          written := past, fifo := st.fifo.drop (base - st.taken), taken := base
          ends := st.ends.filter fun e => decide (past < e), completed := st.completed + full.length })

/-! ## Vector and predicate instructions (07) -/

/-- For every integer element of width w of 1 to 64, signed or unsigned, and every exact integer result: without SAT the code
stored is the result modulo 2^w and no flag is raised; with SAT the integer stored is the result clamped to the destination's
range, SA being raised exactly where the clamp changes it; a result within the range is stored as it is with SAT and without,
and raises nothing. -/
def Obligations.IntegerNarrowing : Prop :=
  ∀ (e : IntElt) (x : Int), 1 ≤ e.w → e.w ≤ 64 →
    let lo : Int := if e.sgn then -2 ^ (e.w - 1) + (if e.nzr then 1 else 0) else 0
    let hi : Int := if e.sgn then 2 ^ (e.w - 1) - 1 else 2 ^ e.w - 1
    let value (c : Nat) : Int := if e.sgn then (c : Int).bmod (2 ^ e.w) else c
    ((e.narrow false x).1 : Int) = x % 2 ^ e.w ∧ (e.narrow false x).2 = 0 ∧
    value (e.narrow true x).1 = max lo (min x hi) ∧
    (e.narrow true x).2 = (if lo ≤ x ∧ x ≤ hi then 0 else Flags.sa) ∧
    (lo ≤ x → x ≤ hi → ∀ sat, value (e.narrow sat x).1 = x ∧ (e.narrow sat x).2 = 0)

/-- For every state and operands the integer sums, differences, products, high products, minima, maxima, absolute values,
negations and the multiply-add complete with one result a lane in flight to V[D], of the latency bound of Table 7-1: active
lanes receive the exact integer of the codes read, narrowed once, inactive lanes keep theirs, and the flags are raised. An
element type without integers raises X_FORMAT. For every state and operands the bitwise vector instructions, the shifts by
the amount modulo the element width, the population and leading-zero counts and their long forms complete with one result a
lane in flight to V[D]: active lanes receive the value of the codes, read unsigned, narrowed to the element; inactive lanes
keep theirs. An element type without integers raises X_FORMAT. -/
def Obligations.IntegerVectorInstructions : Prop :=
  (∀ (s : State) (o : VR) (q : VL),
    let f2 (g : Int → Int → Int) (e : IntElt) (a b _ : Nat) : Int := g (e.int a) (e.int b)
    let f1 (g : Int → Int) (e : IntElt) (a _ _ : Nat) : Int := g (e.int a)
    let both (i j : Instr) (bound n : Nat) (f : IntElt → Nat → Nat → Nat → Int) : Prop :=
      integerLanes i s (s.shortArgs o) bound n f ∧ integerLanes j s (s.longArgs q) bound n f
    both (.vadd o) (.vaddLong q) 2 2 (f2 fun x y => x + y) ∧ both (.vsub o) (.vsubLong q) 2 2 (f2 fun x y => x - y) ∧
    both (.vmul o) (.vmulLong q) 4 2 (f2 fun x y => x * y) ∧
    both (.vmulh o) (.vmulhLong q) 4 2 (fun e a b _ => e.int a * e.int b / 2 ^ e.w) ∧
    both (.vmin o) (.vminLong q) 2 2 (f2 min) ∧ both (.vmax o) (.vmaxLong q) 2 2 (f2 max) ∧
    both (.vabs o) (.vabsLong q) 2 1 (f1 fun x => if x < 0 then -x else x) ∧ both (.vneg o) (.vnegLong q) 2 1 (f1 fun x => -x) ∧
    integerLanes (.vmad q) s (s.longArgs q) 5 3 (fun e a b c => e.int a * e.int b + e.int c)) ∧
  (∀ (s : State) (o : VR) (q : VL),
    let both (i j : Instr) (bound n : Nat) (f : IntElt → Nat → Nat → Nat → Int) : Prop :=
      integerLanes i s (s.shortArgs o) bound n f ∧ integerLanes j s (s.longArgs q) bound n f
    both (.vand o) (.vandLong q) 1 2 (fun _ a b _ => ((a &&& b : Nat) : Int)) ∧
    both (.vor o) (.vorLong q) 1 2 (fun _ a b _ => ((a ||| b : Nat) : Int)) ∧
    both (.vxor o) (.vxorLong q) 1 2 (fun _ a b _ => ((a ^^^ b : Nat) : Int)) ∧
    both (.vnot o) (.vnotLong q) 1 1 (fun e a _ _ => ((2 ^ e.w - 1 - a : Nat) : Int)) ∧
    both (.vshl o) (.vshlLong q) 2 2 (fun e a b _ => e.int a * 2 ^ (b % e.w)) ∧
    both (.vshr o) (.vshrLong q) 2 2 (fun e a b _ => ((a / 2 ^ (b % e.w) : Nat) : Int)) ∧
    both (.vsra o) (.vsraLong q) 2 2 (fun e a b _ => ((a % 2 ^ e.w : Nat) : Int).bmod (2 ^ e.w) / 2 ^ (b % e.w)) ∧
    both (.vpopc o) (.vpopcLong q) 2 1 (fun e a _ _ => (((List.range e.w).filter fun k => a.testBit k).length : Int)) ∧
    both (.vclz o) (.vclzLong q) 2 1 (fun e a _ _ => if a = 0 then (e.w : Int) else e.w - 1 - a.log2))

/-- Each of VCMP, VFCMP, VSEL, PAND, POR, PXOR, PNOT, PANDN, PCNT, PFIRST, PSETN and PMOV EXECUTES TO A NEXT STATE, in every
state and for all operands, VCMP of an integer and VFCMP of a float type. VCMP puts a predicate in flight to P[PD] with
latency bound 2 that has, at active lanes, the condition of Table 7-3 on the codes read signed or unsigned, keeps inactive
lanes below the lane count and clears every higher bit; VFCMP likewise by the values of a float type; VSEL gives each active
lane the code of V[A] where the selecting predicate has a 1 and of V[B] elsewhere. Another type raises X_FORMAT. PAND to
PMOV: each of the 1024 bits of P[PD] the and, or, exclusive or, and-not, negation or copy of the sources' bits; PCNT the
number of one bits among the low n, PFIRST the lowest index of one or n, with latency bound 2; PSETN ones below the lesser of
S[S] and n, zeros above, with n = 1024 / 2^LC. Landing a predicate result, with no result issued later written at the same
boundary (R70), changes P[PD] alone, P0 staying all ones. -/
def Obligations.ComparisonsSelectionAndPredicates : Prop :=
  (∀ (s : State) (o : VL),
    let x := s.longArgs o
    let cond (w a b : Nat) : Nat → Bool
      | 0 => decide (a = b) | 1 => decide (a ≠ b)
      | 2 => decide ((a : Int).bmod (2 ^ w) < (b : Int).bmod (2 ^ w)) | 3 => decide ((a : Int).bmod (2 ^ w) ≤ (b : Int).bmod (2 ^ w))
      | 4 => decide ((b : Int).bmod (2 ^ w) < (a : Int).bmod (2 ^ w)) | 5 => decide ((b : Int).bmod (2 ^ w) ≤ (a : Int).bmod (2 ^ w))
      | 6 => decide (a < b) | 7 => decide (a ≤ b) | 8 => decide (b < a) | _ => decide (b ≤ a)
    let compares (i : Instr) (n : Nat) (r : Nat → Bool × Flags) : Prop :=
      ∃ z m : PWord, (∃ t : State, exec i s = .next (t.result 2 [.p o.pd z m]) ∧ { t with core := { t.core with fstat := s.core.fstat } } = s ∧
          t.core.fstat = (List.range n).foldl (fun g k => if s.core.act o.px k then g ||| (r k).2 else g) s.core.fstat) ∧
        (∀ k, n ≤ k → k < 1024 → m.getLsbD k = true ∧ z.getLsbD k = false) ∧
        ∀ k < n, m.getLsbD k = s.core.act o.px k ∧ (s.core.act o.px k = true → z.getLsbD k = (r k).1)
    (s.intElt { x with u := 0 } = none → raises (.vcmp o) s .format) ∧
    (∀ e, s.intElt { x with u := 0 } = some e → compares (.vcmp o) (4096 / e.lane) fun k =>
      let a := e.code (s.core.lane e.lane x.a k)
      let b := e.code (s.core.lane e.lane x.b k)
      (cond e.w a.1 b.1 o.sel, a.2 ||| b.2)) ∧
    (s.floatOf o.t o.fd = none → raises (.vfcmp o) s .format) ∧
    (∀ f, s.floatOf o.t o.fd = some f → compares (.vfcmp o) (4096 / f.lane) fun k =>
      let a := f.operand (s.core.lane f.lane x.a k)
      let b := f.operand (s.core.lane f.lane x.b k)
      let c := floatCond o.sel a.1 b.1
      (c.1, a.2 ||| b.2 ||| c.2)) ∧
    (copiesLanes (.vsel o) s x 1 (s.anyElt x).1 (s.anyElt x).2 fun k =>
      if s.core.act o.pd k then s.core.lane (s.anyElt x).2 x.a k else s.core.lane (s.anyElt x).2 x.b k)) ∧
  (∀ (s : State) (d a b lc r : Nat),
    let x := s.core.rp a
    let y := s.core.rp b
    let n := 1024 / 2 ^ lc
    (writesPredicate (.pand d a b) s 1 d fun z => ∀ k < 1024, z.getLsbD k = (x.getLsbD k && y.getLsbD k)) ∧
    (writesPredicate (.por d a b) s 1 d fun z => ∀ k < 1024, z.getLsbD k = (x.getLsbD k || y.getLsbD k)) ∧
    (writesPredicate (.pxor d a b) s 1 d fun z => ∀ k < 1024, z.getLsbD k = (x.getLsbD k != y.getLsbD k)) ∧
    (writesPredicate (.pandn d a b) s 1 d fun z => ∀ k < 1024, z.getLsbD k = (x.getLsbD k && !y.getLsbD k)) ∧
    (writesPredicate (.pnot d a) s 1 d fun z => ∀ k < 1024, z.getLsbD k = !x.getLsbD k) ∧
    (writesPredicate (.pmov d a) s 1 d fun z => z = x) ∧
    (writesPredicate (.psetn lc r d) s 1 d fun z => ∀ k < 1024, z.getLsbD k = decide (k < min (s.rs r).toNat n)) ∧
    (writesScalar (.pcnt lc r a) s 2 r fun z => z.toNat = ((List.range n).filter fun k => x.getLsbD k).length) ∧
    (writesScalar (.pfirst lc r a) s 2 r fun z =>
      z.toNat ≤ n ∧ (∀ k < z.toNat, x.getLsbD k = false) ∧ (z.toNat < n → x.getLsbD z.toNat = true)) ∧
    (s.core.banks → (∀ h ∈ s.core.here, h.1 ≤ s.core.issued) → ∀ bound (z : PWord), ∃ u, exec (.resultLanding s.core.lands.length) (s.result bound [.p d z allOnesP]) = .next u ∧
      (∀ k, u.core.rp k = if k = d ∧ d ≠ 0 then z else s.core.rp k) ∧ u.core.rp 0 = allOnesP ∧
      sameRegisters s.core { u.core with p := s.core.p } ∧ u.mem = s.mem))

/-- Each of VFADD, VFSUB, VFMUL, VFDIV, VFSQRT, VFMA, VFMIN, VFMAX, VFABS, VFNEG, VRCP, VRSQ, VEXP2, VLOG2 and VTANH and of
the long forms, in every state, for all operands, on a float type, EXECUTES TO A NEXT STATE: one result a lane in flight to
V[D] within the latency bound of Table 7-4, inactive lanes keeping theirs. VFADD, VFSUB, VFMUL, VFDIV, VFSQRT and VFMA give
each active lane the exact value of the operands, rounded once into the format by the rounding mode, saturated under SAT,
with the flags of operands and rounding, and under stochastic rounding the generators have advanced; VFMIN and VFMAX the
lesser or greater operand; VFABS and VFNEG the code with its sign bit cleared or inverted, where the format has one, and no
flag; the special functions their exact cases, and otherwise free values within their error bounds (log entry 12), T = 3
taking the FP32 bound and every other type the BF16 column. A type that is no float type raises X_FORMAT. -/
def Obligations.FloatVectorInstructions : Prop :=
  (∀ (s : State) (o : VR) (q : VL),
    let mode := s.core.ctx.rnd
    let sat := s.core.ctx.sat
    let lanes (i : Instr) (x : VArgs) (bound : Nat) (r : Fmt → Nat → Nat → Nat → Nat → Nat × Flags) : Prop :=
      (s.floatOf x.t x.fd = none → raises i s .format) ∧
      ∀ f, s.floatOf x.t x.fd = some f →
        let n := 4096 / f.lane
        exec i s = .next ((s.draws n).2.putLanes bound x.d f.lane ((List.range n).map fun k =>
          if s.core.act x.p k then
            some (r f ((s.draws n).1.getD k 0) (s.core.lane f.lane x.a k) (s.core.lane f.lane x.b k) (s.core.lane f.lane x.c k))
          else none))
    let both (i j : Instr) (bound : Nat) (r : Fmt → Nat → Nat → Nat → Nat → Nat × Flags) : Prop :=
      lanes i (s.shortArgs o) bound r ∧ lanes j (s.longArgs q) bound r
    let v (f : Fmt) (c : Nat) : Val × Flags := f.operand c
    both (.vfadd o) (.vfaddLong q) 4 (fun f d a b _ =>
      let x := Val.sum mode [(v f a).1, (v f b).1]
      let y := f.store mode sat d x.1
      (y.1, (v f a).2 ||| (v f b).2 ||| x.2 ||| y.2)) ∧
    both (.vfsub o) (.vfsubLong q) 4 (fun f d a b _ =>
      let x := Val.sum mode [(v f a).1, (v f b).1.negate]
      let y := f.store mode sat d x.1
      (y.1, (v f a).2 ||| (v f b).2 ||| x.2 ||| y.2)) ∧
    both (.vfmul o) (.vfmulLong q) 4 (fun f d a b _ =>
      let x := (v f a).1.mul (v f b).1
      let y := f.store mode sat d x.1
      (y.1, (v f a).2 ||| (v f b).2 ||| x.2 ||| y.2)) ∧
    both (.vfdiv o) (.vfdivLong q) 18 (fun f d a b _ =>
      let x := divVal (v f a).1 (v f b).1
      let y := f.store mode sat d x.1 x.2.1
      (y.1, (v f a).2 ||| (v f b).2 ||| x.2.2 ||| y.2)) ∧
    both (.vfsqrt o) (.vfsqrtLong q) 18 (fun f d a _ _ =>
      let x := sqrtVal (v f a).1
      let y := f.store mode false d x.1 x.2.1
      (y.1, (v f a).2 ||| x.2.2 ||| y.2)) ∧
    lanes (.vfma q) (s.longArgs q) 5 (fun f d a b c =>
      let p := (v f a).1.mul (v f b).1
      let x := Val.sum mode [p.1, (v f c).1]
      let y := f.store mode sat d x.1
      (y.1, (v f a).2 ||| (v f b).2 ||| (v f c).2 ||| p.2 ||| x.2 ||| y.2))) ∧
  (∀ (s : State) (o : VR) (q : VL),
    let lanes (i : Instr) (x : VArgs) (bound : Nat) (r : Fmt → Nat → Nat → Nat × Flags) : Prop :=
      (s.floatOf x.t x.fd = none → raises i s .format) ∧
      ∀ f, s.floatOf x.t x.fd = some f →
        exec i s = .next (s.putLanes bound x.d f.lane ((List.range (4096 / f.lane)).map fun k =>
          if s.core.act x.p k then some (r f (s.core.lane f.lane x.a k) (s.core.lane f.lane x.b k)) else none))
    let both (i j : Instr) (bound : Nat) (r : Fmt → Nat → Nat → Nat × Flags) : Prop :=
      lanes i (s.shortArgs o) bound r ∧ lanes j (s.longArgs q) bound r
    let special (i j : Instr) (bound : Nat) (fn : SpecialFn) : Prop :=
      lanes i (s.shortArgs o) bound (fun f a _ => fn.run (o.t == 3) f a) ∧ lanes j (s.longArgs q) bound (fun f a _ => fn.run (q.t == 3) f a)
    let top (f : Fmt) : Nat := 2 ^ (f.width - 1)
    both (.vfmin o) (.vfminLong q) 2 (fun f a b => f.minMax false a b) ∧
    both (.vfmax o) (.vfmaxLong q) 2 (fun f a b => f.minMax true a b) ∧
    both (.vfabs o) (.vfabsLong q) 1 (fun f a _ => (if f.sgn then a % 2 ^ f.width % top f else a % 2 ^ f.width, 0)) ∧
    both (.vfneg o) (.vfnegLong q) 1 (fun f a _ =>
      let a := a % 2 ^ f.width
      (if f.sgn = false then a else if f.nzr = true ∧ a = 0 then 0 else a ^^^ top f, 0)) ∧
    special (.vrcp o) (.vrcpLong q) 8 .rcp ∧ special (.vrsq o) (.vrsqLong q) 8 .rsq ∧ special (.vexp2 o) (.vexp2Long q) 10 .exp2 ∧
    special (.vlog2 o) (.vlog2Long q) 10 .log2 ∧ special (.vtanh o) (.vtanhLong q) 12 .tanh)

/-- For every state in which the formats are admitted (without scales, but the MX format of VQNT and VDQNT) and SEL is below
the ratio of the two lane widths, the conversions complete with the converted code of each active element in the lanes that
SEL names, with the flags raised (VI2F never UF), and VQNT also with the block scales in flight to S[SD], as a result of its
own. A SEL at or above the ratio raises X_ILLEGAL, a format not admitted X_FORMAT. -/
def Obligations.VectorConversions : Prop :=
  ∀ (s : State) (o : VL),
    let x := s.longArgs o
    let mode := s.core.ctx.rnd
    let sat := s.core.ctx.sat
    let converts (i : Instr) (bound ls ld : Nat) (r : Nat → Nat → Nat → Nat × Flags) : Prop :=
      (max ls ld / min ls ld ≤ o.sel → raises i s .illegal) ∧
      (o.sel < max ls ld / min ls ld →
        let n := 4096 / max ls ld
        let u := (s.draws n).2
        let rs := (List.range n).map fun k => if s.core.act x.p k then
          some (r k ((s.draws n).1.getD k 0) (s.core.lane ls x.a ((if ls < ld then o.sel * n else 0) + k))) else none
        exec i s = .next ((u.raiseFlags (rs.foldl (fun g y => g ||| (y.map (·.2)).getD 0) 0)).result bound
          [laneWrite x.d ld (if ld < ls then o.sel * n else 0) (rs.map (·.map (·.1)))]))
    let rounded (f : Fmt) (sat : Bool) (d : Nat) (v : Val × Flags) (g : Flags) : Nat × Flags :=
      ((f.store mode sat d v.1).1, g ||| v.2 ||| (f.store mode sat d v.1).2)
    let fs := s.core.rfmt o.fs
    let fd := s.core.rfmt o.fd
    (fs.scale ≠ 0 ∨ fd.scale ≠ 0 → raises (.vcvt o) s .format) ∧
    (fs.scale = 0 → fd.scale = 0 → converts (.vcvt o) 4 fs.lane fd.lane fun _ d c =>
      match fs.value c with
      | .reserved => rounded fd sat d (if fd.isInt then Val.zero else .nan false, 0) Flags.nv
      | v => rounded fd sat d (v, 0) 0) ∧
    (s.floatOf o.tf o.fd = none → raises (.vi2f o) s .format ∧ raises (.vf2i o) s .format) ∧
    (∀ f, s.floatOf o.tf o.fd = some f →
      (converts (.vi2f o) 4 (typeWidth o.t) f.lane fun _ d c =>
        let y := rounded f sat d (Val.ofInt (if o.uc = 1 then c else toSigned (typeWidth o.t) c), 0) 0
        (y.1, y.2 &&& ~~~Flags.uf)) ∧
      (converts (.vf2i o) 4 f.lane (typeWidth o.t) fun _ d c =>
        rounded (Fmt.int (o.uc == 0) (typeWidth o.t)) false d ((f.operand c).1, 0) (f.operand c).2)) ∧
    (s.floatOf o.t 0 = none ∨ ¬ (fd.scale = 1 ∧ fd.width ≤ 8) → raises (.vqnt o) s .format ∧ raises (.vdqnt o) s .format) ∧
    (∀ f, s.floatOf o.t 0 = some f → fd.scale = 1 → fd.width ≤ 8 →
      (converts (.vdqnt o) 4 fd.lane f.lane fun k d c =>
        let sc := scaleValue (field (s.rs o.sd).toNat (8 * (k / 32)) 8)
        if sc.isNan then rounded f sat d (.nan false, Flags.nv) 0
        else match fd.value c with
          | .reserved => rounded f sat d (.nan false, Flags.nv) 0
          | v => rounded f sat d (v.mul sc) 0) ∧
      (max f.lane fd.lane / min f.lane fd.lane ≤ o.sel → raises (.vqnt o) s .illegal) ∧
      (o.sel < max f.lane fd.lane / min f.lane fd.lane →
        let n := 4096 / max f.lane fd.lane
        let xs := (List.range n).map fun k => if s.core.act x.p k then
          some (f.operand (s.core.lane f.lane x.a ((if f.lane < fd.lane then o.sel * n else 0) + k))).1 else none
        let y := quantiseAll fd mode (s.draws n).1 xs
        ∃ w : Word, w.toNat = (y.1.zipIdx.foldl (fun a k => a + k.1 * 2 ^ (8 * k.2)) 0) % 2 ^ 64 ∧
          exec (.vqnt o) s = .next ((((s.draws n).2.raiseFlags y.2.2).result 8
            [laneWrite x.d fd.lane (if fd.lane < f.lane then o.sel * n else 0) y.2.1]).result 8 [.s o.sd w])))

/-- For every state and operands: VPERM of lanes wider than 8 bits gives lane i the lane of V[A], or of V[B] from the lane
count up, that its index names modulo twice the count; VSHUF byte j the byte of its 64-byte group that the low six bits of
its control name, or 0 where bit 7 is set; VSLIDE the lane K away, filled from V[B]; VBCAST the scalar or lane LN in every
active lane. VPERM of narrower lanes, a K above the count and an LN not below it raise X_ILLEGAL. For every state and
operands VEXT puts the element of the lane that S[B] modulo the count, or LN, names in flight to S[D], in the long form also
sign-extended; VINS puts S[A] in flight to that one lane of V[D]; VCMPR the active lanes of V[A] packed from lane 0 up with
zeros above; VEXPD gives the r-th active lane lane r of V[A] and leaves the others. An LN not below the count raises
X_ILLEGAL. -/
def Obligations.VectorPermutations : Prop :=
  (∀ (s : State) (o : VR) (q : VL),
    let x := s.shortArgs o
    let y := s.longArgs q
    let w (z : VArgs) : Nat := (s.anyElt z).1
    let l (z : VArgs) : Nat := (s.anyElt z).2
    let n (z : VArgs) : Nat := 4096 / l z
    let at' (z : VArgs) (r k : Nat) : Nat := if k < n z then s.core.lane (l z) r k else 0
    let down (z : VArgs) (d k : Nat) : Nat := if k + d < n z then at' z z.a (k + d) else at' z z.b (k + d - n z)
    (l y ≤ 8 → raises (.vperm q) s .illegal) ∧
    (8 < l y → copiesLanes (.vperm q) s y 4 (w y) (l y) fun k =>
      let j := at' y y.c k % (2 * n y)
      if j < n y then at' y y.a j else at' y y.b (j - n y)) ∧
    (copiesLanes (.vshuf q) s y 3 8 8 fun j =>
      let k := s.core.lane 8 y.c j
      if 128 ≤ k then 0 else s.core.lane 8 y.a (64 * (j / 64) + k % 64)) ∧
    (1 ≤ n x → copiesLanes (.vslide o) s x 2 (w x) (l x) (down x 1)) ∧
    (n y < q.k → raises (.vslideLong q) s .illegal) ∧
    (q.k ≤ n y → q.x ≠ 1 → copiesLanes (.vslideLong q) s y 2 (w y) (l y) (down y q.k)) ∧
    (q.k ≤ n y → q.x = 1 → copiesLanes (.vslideLong q) s y 2 (w y) (l y) fun k =>
      if q.k ≤ k then at' y y.a (k - q.k) else at' y y.b (n y + k - q.k)) ∧
    (copiesLanes (.vbcast o) s x 2 (w x) (l x) fun _ => (s.rs o.a).toNat) ∧
    (q.x ≠ 1 → copiesLanes (.vbcastLong q) s y 2 (w y) (l y) fun _ => (s.rs q.a).toNat) ∧
    (q.x = 1 → q.k < n y → copiesLanes (.vbcastLong q) s y 2 (w y) (l y) fun _ => at' y y.a q.k) ∧
    (q.x = 1 → n y ≤ q.k → raises (.vbcastLong q) s .illegal)) ∧
  (∀ (s : State) (o : VR) (q : VL),
    let x := s.shortArgs o
    let y := s.longArgs q
    let w (z : VArgs) : Nat := (s.anyElt z).1
    let l (z : VArgs) : Nat := (s.anyElt z).2
    let n (z : VArgs) : Nat := 4096 / l z
    let elem (z : VArgs) (k : Nat) : Nat := if k < n z then s.core.lane (l z) z.a k % 2 ^ w z else 0
    let actives (z : VArgs) : List Nat := (List.range (n z)).filter fun k => s.core.act z.p k
    let compress (i : Instr) (z : VArgs) : Prop :=
      exec i s = .next (s.result 4 [laneWrite z.d (l z) 0 ((List.range (n z)).map fun k => some (((actives z).map (elem z)).getD k 0))])
    let expand (i : Instr) (z : VArgs) : Prop :=
      exec i s = .next (s.result 4 [laneWrite z.d (l z) 0 ((List.range (n z)).map fun k =>
        if s.core.act z.p k then some (elem z (((List.range k).filter fun j => s.core.act z.p j).length)) else none)])
    (writesScalar (.vext o) s 3 o.d fun z => z.toNat = elem x ((s.rs o.b).toNat % n x) % 2 ^ 64) ∧
    (n y ≤ q.k → raises (.vextLong q) s .illegal ∧ raises (.vinsLong q) s .illegal) ∧
    (q.k < n y → writesScalar (.vextLong q) s 3 q.d fun z =>
      (q.x ≠ 1 → z.toNat = elem y q.k % 2 ^ 64) ∧ (q.x = 1 → 1 ≤ w y → w y ≤ 64 → z.toInt = ((elem y q.k : Nat) : Int).bmod (2 ^ w y))) ∧
    (q.k < n y → exec (.vinsLong q) s = .next (s.result 2 [laneWrite y.d (l y) q.k [some ((s.rs q.a).toNat % 2 ^ w y)]])) ∧
    (1 ≤ n x → exec (.vins o) s = .next (s.result 2 [laneWrite x.d (l x) ((s.rs o.b).toNat % n x) [some ((s.rs o.a).toNat % 2 ^ w x)]])) ∧
    compress (.vcmpr o) x ∧ compress (.vcmprLong q) y ∧ expand (.vexpd o) x ∧ expand (.vexpdLong q) y)

/-- For every state and operands of an integer type, VRSUM puts the exact sum of the active lanes, narrowed once, in flight
to lane 0 of V[D] with latency bound 6; VRMAX and VRMIN the greatest or least active lane, or the type's least or greatest
value where no lane is active; VSCAN each active lane's running sum, the sum of the running value and the lane narrowed at
every step as by VADD, with bound 16; other lanes keep their values. Another type raises X_FORMAT. For every state and
operands of a float type VRFSUM puts in flight to lane 0 of V[D], with latency bound 14, the root of the balanced tree in
which each node adds its two children with one rounding, passes an only child unchanged, and is absent without one; the long
forms of VRMAX and VRMIN with FK the extreme of the numbers among the active lanes, or the canonical NaN without one (with no
active lane and no flag, log entry 68); VSCAN with FK the running sums. Another type raises X_FORMAT. -/
def Obligations.VectorReductions : Prop :=
  (∀ (s : State) (o : VR) (q : VL),
    let codes (x : VArgs) (e : IntElt) : List (Nat × Flags) :=
      ((List.range (4096 / e.lane)).filter fun k => s.core.act x.p k).map fun k => e.code (s.core.lane e.lane x.a k)
    let flags (x : VArgs) (e : IntElt) : Flags := (codes x e).foldl (fun g c => g ||| c.2) 0
    let sum (i : Instr) (x : VArgs) : Prop :=
      (s.intElt x = none → raises i s .format) ∧ ∀ e, s.intElt x = some e →
        let y := e.narrow s.core.ctx.sat ((codes x e).map fun c => e.int c.1).sum
        exec i s = .next ((s.raiseFlags (flags x e ||| y.2)).result 6 [laneWrite x.d e.lane 0 [some y.1]])
    let extreme (i : Instr) (x : VArgs) (most : Bool) : Prop :=
      (s.intElt x = none → raises i s .format) ∧ ∀ e, s.intElt x = some e → ∃ b : Int,
        exec i s = .next ((s.raiseFlags (flags x e)).result 6 [laneWrite x.d e.lane 0 [some (toBits e.w b)]]) ∧
        (codes x e = [] → b = if most then e.lo else e.hi) ∧
        (codes x e ≠ [] → b ∈ (codes x e).map (fun c => e.int c.1) ∧
          ∀ c ∈ codes x e, if most then e.int c.1 ≤ b else b ≤ e.int c.1)
    let scan (i : Instr) (x : VArgs) : Prop :=
      (s.intElt x = none → raises i s .format) ∧ ∀ e, s.intElt x = some e → ∃ rs : List (Option (Nat × Flags)),
        exec i s = .next (s.putLanes 16 x.d e.lane rs) ∧ rs.length = 4096 / e.lane ∧
        let a (k : Nat) : Nat × Flags := e.code (s.core.lane e.lane x.a k)
        (∀ k < 4096 / e.lane, s.core.act x.p k = false → rs[k]? = some none) ∧
        (∀ k < 4096 / e.lane, s.core.act x.p k = true → (∀ m < k, s.core.act x.p m = false) →
          let y := e.narrow s.core.ctx.sat (e.int (a k).1)
          rs[k]? = some (some (y.1, (a k).2 ||| y.2))) ∧
        (∀ j k : Nat, j < k → k < 4096 / e.lane → s.core.act x.p j = true → s.core.act x.p k = true →
          (∀ m, j < m → m < k → s.core.act x.p m = false) → ∀ r : Nat × Flags, rs[j]? = some (some r) →
          let y := e.narrow s.core.ctx.sat (e.int (e.code r.1).1 + e.int (a k).1)
          rs[k]? = some (some (y.1, (e.code r.1).2 ||| (a k).2 ||| y.2)))
    sum (.vrsum o) (s.shortArgs o) ∧ sum (.vrsumLong q) (s.longArgs q) ∧
    extreme (.vrmax o) (s.shortArgs o) true ∧ (q.fk ≠ 1 → extreme (.vrmaxLong q) (s.longArgs q) true) ∧
    extreme (.vrmin o) (s.shortArgs o) false ∧ (q.fk ≠ 1 → extreme (.vrminLong q) (s.longArgs q) false) ∧
    scan (.vscan o) (s.shortArgs o) ∧ (q.fk ≠ 1 → scan (.vscanLong q) (s.longArgs q))) ∧
  (∀ (s : State) (o : VR) (q : VL),
    let leaves (x : VArgs) (f : Fmt) : List (Option Nat) := (List.range (4096 / f.lane)).map fun k =>
      if s.core.act x.p k then some (s.core.lane f.lane x.a k) else none
    let add (f : Fmt) (a b : Nat) : Nat × Flags := vfAdd f s.core.ctx.rnd false 0 a b 0
    let tree (i : Instr) (x : VArgs) : Prop :=
      (s.floatOf x.t x.fd = none → raises i s .format) ∧ ∀ f, s.floatOf x.t x.fd = some f →
        let n := 4096 / f.lane
        let y := treeSum (add f) n.log2 ((leaves x f).map fun c => c.map (· % 2 ^ f.width))
        exec i s = .next ((s.raiseFlags y.2).result 14 [laneWrite x.d f.lane 0 [some y.1]]) ∧
        ((leaves x f).all Option.isNone = true → y = (0, 0)) ∧
        (∀ k c : Nat, (leaves x f)[k]? = some (some c) → (∀ j : Nat, j ≠ k → (leaves x f)[j]? ≠ none → (leaves x f)[j]? = some none) →
          n = 2 ^ n.log2 → y = (c % 2 ^ f.width, 0))
    let extreme (i : Instr) (most : Bool) : Prop :=
      ∀ f, s.floatOf q.t q.fd = some f →
        let cs := (leaves (s.longArgs q) f).filterMap id
        let nv : Flags := cs.foldl (fun g c => g ||| (f.operand c).2 ||| flagIf (f.operand c).1.isSig Flags.nv) 0
        let gives (y : Nat × Flags) : Prop := exec i s = .next ((s.raiseFlags y.2).result 6 [laneWrite (s.longArgs q).d f.lane 0 [some y.1]])
        (cs = [] → gives (f.canon.1, 0)) ∧
        (cs ≠ [] → (∀ c ∈ cs, (f.operand c).1.isNan = true) → gives (f.canon.1, nv ||| f.canon.2)) ∧
        (∀ a r, (cs.filter fun c => !(f.operand c).1.isNan) = a :: r →
          gives (r.foldl (fun acc b => (f.minMax most acc b).1) (a % 2 ^ f.width), nv))
    tree (.vrfsum o) (s.shortArgs o) ∧ tree (.vrfsumLong q) (s.longArgs q) ∧
    (q.fk = 1 → s.floatOf q.t q.fd = none → raises (.vrmaxLong q) s .format ∧ raises (.vrminLong q) s .format ∧ raises (.vscanLong q) s .format) ∧
    (q.fk = 1 → extreme (.vrmaxLong q) true ∧ extreme (.vrminLong q) false) ∧
    (q.fk = 1 → ∀ f, s.floatOf q.t q.fd = some f → ∃ rs : List (Option (Nat × Flags)),
      exec (.vscanLong q) s = .next (s.putLanes 16 (s.longArgs q).d f.lane rs) ∧ rs.length = 4096 / f.lane ∧
      (∀ k : Nat, (leaves (s.longArgs q) f)[k]? = some none → rs[k]? = some none) ∧
      (∀ k c : Nat, (leaves (s.longArgs q) f)[k]? = some (some c) → (∀ m : Nat, m < k → (leaves (s.longArgs q) f)[m]? = some none) →
        let y := f.store 0 false 0 (f.operand c).1
        rs[k]? = some (some (y.1, (f.operand c).2 ||| y.2))) ∧
      ∀ (j k : Nat) (a : Nat × Flags) (c : Nat), j < k → (leaves (s.longArgs q) f)[k]? = some (some c) → rs[j]? = some (some a) →
        (∀ m : Nat, j < m → m < k → (leaves (s.longArgs q) f)[m]? = some none) → rs[k]? = some (some (add f a.1 c))))

/-! ## Tile groups, matrix work, drains and tile moves (08) -/

/-- The matrix work issued before it being done (log entry 69) and what earlier phases owe being settled, TZERO raises
X_FORMAT where the array does not take the formats for the kind, X_ILLEGAL in a repeated bundle, X_GROUP_VIOLATION while a
tile load is in flight, and freezes for retirement where a marked line has no spare. Otherwise the set is OPEN with the
operand formats and kind, every cell the kind's identity, checksums, shadows, flags and step count 0; another open set
becomes idle; the snapshot stands, of the core before any op word of the bundle acted; registers and memory stay. TMMA on an
open ring set and TMSR on an open semiring set, with the segment in 0 to 9 and NV at most its elements, join the array's
queue; with two outstanding the core freezes; else X_ILLEGAL. -/
def Obligations.TileGroupsAndMatrixWork : Prop :=
  (∀ (s : State) (mk fb fa set : Nat), set ≤ 1 →
    let u := s.settle
    let c := u.core.arrayDrain
    let traps (t : TrapNo) : Prop := exec (.tzero mk fb fa set) s = .next (u.takeTrap { no := t })
    let kind := GroupKind.ofMk mk
    let formats := arrayAccepts kind (c.rfmt fa) (c.rfmt fb)
    let tile (l : LoadLanding) : Bool := match l.dest with
      | .tile .. => true
      | _ => false
    (formats = false → traps .format) ∧
    (formats = true → c.ctx.rep ≠ 0 → traps .illegal) ∧
    (formats = true → c.ctx.rep = 0 → c.loads.any tile = true → traps .groupViolation) ∧
    (formats = true → c.ctx.rep = 0 → c.loads.any tile = false →
      (c.applyRetirements = none → exec (.tzero mk fb fa set) s = .next { u with core := { u.core with frozen := some .retire } }) ∧
      ∀ c', c.applyRetirements = some c' → ∃ t, exec (.tzero mk fb fa set) s = .next t ∧ onlyCore u t ∧
        t.core.group = some (set, c.atTzero) ∧ (c.start = none → c.atTzero = c.snapshot) ∧ t.core.drained = false ∧
        (t.core.acc set).status = .opened ∧ (t.core.acc set).fa = c.rf fa ∧ (t.core.acc set).fb = c.rf fb ∧
        (t.core.acc set).kind = kind ∧ (∀ i, i < 16384 → bankGet 0 (t.core.acc set).data i = kind.identity) ∧
        (t.core.acc set).cr = [] ∧ (t.core.acc set).mr = [] ∧ (t.core.acc set).cc = [] ∧ (t.core.acc set).mc = [] ∧
        (t.core.acc set).gfl = 0 ∧ (t.core.acc set).steps = 0 ∧
        (t.core.acc (1 - set)).data = (c'.acc (1 - set)).data ∧
        (t.core.acc (1 - set)).status = (if (c'.acc (1 - set)).status = .opened then .idle else (c'.acc (1 - set)).status) ∧
        t.core.s = c'.s ∧ t.core.v = c'.v ∧ t.core.p = c'.p ∧ t.core.t = c'.t ∧ t.core.fl = c'.fl ∧ t.core.fmt = c'.fmt
          ∧ t.core.pat = c'.pat ∧ t.core.fstat = c'.fstat ∧ t.core.lands = c'.lands ∧ t.core.loads = c'.loads)) ∧
  (∀ (s : State) (nv seg tb ta set : Nat) (tmsr : Bool),
    let i : Instr := if tmsr then .tmsr nv seg tb ta set else .tmma nv seg tb ta set
    let c := s.core
    let a := c.acc set
    let k : Int := (seg : Int) + c.ctx.off
    let due := injectDue c.inject set && c.array.all fun m => !m.disarms
    let admitted : Prop := 0 ≤ k ∧ k ≤ 9 ∧ nv ≤ (segOf a.fmtA.lane).1 ∧ a.status = .opened ∧ (if tmsr then a.kind ≠ .ring else a.kind = .ring)
    (¬ admitted → raises i s .illegal) ∧
    (admitted → 2 ≤ c.array.length → exec i s = .next { s with core := { c with frozen := some .array } }) ∧
    (admitted → c.array.length < 2 → exec i s = .next { s with core := { c with
      array := c.array ++ [⟨tmsr, nv, k.toNat, tb, ta, set, c.ctx.rnd, if due then some c.inject else none, due⟩]
      written := { c.written with acc := c.written.acc ||| 2 ^ set } } }))

/-- With work queued, the array runs its oldest instruction to its end and leaves it; a freeze that waited for the array
ends; S, V, P and T registers, flags and memory stay, and without work nothing changes. For TMMA without an injection on a
set of INT32 accumulation, with NV at most the elements of a segment, every cell (i, j) becomes its old value plus the sum
over the segment's first NV elements (all of them for NV 0) of row i of A times row j of B, modulo 2^32. -/
def Obligations.MatrixProductsAccumulate : Prop :=
  (∀ (s : State), s.core.array = [] → exec .arrayExecute s = .next s) ∧
  (∀ (s : State) (m : MatrixOp) (r : List MatrixOp), s.core.array = m :: r → ∃ t, exec .arrayExecute s = .next t ∧ onlyCore s t ∧
    t.core.array = r ∧ t.core.frozen = (if s.core.frozen = some .array then none else s.core.frozen) ∧
    t.core.s = s.core.s ∧ t.core.v = s.core.v ∧ t.core.p = s.core.p ∧ t.core.t = s.core.t ∧ t.core.fl = s.core.fl ∧
    t.core.lands = s.core.lands ∧ t.core.loads = s.core.loads ∧
    let a := s.core.acc m.set
    let e := (segOf a.fmtA.lane).1
    let n := if m.nv = 0 then e else m.nv
    let tiles := s.core.drain
    (m.tmsr = false → m.inject = none → a.kind = .ring → a.ints = true → m.nv ≤ e →
      ∀ i j : Nat, i < 128 → j < 128 →
        let x (k : Nat) : Val := (operandElem a.fmtA true (tiles.rt m.ta i).toNat (e * m.seg + k)).1
        let y (k : Nat) : Val := (operandElem a.fmtB true (tiles.rt m.tb j).toNat (e * m.seg + k)).1
        bankGet 0 (t.core.acc m.set).data (128 * i + j) = BitVec.ofInt 32
          ((bankGet 0 a.data (128 * i + j)).toInt + ((List.range n).map fun k => ((x k).mul (y k)).1.scaled 0).sum)))

/-- TDRAIN to a tile register, a vector register or memory raises X_ILLEGAL on an idle set; a storing one inside a group
X_GROUP_VIOLATION on a checked set; its own format and index errors first. On an open set it waits for the array, then for
the comparison. On a checked set, or an open one whose comparison has passed, which it closes, raising the group's flags, the
rows are converted, flags raised, generators advanced, and the result is in flight with bound 132 or 4, or the image joins
the stores in 64-byte units. DRAIN_COMPARISON passes and lets the TDRAIN go on; a failing set replays from the snapshot twice
and then raises X_TILE_UNRECOVERABLE, once the frame is not in transit. -/
def Obligations.DrainsOfAccumulatorSets : Prop :=
  ∀ (s : State) (f bo r row set sc chn : Nat) (off : Int),
    let c := s.core
    let a := c.acc set
    let x := s.drainArgs f
    let i : Int := (row : Int) + c.ctx.off
    let ea := toBits 64 ((s.rs r).toNat + off + c.fusedOff)
    let tile : Instr := .tdrainTile f bo r set
    let vec : Instr := .tdrainVector f row r set
    let mem : Instr := .tdrainMemory f r set sc chn off
    let b : AccSet := { a with status := .checked, pending := false }
    let closes : State := ({ s with core := { c.setAcc set b with group := none, drained := false, closed := true } }).raiseFlags b.flags
    let drained (u : State) (whole : Bool) (rows : List Nat) : List (List Nat × List (Option Nat) × Flags) × State :=
      let q := a.drainRows x whole rows u.core.gens.arr
      (q.1, (u.withArrGens q.2).raiseFlags (rowFlags q.1))
    let ready (storing : Bool) (u : State) : Prop :=
      (a.status = .checked ∧ (storing = true → s.inGroup = false) ∧ u = s) ∨
      (a.status = .opened ∧ (∀ m ∈ c.array, m.set ≠ set) ∧ c.drained = true ∧ u = closes)
    (a.status = .idle → raises tile s .illegal ∧ raises vec s .illegal ∧ raises mem s .illegal) ∧
    (a.status = .checked → s.inGroup = true → raises tile s .groupViolation ∧ raises mem s .groupViolation) ∧
    (a.status = .opened → x.f.scale = 0 → 0 ≤ i → i ≤ 127 → boOk x.f bo = true → ∀ j ∈ [tile, vec, mem],
      ((∃ m ∈ c.array, m.set = set) → exec j s = .next { s with core := { c with frozen := some .array } }) ∧
      ((∀ m ∈ c.array, m.set ≠ set) → c.drained = false → exec j s = .next { s with core := { c with frozen := some .drain } })) ∧
    (a.status = .checked →
      (s.inGroup = false → x.f.scale = 2 → raises tile s .format ∧ raises mem s .format) ∧
      (s.inGroup = false → x.f.scale ≠ 2 → boOk x.f bo = false → raises tile s .illegal) ∧
      (i < 0 ∨ 127 < i → raises vec s .illegal) ∧
      (0 ≤ i → i ≤ 127 → x.f.scale ≠ 0 → raises vec s .format)) ∧
    (∀ u, ready true u → x.f.scale ≠ 2 → boOk x.f bo = true →
      let q := drained u false (List.range 128)
      exec tile s = .next (q.2.result 132 (q.1.zipIdx.map fun y => .t r y.2 (placeRow x.f (32 * bo) y.1).1 (placeRow x.f (32 * bo) y.1).2))) ∧
    (∀ u, ready false u → 0 ≤ i → i ≤ 127 → x.f.scale = 0 →
      let q := drained u false [i.toNat]
      exec vec s = .next (q.2.result 4 [laneRow r x.f.lane (q.1.flatMap (·.2.1))])) ∧
    (∀ u, ready true u → x.f.scale ≠ 2 →
      let q := drained u true (List.range 128)
      let w := q.2.onCore fun c => { c with ctx := { c.ctx with scope := sc } }
      let bytes := drainImage x.f q.1
      ∀ ps, w.check .write sc ea bytes.length 64 = .ok ps → (∀ p ∈ ps, p.loc.peer = none ∧ p.scratch = false) →
        let v := w.settle
        let ws := unitsStored [(ea, bytes)] [ps]
        exec mem s = .next { v with core := { v.core with
          stores := v.core.stores ++ ws.map fun y => ⟨y.va, y.loc, y.bytes, sc, chn, wholeBlock ws y⟩ } }) ∧
    (c.frozen ≠ some .drain → exec .drainComparison s = .next s) ∧
    (∀ n g, c.frozen = some .drain → c.group = some (n, g) →
      (∀ b k, (c.acc n).compare = .pass b k [] →
        exec .drainComparison s = .next { s with core := { c.setAcc n b with drained := true, frozen := none } }) ∧
      (∀ ev, (c.acc n).compare = .replay ev → (c.acc n).replays = 0 → c.fused = none →
        ∃ t, exec .drainComparison s = .next t ∧ t.core.pc = g.pc ∧ t.core.s = g.s ∧ t.core.fmt = g.fmt ∧ t.core.pat = g.pat ∧
          t.core.fstat = g.fstat ∧ t.core.lands = g.lands ∧ t.core.gens = g.gens ∧ t.core.safecnt = g.safecnt ∧
          t.core.frozen = none ∧ t.core.drained = false ∧ t.core.v = c.v ∧ t.core.p = c.p ∧
          t.core.t = c.t ∧ (t.core.acc n).replays = 1 ∧ t.mem = s.mem) ∧
      (∀ ev, (c.acc n).compare = .replay ev → 2 ≤ (c.acc n).replays →
        (∀ va, s.frameInTransit = some va → exec .drainComparison s = .next (s.freeze (.transit va))) ∧
        (s.frameInTransit = none → exec .drainComparison s = .next (((s.countLines ev).onCore fun d =>
          { d.setAcc n { c.acc n with replays := 0, pending := false } with frozen := none }).takeTrap { no := .tileUnrecoverable }))))

/-- Outside a group TWR copies 128 lanes into a row at BQ, or converts FP32 to the format, in blocks with their scales where
it is an MX format, and inside one raises X_GROUP_VIOLATION; TRDR and TRDC read a row's 128 elements and a column's, as codes
or as FP32; a row, column or BQ out of range raises X_ILLEGAL, and TWR with CV on a row-scaled format X_FORMAT. TGEN puts a
tile's column sums in V[V] and row sums in V[V+1]; TCHK writes the code of Table 8-7: 0 where every line passes, 1 with a
stale sum replaced, 2 with one element corrected, else 3. Bounds 4, 4, 6, 136 and 140; nothing else changes but flags and
generators. -/
def Obligations.TileRowAndColumnMoves : Prop :=
  ∀ (s : State) (cv bq f v row tr j bo sd : Nat),
    let c := s.core
    let fm := c.rfmt f
    let l := fm.lane
    let i : Int := (row : Int) + c.ctx.off
    let col : Int := (j : Int) + c.ctx.off
    let d := s.draws 128
    (s.inGroup = true → raises (.twr cv bq f v row tr) s .groupViolation ∧ raises (.tchk sd v bo f tr) s .groupViolation) ∧
    (s.inGroup = false → i < 0 ∨ 127 < i → raises (.twr cv bq f v row tr) s .illegal) ∧
    (i < 0 ∨ 127 < i → raises (.trdr cv bq f v row tr) s .illegal) ∧
    (0 ≤ i → i ≤ 127 → bqOk fm bq = false → raises (.trdr cv bq f v row tr) s .illegal ∧
      (s.inGroup = false → ¬ (cv = 1 ∧ fm.scale = 2) → raises (.twr cv bq f v row tr) s .illegal)) ∧
    (s.inGroup = false → 0 ≤ i → i ≤ 127 → cv = 1 → fm.scale = 2 → raises (.twr cv bq f v row tr) s .format) ∧
    (0 ≤ i → i ≤ 127 → bqOk fm bq = true →
      (s.inGroup = false →
        (cv = 0 → let q := placeRow fm (64 * bq) ([], (List.range 128).map fun k => some (c.lane l v k % 2 ^ fm.width), 0)
          exec (.twr cv bq f v row tr) s = .next (s.result 4 [.t tr i.toNat q.1 q.2])) ∧
        (cv = 1 → fm.scale = 1 →
          let y := quantiseAll fm c.ctx.rnd d.1 ((List.range 128).map fun k => some (Fmt.fp32.value (c.lane 32 v k)))
          exec (.twr cv bq f v row tr) s = .next ((d.2.raiseFlags y.2.2).result 4
            [.t tr i.toNat (placeRow fm (64 * bq) y).1 (placeRow fm (64 * bq) y).2])) ∧
        (cv = 1 → fm.scale ≠ 1 → fm.scale ≠ 2 →
          let rs := (List.range 128).map fun k => stored fm c.ctx.rnd c.ctx.sat (d.1.getD k 0) (Fmt.fp32.value (c.lane 32 v k), 0) 0
          let q := placeRow fm (64 * bq) ([], rs.map fun x => some x.1, 0)
          exec (.twr cv bq f v row tr) s = .next ((d.2.raiseFlags (rs.foldl (fun g x => g ||| x.2) 0)).result 4 [.t tr i.toNat q.1 q.2]))) ∧
      (cv = 0 → exec (.trdr cv bq f v row tr) s = .next (s.result 4 [laneRow v l ((List.range 128).map fun k =>
        some (field (c.rt tr i.toNat).toNat (l * (512 * bq / l + k)) l % 2 ^ fm.width))])) ∧
      (cv = 1 → let rs := (List.range 128).map fun k => c.tileFp32 fm tr i.toNat (512 * bq / l + k) (d.1.getD k 0)
        exec (.trdr cv bq f v row tr) s = .next ((d.2.raiseFlags (rs.foldl (fun g x => g ||| x.2) 0)).result 4
          [laneRow v 32 (rs.map fun x => some x.1)]))) ∧
    (col < 0 ∨ (4096 / l : Nat) ≤ col → cv = 1 → raises (.trdc cv f v j tr) s .illegal) ∧
    (col < 0 ∨ (4096 / l : Nat) < col + (4096 / l / 128 : Nat) → cv = 0 → raises (.trdc cv f v j tr) s .illegal) ∧
    (0 ≤ col → cv = 0 → col + (4096 / l / 128 : Nat) ≤ (4096 / l : Nat) →
      exec (.trdc cv f v j tr) s = .next (s.result 6 [laneRow v l ((List.range (4096 / l)).map fun k =>
        some (field (c.rt tr (k % 128)).toNat (l * (col.toNat + k / 128)) l % 2 ^ fm.width))])) ∧
    (0 ≤ col → cv = 1 → col < (4096 / l : Nat) → fm.scale ≠ 0 → 3840 < l * (col.toNat + 1) → raises (.trdc cv f v j tr) s .illegal) ∧
    (0 ≤ col → cv = 1 → col < (4096 / l : Nat) → (fm.scale = 0 ∨ l * (col.toNat + 1) ≤ 3840) →
      let rs := (List.range 128).map fun k => c.tileFp32 fm tr k col.toNat (d.1.getD k 0)
      exec (.trdc cv f v j tr) s = .next ((d.2.raiseFlags (rs.foldl (fun g x => g ||| x.2) 0)).result 6
        [laneRow v 32 (rs.map fun x => some x.1)])) ∧
    (boOk fm bo = false → raises (.tgen v bo f tr) s .illegal ∧ (s.inGroup = false → raises (.tchk sd v bo f tr) s .illegal)) ∧
    (boOk fm bo = true →
      (let t := (c.tileAt fm tr bo).summed fm
       exec (.tgen v bo f tr) s = .next (s.result 136 [laneRow v 32 (t.col.toList.map some), laneRow (v + 1) 32 (t.row.toList.map some)])) ∧
      (s.inGroup = false →
        let t : Tile := { c.tileAt fm tr bo with col := (lanesOf 32 128 (c.rv v)).toArray, row := (lanesOf 32 128 (c.rv (v + 1))).toArray }
        let rows := (List.range 128).filter fun i => !t.rowPass fm i
        let cols := (List.range 128).filter fun j => !t.colPass fm j
        let code (n : Nat) (ws : List RegWrite) : Prop := exec (.tchk sd v bo f tr) s = .next (s.result 140 (.s sd (BitVec.ofNat 64 n) :: ws))
        (rows = [] → cols = [] → code 0 []) ∧
        (∀ i, rows = [i] → cols = [] → code (1 + i * 2 ^ 16) [laneWrite (v + 1) 32 i [some (lineSum fm (t.rowValues fm i))]]) ∧
        (∀ j, rows = [] → cols = [j] → code (1 + 2 ^ 15 + j * 2 ^ 16) [laneWrite v 32 j [some (lineSum fm (t.colValues fm j))]]) ∧
        (∀ i j, rows = [i] → cols = [j] → t.correct fm i j = none → code 3 []) ∧
        (∀ i j u, rows = [i] → cols = [j] → t.correct fm i j = some u →
          let lo := 256 * bo + l * j
          code (2 + i * 2 ^ 16 + j * 2 ^ 24)
            [.t tr i (BitVec.ofNat 4096 (u.elems.getD (128 * i + j) 0 * 2 ^ lo)) (BitVec.ofNat 4096 ((2 ^ l - 1) * 2 ^ lo))]) ∧
        (2 ≤ rows.length ∨ 2 ≤ cols.length → code 3 [])))

/-! ## Copy engines and windows (03, 12) -/

/-- For a channel that is not parked: RECORD_READ takes the record's 64 bytes where OWN is 1 and parks the walk where it is
0; a read that fails ends the chain with the status; in a cancelled chain the record is to complete ST_CANCELLED.
RECORD_START, after some entries of the parameter cache have given way (free, log entry 17), fixes the record from what it
obtains, which joins the cache, attaches its ring, or gives it the status that refuses it. RECORD_COMPLETE of a finished,
failed or cancelled record writes its 64 bytes once, with STATUS, RESUME 0 or the next chunk, and OWN 0, and goes on to NEXT
after ST_OK or in a cancelled chain, or ends the chain; a write refused ends it with that status, one that waits leaves
everything. A chunk whose turn it is, whose bytes are read and whose writes are admitted, is written, whole pieces at their
places; with no bitmap the record then stands at the next chunk, unless bytes of it have still to leave for a peer or to land
in a window: then it waits, and later chunks with it; a record completes only once its bits are set. A record without a
parameter block copies the bytes of its source one for one: chunk n holds bytes 512n on, at the destination's byte 512n on.
SLOT_WRITE takes a free slot of the ring, which FREE loses, then writes the next slot's bytes, counts it filled once they are
performed, and moves on; without a free slot it waits. -/
def Obligations.CopyRecordsRunToTheirEnd : Prop :=
  (∀ (s : State) (k : Nat) (c : Chan), s.chans[k]? = some c → s.parkedCopies c.part = false → s.reads = [] →
    let g := c.agent
    let walk (u : State) (w : Walk) : State := u.onChan c fun x => { x with walk := some w }
    let final (u : State) (st : Nat) : State := u.onWalk c fun w => { w with final := some st }
    (s.copyCancelled c = false →
      (∀ h r, c.walk = none → c.heads = h :: r →
        let w : Walk := ⟨s.engineFor c.cluster c.ch, h.va, none, none, false, none, []⟩
        ∀ bs, s.peek g h.va 64 = .ok bs →
          exec (.recordRead k) s = .next (walk s (if (Xfer.of bs).own then { w with bytes := some bs } else { w with parked := true }))) ∧
      (∀ w, c.walk = some w → w.bytes = none → w.parked = false →
        (∀ bs, s.peek g w.va 64 = .ok bs →
          exec (.recordRead k) s = .next (walk s (if (Xfer.of bs).own then { w with bytes := some bs } else { w with parked := true }))) ∧
        (∀ st, s.peek g w.va 64 = .error (.fail st) → exec (.recordRead k) s = .next (s.endChain c st))) ∧
      (∀ w, c.walk = some w → w.parked = true → exec (.recordRead k) s = .next s) ∧
      (∀ w bs, c.walk = some w → w.bytes = some bs → w.started = none → w.final = none →
        let r := Xfer.of bs
        let v := s.evictParams w.engine
        (∀ st, v.obtainAll g w.engine r = .error (.fail st) → exec (.recordStart k) s = .next (final v st)) ∧
        (∀ run new, v.obtainAll g w.engine r = .ok (run, new) →
          let u : State := ({ v with params := v.params ++ new } : State).dropReads g.key
          let sb := SbWord.of (u.ringWord c r.sbi)
          (∀ st, run.job r = .error st → exec (.recordStart k) s = .next (final u st)) ∧
          (∀ j, run.job r = .ok j →
            (r.sbe = false → exec (.recordStart k) s = .next (u.onWalk c fun w => { w with started := some run })) ∧
            (r.sbe = true → sb.slots = 0 → exec (.recordStart k) s = .next (final u stBadRecord)) ∧
            (r.sbe = true → sb.slots ≠ 0 → exec (.recordStart k) s = .next ((u.attach c r.sbi).onWalk c fun w => { w with started := some run })))))) ∧
    (s.copyCancelled c = true → ∀ w, c.walk = some w →
      (w.bytes = none → ∀ bs, s.peek g w.va 64 = .ok bs →
        (w.va ∈ w.seen → exec (.recordRead k) s = .next (s.endChain c stCancelled)) ∧
        (w.va ∉ w.seen → exec (.recordRead k) s = .next (walk s { w with bytes := some bs, parked := false, final := some stCancelled }))) ∧
      (∀ bs, w.bytes = some bs → w.started = none → w.final = none → exec (.recordStart k) s = .next (final s stCancelled))) ∧
    (s.windowsOf (bitKey g.key) = true → exec (.recordComplete k) s = .next s) ∧
    (s.windowsOf (bitKey g.key) = false → ∀ w bs st, c.walk = some w → w.bytes = some bs →
      (w.final = some st ∨ (w.final = none ∧ st = (s.windowFault (bitKey g.key)).getD stOk ∧
        ∃ run, w.started = some run ∧ s.streamEnded c (Xfer.of bs) run = true)) →
      let r := Xfer.of bs
      let resume := if st = stOk then 0 else (w.started.map (·.pos)).getD r.resume
      let written := bs.take 36 ++ leBytes 4 (r.ctrl - r.ctrl % 2) ++ (bs.drop 40).take 8 ++ leBytes 1 st
        ++ (bs.drop 49).take 1 ++ leBytes 6 resume ++ (bs.drop 56).take 8
      let out (u : State) : State := if r.sbe = true ∧ w.started.isSome = true then u.detach c r.sbi else u
      (∀ e, s.aim g r.chn w.va (wholeBytes written) none = .error (.fail e) → exec (.recordComplete k) s = .next ((out s).endChain c e)) ∧
      (s.aim g r.chn w.va (wholeBytes written) none = .error .wait → exec (.recordComplete k) s = .next s) ∧
      ∀ plan, s.aim g r.chn w.va (wholeBytes written) none = .ok plan →
        let u := out (((s.emit { g with key := noteKey g.key } r.chn plan).dropReads g.key).dropFault (bitKey g.key))
        (st = stOk ∨ (st = stCancelled ∧ u.copyCancelled c = true) → r.next ≠ 0 →
          exec (.recordComplete k) s = .next (u.onChan c fun x => { x with
            last := st, walk := some ⟨w.engine, r.next, none, none, false, none, if st = stCancelled then w.seen ++ [w.va] else []⟩ })) ∧
        (¬ (st = stOk ∨ (st = stCancelled ∧ u.copyCancelled c = true)) ∨ r.next = 0 →
          exec (.recordComplete k) s = .next (u.endChain c st)))) ∧
  ((∀ (s : State) (k : Nat) (c : Chan) (w : Walk) (bs : List Byte) (run : Started) (j : Job),
    s.chans[k]? = some c → s.parkedCopies c.part = false → c.walk = some w → w.bytes = some bs → w.started = some run →
    run.job (Xfer.of bs) = .ok j → w.final = none →
    let g := c.agent
    let r := Xfer.of bs
    let moved (mv : Move) (t : Started) : Started := { t with entries := mv.entries, retried := [], image := mv.image, busy := true }
    (r.sbe = false → run.busy = false → run.pos < j.chunks → s.reads = [] →
      ∀ mv plan, s.chunkOf g j run run.pos = .ok mv → mv.events = [] →
        s.aimAll g r.chn mv.writes = .ok plan →
        (s.hasTurn c = false → exec (.chunkMove k) s = .next s) ∧
        (s.hasTurn c = true → r.bitmap = 0 → (s.emit g r.chn plan).windowsOf g.key = false →
          ∃ t, exec (.chunkMove k) s = .next t ∧ t.mem = (s.emit g r.chn plan).mem ∧ t.egress = (s.emit g r.chn plan).egress ∧
            ∃ c' w' run', t.chans[k]? = some c' ∧ c'.walk = some w' ∧ w'.started = some run' ∧ run'.pos = run.pos + 1 ∧ run'.busy = false) ∧
        (s.hasTurn c = true → (s.emit g r.chn plan).windowsOf g.key = true →
          ∃ t, exec (.chunkMove k) s = .next t ∧ t.mem = (s.emit g r.chn plan).mem ∧ t.egress = (s.emit g r.chn plan).egress ∧
            ∃ c' w' run', t.chans[k]? = some c' ∧ c'.walk = some w' ∧ w'.started = some run' ∧ run'.pos = run.pos ∧ run'.busy = true)) ∧
    (r.sbe = false → run.busy = true → run.pos < j.chunks → s.windowsOf g.key = true → exec (.chunkMove k) s = .next s) ∧
    (r.sbe = false → j.chunks ≤ run.pos → exec (.chunkMove k) s = .next s) ∧
    (r.sbe = true → exec (.chunkMove k) s = .next s) ∧
    (r.sbe = false → exec (.slotWrite k) s = .next s) ∧
    (r.sbe = true →
      let word := s.ringWord c r.sbi
      let sb := SbWord.of word
      let x := run.base + run.slots * sb.size
      let pos := ((s.rings.find? fun q => q.at c r.sbi).map (·.pos)).getD 0
      (j.total ≤ x → exec (.slotWrite k) s = .next s) ∧
      (sb.free = 0 → run.taken = false → exec (.slotWrite k) s = .next s) ∧
      (sb.free ≠ 0 → run.taken = false → x < j.total → exec (.slotWrite k) s = .next
        ((s.setRingWord c r.sbi (sbCounts word sb.filled (sb.free - 1)) none).onWalk c fun (q : Walk) => { q with started := q.started.map fun (t : Started) => { t with taken := true } })) ∧
      (run.taken = true → run.busy = false → x < j.total → s.reads = [] → s.hasTurn c = true →
        ∀ mv plan, s.denseMove g j run x (min j.total (x + sb.size)) = .ok mv → mv.events = [] →
          let data : List Byte := ((mv.writes.flatMap fun (w : Nat × Masked × Option Nat) => w.2.1.map fun (b : Byte × Byte) => b.1 &&& b.2) ++ List.replicate sb.size 0).take sb.size
          let va := s.readRec c.part c.cont 48 8 + sb.base * 64 + pos * sb.size
          s.aim g r.chn (va % 2 ^ 64) (wholeBytes data) none = .ok plan →
          let u := (s.emit g r.chn plan).dropReads g.key
          let u := u.chargeCopy c data.length
          let u := ({ u with served := bankSet 0 u.served c.engine g.key } : State).onWalk c fun (q : Walk) => { q with started := q.started.map (moved mv) }
          (u.windowsOf g.key = true → exec (.slotWrite k) s = .next u) ∧
          (u.windowsOf g.key = false →
            let full := SbWord.of (u.ringWord c r.sbi)
            let at' := ((u.rings.find? fun q => q.at c r.sbi).map (·.pos)).getD 0
            exec (.slotWrite k) s = .next
              ((u.setRingWord c r.sbi (sbCounts (u.ringWord c r.sbi) (full.filled + 1) full.free) (some ((at' + 1) % max 1 full.slots))).onWalk c
                fun (q : Walk) => { q with started := q.started.map fun (t : Started) =>
                  { t with slots := t.slots + 1, pos := (t.base + (t.slots + 1) * full.size) / 512, busy := false, taken := false } }))))) ∧
  (∀ (s : State) (g : Agent) (r : Xfer) (run : Started) (j : Job) (n : Nat) (b : Nat → Byte),
    run.block = none → run.entries = [] → run.job r = .ok j → r.pblk = 0 → n < j.chunks →
    let len := min j.total (512 * n + 512) - 512 * n
    (∀ i, i < len → s.peek g ((r.src + 512 * n + i) % 2 ^ 64) 1 = .ok [b i]) →
    ∃ place, s.chunkOf g j run n = .ok ⟨[((r.dst + 512 * n) % 2 ^ 64, (List.range len).map fun i => (b i, 0xFF), place)], [], [], none⟩))

/-- Of a write that has not failed and whose task still holds the core: WINDOW_WRITE of one whose task runs on the window's
core, with no open group where it names a tile register and its scratch page resident, lands it and takes it off the list:
outside the scratch segment into that core's registers, memory unchanged; in the segment into memory at the segment's place,
the bytes outside its mask kept; a write whose page is not mapped for writes is dropped (log entry 72), one whose page is in
transit waits. Otherwise it is held and changes nothing else; HELD_WINDOW_WRITE lands a held one under the same conditions,
refilling the scratch page first, and else does nothing. A write whose task no longer holds the core lands nowhere: a chunk's
or a slot's takes the status that refuses it, one that nothing waits for goes. -/
def Obligations.WindowWritesLand : Prop :=
  ∀ (s : State) (k : Nat) (w : WinWrite), s.windows[k]? = some w → w.failed = 0 →
    let rest : State := { s with windows := s.windows.erase w }
    let i : Instr := if w.held then .heldWindowWrite k else .windowWrite k
    (w.held = true → exec (.windowWrite k) s = .next s) ∧ (w.held = false → exec (.heldWindowWrite k) s = .next s) ∧
    (s.windowRefusal w ≠ stOk → (noteKey 0 ≤ w.job → exec i s = .next rest) ∧
      (w.job < noteKey 0 → exec i s = .next { s with windows := s.windows.set k { w with failed := s.windowRefusal w } })) ∧
    (s.windowRefusal w = stOk →
    (w.held = false → s.windowOpen w = none → exec (.windowWrite k) s = .next { s with windows := s.windows.set k { w with held := true } }) ∧
    (w.held = true → s.windowOpen w = none → exec (.heldWindowWrite k) s = .next s) ∧
    (∀ n, s.windowOpen w = some n → 0x200000 ≤ w.off → exec i s = .next (rest.onCoreN n fun c => c.winPut w.off w.bytes)) ∧
    (∀ n, s.windowOpen w = some n → w.off < 0x200000 → s.windowPage w n = none →
      (∀ l cached, s.scratchAt n w.off .write = .ok l cached →
        exec i s = .next (rest.perform l.pa (blend (s.mem.readN l.pa w.bytes.length) w.bytes))) ∧
      (∀ tr, s.scratchAt n w.off .write = .trap tr → exec i s = .next rest) ∧
      (s.scratchAt n w.off .write = .transit → exec i s = .next s)) ∧
    (∀ n page, s.windowOpen w = some n → w.off < 0x200000 → s.windowPage w n = some page →
      (w.held = false → exec (.windowWrite k) s = .next { s with windows := s.windows.set k { w with held := true } }) ∧
      (w.held = true → exec (.heldWindowWrite k) s = .next ((s.pageArrives n page).landWindow w n))))

/-! ## Collectives and the fabric (09, 14, 15) -/

/-- COLL of a 64-byte aligned readable and writable command, once all that the core issued before is performed, ends the
phase and queues it; at four outstanding it stalls or raises X_QFULL. COLLECTIVE_COMMAND_READ of a valid command forms its
blocks of 128 elements. BLOCK_ISSUE launches the first block that has not gone while an origin slot is free. COLL_PACKET runs
the hops of an intact packet from the one at hand and counts others as dropped or busy; a hop shifts the route, scales and
types as its operation says, and the last hop returns the block; a packet whose STORE has still to land in a window stays in
its origin or transit slot. COLLECTIVE_TIMEOUT issues a late block again with the next attempt, and fails it after attempt 7.
-/
def Obligations.CollectiveCommandsAndHops : Prop :=
  (∀ (s : State) (a : Nat), let c := s.core
    let m := (s.rs a).toNat
    (s.inGroup = true → raises (.coll a) s .groupViolation) ∧
    (s.inGroup = false → m % 64 ≠ 0 → exec (.coll a) s = .next (s.takeTrap { no := .align, addr := m })) ∧
    (∀ p ps, s.inGroup = false → s.check .rw 3 m 64 64 = .ok (p :: ps) →
      (s.outstanding c.part c.cont < 4 →
        let v := s.finishOwn
        let u := v.enginePost
        (v.owing = true → exec (.coll a) s = .next { v with core := { v.core with frozen := some .publish } }) ∧
        (v.owing = false → exec (.coll a) s = .next { u with
          colls := u.colls ++ [⟨u.nextCid, dieOf u.core.phys, u.core.part, u.core.task, u.core.cont, p.va, false, [], [], [], 0⟩]
          nextCid := (u.nextCid + 1) % 2 ^ 32 })) ∧
      (4 ≤ s.outstanding c.part c.cont → c.mode.getLsbD 1 = true → raises (.coll a) s .qfull) ∧
      (4 ≤ s.outstanding c.part c.cont → c.mode.getLsbD 1 = false →
        exec (.coll a) s = .next { s with core := { c with stall := some .coll, waiting := true } }))) ∧
  (∀ (s : State) (k : Nat) (c : CollCmd), s.colls[k]? = some c → s.parkedPart c.part = false →
    (∀ cmd r, c.read = false → s.reads = [] → s.readColl c = .ok (cmd, r, stOk) →
      exec (.collectiveCommandRead k) s = .next (s.onColl c.cid fun c => { c with
        read := true, cmd := cmd, route := r
        blocks := (List.range (((Coll.of cmd).nel + 127) / 128)).map fun b => ⟨b, 0, false, false, 0, 0⟩ })) ∧
    (c.read = true → exec (.collectiveCommandRead k) s = .next s) ∧
    (c.read = false → exec (.blockIssue k) s = .next s) ∧
    (∀ b, c.read = true → c.blocks.find? (fun b => !b.flying && !b.done) = some b →
      (s.flying (s.opalAt c.die) < 256 → exec (.blockIssue k) s = .next (s.launch c b)) ∧
      (256 ≤ s.flying (s.opalAt c.die) → exec (.blockIssue k) s = .next s)) ∧
    ((∀ b ∈ c.blocks, b.flying = true → s.now - b.since < 8 * s.relTimeout) → exec (.collectiveTimeout k) s = .next s) ∧
    (∀ b, s.lateBlock c = some b → b.att ≠ 7 → exec (.collectiveTimeout k) s = .next (s.launch c { b with att := b.att + 1 })) ∧
    (∀ b, s.lateBlock c = some b → b.att = 7 → exec (.collectiveTimeout k) s = .next ((s.onColl c.cid fun c =>
      c.onBlock b.blk fun b => { b with flying := false, done := true, err := stCrc }).finishColl c.cid))) ∧
  (∀ (s : State) (m : FabricMsg), m.ver = 1 → m.kind = 8 → m.dst = s.devId → m.rsv = false → (∀ x ∈ s.transit ++ s.issuing, x.2 ≠ m) →
    (∀ x ∈ s.comms, x.1 = (Packet.of m.payload).comm → s.ingressCut x.2 = false ∧ ((s.part? x.2).map (·.fatal)).getD false = false) →
    let p := Packet.of m.payload
    let used := (s.transit.filter fun x => x.1 == s.opalAt p.die).length
    (512 ≤ used → exec (.collPacket m) s = .next { s with collBusy := (s.collBusy + 1) % 2 ^ 64 }) ∧
    (used < 512 → packetOk m.payload = false → exec (.collPacket m) s = .next { s with collDrop := (s.collDrop + 1) % 2 ^ 64 }) ∧
    (used < 512 → packetOk m.payload = true → exec (.collPacket m) s = .next (State.runHops 16 s false p))) ∧
  (∀ (s u : State) (p q : Packet) (n : Nat) (issued : Bool), s.hop p = .ok (q, u) →
    let slot := (u.opalAt q.die, collMsg u.devId (q.route.headD 0) q)
    (q.nhop = 0 → State.runHops (n + 1) s issued p = u.blockReturns q) ∧
    (q.nhop ≠ 0 → u.opalWaits q = false → q.route.headD 0 = u.devId → State.runHops (n + 1) s issued p = State.runHops n u issued q) ∧
    (q.nhop ≠ 0 → u.opalWaits q = false → q.route.headD 0 ≠ u.devId → State.runHops (n + 1) s issued p = u.send slot.2) ∧
    (q.nhop ≠ 0 → u.opalWaits q = true → State.runHops (n + 1) s issued p =
      if issued then { u with issuing := u.issuing ++ [slot] } else { u with transit := u.transit ++ [slot] })) ∧
  (∀ (s : State) (p : Packet) (part : Nat), s.comms.find? (·.1 == p.comm) = some (p.comm, part) →
    let shifted (q : Packet) : Packet := { q with
      ops := q.ops.drop 1 ++ [0], route := q.route.drop 1 ++ [0], nhop := q.nhop - 1, cyc := (q.cyc + Config.opalCycles s.fresh) % 2 ^ 32 }
    let after (q : Packet) : Prop := s.hop p = .ok (shifted q, { s with fresh := s.fresh + 1 })
    (p.err ≠ 0 → after p) ∧
    (p.err = 0 → opCode (p.ops.headD 0) = 0 → after p) ∧
    (p.err = 0 → opCode (p.ops.headD 0) = 3 →
      after { p with sk := min (max (p.sk + toSigned 5 (opArg (p.ops.headD 0))) (-128)) 127 }) ∧
    (p.err = 0 → opCode (p.ops.headD 0) = 4 → after { p with otype := opArg (p.ops.headD 0) }))

/-- Once all that the core issued before is performed, until which it freezes, FREL on an open pair with fewer than four
releases out closes the epoch with a RELEASE and answers its number; FCHQ answers the pair's state. A posted write enters the
open epoch and the send log: an entry of 128 bytes in memory whose bytes from 16 on hold its data, or its source's address. A
message with a reserved bit set, another version, kind or destination is dropped and counted; a header within its fields and
a payload are the message again as bytes. The receiver performs a granted WRITE and counts it, holds a RELEASE, writes its
flag when it is next and its count matches, and accepts; the source drops what is accepted. A timed-out slot takes a new
generation, forgets its counts and asks; RESEND sets RSND and has the log's writes and then the releases sent again one by
one, after which RSND is clear; the source's own timer, from the oldest release or the last acceptance on, sends the releases
again. -/
def Obligations.PairsAndReleases : Prop :=
  (∀ (s : State) (chn a b d : Nat) (p : Piece) (ps : List Piece),
    let e := (s.rs a).toNat
    (s.inGroup = true → raises (.frel chn b a d) s .groupViolation) ∧
    (s.inGroup = false → s.checkWord .frel 4 e 8 = .ok (p :: ps) →
      let dev := p.loc.peer.getD 0
      (s.pair? dev chn = none → raises (.frel chn b a d) s .fabChannel) ∧
      (∀ q, s.pair? dev chn = some q → 4 ≤ q.out → s.core.mode.getLsbD 1 = false →
        exec (.frel chn b a d) s = .next { s with core := { s.core with stall := some (.pair dev chn), waiting := true } }) ∧
      (∀ q, s.pair? dev chn = some q → q.out < 4 →
        let v := s.finishOwn
        let u := (v.enginePost).passPair dev chn
        (v.owing = true → exec (.frel chn b a d) s = .next { v with core := { v.core with frozen := some .publish } }) ∧
        (v.owing = false → ∀ q', u.pair? dev chn = some q' →
          let r : Rel := ⟨q'.nseq, q'.opened, p.loc.pa, s.rs b, u.now⟩
          exec (.frel chn b a d) s = .next (((u.onPair dev chn fun x => { x with
            opened := 0, nseq := (x.nseq + 1) % 2 ^ 32, out := x.out + 1, rels := x.rels ++ [r] }).send (releaseMsg u.devId q' r)).result 4
              [.s d (BitVec.ofNat 64 q.nseq)])))) ∧
    (s.checkWord .fchq 4 e 8 = .ok (p :: ps) → writesScalar (.fchq chn a d) s 6 d fun z => z = BitVec.ofNat 64
      (match s.pair? (p.loc.peer.getD 0) chn with
        | none => 0
        | some q => q.acc * 2 ^ 32 + (if q.rsnd then 2 ^ 31 else 0) + q.out * 2 ^ 28))) ∧
  (∀ (s : State) (k : Nat) (w : Posted) (p : Pair), s.egress[k]? = some w → s.pair? w.dev w.chn = some p →
    (p.cap ≤ p.log.length ∨ s.mayPass w = false → exec (.postedWriteEgress k) s = .next s) ∧
    (p.log.length < p.cap → s.mayPass w = true → w.bytes.length ≤ 64 → s.poisoned = [] → ∃ t, exec (.postedWriteEgress k) s = .next t ∧
      sameBytesBut s t p.place 128 ∧
      (s.inv → t.mem.readN (p.place + 16) (match w.src with
          | some _ => 8
          | none => w.bytes.length) = (match w.src with
          | some a => leBytes 8 a
          | none => w.bytes)) ∧
      t.egress = s.egress.erase w ∧
      t.outbox = s.outbox ++ [⟨1, 0, w.chn, w.dev, s.devId, 0, false, p.nseq % 8, p.gen, w.bytes.length - 1, w.pa, w.bytes⟩] ∧
      t.pair? w.dev w.chn = some { p with log := p.log ++ [⟨w.pa, p.nseq, w.bytes, w.src⟩], opened := (p.opened + 1) % 2 ^ 32 })) ∧
  (∀ (s : State) (m : FabricMsg), m.rsv = true ∨ padded m = true ∨ m.ver ≠ 1 ∨ 9 ≤ m.kind ∨ m.dst ≠ s.devId →
    ∀ i ∈ [Instr.write m, .release m, .accept m, .resend m, .atomic m, .read m, .readReply m],
      exec i s = .next { s with fabDrop := (s.fabDrop + 1) % 2 ^ 64 }) ∧
  (∀ m : FabricMsg, ofWire (wireOf m) = m ↔ m.ver < 16 ∧ m.kind < 16 ∧ m.chn < 16 ∧ m.dst < 1024 ∧ m.src < 1024 ∧ m.seq < 2 ^ 32 ∧
    m.epo < 8 ∧ m.gen < 4 ∧ m.len < 64 ∧ m.addr < 2 ^ 52) ∧
  (∀ (s : State) (m : FabricMsg) (x : Machine.Slot), m.ver = 1 → m.dst = s.devId → m.rsv = false → padded m = false → s.slot? m.src m.chn = some x →
    s.ingressCut x.part = false → m.gen = x.gen →
    (m.kind = 0 → s.granted x.part m.addr m.payload.length = true → exec (.write m) s = .next ((s.perform m.addr m.payload).onSlot m.src m.chn
      fun y => { y with e := y.e.set m.epo ((y.e.getD m.epo 0 + 1) % 2 ^ 32), timer := (s.perform m.addr m.payload).now })) ∧
    (m.kind = 0 → s.granted x.part m.addr m.payload.length = false → ∃ t, exec (.write m) s = .next t ∧ t.mem = s.mem ∧
      t.viol = (s.viol + 1) % 2 ^ 64) ∧
    (m.kind = 1 → m.seq = x.accd ∨ precedes m.seq x.accd = true → exec (.release m) s = .next (s.send (acceptMsg s.devId x x.accd))) ∧
    (m.kind = 1 → m.seq ≠ x.accd → precedes m.seq x.accd = false →
      let q : HeldRel := ⟨m.seq, leNat (m.payload.take 4), m.addr, BitVec.ofNat 64 (leNat ((m.payload.drop 8).take 8))⟩
      exec (.release m) s = .next (s.onSlot m.src m.chn fun y => { y.hold q with timer := s.now }))) ∧
  (∀ (s : State) (k : Nat) (x : Machine.Slot), s.slots[k]? = some x →
    (x.acceptable = none → exec (.releaseFlagWrite k) s = .next s) ∧
    (s.ingressCut x.part = true → exec (.releaseFlagWrite k) s = .next s) ∧
    (∀ q, x.acceptable = some q → s.ingressCut x.part = false → s.granted x.part q.addr 8 = true →
      let u := s.perform q.addr (leBytes 8 q.value.toNat)
      exec (.releaseFlagWrite k) s = .next ((u.onSlot x.dev x.chn fun y => { y with
        e := y.e.set (q.seq % 8) 0, accd := q.seq, held := y.held.filter (·.seq != q.seq) }).send (acceptMsg u.devId x q.seq))) ∧
    (∀ q, x.lowest = some q → x.held ≠ [] → x.acceptable = none → s.relTimeout ≤ s.now - x.timer → s.ingressCut x.part = false →
      exec (.releaseTimeout k) s = .next ((s.onSlot x.dev x.chn fun y => { y with
        gen := (x.gen + 1) % 4, e := List.replicate 8 0, timer := s.now }).send { blankMsg with
          kind := 3, chn := x.chn, dst := x.dev, src := s.devId, seq := q.seq, gen := (x.gen + 1) % 4
          payload := leBytes 4 q.cnt ++ leBytes 4 (x.e.getD (q.seq % 8) 0) })) ∧
    (s.now - x.timer < s.relTimeout → exec (.releaseTimeout k) s = .next s)) ∧
  (∀ (s : State) (m : FabricMsg) (p : Pair), m.ver = 1 → m.dst = s.devId → m.rsv = false → s.pair? m.src m.chn = some p →
    (m.kind = 2 → s.ingressCut p.part = true → exec (.accept m) s = .next s) ∧
    (m.kind = 2 → s.ingressCut p.part = false → precedes p.acc m.seq = false →
      exec (.accept m) s = .next (s.onPair m.src m.chn fun x => { x with heard := s.now })) ∧
    (m.kind = 2 → precedes p.acc m.seq = true → s.ingressCut p.part = false → ∃ t, exec (.accept m) s = .next t ∧ t.mem = s.mem ∧
      let left := p.rels.filter fun r => !upTo r.seq m.seq
      let stays (e : LogEntry) : Bool := !upTo e.seq m.seq
      t.pair? m.src m.chn = some { p with
        acc := m.seq, out := p.out - (p.rels.length - left.length), rels := left
        head := (p.head + (p.log.length - (p.log.filter stays).length)) % max 1 p.cap
        log := p.log.filter stays, again := p.again.filter stays, heard := s.now }) ∧
    (m.kind = 3 → s.ingressCut p.part = false → m.gen = p.gen → exec (.resend m) s = .next s) ∧
    (m.kind = 3 → s.ingressCut p.part = false → m.gen ≠ p.gen → exec (.resend m) s = .next (s.onPair m.src m.chn fun x =>
      { x with gen := m.gen, rsnd := true, again := x.log }))) ∧
  (∀ (s : State) (p : Pair), s.pairs.find? (fun x => x.rsnd && !s.ingressCut x.part) = some p → s.pair? p.dev p.chn = some p → s.poisoned = [] →
    (∀ e l, p.again = e :: l → ∃ t, s.resendNext = some t ∧ t.mem = s.mem ∧
      t.outbox = s.outbox ++ [writeMsg s.devId p e (s.entryBytes e)] ∧ t.pair? p.dev p.chn = some { p with again := l }) ∧
    (p.again = [] → ∃ t, s.resendNext = some t ∧ t.mem = s.mem ∧ t.outbox = s.outbox ++ p.rels.map (releaseMsg s.devId p) ∧
      t.pair? p.dev p.chn = some { p with rels := p.rels.map fun r => { r with sent := s.now }, rsnd := false })) ∧
  (∀ (s : State) (k : Nat) (p : Pair), s.pairs[k]? = some p → s.pair? p.dev p.chn = some p →
    (∀ r rs, p.rels = r :: rs → 2 * s.relTimeout ≤ s.now - max r.sent p.heard → s.ingressCut p.part = false → ∃ t, exec (.sourceReleaseTimer k) s = .next t ∧
      t.mem = s.mem ∧ t.outbox = s.outbox ++ p.rels.map (releaseMsg s.devId p) ∧
      t.pair? p.dev p.chn = some { p with rels := p.rels.map fun r => { r with sent := s.now } }) ∧
    (∀ r rs, p.rels = r :: rs → s.now - max r.sent p.heard < 2 * s.relTimeout → exec (.sourceReleaseTimer k) s = .next s) ∧
    (p.rels = [] → exec (.sourceReleaseTimer k) s = .next s))

/-- A peer's ATOMIC joins the requests on their way; at its home slice it performs Table 6-7's operation on its word and is
answered with the old value. A reply gives the landing load of its request the value, in a restart snapshot too; an expired
request raises X_ATOMIC_LOST on its core. A READ is answered with the bytes, a READ_REPLY delivers them, an unanswered READ
is sent again. A key rotation keeps the previous key until it is dropped, and is BUSY till then. An AADD that arrives first
at a port on its way opens a record with a merged request, one that may join adds to it in order of hub cycle and input port,
and the reply of the merged request gives each entry the value plus the operands before it. -/
def Obligations.AtomicRepliesReadsAndCombining : Prop :=
  (∀ (s : State) (m : FabricMsg), m.ver = 1 → m.dst = s.devId → m.rsv = false → padded m = false → s.poisoned = [] →
    (∀ op, m.kind = 4 → AtomOp.ofCode (leNat (m.payload.take 1)) = some op →
      let b := leNat ((m.payload.drop 1).take 1)
      let word (k : Nat) : Word := BitVec.ofNat 64 (leNat ((m.payload.drop k).take 8))
      exec (.atomic m) s = .next { s with
        atoms := s.atoms ++ [⟨s.nextAtom, .peer m.src m.seq, 65536, 65536, 0, op, field b 0 1, ⟨none, m.addr⟩, 0, word 8, word 16, field b 2 3,
          field b 1 1 == 0, true, 0, 0, s.now, false, false, none, [], none, none⟩]
        nextAtom := (s.nextAtom + 1) % 2 ^ 32 }) ∧
    (m.kind = 6 → exec (.read m) s = .next (s.send { blankMsg with
      kind := 7, dst := m.src, src := s.devId, seq := m.seq, payload := (List.range (m.len + 1)).map fun i => s.deviceByte (m.addr + i) })) ∧
    (m.kind = 7 → ∃ t, exec (.readReply m) s = .next t ∧ t.mem = s.mem ∧ t.reads = s.reads.map fun r =>
      if r.tag = m.seq ∧ r.dev = m.src ∧ r.data = none then { r with data := some m.payload } else r)) ∧
  (∀ (s : State) (k : Nat) (a : Atom) (dev tag : Nat), s.atoms[k]? = some a → a.owner = .peer dev tag → a.old = none → a.inRecord = none →
    a.sent = false → a.loc.peer = none → s.behind a = false → s.mayGo a = true → s.aheadAtom a = [] → s.unwatched → s.inv →
    let n := if a.sz = 0 then 4 else 8
    let old := leNat (s.mem.readN a.loc.pa n)
    let c := a.c.toNat % 2 ^ (8 * n)
    let q := a.op.apply a.sz a.mode old (a.b.toNat % 2 ^ (8 * n)) c
    ∃ t, exec (.homeSliceAtomic k) s = .next t ∧ sameBytesBut s t a.loc.pa n ∧
      t.mem.readN a.loc.pa n = (if a.op = .cas ∧ old ≠ c then s.mem.readN a.loc.pa n else leBytes n q.1) ∧
      t.outbox = s.outbox ++ [{ blankMsg with kind := 5, dst := dev, src := s.devId, seq := tag
                                              payload := leBytes 8 (if a.ret then old else 0) ++ leBytes 1 q.2.toNat ++ leBytes 7 0 }] ∧
      t.atoms = s.atoms.filter (·.id != a.id)) ∧
  (∀ (s : State) (k : Nat) (r : ReadReq), s.reads[k]? = some r →
    (r.data = none → s.relTimeout ≤ s.now - r.since → exec (.readRetry k) s = .next
      ({ s with reads := s.reads.set k { r with since := s.now } }.send { blankMsg with
        kind := 6, dst := r.dev, src := s.devId, seq := r.tag, len := r.len - 1, addr := r.pa })) ∧
    (r.data.isSome = true ∨ s.now - r.since < s.relTimeout → exec (.readRetry k) s = .next s)) ∧
  (∀ (s : State) (st key : Nat), let k := bankGet LinkKeys.blank s.keys st
    (k.prev.isSome = true → exec (.keyRotation st key) s = .next (s.notify .busy) ∧
      exec (.previousKeyDrop st) s = .next { s with keys := bankSet LinkKeys.blank s.keys st { k with prev := none, flits := 512 } }) ∧
    (k.prev = none → exec (.keyRotation st key) s = .next
        ({ s with keys := bankSet LinkKeys.blank s.keys st ⟨k.index + 1, key, some k.cur, 0⟩ }.notify .ok) ∧ exec (.previousKeyDrop st) s = .next s)) ∧
  (∀ (s : State) (k : Nat) (a : Atom) (part rec_ n : Nat), s.atoms[k]? = some a → a.owner = .cont part rec_ → s.runner part rec_ = some n →
    (∀ v f, a.old = some (v, f) → ((s.part? part).map (·.cut)).getD false = false → ∃ t, exec (.atomicReply k none) s = .next t ∧ t.mem = s.mem ∧ t.atoms = s.atoms.filter (·.id != a.id) ∧
      let given (l : LoadLanding) : LoadLanding := match l.dest with
        | .atomic _ j => if j = a.id then { l with data := some (leBytes 8 v.toNat) } else l
        | _ => l
      (t.coreOf n).loads = (s.coreOf n).loads.map given ∧
      (t.coreOf n).group = (s.coreOf n).group.map fun g => (g.1, { g.2 with loads := g.2.loads.map given })) ∧
    (s.atomicExpired a = true → exec (.atomicTimeout k) s = .next ({ s with atoms := s.atoms.filter (·.id != a.id) }.onCoreN n fun c => { c with
      atomLost := if c.atomLost.isSome then c.atomLost else some a.pc
      loads := c.loads.filter fun l => match l.dest with
        | .atomic _ j => j != a.id
        | _ => true })) ∧
    (s.atomicExpired a = false → exec (.atomicTimeout k) s = .next s)) ∧
  (∀ (s : State) (stage port : Nat) (r : CombReq) (a : Atom), s.combAtom r = some a → (∀ x ∈ s.atoms, x.core = a.core → a.seq ≤ x.seq) →
    s.pubs = [] → s.mayGo a = true → s.mayReach a stage port = true → (a.loc.peer = none ∨ s.behind a = false) → r.inPort = s.inPort a stage →
    let e : CombEntry := ⟨a.id, a.b, a.ret, r.inPort, r.cycle⟩
    let n := if r.sz = 0 then 32 else 64
    let mark (id : Nat) (x : Atom) : Atom := if x.id = a.id then { x with inRecord := some id } else x
    (s.combs = [] → r.aadd = false → exec (.combiningRequest stage port r) s = .next { s with
      atoms := s.atoms.map fun x => if x.id = a.id then { x with queue := some (stage, port), after := a.after ++ s.standing stage port a } else x }) ∧
    (s.combs = [] → r.aadd = true → exec (.combiningRequest stage port r) s = .next { s with
      nextAtom := (s.nextAtom + 1) % 2 ^ 32
      combs := [⟨s.nextAtom, stage, port, a.loc.pa, r.dev, a.sz, [e], true⟩]
      atoms := (s.atoms ++ [{ a with id := s.nextAtom, owner := .comb s.nextAtom, core := 65536, seq := 0
                                     b := BitVec.ofNat 64 (a.b.toNat % 2 ^ n), queue := some (stage, port)
                                     after := a.after ++ s.standing stage port a, inRecord := none, old := none, sent := false }]).map (mark s.nextAtom) }) ∧
    (∀ c, s.combs = [c] → c.stage = stage → c.port = port → r.aadd = true → c.opened = true → s.queued c = true → c.sz = r.sz → c.addr = r.addr →
      c.dev = r.dev → c.entries.length < 16 → (∀ x ∈ c.entries, x.cycle ≤ r.cycle) → exec (.combiningRequest stage port r) s = .next { s with
        combs := [{ c with entries := insertEntry e c.entries }]
        atoms := (s.atoms.map fun x => if x.owner = .comb c.id then
          { x with b := BitVec.ofNat 64 ((x.b.toNat + a.b.toNat) % 2 ^ n), ret := x.ret || a.ret } else x).map (mark c.id) })) ∧
  (∀ (s : State) (k : Nat) (c : CombRecord) (m : Atom) (v : Word) (f : Flags), s.combs[k]? = some c → s.combs.find? (·.id == c.id) = some c →
    s.merged c.id = some m → m.old = some (v, f) → (s.atoms.map (·.id)).Nodup → (c.entries.map (·.atom)).Nodup →
    (∀ e ∈ c.entries, ∃ a ∈ s.atoms, a.id = e.atom ∧ a.ret = true ∧ ∃ p r, a.owner = .cont p r) →
    ∃ t, exec (.decombineReply k v) s = .next t ∧ t.mem = s.mem ∧ t.combs = s.combs.filter (·.id != c.id) ∧
      ∀ i e, c.entries[i]? = some e → ∃ a ∈ t.atoms, a.id = e.atom ∧ a.inRecord = none ∧ a.old = some
        (if i = 0 then v else BitVec.ofNat 64 ((v.toNat + ((c.entries.take i).map (·.b.toNat)).sum) % 2 ^ (if c.sz = 0 then 32 else 64)), 0))

/-! ## Tasks and queues (R209, R210, R334–R349, R416) -/

/-- TPOST of an admitted 128-byte descriptor to a queue that has room, or rejects, once all that the core issued before is
performed, ends the phase, holds the bytes read and waits; it traps in a tile group, on a malformed operand, an absent queue
or one without PROG, and stalls where the entries held and those of copies in progress fill the queue. When the copy
completes the task takes the next index, the ring slot holds the descriptor, TAIL advances and the op word is done; a queue
that rejects makes the task REJECTED with 0x46. TCANCEL answers 2 for no task and 1 for a finished one; else 0, and the task
is ending. TASK_TAKE advances HEAD and admits the task or rejects it (0x48 if malformed). A drained resetting queue reopens
at 0; a drained queue with a close mark becomes CLOSED. -/
def Obligations.TaskQueuesAndPosting : Prop :=
  (∀ (s : State) (b a d : Nat), s.core.posting = none →
    let v := (s.rs b).toNat
    let note := if field v 14 1 = 1 then some (field v 8 6) else none
    (s.inGroup = true → raises (.tpost b a d) s .groupViolation) ∧
    (s.inGroup = false → (v / 2 ^ 15 ≠ 0 ∨ field v 6 2 ≠ 0 ∨ (field v 14 1 = 0 ∧ field v 8 6 ≠ 0)) → raises (.tpost b a d) s .illegal) ∧
    (s.inGroup = false → v / 2 ^ 15 = 0 → field v 6 2 = 0 → (field v 14 1 = 1 ∨ field v 8 6 = 0) →
      (s.queue? s.core.part (field v 0 6) = none → raises (.tpost b a d) s .illegal) ∧
      ∀ x, s.queue? s.core.part (field v 0 6) = some x →
        (x.attr.prog = false → raises (.tpost b a d) s .perm) ∧
        (x.attr.prog = true → ∀ ps, s.check .read 3 (s.rs a).toNat 128 64 = .ok ps →
          (x.rejects = false → x.attr.depth ≤ s.taken s.core.part x → exec (.tpost b a d) s = .next (s.stallOn (.queue (field v 0 6)))) ∧
          ((x.rejects = true ∨ s.taken s.core.part x < x.attr.depth) →
            let k := s.finishOwn
            let u := k.enginePost
            (k.owing = true → exec (.tpost b a d) s = .next { k with core := { k.core with frozen := some .publish } }) ∧
            (k.owing = false → ∀ bs w, u.readPieces ps = (.inl bs, w) →
              ∃ t, exec (.tpost b a d) s = .next t ∧ t.core.posting = some ⟨field v 0 6, bs, d, note⟩ ∧ t.core.waiting = true ∧
                t.core.stall = none ∧ t.core.lands = w.core.lands ∧ t.mem = w.mem))))) ∧
  (∀ (s : State) (w : Posting) (x : Queue) (p : Partition), s.core.posting = some w → s.queue? s.core.part w.q = some x →
    s.part? s.core.part = some p → s.unwatched → s.inv → w.desc.length = 128 → (∀ u ∈ p.tasks, u.idx = p.nextIdx → u.finished = true) →
    let notice := w.notice.map fun f => (s.core.cont, f)
    let pos := x.tail % x.attr.depth
    let slot := x.attr.ring + 128 * pos
    (x.rejects = false → x.attr.depth ≤ x.held → exec .tpostCopyComplete s = .next s) ∧
    (x.rejects = false → x.held < x.attr.depth → ∃ t, exec .tpostCopyComplete s = .next t ∧
      t.core.posting = none ∧ t.core.done = s.core.done ||| 2 ^ 7 ∧ t.core.late = s.core.late ++ [.s w.d (BitVec.ofNat 64 p.nextIdx)] ∧
      t.part? s.core.part = some { p with
        nextIdx := (p.nextIdx + 1) % 2 ^ 32
        tasks := (p.tasks.filter fun u => !(u.idx == p.nextIdx && u.finished)) ++ [Task.queued p.nextIdx w.q pos notice]
        queues := p.queues.map fun y => if y.q = w.q then { y with tail := (y.tail + 1) % 2 ^ 64, idx := y.idx ++ [p.nextIdx] } else y } ∧
      ∀ k, (k < x.ctl ∨ x.ctl + 16 ≤ k) → k ≠ x.ctl + 30 →
        t.mem.read k = if slot ≤ k ∧ k < slot + 128 then w.desc.getD (k - slot) 0 else s.mem.read k) ∧
    (x.rejects = true → ∃ t, exec .tpostCopyComplete s = .next t ∧ t.core.posting = none ∧ t.core.done = s.core.done ||| 2 ^ 7 ∧
      (t.task? s.core.part p.nextIdx).map (fun u => (u.state, u.code)) = some (.rejected, 0x46))) ∧
  (∀ (s : State) (a d : Nat), let v := (s.rs a).toNat
    (s.inGroup = true → raises (.tcancel a d) s .groupViolation) ∧
    (s.inGroup = false →
      (2 ^ 32 ≤ v → raises (.tcancel a d) s .illegal) ∧
      (v < 2 ^ 32 → s.task? s.core.part v = none → exec (.tcancel a d) s = .next (s.result 6 [.s d 2])) ∧
      (∀ u, v < 2 ^ 32 → s.task? s.core.part v = some u →
        (u.finished = true → exec (.tcancel a d) s = .next (s.result 6 [.s d 1])) ∧
        (u.finished = false → exec (.tcancel a d) s = .next ((s.result 6 [.s d 0]).ending s.core.part v 0x21)) ∧
        ((u.state = .queued ∨ u.state = .waiting ∨ u.state = .running) → (((s.part? s.core.part).map (·.tasks)).getD [] |>.map (·.idx)).Nodup →
          ∃ t w, exec (.tcancel a d) s = .next t ∧ t.task? s.core.part v = some w ∧ (w.state = .ending ∨ w.state = .draining) ∧
            w.code = if u.code = 0 then 0x21 else u.code)))) ∧
  (∀ (s : State) (part q i : Nat) (p : Partition) (x : Queue) (t : Task), s.part? part = some p → p.swapped = false → p.quiesced = false →
    p.fatal = false → p.queues.find? (·.q == q) = some x → s.unwatched → (p.tasks.map (·.idx)).Nodup →
    (p.next x = none → exec (.taskTake part q) s = .next s) ∧
    (p.next x = some i → s.task? part i = some t → t.state = .queued →
      let d := Desc.of (s.mem.readN (x.attr.ring + 128 * (x.head % x.attr.depth)) 128)
      (s.rootMoves part d.root = true → exec (.taskTake part q) s = .next s) ∧
      (s.rootMoves part d.root = false → x.state = .opened → ∃ u w, exec (.taskTake part q) s = .next u ∧ u.task? part i = some w ∧ w.desc = some d ∧
        (u.queue? part q).map (fun y => (y.head, y.idx)) = some ((x.head + 1) % 2 ^ 64, x.idx.drop 1) ∧
        ((w.state = .waiting ∧ w.adm = p.nextAdm ∧ d.malformed = false ∧ d.budget ≠ 0 ∧ (d.cls ≠ 2 → s.now < d.deadline)) ∨
          (w.state = .rejected ∧ 0x40 ≤ w.code ∧ w.code ≤ 0x48 ∧ (d.malformed = true → w.code = 0x48)))) ∧
      (s.rootMoves part d.root = false → x.state = .resetting → ∃ u w, exec (.taskTake part q) s = .next u ∧ u.task? part i = some w ∧
        (w.state = .ending ∨ w.state = .draining)))) ∧
  (∀ (s : State) (part q : Nat) (p : Partition) (x : Queue), s.part? part = some p → s.queue? part q = some x → s.unwatched →
    (x.state = .resetting → x.head = x.tail → p.queueDone q = true → ∃ t, exec (.queueReopen part q) s = .next t ∧
      t.queue? part q = some { x with head := 0, tail := 0, state := .opened, mark := none }) ∧
    ((x.state ≠ .resetting ∨ x.head ≠ x.tail ∨ p.queueDone q = false) → exec (.queueReopen part q) s = .next s) ∧
    (x.state = .opened → x.mark.isSome = true → x.idx = [] → p.queueDone q = true → ∃ t, exec (.queueClosed part q) s = .next t ∧
      t.queue? part q = some { x with state := .closed }) ∧
    ((x.state ≠ .opened ∨ x.mark = none ∨ x.idx ≠ [] ∨ p.queueDone q = false) → exec (.queueClosed part q) s = .next s))

/-- GROUP_HOLD gives a waiting pinned task its group where no holder shares a member. TASK_DISPATCH of a waiting task without
edges, holding its group if pinned, with a writable ROOT and the bytes of its safe-table pointer at hand, makes it RUNNING,
counts the run, and makes its ROOT record ready. TASK_COMPLETE of a draining task whose jobs and posted writes have ended
makes it DONE, releases its group and its edges, sends the completion record to its place in the queue's ring, and writes the
signal word at SIGNAL, and, where no dependant is cancelled, nothing else. TASK_RERUN of a rerunning task without records
clears its charge. PRELOAD names the candidate, whose pinned pages the core's idle bank takes. AGATE_FRAME_WRITE frees one
entry. Otherwise nothing changes. That the pages preloaded and the bytes in the Agate stores are visible to no load is the
model's reading of R348 and R354. -/
def Obligations.TasksAreDispatchedAndCompleted : Prop :=
  (∀ (s : State) (part idx : Nat) (p : Partition) (t : Task), s.part? part = some p → p.task? idx = some t →
    let mine := p.placement t
    (t.state = .waiting → t.pinned = true → t.holds = false → (∀ u ∈ p.tasks, u.holds = true → p.placement u &&& mine = 0) →
      exec (.groupHold part idx) s = .next (s.onTask part idx fun t => { t with holds := true })) ∧
    ((t.state ≠ .waiting ∨ t.pinned = false ∨ t.holds = true ∨ ∃ u ∈ p.tasks, u.holds = true ∧ p.placement u &&& mine ≠ 0) →
      exec (.groupHold part idx) s = .next s)) ∧
  (∀ (s : State) (part idx : Nat) (p : Partition) (t : Task) (d : Desc) (l : Loc) (c : Bool), s.part? part = some p → p.task? idx = some t → t.desc = some d →
    (t.state = .waiting → t.edges = [] → (t.pinned = false ∨ t.holds = true) → p.quiesced = false → p.fatal = false →
      s.xlatOf (s.walk part (va52 d.root)) .rw 3 (va52 d.root) = .ok l c → l.peer = none → s.pointerNeeds part d.entry = none → s.pointerMoves part d.entry = false → s.unwatched →
      ∃ u w r p', exec (.taskDispatch part idx) s = .next u ∧ u.task? part idx = some w ∧ w.state = .running ∧ w.runs = min 255 (t.runs + 1) ∧
        w.hbTimer = s.now ∧ u.part? part = some p' ∧ (d.root, idx) ∈ p'.recs ∧ r ∈ p'.ready ∧ r.cont = d.root) ∧
    ((t.state ≠ .waiting ∨ t.edges ≠ [] ∨ (t.pinned = true ∧ t.holds = false) ∨ p.quiesced = true ∨ p.fatal = true ∨
        (s.pointerNeeds part d.entry = none ∧ s.pointerMoves part d.entry = true)) →
      exec (.taskDispatch part idx) s = .next s)) ∧
  (∀ (s : State) (part idx : Nat) (p : Partition) (t : Task) (d : Desc), s.part? part = some p → p.task? idx = some t → t.desc = some d → s.unwatched → s.inv →
    (p.tasks.map (·.idx)).Nodup →
    (t.state = .draining → s.jobsEnded part idx = true → p.fatal = false → p.quiesced = false →
      (∀ w ∈ s.egress, ¬ (w.part = part ∧ w.task = idx)) →
      ∃ u w p', exec (.taskComplete part idx) s = .next u ∧ u.task? part idx = some w ∧ w.state = .done ∧ w.holds = false ∧
        u.part? part = some p' ∧ (∀ y ∈ p'.tasks, y.idx ≠ idx → idx ∉ y.edges) ∧
        (∀ x, s.queue? part t.q = some x → x.attr.cring ≠ 0 →
          Notice.completion part t.q (x.attr.cring + 16 * (x.completions % max 1 x.attr.cdepth)) x.attr.ckey
            ({ t with state := .done }.signalWord s.now) ({ t with state := .done }.status) ∈ u.notices) ∧
        ∀ pa, s.pubs = [] → s.atoms = [] → t.notice = none → (t.code = 0 ∨ ∀ y ∈ p.tasks, idx ∉ y.edges) → d.signal ≠ 0 → s.signalPa part d.signal = some pa →
          u.mem.readN pa 8 = leBytes 8 ({ t with state := .done }.signalWord s.now).toNat ∧ sameBytesBut s u pa 8) ∧
    ((t.state ≠ .draining ∨ s.jobsEnded part idx = false ∨ p.fatal = true ∨ p.quiesced = true) → exec (.taskComplete part idx) s = .next s)) ∧
  (∀ (s : State) (part idx : Nat) (p : Partition) (t : Task), s.part? part = some p → p.task? idx = some t →
    (t.state = .rerunning → p.live idx = 0 → s.jobsEnded part idx = true → exec (.taskRerun part idx) s =
      .next (s.onTask part idx fun t => { t with state := .waiting, charge := 0, hbeat := 0, hbTimer := s.now })) ∧
    ((t.state ≠ .rerunning ∨ p.live idx ≠ 0 ∨ s.jobsEnded part idx = false) → exec (.taskRerun part idx) s = .next s)) ∧
  (∀ (s : State) (n r : Nat), (s.coreOf n).running = true → s.candidate n = some r →
    exec (.preload n) s = .next (s.onCoreN n fun c => { c with preload := some r, bank := s.preloadable c.part r })) ∧
  (∀ (s : State) (k : Nat), exec (.agateFrameWrite k) s = .next { s with agate := s.agate.eraseIdx k })

/-! ## Leaving a core and coming back (R129, R215–R222, R344, R347, R350–R362) -/

/-- PREEMPTION_REQUEST marks a running core and is void at an idle one. TRAP_ENTRY takes the trap due at the boundary:
X_WATCHDOG before X_ATOMIC_LOST before a landing trap; no other. WRITE_BACK of a continuation that yields, where its frame
can be written and no trap of the scheduler waits, leaves the core without one and the record ready, or waiting for its last
pending reply; a JOIN whose children have ended goes on, one whose frame is in transit waits; a core that neither leaves nor
yields does nothing, and an unfused one yields only where it is asked to, or to retire. PICK_UP of the chosen unfused record
on an idle core restores the context its frame and record give, marks the record running and takes it from the ready order; a
first start begins at CODE with FRAME in S1 and the record's address in S2. Without a choice, or while a page that the
restore needs is in transit, nothing changes; bytes that must come from a peer are asked for first. That a pick-up happens as
one event is the model's. -/
def Obligations.ContinuationsLeaveAndReturn : Prop :=
  (∀ (s : State) (n : Nat),
    ((s.coreOf n).running = true → exec (.preemptionRequest n) s = .next (s.onCoreN n fun c => { c with preempt := true })) ∧
    ((s.coreOf n).running = false → exec (.preemptionRequest n) s = .next s)) ∧
  (∀ (s : State) (t : Trap), s.core.running = true →
    (s.core.watchdog = true → exec (.trapEntry { no := .watchdog }) s = .next (s.takeTrap { no := .watchdog })) ∧
    (∀ pc, s.core.watchdog = false → s.core.atomLost = some pc →
      exec (.trapEntry { no := .atomicLost, named := some pc }) s = .next (s.takeTrap { no := .atomicLost, named := some pc })) ∧
    (s.core.watchdog = false → s.core.atomLost = none → s.core.landTrap = some t → exec (.trapEntry t) s = .next (s.takeTrap t)) ∧
    (s.core.watchdog = false → s.core.atomLost = none → s.core.landTrap = none → exec (.trapEntry t) s = .next s)) ∧
  (∀ s : State, s.core.running = true →
    (s.core.leave = none → s.yields = false → exec .writeBack s = .next s) ∧
    (s.core.fused = none → s.core.frozen ≠ some .retire → (s.core.preempt = false ∧ s.cancelMarked = false) → s.yields = false) ∧
    (s.core.gated = false → s.core.leave = some .yield → s.core.fused = none → s.frameInTransit = none → s.cancelMarked = false →
      s.core.watchdog = false → s.core.atomLost = none → s.inv →
      let c := s.core
      let w := s.writeBackAt true 0 c.pc c.rep c.done
      w.2 = none → (s.part? c.part).isSome = true →
      ∃ t p, exec .writeBack s = .next t ∧ t.core = w.1.core.idled ∧ t.part? c.part = some p ∧
        (w.1.pendingAtoms c.part c.cont = [] → ∃ r ∈ p.ready, r.cont = c.cont)) ∧
    (∀ pc, s.core.gated = false → s.core.leave = some (.join pc) → s.core.fused = none →
      let u := s.published
      (u.readRec u.core.part u.core.cont 16 4 = 0 → u.overrunHere = false → u.core.preempt = false → u.cancelMarked = false →
        exec .writeBack s = .next { u with core := { u.core with leave := none } }) ∧
      (u.readRec u.core.part u.core.cont 16 4 ≠ 0 → s.frameInTransit.isSome = true → exec .writeBack s = .next s))) ∧
  (∀ (s : State) (n : Nat) (p : Partition), s.parts.find? (fun p => (p.logical n).isSome) = some p → s.part? p.no = some p → s.poisoned = [] →
    (((s.coreOf n).running = true ∨ p.fatal = true ∨ s.choose p n = none) → exec (.pickUp n) s = .next s) ∧
    ∀ r rr, (s.coreOf n).running = false → p.fatal = false → s.choose p n = some (r, rr) → r.fus = 0 →
      (∀ d pa k va, s.pickNeeds p.no (n, r) = some (d, pa, k, va) → exec (.pickUp n) s = .next (s.sendRead n d pa k va).2) ∧
      (s.pickNeeds p.no (n, r) = none → s.pickMoves p.no (n, r) = true → exec (.pickUp n) s = .next s) ∧
      (s.pickNeeds p.no (n, r) = none → s.pickMoves p.no (n, r) = false →
        let u := (((s.onPart p.no fun p => { p with rr := rr }).focus n).usePreload p.no r.cont).onPart p.no fun p => { p with ready := p.ready.filter (·.cont != r.cont) }
        ((u.task? p.no r.task).map (·.overrun)).getD false = false →
        (∀ c w, u.restored p.no r.cont = .ok (c, w) →
          exec (.pickUp n) s = .next (((({ w.setRecSt p.no r.cont 2 0 with core := c } : State).resumed).focus n).dropUsed.focus n) ∧
          c.running = true ∧ c.cont = r.cont ∧ c.part = p.no ∧ c.frame = u.readRec p.no r.cont 8 8 ∧ c.task = u.readRec p.no r.cont 20 4 ∧
          c.deadline = u.readRec p.no r.cont 24 8 ∧
          (u.readRec p.no r.cont 36 2 = 0xFFFF → c.pc = u.recCode p.no r.cont ∧ c.rep = 0 ∧ c.done = 0 ∧ c.fstat = 0 ∧
            c.rs 1 = BitVec.ofNat 64 c.frame ∧ c.rs 2 = BitVec.ofNat 64 r.cont)) ∧
        (∀ t, u.restored p.no r.cont = .error t →
          let v := (u.onTask p.no r.task fun k => { k with
            safeTrap := if (k.desc.map (·.root)) = some r.cont then none else k.safeTrap }).faultRec p.no r.cont t (u.recCode p.no r.cont) false
          let y := if v.core.running then v.resumed else v
          exec (.pickUp n) s = .next (((y.focus n).dropUsed.pickedApart p.no [(n, r)]).focus n))))

/-- Where a core runs a continuation of a PERSIST task and its timer has reached the partition's period, WATCHDOG_CORE_TIMER
makes X_WATCHDOG due there; else it does nothing. Where a running PERSIST task's heartbeat timer has reached the period,
WATCHDOG_HEARTBEAT_TIMER restarts it and makes X_WATCHDOG due on the core of the lowest logical number that runs the task, or
ends the task with 0x22 where none does; else nothing. BUDGET_OVERRUN of a running task beyond its budget demotes it to
BACKGROUND with DEM under POLICY 1, extends its budget by the grace and makes X_OVERRUN due under POLICY 2 with a handler,
once, and ends it with 0x20 otherwise; a task within its budget stays. -/
def Obligations.WatchdogsAndOverrunsFire : Prop :=
  (∀ (s : State) (n : Nat), let c := s.coreOf n
    let due := c.running = true ∧ c.watchdog = false ∧ (∃ t d, s.task? c.part c.task = some t ∧ t.desc = some d ∧ d.persist = true) ∧
      ((s.part? c.part).map (·.quotas.wdog)).getD 0 ≤ s.now - c.coreTimer
    (due → exec (.watchdogCoreTimer n) s = .next (s.onCoreN n fun c => { c with watchdog := true })) ∧
    (¬ due → exec (.watchdogCoreTimer n) s = .next s)) ∧
  (∀ (s : State) (part idx : Nat) (t : Task) (d : Desc) (p : Partition), s.part? part = some p → s.task? part idx = some t → t.desc = some d →
    let due := t.state = .running ∧ d.persist = true ∧ p.quotas.wdog ≤ s.now - t.hbTimer
    let u := s.onTask part idx fun t => { t with hbTimer := s.now }
    (due → (∀ n, u.firstRunner part idx = some n → exec (.watchdogHeartbeatTimer part idx) s = .next (u.onCoreN n fun c => { c with watchdog := true })) ∧
      (u.firstRunner part idx = none → exec (.watchdogHeartbeatTimer part idx) s = .next (u.ending part idx 0x22))) ∧
    (¬ due → exec (.watchdogHeartbeatTimer part idx) s = .next s) ∧
    ∀ n, s.firstRunner part idx = some n → some n ∈ p.cores ∧ (s.coreOf n).running = true ∧ (s.coreOf n).part = part ∧ (s.coreOf n).task = idx) ∧
  (∀ (s : State) (part idx : Nat) (t : Task) (d : Desc), s.task? part idx = some t → t.desc = some d →
    let spent := t.state = .running ∧ 256 * t.budget < t.charge ∧ ¬ (t.cls = 2 ∧ t.dem = true ∧ d.policy = 1)
    (¬ spent → exec (.budgetOverrun part idx) s = .next s) ∧
    (spent → d.policy = 1 → exec (.budgetOverrun part idx) s = .next ((s.onTask part idx fun t => { t with cls := 2, dem := true }).askCandidates part idx)) ∧
    (spent → d.policy = 2 → d.handler ≠ 0 → t.graced = false → exec (.budgetOverrun part idx) s = .next (s.onTask part idx fun t =>
      { t with budget := (t.charge + 255) / 256 + 2 ^ (d.grace + 10), graced := true, overrun := true })) ∧
    (spent → d.policy ≠ 1 → (d.policy ≠ 2 ∨ d.handler = 0 ∨ t.graced = true) → exec (.budgetOverrun part idx) s = .next (s.ending part idx 0x20)))

/-! ## Translation and the page agent (R244, R363–R378) -/

/-- TABLE_WALK puts the leaf that the walk of the acting core's die finds in that die's TLB, and in the micro-TLB of the
acting core where it runs the partition; one that finds none puts none there, and a leaf found is valid, at a level 1 to 3,
and meets R366. After SHOOTDOWN no TLB and no walk cache holds an entry that overlaps the range, and the acting core of the
partition holds no store to the range and no line of its snapshot filled through it; where it is answered at once, every
published store and local atomic of the partition has been performed and every posted write and remote atomic has left, else
it waits. Rewriting a 64 KiB leaf changes that entry only; of a 2 MiB leaf it writes a table of 32 leaves, FRAME + i in leaf
i, names it in the old entry, and changes the page's leaf there. A scratch page that a frozen core waits for becomes resident
there, an unpinned page giving way where the scratchpad is full, and the freeze ends with the last. -/
def Obligations.WalksShootdownsAndScratchPages : Prop :=
  (∀ (s : State) (part va : Nat),
    let die := dieOf s.core.phys
    s.walkPoison die part (va52 va) = none →
    (∀ e level, s.walkOn die part (va52 va) = .leaf e level →
      1 ≤ level ∧ level ≤ 3 ∧ field e 62 2 = 3 ∧ leafOk e level (va52 va) = true ∧
      let x := (part, va52 va / 2 ^ 16, e, level)
      ∃ t, exec (.tableWalk part va) s = .next t ∧ t.mem = s.mem ∧
        t.dieTlb = ((die, x) :: (s.dieTlb.filter (·.1 == die)).filter (· != (die, x))).take 4096 ++ s.dieTlb.filter (·.1 != die) ∧
        t.core.tlb = (if s.core.running = true ∧ s.core.part = part then (x :: s.core.tlb.filter (· != x)).take 64 else s.core.tlb) ∧
        sameRegisters s.core t.core) ∧
    ((∀ e level, s.walkOn die part (va52 va) ≠ .leaf e level) → ∃ t, exec (.tableWalk part va) s = .next t ∧ t.dieTlb = s.dieTlb ∧ t.core = s.core ∧
      t.mem = s.mem)) ∧
  (∀ (s : State) (part va pages : Nat) (whole : Bool), let first := va52 va / 2 ^ 16
    ∃ t, exec (.shootdown part va pages whole) s = .next t ∧
      (∀ x ∈ t.dieTlb, tlbHit part first pages whole x.2 = false) ∧ (∀ x ∈ t.walkCache, cacheHit part first pages whole x = false) ∧
      (∀ c ∈ t.allCores, ∀ x ∈ c.tlb, tlbHit part first pages whole x = false) ∧
      (let u := s.shoot part va pages whole
       (u.framesInUse part = [] → t = u.notify .ok ∧ (∀ p ∈ t.pubs, p.part = part → p.bytes = []) ∧ (∀ w ∈ t.egress, w.part = part → w.bytes = []) ∧
         ∀ a ∈ t.atoms, a.part = part → a.old.isSome = true ∨ a.sent = true) ∧
       (u.framesInUse part ≠ [] → t = u.onPart part fun p => { p with shots := p.shots ++ [u.framesInUse part] })) ∧
      (s.core.running = true → s.core.part = part → s.poisoned = [] →
        (∀ x ∈ t.core.snap, whole = false ∧ overlaps (bankGet 0 t.core.filled x.1) 1 first pages = false) ∧
        ∀ st ∈ t.core.stores, whole = false ∧ overlaps (va52 st.va / 2 ^ 16) 1 first pages = false)) ∧
  (∀ (s : State) (part va a e : Nat) (new : Nat → Nat), s.pubs = [] → s.atoms = [] → s.egress = [] → (∀ c ∈ s.allCores, c.stores = []) →
    s.unwatched → s.inv →
    (s.leafSlot part va = some (a, e, 3) →
      ∃ t, s.remap part va new = some t ∧ t.mem.readN a 8 = leBytes 8 (new e) ∧ sameBytesBut s t a 8) ∧
    (∀ b u, s.leafSlot part va = some (a, e, 2) → s.takeTable part 256 = some (b, u) → (a + 8 ≤ b ∨ b + 256 ≤ a) →
      let k := va52 va / 2 ^ 16 % 32
      let w := (u.perform b ((List.range 32).flatMap fun i => leBytes 8 (e + i))).perform a (leBytes 8 (2 ^ 63 + b / 256))
      w.leafSlot part va = some (b + 8 * k, e + k, 3) →
      ∃ t, s.remap part va new = some t ∧ t.mem.readN a 8 = leBytes 8 (2 ^ 63 + b / 256) ∧
        ∀ i < 32, t.mem.readN (b + 8 * i) 8 = leBytes 8 (if i = k then new (e + i) else e + i))) ∧
  (∀ (s : State) (page n : Nat) (ps : List Nat), s.frozenFor page = some n → (s.coreOf n).frozen = some (.refill ps) →
    let v := s.makeRoom n page
    let u := { v with pages := bankPut v.pages page (n, false) }.onCoreN n fun c => { c with
      frozen := if ps.filter (· != page) = [] then none else some (.refill (ps.filter (· != page))) }
    ((s.pages.filter fun q => q.2.1 == n && q.1 != page).length < 32 → v = s) ∧
    (s.pageHolder page = none → exec (.scratchPageRefill page) s = .next u ∧ exec (.scratchPageMove page) s = .next s) ∧
    (∀ m, s.pageHolder page = some m → exec (.scratchPageMove page) s = .next u ∧ exec (.scratchPageRefill page) s = .next s)) ∧
  (∀ (s : State) (page : Nat), s.frozenFor page = none → exec (.scratchPageRefill page) s = .next s ∧ exec (.scratchPageMove page) s = .next s)

/-- Messages find their partition by its TAG; none has it: NOPART. INVALIDATE makes a replica's leaf REMOTE_CACHED at the
owner and, once no access to its frame is left, frees it and acknowledges. GRANT makes the writer's leaf LOCAL and serves its
faults; OWNED declines them. Requests for a page are taken one at a time. The home grants the first COLLAPSE: INVALIDATE to
every other replica device, GRANT after the last acknowledgement; once granted, one of another device is answered OWNED. A
count at its threshold sends a migration request with a frame of the pool and starts again; a device that no longer holds the
page names the new holder; a request waits while a word is watched; the holder marks the leaf in transit, asks every mapping
device to, and each acknowledges once no access and no send log names the frame. NOPART declines a COLLAPSE, forgets a
request, counts as an acknowledgement. That the acknowledgements of both exchanges are one event is the model's. -/
def Obligations.PageAgentCollapsesAndMigrates : Prop :=
  (∀ (s : State) (tag va owner frame home : Nat) (p : Partition), s.tagged tag = some p → p.givenUp (pageBase va) owner frame home = none →
    let page := pageBase va
    let ack (u : State) : State := u.agentMsg p.no home page 0 u.devId msgAck
    (s.pageLeaf p.no page = none → home ≠ s.devId → exec (.invalidate tag va owner frame home) s = .next (ack s)) ∧
    ∀ l b, s.pageLeaf p.no page = some (l, b) →
      (l.mode ≠ 3 → home ≠ s.devId → exec (.invalidate tag va owner frame home) s = .next (ack s)) ∧
      (l.mode = 3 → ∀ u, s.remap p.no page (fun _ => leafWord true { l with mode := 2, peer := owner, frame := frame, w := false }) = some u →
        (u.inUse (none, l.frame) = true →
          exec (.invalidate tag va owner frame home) s = .next (u.hold p.no (.invalidate page owner frame home (some l.frame)))) ∧
        (u.inUse (none, l.frame) = false → home ≠ u.devId →
          exec (.invalidate tag va owner frame home) s = .next (ack (u.onPart p.no fun p => { p with pool := p.pool ++ [l.frame] }))))) ∧
  (∀ (s : State) (tag va : Nat) (p : Partition) (l : Leaf) (b : Bool), s.tagged tag = some p → s.pageLeaf p.no va = some (l, b) →
    (∀ u, s.remap p.no va (fun _ => leafWord true { l with mode := 0, peer := 0, thr := 0 }) = some u →
      exec (.grant tag va) s = .next (u.serveWriters p.no va)) ∧
    (s.remap p.no va (fun _ => leafWord true { l with mode := 0, peer := 0, thr := 0 }) = none →
      exec (.grant tag va) s = .next (s.declineWriters p.no va))) ∧
  (∀ (s : State) (tag va : Nat) (p : Partition), s.tagged tag = some p → s.part? p.no = some p →
    ∃ t q, exec (.owned tag va) s = .next t ∧ t.part? p.no = some q ∧ q.writers va = [] ∧ (p.writers va = [] → t = s)) ∧
  (∀ (s : State) (tag va frame requester : Nat) (p : Partition), s.tagged tag = some p → s.part? p.no = some p → requester ≠ s.devId →
    let page := pageBase va
    let m := AgentMail.collapse page frame requester
    let say (dev f who msg : Nat) : Notice := .agent dev (s.tagOf p.no) page f who msg
    (p.turnOf m = false → exec (.collapse tag va frame requester) s = .next (s.hold p.no m)) ∧
    (∀ c, p.turnOf m = true → p.collapses.find? (·.va == page) = some c →
      (c.granted = false → exec (.collapse tag va frame requester) s = .next (s.hold p.no m)) ∧
      (c.granted = true → c.taker ≠ requester →
        exec (.collapse tag va frame requester) s = .next ((s.unhold p.no m).notify (say requester 0 c.taker msgOwned)))) ∧
    (p.turnOf m = true → p.collapses.find? (·.va == page) = none →
      let others := ((p.replicasOf page ++ [s.devId]).eraseDups.filter (· != requester)).filter (· != s.devId)
      ∃ t q, exec (.collapse tag va frame requester) s = .next t ∧ t.part? p.no = some q ∧ (∀ d ∈ others, say d frame requester msgInvalidate ∈ t.notices) ∧
        ∃ c ∈ q.collapses, c.va = page ∧ c.taker = requester ∧ c.frame = frame ∧ ∀ d ∈ others, d ∈ c.waits) ∧
    (∀ c dev, p.collapses.find? (·.va == page) = some c → c.granted = false → c.taker ≠ s.devId → (∀ m ∈ p.migrations, m.va ≠ page) →
      ∃ t, exec (.collapseAcknowledgement tag va dev) s = .next t ∧
        t.notices = s.notices ++ (if c.waits.filter (· != dev) = [] then [say c.taker c.frame s.devId msgGrant] else []))) ∧
  (∀ (s : State) (part va f : Nat) (p : Partition) (l : Leaf) (rest : List Nat), s.part? part = some p → s.pageLeaf part va = some (l, true) →
    p.pool = f :: rest →
    let page := va52 va / 2 ^ 16
    let n := ((s.access.find? fun x => x.1 == part && x.2.1 == page).map (·.2.2)).getD 0
    let due := l.mode = 4 ∧ l.peer ≠ s.devId ∧ s.thresholds.getD l.thr 0 ≠ 0 ∧ s.thresholds.getD l.thr 0 ≤ n
    (¬ due → exec (.migrationThreshold part va) s = .next s) ∧
    (due → ∃ t, exec (.migrationThreshold part va) s = .next t ∧ t.mem = s.mem ∧
      t.access = s.access.filter (fun x => !(x.1 == part && x.2.1 == page)) ∧
      t.notices = s.notices ++ [.agent l.peer (s.tagOf part) (pageBase va) f s.devId msgMigrate] ∧
      t.part? part = some { p with pool := rest, migrations := p.migrations ++ [⟨pageBase va, s.devId, f, [l.peer], stageAsked⟩] })) ∧
  (∀ (s : State) (tag va frame requester : Nat) (p : Partition) (l : Leaf) (v : Bool), s.tagged tag = some p → s.part? p.no = some p →
    let page := pageBase va
    let m := AgentMail.request page requester frame
    let asks := exec (.migrationRequest tag va requester (.to frame)) s
    s.pageLeaf p.no page = some (l, v) →
    (p.turnOf m = false → asks = .next (s.hold p.no m)) ∧
    (p.turnOf m = true →
      (l.mode ≠ 4 → asks = .next (s.unhold p.no m)) ∧
      (l.mode = 4 → p.onTheMove page = true → asks = .next (s.hold p.no m)) ∧
      (l.mode = 4 → p.onTheMove page = false → l.peer ≠ s.devId → asks = .next ((s.unhold p.no m).agentMsg p.no requester page 0 l.peer msgMoved)) ∧
      (l.mode = 4 → p.onTheMove page = false → l.peer = s.devId →
        (v = false ∨ s.watched l.frame = true → asks = .next (s.hold p.no m)) ∧
        ∀ u q, v = true → s.watched l.frame = false → (s.unhold p.no m).toTransit p.no page l = some u → u.part? p.no = some q →
          q.onTheMove page = false → ∀ d ds, u.mappersOf p page = d :: ds →
          ∃ t q', asks = .next t ∧ t.part? p.no = some q' ∧ (∀ x ∈ d :: ds, Notice.agent x (u.tagOf p.no) page 0 u.devId msgInTransit ∈ t.notices) ∧
            ∃ x ∈ q'.migrations, x.va = page ∧ x.taker = requester ∧ x.frame = frame ∧ x.stage = 1 ∧ ∀ y ∈ d :: ds, y ∈ x.waits)) ∧
    (∀ new, exec (.migrationRequest tag va requester (.moved new)) s = .next (s.dropAsked p.no va)) ∧
    (∀ sender holder u, v = true → s.toTransit p.no page l = some u →
      let r := AgentMail.rewrite page false sender holder frame
      let peer := if l.peer = u.devId ∨ l.mode = 0 ∨ l.mode = 3 then none else some l.peer
      (u.inUse (peer, l.frame) = true ∨ u.logNames l.peer l.frame = true →
        exec (.migrationRewrite tag va false sender ⟨holder, frame⟩) s = .next (u.hold p.no r)) ∧
      (u.inUse (peer, l.frame) = false → u.logNames l.peer l.frame = false → sender ≠ u.devId →
        exec (.migrationRewrite tag va false sender ⟨holder, frame⟩) s = .next ((u.unhold p.no r).agentMsg p.no sender page 0 u.devId msgAck))) ∧
    (∀ sender holder u, s.fromTransit p.no page l holder frame = some u → holder ≠ u.devId → sender ≠ u.devId →
      exec (.migrationRewrite tag va true sender ⟨holder, frame⟩) s =
        .next ((u.unhold p.no (.rewrite page true sender holder frame)).agentMsg p.no sender page 0 u.devId msgAck))) ∧
  (∀ (s : State) (tag va dev : Nat) (p : Partition), s.tagged tag = some p →
    exec (.nopart tag va (.collapse dev)) s = .next (s.declineWriters p.no va) ∧ exec (.nopart tag va (.migration dev)) s = .next (s.dropAsked p.no va) ∧
    exec (.nopart tag va (.rewrite dev)) s = exec (.collapseAcknowledgement tag va dev) s) ∧
  (∀ (s : State) (tag va a b c dev : Nat), s.tagged tag = none →
    (∀ i ∈ [Instr.nopart tag va (.collapse dev), .nopart tag va (.migration dev), .nopart tag va (.rewrite dev), .collapse tag va a dev, .invalidate tag va a b dev, .migrationRequest tag va dev (.to a),
        .migrationRewrite tag va true dev ⟨b, c⟩],
      exec i s = .next (s.notify (.agent dev tag (pageBase va) 0 s.devId msgNopart))) ∧
    ∀ i ∈ [Instr.grant tag va, .owned tag va, .collapseAcknowledgement tag va dev, .migrationRequest tag va dev (.moved b)], exec i s = .next s)

/-! ## Host commands (R384–R390, R399–R416) -/

/-- Before bring-up no command acts. CREATE_PARTITION within its quotas, with clusters free and healthy and memory free, adds
the partition with the reset values of its registers; DESTROY_PARTITION of one that has ended removes it, else BUSY.
SET_GROUP writes KIND and MEMBERS of an idle entry and is refused, ADM_GROUP or BUSY otherwise. CREATE_QUEUE adds an open
queue and writes its control block; QUEUE_RESET starts a reset of a queue that is open or closed, also after a fatal error,
CLOSE_QUEUE sets the mark at TAIL. SWAP_OUT of a partition not yet swapped stops picks and asks every core of the partition
to let go; SWAP_IN undoes it. SET_CTL writes the named register, ULIM at most 0x1_0000. RESUME and DELIVER serve or decline a
fault passed to the host. An absent partition is REFUSED. Which placement CREATE_PARTITION takes is the model's choice (log
entry 7). -/
def Obligations.PartitionCommandsActOrRefuse : Prop :=
  (∀ (s : State) (h : HostAccess) (n m k l : Nat) (v : Word) (b : Bool) (bs : List Byte) (q : Quotas) (a : QueueAttr) (o : PairOpen), s.boot ≠ 1 →
    ∀ i ∈ ([.rdmaWrite h l bs, .rdmaRead h l k, .fetchAndAdd h l v, .invalidRequest n, .createPartition n q, .destroyPartition n, .setGroup n m k l,
      .createQueue n m a, .queueReset n m, .closeQueue n m, .swapOut n, .swapIn n, .setCtl n m v, .resume n m, .deliver n m, .openPair n o,
      .closePair n b m k, .openComm n m, .closeComm m, .setReach n b, .quiesce n m k, .thaw n, .restore n m k b b, .setPowerLimit n, .attest bs,
      .setTrust b bs] : List Instr), exec i s = .next s) ∧
  (∀ (s : State) (n : Nat) (q : Quotas), s.boot = 1 →
    ((16 ≤ n ∨ (s.part? n).isSome = true ∨ quotasFit q = false ∨ (∃ p ∈ s.parts, p.quotas.tag = q.tag) ∨ s.freeClusters.length < q.clusters
        ∨ s.healthyClusters < (s.parts.map (·.quotas.clusters)).foldl (· + ·) q.clusters) →
      exec (.createPartition n q) s = .next (s.notify .refused)) ∧
    (∀ lo hi, n < 16 → s.part? n = none → quotasFit q = true → (∀ p ∈ s.parts, p.quotas.tag ≠ q.tag) → q.clusters ≤ s.freeClusters.length →
      (s.parts.map (·.quotas.clusters)).foldl (· + ·) q.clusters ≤ s.healthyClusters → s.freeHbm q.hbm = some lo → s.freeLpddr q.lpddr = some hi →
      ∃ t p, exec (.createPartition n q) s = .next t ∧ t.notices = s.notices ++ [.ok] ∧ t.parts = s.parts ++ [p] ∧ t.mem = s.mem ∧ t.core = s.core ∧
        p.no = n ∧ p.quotas = q ∧ p.cores.length = 4 * q.clusters ∧ p.srseed = 1 ∧ p.ulim = 0xE000 ∧ p.premin = 20000 ∧ p.wcore = 256 ∧ p.wcopy = 64 ∧
        p.wcoll = 128 ∧ p.monfull = 0 ∧ p.groups = [] ∧ p.queues = [] ∧ p.tasks = [] ∧ p.ready = [] ∧ p.fatal = false ∧ p.lo = lo ∧ p.hi = hi)) ∧
  (∀ (s : State) (n m k l : Nat) (v : Word) (b c : Bool) (a : QueueAttr), s.boot = 1 → s.part? n = none → ∀ i ∈ ([.destroyPartition n, .setGroup n m k l,
    .createQueue n m a, .queueReset n m, .closeQueue n m, .swapOut n, .swapIn n, .setCtl n m v, .resume n m, .deliver n m, .openPair n ⟨b, m, k, l, l⟩,
    .openComm n m, .thaw n, .restore n m k b c] : List Instr), exec i s = .next (s.notify .refused)) ∧
  (∀ (s : State) (n : Nat) (p : Partition), s.boot = 1 → s.part? n = some p →
    let ended := (∀ x ∈ p.queues, x.state = .closed) ∧ (p.fatal = true ∨ ∀ t ∈ p.tasks, t.finished = true)
    (ended → ∃ t, exec (.destroyPartition n) s = .next t ∧ t.notices = s.notices ++ [.ok] ∧ t.parts = s.parts.filter (·.no != n) ∧ t.mem = s.mem ∧
      (∀ w ∈ t.pubs, w.part ≠ n) ∧ (∀ w ∈ t.chans, w.part ≠ n) ∧ (∀ w ∈ t.pairs, w.part ≠ n) ∧ (∀ w ∈ t.slots, w.part ≠ n)) ∧
    (¬ ended → exec (.destroyPartition n) s = .next (s.notify .busy)) ∧
    (∀ g kind members, let e := p.group g
      ((256 ≤ g ∨ 4 ≤ kind) → exec (.setGroup n g kind members) s = .next (s.notify .refused)) ∧
      (g < 256 → kind < 4 → p.groupRefused g kind members = true → exec (.setGroup n g kind members) s = .next (s.notify .admGroup)) ∧
      (g < 256 → kind < 4 → p.groupRefused g kind members = false →
        let busy := e.arr ≠ 0 ∨ e.next ≠ 0 ∨ ∃ t ∈ p.tasks, t.finished = false ∧ ∃ d, (s.describe n t).desc = some d ∧ d.pgroup = g
        (busy → exec (.setGroup n g kind members) s = .next (s.notify .busy)) ∧
        (¬ busy → exec (.setGroup n g kind members) s = .next
          ((s.onPart n fun p => { p with groups := bankSet Group.unused p.groups g { e with kind := kind, members := members } }).notify .ok)))) ∧
    (∀ q a, ((64 ≤ q ∨ (∃ x ∈ p.queues, x.q = q) ∨ s.queueFits n a = false) → exec (.createQueue n q a) s = .next (s.notify .refused)) ∧
      (q < 64 → (∀ x ∈ p.queues, x.q ≠ q) → s.queueFits n a = true → s.unwatched → s.inv →
        let x : Queue := ⟨q, a, p.ctlAt q, .opened, none, 0, 0, [], 0⟩
        ∃ t, exec (.createQueue n q a) s = .next t ∧ t.notices = s.notices ++ [.ok] ∧ t.part? n = some { p with queues := p.queues ++ [x] } ∧
          t.mem.readN (p.reserved + 64 * q) 64 = x.block ∧ sameBytesBut s t (p.reserved + 64 * q) 64)) ∧
    (∀ q x, s.queue? n q = some x →
      (x.state = .resetting → exec (.queueReset n q) s = .next (s.notify .busy)) ∧
      (x.state ≠ .resetting → s.unwatched → ∃ t y, exec (.queueReset n q) s = .next t ∧ t.queue? n q = some y ∧
        y.state = .resetting ∧ y.mark = none ∧ y.tail = x.tail ∧ y.head = x.head) ∧
      ((x.state ≠ .opened ∨ x.mark.isSome = true) → exec (.closeQueue n q) s = .next (s.notify .refused)) ∧
      (x.state = .opened → x.mark = none → exec (.closeQueue n q) s = .next ((s.onQueue n q fun x => { x with mark := some x.tail }).notify .ok))) ∧
    ((p.swapped = true → exec (.swapOut n) s = .next (s.notify .refused)) ∧
      (p.swapped = false → exec (.swapOut n) s = .next (((s.onPart n fun p => { p with swapped := true }).onCores fun c =>
        if c.running = true ∧ c.part = n then { c with preempt := true } else c).notify .ok)) ∧
      (p.swapped = true → exec (.swapIn n) s = .next ((s.onPart n fun p => { p with swapped := false }).notify .ok)) ∧
      (p.swapped = false → exec (.swapIn n) s = .next (s.notify .refused))) ∧
    (∀ v : Word, ∀ r ∈ [(0x20, { p with srseed := v }), (0x21, { p with ulim := min v.toNat 0x10000 }), (0x22, { p with premin := v.toNat }),
        (0x23, { p with wcore := v.toNat }), (0x24, { p with wcopy := v.toNat }), (0x25, { p with wcoll := v.toNat })],
      exec (.setCtl n r.1 v) s = .next ((s.onPart n fun _ => r.2).notify .ok)) ∧
    (∀ c v, (c < 0x20 ∨ 0x27 ≤ c) → exec (.setCtl n c v) s = .next (s.notify .refused)) ∧
    (∀ r, p.holds.find? (fun h => h.cont == r && h.asked) = none →
      exec (.resume n r) s = .next (s.notify .refused) ∧ exec (.deliver n r) s = .next (s.notify .refused)) ∧
    (∀ r h, p.holds.find? (fun h => h.cont == r && h.asked) = some h →
      exec (.resume n r) s = .next ((s.releaseFaulted n r).notify .ok) ∧
      exec (.deliver n r) s = .next ((s.decline n h).notify .ok)))

/-- Data traffic on the management VLAN is dropped. A host WRITE within its key to permitted bytes performs them, a READ
returns them, FETCH_AND_ADD returns the old word and stores the sum, or posts entries at a queue's TAIL; otherwise ACCESS_NAK
or INVALID_NAK. The numbers of keys and queue pairs are the model's (log entry 84). OPEN_PAIR adds a source end or a counter
slot in its first state, CLOSE_PAIR removes one that holds nothing, else BUSY; OPEN_COMM and CLOSE_COMM a communicator.
SET_REACH sets one bit. QUIESCE stops its partitions and, where nothing runs and no exchange is open, cuts them and answers;
THAW releases one; RESTORE of an occupied partition is refused, a failed check is named by its code. SET_POWER_LIMIT takes
400 to 1,600 W. SET_TRUST holds at most 16 keys. ATTEST returns the signed report. The numbers of the RST codes and the byte
widths of a report's parts are the model's. -/
def Obligations.ModuleCommandsActOrRefuse : Prop :=
  (∀ (s : State) (h : HostAccess) (a : Nat), s.boot = 1 →
    (s.mgmtVlan = some h.vlan → ∀ data len v, exec (.rdmaWrite h a data) s = .next s ∧ exec (.rdmaRead h a len) s = .next s ∧ exec (.fetchAndAdd h a v) s = .next s) ∧
    (s.mgmtVlan ≠ some h.vlan → s.part? (h.qp / 256) = none → ∀ data len v, exec (.rdmaWrite h a data) s = .next (s.notify .accessNak) ∧
      exec (.rdmaRead h a len) s = .next (s.notify .accessNak) ∧ exec (.fetchAndAdd h a v) s = .next (s.notify .accessNak))) ∧
  (∀ (s : State) (h : HostAccess) (a : Nat) (p : Partition), s.boot = 1 → s.mgmtVlan ≠ some h.vlan → s.part? (h.qp / 256) = some p →
    let n := h.qp / 256
    (∀ data, p.keyed h.key a data.length = false ∨ s.hostMay p true a data.length = false → exec (.rdmaWrite h a data) s = .next (s.notify .accessNak)) ∧
    (∀ data, p.keyed h.key a data.length = true → s.hostMay p true a data.length = true → s.unwatched → s.inv →
      ∃ t, exec (.rdmaWrite h a data) s = .next t ∧ t.mem.readN a data.length = data ∧ sameBytesBut s t a data.length ∧ t.core = s.core ∧ t.parts = s.parts) ∧
    (∀ len, p.keyed h.key a len = false ∨ s.hostMay p false a len = false → exec (.rdmaRead h a len) s = .next (s.notify .accessNak)) ∧
    (∀ len, p.keyed h.key a len = true → s.hostMay p false a len = true → s.poisoned = [] → exec (.rdmaRead h a len) s = .next (s.notify (.data (s.mem.readN a len)))) ∧
    (∀ v, a % 8 ≠ 0 → exec (.fetchAndAdd h a v) s = .next (s.notify .invalidNak)) ∧
    (∀ v, a % 8 = 0 → p.keyed h.key a 8 = false → exec (.fetchAndAdd h a v) s = .next (s.notify .accessNak)) ∧
    (∀ v, a % 8 = 0 → p.keyed h.key a 8 = true → p.queues.find? (·.ctl == a) = none → s.hostMay p true a 8 = true → s.unwatched → s.inv →
      ∃ t, exec (.fetchAndAdd h a v) s = .next t ∧ t.notices = s.notices ++ [.old (BitVec.ofNat 64 (leNat (s.mem.readN a 8)))] ∧
        leNat (t.mem.readN a 8) = (leNat (s.mem.readN a 8) + v.toNat) % 2 ^ 64 ∧ sameBytesBut s t a 8) ∧
    (∀ v x, a % 8 = 0 → p.keyed h.key a 8 = true → p.queues.find? (·.ctl == a) = some x → x.attr.prog = true → exec (.fetchAndAdd h a v) s = .next (s.notify .accessNak)) ∧
    (∀ x, a % 8 = 0 → p.keyed h.key a 8 = true → p.queues.find? (·.ctl == a) = some x → x.attr.prog = false → x.state = .opened → x.mark = none → s.unwatched → s.queue? n x.q = some x →
      ∃ t y q, exec (.fetchAndAdd h a 1) s = .next t ∧ t.queue? n x.q = some y ∧ y.tail = (x.tail + 1) % 2 ^ 64 ∧ y.idx = x.idx ++ [p.nextIdx] ∧
        t.part? n = some q ∧ q.nextIdx = (p.nextIdx + 1) % 2 ^ 32 ∧ t.notices = s.notices ++ [.old (BitVec.ofNat 64 x.tail)]) ∧
    (∀ code, exec (.invalidRequest code) s = .next (s.notify .invalidNak))) ∧
  (∀ (s : State) (n : Nat) (p : Partition), s.boot = 1 → s.part? n = some p →
    (∀ o : PairOpen, ((15 ≤ o.chn ∨ 1024 ≤ o.peer ∨ p.quotas.pairs ≤ s.pairEnds n) → exec (.openPair n o) s = .next (s.notify .refused)) ∧
      (o.chn < 15 → o.peer < 1024 → s.pairEnds n < p.quotas.pairs →
        (o.source = true → s.pair? o.peer o.chn = none → s.logFits p o.logBase o.logCap = true → ∃ t, exec (.openPair n o) s = .next t ∧
          t.pairs = s.pairs ++ [⟨n, o.peer, o.chn, 1, 0, 0, 0, 0, false, o.logBase, o.logCap, 0, [], [], [], s.now⟩] ∧ t.notices = s.notices ++ [.ok] ∧ t.mem = s.mem) ∧
        (o.source = true → ((s.pair? o.peer o.chn).isSome = true ∨ s.logFits p o.logBase o.logCap = false) → exec (.openPair n o) s = .next (s.notify .refused)) ∧
        (o.source = false → s.slot? o.peer o.chn = none → exec (.openPair n o) s = .next
          ({ s with slots := s.slots ++ [Slot.mk n o.peer o.chn 0 0 (List.replicate 8 0) [] s.now 0] }.notify .ok)) ∧
        (o.source = false → (s.slot? o.peer o.chn).isSome = true → exec (.openPair n o) s = .next (s.notify .refused)))) ∧
    (∀ peer chn x, s.pairs.find? (fun x => x.part == n && x.dev == peer && x.chn == chn) = some x →
      ((x.out ≠ 0 ∨ x.log ≠ []) → exec (.closePair n true peer chn) s = .next (s.notify .busy)) ∧
      (x.out = 0 → x.log = [] → ∃ t, exec (.closePair n true peer chn) s = .next t ∧ t.pairs = s.pairs.erase x ∧ t.notices = s.notices ++ [.ok])) ∧
    (∀ peer chn x, s.slots.find? (fun x => x.part == n && x.dev == peer && x.chn == chn) = some x →
      exec (.closePair n false peer chn) s = .next (if x.held = [] then { s with slots := s.slots.erase x }.notify .ok else s.notify .busy)) ∧
    (∀ c, ((256 ≤ c ∨ ∃ x ∈ s.comms, x.1 = c) → exec (.openComm n c) s = .next (s.notify .refused)) ∧
      (c < 256 → (∀ x ∈ s.comms, x.1 ≠ c) → exec (.openComm n c) s = .next ({ s with comms := s.comms ++ [(c, n)] }.notify .ok)) ∧
      ((∀ x ∈ s.comms, x.1 ≠ c) → exec (.closeComm c) s = .next (s.notify .refused)) ∧
      ((∃ x ∈ s.comms, x.1 = c) → s.colls = [] → exec (.closeComm c) s = .next ({ s with comms := s.comms.filter (·.1 != c) }.notify .ok))) ∧
    (∀ dest key, (s.cutting.isSome = true → exec (.quiesce n dest key) s = .next (s.notify .busy)) ∧
      (n ≠ 0xFF → s.cutting = none → (p.quiesced = true ∨ p.swapped = true ∨ p.fatal = true) → exec (.quiesce n dest key) s = .next (s.notify .refused)) ∧
      (n ≠ 0xFF → s.cutting = none → p.quiesced = false → p.swapped = false → p.fatal = false →
        let u : State := { (s.onPart n fun p => { p with quiesced := true }).askAll n with cutting := some ([n], dest, key) }
        (u.cutReady n = false → exec (.quiesce n dest key) s = .next u) ∧
        (u.cutReady n = true → dest = 0 → exec (.quiesce n dest key) s = .next (({ u with cutting := none }.cutPart n).notify .ok)))) ∧
    ((p.quiesced = false ∨ s.cutting.isSome = true) → exec (.thaw n) s = .next (s.notify .refused)) ∧
    (p.quiesced = true → s.cutting = none → p.recs = [] → ∃ t q, exec (.thaw n) s = .next t ∧ t.part? n = some q ∧ q.quiesced = false ∧ q.cut = false ∧
      q.swapped = false ∧ t.notices = s.notices ++ [.ok] ∧ t.mem = s.mem) ∧
    (∀ addr len shift sig, (s.occupied p = true → exec (.restore n addr len shift sig) s = .next (s.notify .refused)) ∧
      (∀ code, s.occupied p = false → s.checkImage p addr len sig = .error code → exec (.restore n addr len shift sig) s = .next (s.notify (.rst code))) ∧
      (∀ l, s.occupied p = false → s.checkImage p addr len sig = .ok l →
        (s.restoreMemory p addr len l = none → exec (.restore n addr len shift sig) s = .next (s.notify (.rst rstCapacity))) ∧
        ∀ u, s.restoreMemory p addr len l = some u →
          exec (.restore n addr len shift sig) s = .next ((u.restoreTables n l shift).notify (.rst rstOk))))) ∧
  (∀ s : State, s.boot = 1 →
    (∀ d, 1024 ≤ d → ∀ v, exec (.setReach d v) s = .next (s.notify .refused)) ∧
    (∀ d v, d < 1024 → ∃ t, exec (.setReach d v) s = .next t ∧ t.notices = s.notices ++ [.ok] ∧ t.mem = s.mem ∧ t.reach.testBit d = v ∧
      ∀ k, k ≠ d → t.reach.testBit k = s.reach.testBit k) ∧
    (∀ w, exec (.setPowerLimit w) s = .next (if 400 ≤ w ∧ w ≤ 1600 then { s with powerLimit := w }.notify .ok else s.notify .refused)) ∧
    (∀ k, exec (.setTrust false k) s = .next ({ s with trusted := s.trusted.filter (· != k) }.notify .ok) ∧
      (k ∉ s.trusted → s.trusted.length < 16 → exec (.setTrust true k) s = .next ({ s with trusted := s.trusted ++ [k] }.notify .ok)) ∧
      (16 ≤ s.trusted.length → exec (.setTrust true k) s = .next (s.notify .refused))) ∧
    (∀ nonce : List Byte, ∃ sig, exec (.attest nonce) s = .next (s.notify (.report (nonce ++ leBytes 2 s.devId ++ Config.certificate ++
      fitBytes 32 (Config.digest Config.bootCode) ++ leBytes 32 s.firmware ++ leBytes 32 s.health ++ sig))) ∧ sig.length = 7856))

/-! ## Errors and power (R391–R398, R410–R412) -/

/-- A corrected error counts on its unit in the window and in CORR, an array line's in its core's Beryl map, where the line
that reaches its threshold is marked; a failed ECC poisons the 256-byte block, failed metadata 128 blocks; a lost decombining
record leaves its requests without replies; a fatal error stops the partition's cores at their bundle boundary, closes its
queues, tells the host and writes one dump. A unit retires when its count reaches its threshold, not while a QUIESCE is under
way, never the last engine of a die or the last Opal; the third lane that a station loses retires the station (log entry 74);
an idle core's logical number becomes vacant, a running one is asked to let go first. A new window starts every count again
but those at a threshold whose unit still serves. A retiring channel with nothing left on it leaves service. A rail loss
resets the module. A measurement steps CCLK by 100 MHz between 700 and 1,400 MHz, and at 110 °C is a rail loss. BRING_UP of
signed firmware makes the module run. -/
def Obligations.UnitsErrorsAndPower : Prop :=
  (∀ (s : State) (u : HwUnit), (∀ c l, u ≠ .arrayRow c l ∧ u ≠ .arrayCol c l) →
    ∃ t, exec (.errorEvent (.corrected u)) s = .next t ∧ t.eventCount u = s.eventCount u + 1 ∧ t.corr = (s.corr + 1) % 2 ^ 64 ∧
      (∀ v, v ≠ u → t.eventCount v = s.eventCount v) ∧ t.mem = s.mem ∧ t.core = s.core) ∧
  (∀ (s : State) (n l : Nat), (∀ u ∈ [(HwUnit.arrayRow n l, l), (.arrayCol n l, 256 + l)], ∃ t, exec (.errorEvent (.corrected u.1)) s = .next t ∧
      t.corr = (s.corr + 1) % 2 ^ 64 ∧ (t.coreOf n).beryl = bankSet 0 (s.coreOf n).beryl u.2 (bankGet 0 (s.coreOf n).beryl u.2 + 1)) ∧
    (s.cutting = none → let b := bankGet 0 (s.coreOf n).beryl l
      let due := s.limitOf (.arrayRow n l) ≤ b ∧ l ∉ (s.coreOf n).marked ∧ l ∉ (s.coreOf n).lost
      ∃ t, exec (.unitRetirement (.arrayRow n l)) s = .next t ∧ (t.coreOf n).marked = if due then (s.coreOf n).marked ++ [l] else (s.coreOf n).marked)) ∧
  (∀ (s : State) (a : Nat), ∃ t, exec (.errorEvent (.eccFailed a)) s = .next t ∧ a / 256 ∈ t.poisoned ∧ (∀ b ∈ s.poisoned, b ∈ t.poisoned) ∧
    (∀ b ∈ t.poisoned, b = a / 256 ∨ b ∈ s.poisoned) ∧ t.mem = s.mem ∧ (a < hbmSize → bankGet 1 t.blockMeta (a / 256) = 5)) ∧
  (∀ (s : State) (a : Nat), ∃ t, exec (.errorEvent (.metadataFailed a)) s = .next t ∧ t.mem = s.mem ∧
    ∀ b, b ∈ t.poisoned ↔ (a / 32768 * 128 ≤ b ∧ b < a / 32768 * 128 + 128) ∨ b ∈ s.poisoned) ∧
  (∀ (s : State) (k : Nat) (r : CombRecord), s.combs[k]? = some r → ∃ t, exec (.errorEvent (.recordLost k false)) s = .next t ∧ t.mem = s.mem ∧ t.core = s.core ∧
    t.combs = s.combs.filter (·.id != r.id) ∧
    ∀ a, a ∈ t.atoms ↔ a ∈ s.atoms ∧ a.owner ≠ .comb r.id ∧ ¬ (a.inRecord = some r.id ∧ ∃ d tag, a.owner = .peer d tag)) ∧
  (∀ (s : State) (part unit : Nat) (p : Partition), s.part? part = some p → s.cutting = none → s.unwatched → (∀ d ∈ s.dumps, d.1 ≠ part) →
    ∃ t q, exec (.errorEvent (.fatalPartition part unit)) s = .next t ∧ t.part? part = some q ∧ q.fatal = true ∧ (∀ x ∈ q.queues, x.state = .closed) ∧
      t.notices = s.notices ++ [.fatal part unit] ∧ (∀ c ∈ t.allCores, c.part = part → c.running = false ∨ c.done ≠ 0) ∧ (∃ bs, t.dumps = s.dumps ++ [(part, bs)])) ∧
  (∀ (s : State) (u : HwUnit), s.cutting.isSome = true → exec (.unitRetirement u) s = .next s) ∧
  (∀ (s : State) (u : HwUnit), u ∈ s.retired ∨ s.eventCount u < s.limitOf u → (∀ c l, u ≠ .arrayRow c l ∧ u ≠ .arrayCol c l) →
    exec (.unitRetirement u) s = .next s) ∧
  (∀ (s : State) (n : Nat), s.cutting = none → HwUnit.core n ∉ s.retired → s.limitOf (.core n) ≤ s.eventCount (.core n) → ∃ t, exec (.unitRetirement (.core n)) s = .next t ∧
    ((s.coreOf n).running = false → HwUnit.core n ∈ t.retired) ∧
    ((s.coreOf n).running = true → n ∉ s.doomed → t = ({ s with doomed := s.doomed ++ [n] } : State).onCoreN n fun c => { c with preempt := true }) ∧
    ∀ p l, (s.coreOf n).running = false → s.parts = [p] → p.logical n = some l → p.tasks = [] → ∃ q, t.parts = [q] ∧ q.cores = p.cores.set l none) ∧
  (∀ (s : State) (k : Nat), s.cutting = none → HwUnit.lane k ∉ s.retired → s.limitOf (.lane k) ≤ s.eventCount (.lane k) →
    let lost : State := { s with retired := s.retired ++ [.lane k] }
    let left := ((List.range 4).filter fun i => HwUnit.lane (k / 4 * 4 + i) ∉ lost.retired).length
    (left ≠ 1 → left ≠ 0 → exec (.unitRetirement (.lane k)) s = .next lost) ∧
    (left = 1 ∨ left = 0 → ∃ t, exec (.unitRetirement (.lane k)) s = .next t ∧ ∀ i < 4, HwUnit.lane (k / 4 * 4 + i) ∈ t.retired)) ∧
  (∀ (s : State) (e : Nat), s.cutting = none → HwUnit.engine e ∉ s.retired → s.limitOf (.engine e) ≤ s.eventCount (.engine e) → ∃ t,
    exec (.unitRetirement (.engine e)) s = .next t ∧ (t.retired = s.retired ++ [.engine e] ↔
      ∃ k < 32, 32 * (e / 32) + k ≠ e ∧ HwUnit.engine (32 * (e / 32) + k) ∉ s.retired)) ∧
  (∀ s : State, (s.cc / 2 ^ 30 = s.window → exec .eventWindowEnd s = .next s) ∧
    (s.cc / 2 ^ 30 ≠ s.window → ∃ t, exec .eventWindowEnd s = .next t ∧ t.window = s.cc / 2 ^ 30 ∧
      t.events = s.events.filter (fun e => decide (s.limitOf e.1 ≤ e.2) && !s.servedCount e.1) ∧ (∀ c ∈ t.allCores, c.beryl = []) ∧
      t.mem = s.mem ∧ t.retired = s.retired)) ∧
  (∀ (s : State) (ch : Nat), (ch ∉ s.retiring → exec (.channelRetirement ch) s = .next s) ∧
    (ch ∈ s.retiring → let u : State := { s with parts := s.parts.map fun p => { p with pool := p.pool.filter fun f => !onChannel ch (f * 2 ^ 16) 65536 } }
      (u.pageOn ch = none → u.fixedOn ch = false → exec (.channelRetirement ch) s = .next { u with
        retiring := s.retiring.filter (· != ch), retired := s.retired ++ [if ch < 256 then .hbmChannel ch else .lpChannel (ch - 256)] }) ∧
      (u.pageOn ch = none → u.fixedOn ch = true → exec (.channelRetirement ch) s = .next u) ∧
      (∀ part va f, u.pageOn ch = some (part, va, f) → exec (.channelRetirement ch) s = .next (u.movePage part va f)))) ∧
  (∀ s : State, exec .railLoss s = .next s.powerOff ∧
    s.powerOff = { State.reset with fresh := s.fresh, agenda := s.agenda, turn := s.turn, pace := s.pace, settings := s.settings }) ∧
  (∀ (s : State) (w temp : Nat), (s.rails = false → exec (.powerMeasurement w temp) s = .next s) ∧
    (s.rails = true → 110 ≤ temp → exec (.powerMeasurement w temp) s = .next s.powerOff) ∧
    (s.rails = true → temp < 110 → 7 ≤ s.cclk → s.cclk ≤ 14 → ∃ t, exec (.powerMeasurement w temp) s = .next t ∧ t.power = w % 2 ^ 16 ∧ t.temp = temp ∧
      7 ≤ t.cclk ∧ t.cclk ≤ 14 ∧ t.core = s.core ∧ t.mem = s.mem ∧
      ((s.powerLimit < w ∨ 95 < temp) → t.cclk = max 7 (s.cclk - 1)) ∧ (w < s.powerLimit → temp < 95 → t.cclk = min 14 (s.cclk + 1)) ∧
      (w = s.powerLimit → temp ≤ 95 → t.cclk = s.cclk))) ∧
  (∀ (s : State) (fw d vlan : Nat), ((s.rails = true ∨ s.boot ≠ 0) → ∀ b, exec (.bringUp ⟨fw, b⟩ d vlan) s = .next s) ∧
    (s.rails = false → s.boot = 0 → exec (.bringUp ⟨fw, false⟩ d vlan) s = .next { s with boot := 2 } ∧
      exec (.bringUp ⟨fw, true⟩ d vlan) s = .next { s with
        rails := true, boot := 1, firmware := fw % 2 ^ 256, devId := d % 1024, reach := 0, events := [], mgmtVlan := some vlan }))
end

