-- ==== Sys2Proof/Laws/Bank.lean ====
section
/-! SUPPORT. What the operations of banks and of memory do: read after write, and the canonical form that each keeps. -/

namespace Sys2Proof.Machine

variable {α : Type}

/-! ## Banks -/

@[simp] theorem bankGet_nil (d : α) (n : Nat) : bankGet d [] n = d := rfl

section
variable [DecidableEq α] {d : α}

theorem bankWfFrom_mono {lo lo' : Nat} {b : Bank α} (h : bankWfFrom d lo b = true) (hl : lo' ≤ lo) :
    bankWfFrom d lo' b = true := by
  cases b with
  | nil => rfl
  | cons e r =>
    simp only [bankWfFrom, Bool.and_eq_true, decide_eq_true_eq] at h ⊢
    exact ⟨⟨by omega, h.1.2⟩, h.2⟩

/-- Below the lower bound of a canonical bank nothing is listed. -/
theorem bankGet_below {lo n : Nat} {b : Bank α} (h : bankWfFrom d lo b = true) (hn : n < lo) : bankGet d b n = d := by
  cases b with
  | nil => rfl
  | cons e r =>
    simp only [bankWfFrom, Bool.and_eq_true, decide_eq_true_eq] at h
    simp [bankGet, show ¬ e.1 = n by omega, show n < e.1 by omega]

theorem bankDrop_wf {lo : Nat} {b : Bank α} (n : Nat) (h : bankWfFrom d lo b = true) :
    bankWfFrom d lo (bankDrop b n) = true := by
  induction b generalizing lo with
  | nil => rfl
  | cons e r ih =>
    have h0 := h
    simp only [bankWfFrom, Bool.and_eq_true, decide_eq_true_eq] at h
    simp only [bankDrop]
    split
    · exact bankWfFrom_mono h.2 (by omega)
    · split
      · exact h0
      · simp only [bankWfFrom, Bool.and_eq_true, decide_eq_true_eq]
        exact ⟨h.1, ih h.2⟩

theorem bankPut_wf {lo : Nat} {b : Bank α} {n : Nat} {x : α} (h : bankWfFrom d lo b = true) (hn : lo ≤ n) (hx : x ≠ d) :
    bankWfFrom d lo (bankPut b n x) = true := by
  induction b generalizing lo with
  | nil => simp [bankPut, bankWfFrom, hn, hx]
  | cons e r ih =>
    simp only [bankWfFrom, Bool.and_eq_true, decide_eq_true_eq] at h
    simp only [bankPut]
    split
    · subst_vars; simp [bankWfFrom, hn, hx, h.2]
    · split
      · simp only [bankWfFrom, Bool.and_eq_true, decide_eq_true_eq]
        exact ⟨⟨hn, hx⟩, ⟨by omega, h.1.2⟩, h.2⟩
      · simp only [bankWfFrom, Bool.and_eq_true, decide_eq_true_eq]
        exact ⟨h.1, ih h.2 (by omega)⟩

/-- A write keeps the canonical form. -/
theorem bankSet_wf {b : Bank α} (n : Nat) (x : α) (h : bankWf d b = true) : bankWf d (bankSet d b n x) = true := by
  unfold bankSet
  split
  · exact bankDrop_wf n h
  · exact bankPut_wf h (Nat.zero_le n) ‹_›

theorem bankGet_drop {lo : Nat} {b : Bank α} (n m : Nat) (h : bankWfFrom d lo b = true) :
    bankGet d (bankDrop b n) m = if m = n then d else bankGet d b m := by
  induction b generalizing lo with
  | nil => simp [bankDrop]
  | cons e r ih =>
    simp only [bankWfFrom, Bool.and_eq_true, decide_eq_true_eq] at h
    simp only [bankDrop]
    split
    · next hk =>
      subst hk
      by_cases hm : m = e.1
      · simp [hm, bankGet_below h.2 (show e.1 < e.1 + 1 by omega)]
      · by_cases hlt : m < e.1
        · simp [bankGet, hm, Ne.symm hm, hlt, bankGet_below h.2 (show m < e.1 + 1 by omega)]
        · simp [bankGet, hm, Ne.symm hm, hlt]
    · split
      · by_cases hm : m = n
        · subst hm; simp [bankGet, show ¬ e.1 = m by omega, show m < e.1 by omega]
        · simp [hm]
      · by_cases hm : m = n
        · subst hm; simp [bankGet, show ¬ e.1 = m by omega, show ¬ m < e.1 by omega, ih h.2]
        · simp only [bankGet, ih h.2, hm, if_false]

omit [DecidableEq α] in
theorem bankGet_put (b : Bank α) (n m : Nat) (x : α) :
    bankGet d (bankPut b n x) m = if m = n then x else bankGet d b m := by
  induction b with
  | nil =>
    by_cases h : m = n
    · simp [bankPut, bankGet, h]
    · simp [bankPut, bankGet, h, Ne.symm h]
  | cons e r ih =>
    simp only [bankPut]
    split
    · next hk =>
      subst hk
      by_cases hm : m = e.1
      · simp [bankGet, hm]
      · simp [bankGet, hm, Ne.symm hm]
    · split
      · by_cases hm : m = n
        · simp [bankGet, hm]
        · by_cases hlt : m < n
          · simp [bankGet, hm, Ne.symm hm, hlt, show ¬ e.1 = m by omega, show m < e.1 by omega]
          · simp [bankGet, hm, Ne.symm hm, hlt]
      · by_cases hm : m = n
        · subst hm; simp [bankGet, show ¬ e.1 = m by omega, show ¬ m < e.1 by omega, ih]
        · simp only [bankGet, ih, hm, if_false]

/-- Read after write. -/
theorem bankGet_set {b : Bank α} (n m : Nat) (x : α) (h : bankWf d b = true) :
    bankGet d (bankSet d b n x) m = if m = n then x else bankGet d b m := by
  unfold bankSet
  split
  · subst_vars; exact bankGet_drop n m h
  · exact bankGet_put b n m x

end

/-! ## Memory -/

theorem cellsOf_wf (a : Nat) (bs : List Byte) : bankWfFrom Memory.blank a (cellsOf a bs) = true := by
  induction bs generalizing a with
  | nil => rfl
  | cons b r ih =>
    simp only [cellsOf]
    split
    · exact bankWfFrom_mono (ih (a + 1)) (by omega)
    · simp [bankWfFrom, *]

theorem bankWfFrom_dropWhile {d : Byte} {lo : Nat} {m : Memory} (n : Nat) (h : bankWfFrom d lo m = true) :
    bankWfFrom d (max lo n) (m.dropWhile fun c => decide (c.1 < n)) = true := by
  induction m generalizing lo with
  | nil => rfl
  | cons e r ih =>
    have h0 := h
    simp only [bankWfFrom, Bool.and_eq_true, decide_eq_true_eq] at h
    simp only [List.dropWhile_cons]
    split
    · next hlt =>
      simp only [decide_eq_true_eq] at hlt
      exact bankWfFrom_mono (ih h.2) (by omega)
    · next hlt =>
      simp only [decide_eq_true_eq] at hlt
      simp only [bankWfFrom, Bool.and_eq_true, decide_eq_true_eq]
      exact ⟨⟨by omega, h.1.2⟩, h.2⟩

/-- Two canonical banks, all keys of the first below the second's bound, are one canonical bank. -/
theorem bankWfFrom_append {d : Byte} {lo n : Nat} {m m' : Memory} (h : bankWfFrom d lo m = true)
    (hn : ∀ c ∈ m, c.1 < n) (hlo : lo ≤ n) (h' : bankWfFrom d n m' = true) : bankWfFrom d lo (m ++ m') = true := by
  induction m generalizing lo with
  | nil => exact bankWfFrom_mono h' hlo
  | cons e r ih =>
    simp only [bankWfFrom, Bool.and_eq_true, decide_eq_true_eq] at h
    simp only [List.cons_append, bankWfFrom, Bool.and_eq_true, decide_eq_true_eq]
    have := hn e (by simp)
    exact ⟨h.1, ih h.2 (fun c hc => hn c (by simp [hc])) (by omega)⟩

theorem bankWfFrom_takeWhile {d : Byte} {lo : Nat} {m : Memory} (n : Nat) (h : bankWfFrom d lo m = true) :
    bankWfFrom d lo (m.takeWhile fun c => decide (c.1 < n)) = true := by
  induction m generalizing lo with
  | nil => rfl
  | cons e r ih =>
    simp only [bankWfFrom, Bool.and_eq_true, decide_eq_true_eq] at h
    simp only [List.takeWhile_cons]
    split
    · simp only [bankWfFrom, Bool.and_eq_true, decide_eq_true_eq]
      exact ⟨h.1, ih h.2⟩
    · rfl

theorem cellsOf_lt (a : Nat) (bs : List Byte) : ∀ c ∈ cellsOf a bs, c.1 < a + bs.length := by
  induction bs generalizing a with
  | nil => simp [cellsOf]
  | cons b r ih =>
    intro c hc
    simp only [cellsOf] at hc
    split at hc
    · have := ih (a + 1) c hc; simp only [List.length_cons]; omega
    · rcases List.mem_cons.1 hc with rfl | hc
      · simp
      · have := ih (a + 1) c hc; simp only [List.length_cons]; omega

/-- Writing bytes keeps the canonical form. -/
theorem Memory.writeN_wf {m : Memory} (a : Nat) (bs : List Byte) (h : m.wf = true) : (m.writeN a bs).wf = true := by
  have h1 := bankWfFrom_takeWhile a h
  have h2 := bankWfFrom_dropWhile (a + bs.length) h
  have hlt : ∀ c ∈ m.takeWhile (fun c => decide (c.1 < a)), c.1 < a := fun c hc => by
    simpa using List.mem_takeWhile_imp hc
  refine bankWfFrom_append (n := a + bs.length) (bankWfFrom_append h1 hlt (Nat.zero_le _) (cellsOf_wf a bs)) ?_ (Nat.zero_le _)
    (bankWfFrom_mono h2 (by omega))
  intro c hc
  rcases List.mem_append.1 hc with hc | hc
  · have := hlt c hc; omega
  · exact cellsOf_lt a bs c hc

/-- Writing one byte keeps the canonical form. -/
theorem Memory.write_wf {m : Memory} (a : Nat) (b : Byte) (h : m.wf = true) : (m.write a b).wf = true := bankSet_wf a b h

theorem Memory.read_write {m : Memory} (a x : Nat) (b : Byte) (h : m.wf = true) :
    (m.write a b).read x = if x = a then b else m.read x := bankGet_set a x b h

theorem bankGet_append_below {d : Byte} {m m' : Memory} {lo n x : Nat} (hm : bankWfFrom d lo m = true)
    (hn : ∀ c ∈ m, c.1 < n) (h' : bankWfFrom d n m' = true) (hx : x < n) : bankGet d (m ++ m') x = bankGet d m x := by
  induction m generalizing lo with
  | nil => exact bankGet_below h' hx
  | cons e r ih =>
    simp only [bankWfFrom, Bool.and_eq_true, decide_eq_true_eq] at hm
    simp only [List.cons_append, bankGet, ih hm.2 (fun c hc => hn c (by simp [hc]))]

theorem bankGet_append_above {d : Byte} {m m' : Memory} {n x : Nat} (hn : ∀ c ∈ m, c.1 < n) (hx : n ≤ x) :
    bankGet d (m ++ m') x = bankGet d m' x := by
  induction m with
  | nil => rfl
  | cons e r ih =>
    have := hn e (by simp)
    simp only [List.cons_append, bankGet, show ¬ e.1 = x by omega, show ¬ x < e.1 by omega, if_false]
    exact ih fun c hc => hn c (by simp [hc])

theorem bankGet_takeWhile {d : Byte} {m : Memory} {n x : Nat} (hx : x < n) :
    bankGet d (m.takeWhile fun c => decide (c.1 < n)) x = bankGet d m x := by
  induction m with
  | nil => rfl
  | cons e r ih =>
    simp only [List.takeWhile_cons]
    split
    · simp only [bankGet, ih]
    · next h =>
      simp only [decide_eq_true_eq] at h
      simp [bankGet, show ¬ e.1 = x by omega, show x < e.1 by omega]

theorem bankGet_dropWhile {d : Byte} {m : Memory} {n x : Nat} (hx : n ≤ x) :
    bankGet d (m.dropWhile fun c => decide (c.1 < n)) x = bankGet d m x := by
  induction m with
  | nil => rfl
  | cons e r ih =>
    simp only [List.dropWhile_cons]
    split
    · next h =>
      simp only [decide_eq_true_eq] at h
      rw [ih]; simp [bankGet, show ¬ e.1 = x by omega, show ¬ x < e.1 by omega]
    · rfl

theorem bankGet_cellsOf (a : Nat) (bs : List Byte) (x : Nat) (hx : a ≤ x) :
    bankGet Memory.blank (cellsOf a bs) x = bs.getD (x - a) Memory.blank := by
  induction bs generalizing a with
  | nil => simp [cellsOf]
  | cons b r ih =>
    simp only [cellsOf]
    by_cases hxa : x = a
    · subst hxa
      split
      · next hb => rw [bankGet_below (cellsOf_wf _ _) (by omega)]; simp [hb]
      · simp [bankGet]
    · obtain ⟨k, hk⟩ : ∃ k, x - a = k + 1 := ⟨x - a - 1, by omega⟩
      have : x - (a + 1) = k := by omega
      split
      · rw [ih (a + 1) (by omega), this, hk]; simp
      · simp only [bankGet, show ¬ a = x by omega, show ¬ x < a by omega, if_false]
        rw [ih (a + 1) (by omega), this, hk]; simp

/-- A byte after bytes have been written: the byte written there, or what stood there before. -/
theorem Memory.read_writeN {m : Memory} (a x : Nat) (bs : List Byte) (h : m.wf = true) :
    (m.writeN a bs).read x = if a ≤ x ∧ x < a + bs.length then bs.getD (x - a) Memory.blank else m.read x := by
  have hlt : ∀ c ∈ m.takeWhile (fun c => decide (c.1 < a)), c.1 < a := fun c hc => by
    simpa using List.mem_takeWhile_imp hc
  have h2 : bankWfFrom Memory.blank (a + bs.length) (m.dropWhile fun c => decide (c.1 < a + bs.length)) = true :=
    bankWfFrom_mono (bankWfFrom_dropWhile (a + bs.length) h) (by omega)
  have h12 := bankWfFrom_append (bankWfFrom_takeWhile a h) hlt (Nat.zero_le a) (cellsOf_wf a bs)
  have hl12 : ∀ c ∈ m.takeWhile (fun c => decide (c.1 < a)) ++ cellsOf a bs, c.1 < a + bs.length := fun c hc => by
    rcases List.mem_append.1 hc with hc | hc
    · have := hlt c hc; omega
    · exact cellsOf_lt a bs c hc
  unfold Memory.writeN Memory.read
  by_cases h3 : x < a + bs.length
  · rw [bankGet_append_below h12 hl12 h2 h3]
    by_cases h4 : x < a
    · rw [bankGet_append_below (bankWfFrom_takeWhile a h) hlt (cellsOf_wf a bs) h4, bankGet_takeWhile h4]
      simp [show ¬ a ≤ x by omega]
    · rw [bankGet_append_above hlt (by omega), bankGet_cellsOf a bs x (by omega)]
      simp [show a ≤ x by omega, h3]
  · rw [bankGet_append_above hl12 (by omega), bankGet_dropWhile (by omega)]
    simp [h3]

theorem cellsRead_length (m : List Host.Cell) (a n : Nat) : (cellsRead m a n).length = n := by
  induction n generalizing m a with
  | zero => cases m <;> rfl
  | succ n ih => rcases m with _ | ⟨⟨k, v⟩, r⟩ <;> simp only [cellsRead] <;> [skip; split] <;> simp [ih]

@[simp] theorem Memory.readN_length (m : Memory) (a n : Nat) : (m.readN a n).length = n := cellsRead_length _ a n

theorem cellsRead_getD {m : List Host.Cell} {a n i : Nat} (h : bankWfFrom Memory.blank a m = true) (hi : i < n) :
    (cellsRead m a n).getD i Memory.blank = bankGet Memory.blank m (a + i) := by
  induction n generalizing m a i with
  | zero => omega
  | succ n ih =>
    rcases m with _ | ⟨⟨k, v⟩, r⟩
    · cases i with
      | zero => simp [cellsRead]
      | succ i => simpa [cellsRead] using ih (m := []) (a := a + 1) (i := i) rfl (by omega)
    · have h0 := h
      simp only [bankWfFrom, Bool.and_eq_true, decide_eq_true_eq] at h
      simp only [cellsRead]
      split
      · next hk =>
        subst hk
        cases i with
        | zero => simp [bankGet]
        | succ i =>
          simp only [List.getD_cons_succ, ih h.2 (show i < n by omega)]
          simp [bankGet, show ¬ k + (i + 1) < k by omega, show k + 1 + i = k + (i + 1) by omega]
      · next hk =>
        have h1 : bankWfFrom Memory.blank (a + 1) ((k, v) :: r) = true := by
          simp only [bankWfFrom, Bool.and_eq_true, decide_eq_true_eq]; exact ⟨⟨by omega, h.1.2⟩, h.2⟩
        cases i with
        | zero => rw [Nat.add_zero, bankGet_below h1 (by omega)]; simp
        | succ i => rw [List.getD_cons_succ, ih h1 (by omega), show a + 1 + i = a + (i + 1) by omega]

/-- A read of many bytes is that of each. -/
theorem Memory.readN_getD {m : Memory} {a n i : Nat} (h : m.wf = true) (hi : i < n) :
    (m.readN a n).getD i Memory.blank = m.read (a + i) := by
  unfold Memory.readN Memory.read
  rw [cellsRead_getD (bankWfFrom_mono (bankWfFrom_dropWhile a h) (by omega)) hi, bankGet_dropWhile (by omega)]

/-- What is written is read back. -/
theorem Memory.readN_writeN_same {m : Memory} (a : Nat) (bs : List Byte) (h : m.wf = true) :
    (m.writeN a bs).readN a bs.length = bs := by
  refine List.ext_getElem (by simp) fun i h1 h2 => ?_
  have h3 : i < bs.length := h2
  have := Memory.readN_getD (a := a) (n := bs.length) (Memory.writeN_wf a bs h) h3
  rw [Memory.read_writeN a _ bs h] at this
  simpa [List.getD_eq_getElem?_getD, h3, show a + i - a = i by omega] using this

/-- A write elsewhere leaves what is read. -/
theorem Memory.readN_writeN_apart {m : Memory} {a b n : Nat} {bs : List Byte} (h : m.wf = true)
    (hd : b + n ≤ a ∨ a + bs.length ≤ b) : (m.writeN a bs).readN b n = m.readN b n := by
  refine List.ext_getElem (by simp) fun i h1 h2 => ?_
  have h3 : i < n := by simpa using h2
  have e1 := Memory.readN_getD (a := b) (n := n) (Memory.writeN_wf a bs h) h3
  have e2 := Memory.readN_getD (a := b) (n := n) h h3
  rw [Memory.read_writeN a _ bs h, if_neg (by omega), ← e2] at e1
  rw [List.getD_eq_getElem?_getD, List.getD_eq_getElem?_getD, List.getElem?_eq_getElem h1, List.getElem?_eq_getElem h2] at e1
  simpa only [Option.getD_some] using e1

/-! ## Bytes of numbers -/

@[simp] theorem leBytes_length (n v : Nat) : (leBytes n v).length = n := by
  induction n generalizing v with
  | zero => rfl
  | succ n ih => simp [leBytes, ih]

/-- The value of the bytes of a number is the number, as far as the bytes reach. -/
theorem leNat_leBytes (n v : Nat) : leNat (leBytes n v) = v % 256 ^ n := by
  induction n generalizing v with
  | zero => simp [leBytes, leNat, Nat.mod_one]
  | succ n ih =>
    simp only [leBytes, leNat, ih, BitVec.toNat_ofNat, show 2 ^ 8 = 256 from rfl]
    rw [Nat.pow_succ, Nat.mul_comm (256 ^ n) 256, Nat.mod_mul]

end Sys2Proof.Machine
end

