-- ==== Sys2Proof/Laws/PerInstr.lean ====
section
/-! SUPPORT. Facts about every instruction as syntax, one lemma a constructor. Family `Words`: an encoding is a 32-bit first word
of kind 0, or of kind 1 with a 32-bit operand word (R56, R60, R61). -/

namespace Sys2Proof.Laws

/-- What the encoder gives is two words of the sizes and kinds that R56 fixes. -/
def Words.Statement (i : Instr) : Prop :=
  ∀ e, encode i = some e → e.w < 2 ^ 32 ∧ kindOf e.w = (if e.w2.isSome then 1 else 0) ∧ ∀ v, e.w2 = some v → v < 2 ^ 32

theorem pack_lt : ∀ fs : List (Nat × Nat), pack fs < 2 ^ (fs.map (·.1)).sum
  | [] => by simp [pack]
  | (w, v) :: r => by
    have ih := pack_lt r
    have hv := Nat.mod_lt v (Nat.two_pow_pos w)
    simp only [pack, List.map_cons, List.sum_cons, pow_add]
    exact calc v % 2 ^ w + 2 ^ w * pack r < 2 ^ w * (pack r + 1) := by rw [Nat.mul_add]; omega
      _ ≤ 2 ^ w * 2 ^ (r.map (·.1)).sum := Nat.mul_le_mul_left _ ih

theorem pack_lt_word {fs : List (Nat × Nat)} (h : Nat.ble (fs.map (·.1)).sum 32 = true) : pack fs < 2 ^ 32 :=
  lt_of_lt_of_le (pack_lt fs) (Nat.pow_le_pow_right (by decide) (Nat.le_of_ble_eq_true h))

theorem pack_kind (k : Nat) (fs : List (Nat × Nat)) : kindOf (pack ((2, k) :: fs)) = k % 4 := by
  simp only [kindOf, pack]; omega

theorem e32_words (c : Cls) (op : Nat) (fs : List (Nat × Nat)) (h : Nat.ble (((2, 0) :: (7, op) :: fs).map (·.1)).sum 32 = true) :
    ∀ e, e32 c op fs = some e → e.w < 2 ^ 32 ∧ kindOf e.w = (if e.w2.isSome then 1 else 0) ∧ ∀ v, e.w2 = some v → v < 2 ^ 32 := by
  intro e he
  obtain rfl := Option.some.inj he
  exact ⟨pack_lt_word h, pack_kind 0 _, fun v hv => by cases hv⟩

theorem e64_words (c : Cls) (op : Nat) (fs gs : List (Nat × Nat)) (h : Nat.ble (((2, 1) :: (7, op) :: fs).map (·.1)).sum 32 = true)
    (hg : Nat.ble (gs.map (·.1)).sum 32 = true) :
    ∀ e, e64 c op fs gs = some e → e.w < 2 ^ 32 ∧ kindOf e.w = (if e.w2.isSome then 1 else 0) ∧ ∀ v, e.w2 = some v → v < 2 ^ 32 := by
  intro e he
  obtain rfl := Option.some.inj he
  exact ⟨pack_lt_word h, pack_kind 1 _, fun v hv => Option.some.inj hv ▸ pack_lt_word hg⟩

theorem none_words {e : Enc} {P : Prop} (h : (none : Option Enc) = some e) : P := by cases h

theorem Words.add (d a b : Nat) : Words.Statement (.add d a b) := e32_words _ _ _ rfl
theorem Words.sub (d a b : Nat) : Words.Statement (.sub d a b) := e32_words _ _ _ rfl
theorem Words.mul (d a b : Nat) : Words.Statement (.mul d a b) := e32_words _ _ _ rfl
theorem Words.mulh (d a b : Nat) : Words.Statement (.mulh d a b) := e32_words _ _ _ rfl
theorem Words.mulhu (d a b : Nat) : Words.Statement (.mulhu d a b) := e32_words _ _ _ rfl
theorem Words.div (d a b : Nat) : Words.Statement (.div d a b) := e32_words _ _ _ rfl
theorem Words.divu (d a b : Nat) : Words.Statement (.divu d a b) := e32_words _ _ _ rfl
theorem Words.rem (d a b : Nat) : Words.Statement (.rem d a b) := e32_words _ _ _ rfl
theorem Words.remu (d a b : Nat) : Words.Statement (.remu d a b) := e32_words _ _ _ rfl
theorem Words.and (d a b : Nat) : Words.Statement (.and d a b) := e32_words _ _ _ rfl
theorem Words.or (d a b : Nat) : Words.Statement (.or d a b) := e32_words _ _ _ rfl
theorem Words.xor (d a b : Nat) : Words.Statement (.xor d a b) := e32_words _ _ _ rfl
theorem Words.andn (d a b : Nat) : Words.Statement (.andn d a b) := e32_words _ _ _ rfl
theorem Words.shl (d a b : Nat) : Words.Statement (.shl d a b) := e32_words _ _ _ rfl
theorem Words.shr (d a b : Nat) : Words.Statement (.shr d a b) := e32_words _ _ _ rfl
theorem Words.sra (d a b : Nat) : Words.Statement (.sra d a b) := e32_words _ _ _ rfl
theorem Words.rotr (d a b : Nat) : Words.Statement (.rotr d a b) := e32_words _ _ _ rfl
theorem Words.clz (d a : Nat) : Words.Statement (.clz d a) := e32_words _ _ _ rfl
theorem Words.ctz (d a : Nat) : Words.Statement (.ctz d a) := e32_words _ _ _ rfl
theorem Words.popc (d a : Nat) : Words.Statement (.popc d a) := e32_words _ _ _ rfl
theorem Words.min (d a b : Nat) : Words.Statement (.min d a b) := e32_words _ _ _ rfl
theorem Words.max (d a b : Nat) : Words.Statement (.max d a b) := e32_words _ _ _ rfl
theorem Words.minu (d a b : Nat) : Words.Statement (.minu d a b) := e32_words _ _ _ rfl
theorem Words.maxu (d a b : Nat) : Words.Statement (.maxu d a b) := e32_words _ _ _ rfl
theorem Words.seq (d a b : Nat) : Words.Statement (.seq d a b) := e32_words _ _ _ rfl
theorem Words.slt (d a b : Nat) : Words.Statement (.slt d a b) := e32_words _ _ _ rfl
theorem Words.sltu (d a b : Nat) : Words.Statement (.sltu d a b) := e32_words _ _ _ rfl
theorem Words.sext (d a f : Nat) : Words.Statement (.sext d a f) := e32_words _ _ _ rfl
theorem Words.zext (d a f : Nat) : Words.Statement (.zext d a f) := e32_words _ _ _ rfl
theorem Words.sel (d a b c : Nat) : Words.Statement (.sel d a b c) := e64_words _ _ _ _ rfl rfl
theorem Words.bfx (d a pos len sx : Nat) : Words.Statement (.bfx d a pos len sx) := e64_words _ _ _ _ rfl rfl
theorem Words.bfi (d a b pos len : Nat) : Words.Statement (.bfi d a b pos len) := e64_words _ _ _ _ rfl rfl
theorem Words.addi (d a : Nat) (imm : Int) : Words.Statement (.addi d a imm) := e32_words _ _ _ rfl
theorem Words.andi (d a : Nat) (imm : Int) : Words.Statement (.andi d a imm) := e32_words _ _ _ rfl
theorem Words.ori (d a : Nat) (imm : Int) : Words.Statement (.ori d a imm) := e32_words _ _ _ rfl
theorem Words.xori (d a : Nat) (imm : Int) : Words.Statement (.xori d a imm) := e32_words _ _ _ rfl
theorem Words.shli (d a : Nat) (imm : Int) : Words.Statement (.shli d a imm) := e32_words _ _ _ rfl
theorem Words.shri (d a : Nat) (imm : Int) : Words.Statement (.shri d a imm) := e32_words _ _ _ rfl
theorem Words.srai (d a : Nat) (imm : Int) : Words.Statement (.srai d a imm) := e32_words _ _ _ rfl
theorem Words.addiLong (d a : Nat) (imm : Int) : Words.Statement (.addiLong d a imm) := e64_words _ _ _ _ rfl rfl
theorem Words.andiLong (d a : Nat) (imm : Int) : Words.Statement (.andiLong d a imm) := e64_words _ _ _ _ rfl rfl
theorem Words.oriLong (d a : Nat) (imm : Int) : Words.Statement (.oriLong d a imm) := e64_words _ _ _ _ rfl rfl
theorem Words.xoriLong (d a : Nat) (imm : Int) : Words.Statement (.xoriLong d a imm) := e64_words _ _ _ _ rfl rfl
theorem Words.shliLong (d a : Nat) (imm : Int) : Words.Statement (.shliLong d a imm) := e64_words _ _ _ _ rfl rfl
theorem Words.shriLong (d a : Nat) (imm : Int) : Words.Statement (.shriLong d a imm) := e64_words _ _ _ _ rfl rfl
theorem Words.sraiLong (d a : Nat) (imm : Int) : Words.Statement (.sraiLong d a imm) := e64_words _ _ _ _ rfl rfl
theorem Words.movi (d md imm : Nat) : Words.Statement (.movi d md imm) := e64_words _ _ _ _ rfl rfl
theorem Words.moviHi (d imm : Nat) : Words.Statement (.moviHi d imm) := e64_words _ _ _ _ rfl rfl
theorem Words.step (slot src a : Nat) (imm : Int) : Words.Statement (.step slot src a imm) := e32_words _ _ _ rfl
theorem Words.beq (a b : Nat) (off : Int) : Words.Statement (.beq a b off) := e32_words _ _ _ rfl
theorem Words.bne (a b : Nat) (off : Int) : Words.Statement (.bne a b off) := e32_words _ _ _ rfl
theorem Words.blt (a b : Nat) (off : Int) : Words.Statement (.blt a b off) := e32_words _ _ _ rfl
theorem Words.bge (a b : Nat) (off : Int) : Words.Statement (.bge a b off) := e32_words _ _ _ rfl
theorem Words.bltu (a b : Nat) (off : Int) : Words.Statement (.bltu a b off) := e32_words _ _ _ rfl
theorem Words.bgeu (a b : Nat) (off : Int) : Words.Statement (.bgeu a b off) := e32_words _ _ _ rfl
theorem Words.bpany (p lc : Nat) (off : Int) : Words.Statement (.bpany p lc off) := e32_words _ _ _ rfl
theorem Words.bpnone (p lc : Nat) (off : Int) : Words.Statement (.bpnone p lc off) := e32_words _ _ _ rfl
theorem Words.jmp (off : Int) : Words.Statement (.jmp off) := e32_words _ _ _ rfl
theorem Words.jmpi (a : Nat) : Words.Statement (.jmpi a) := e32_words _ _ _ rfl
theorem Words.call (a : Nat) (off : Int) : Words.Statement (.call a off) := e32_words _ _ _ rfl
theorem Words.calli (a b : Nat) : Words.Statement (.calli a b) := e32_words _ _ _ rfl
theorem Words.ret (a : Nat) : Words.Statement (.ret a) := e32_words _ _ _ rfl
theorem Words.loop (a : Nat) (off : Int) : Words.Statement (.loop a off) := e32_words _ _ _ rfl
theorem Words.beqLong (a b : Nat) (off : Int) : Words.Statement (.beqLong a b off) := e64_words _ _ _ _ rfl rfl
theorem Words.bneLong (a b : Nat) (off : Int) : Words.Statement (.bneLong a b off) := e64_words _ _ _ _ rfl rfl
theorem Words.bltLong (a b : Nat) (off : Int) : Words.Statement (.bltLong a b off) := e64_words _ _ _ _ rfl rfl
theorem Words.bgeLong (a b : Nat) (off : Int) : Words.Statement (.bgeLong a b off) := e64_words _ _ _ _ rfl rfl
theorem Words.bltuLong (a b : Nat) (off : Int) : Words.Statement (.bltuLong a b off) := e64_words _ _ _ _ rfl rfl
theorem Words.bgeuLong (a b : Nat) (off : Int) : Words.Statement (.bgeuLong a b off) := e64_words _ _ _ _ rfl rfl
theorem Words.bpanyLong (p lc : Nat) (off : Int) : Words.Statement (.bpanyLong p lc off) := e64_words _ _ _ _ rfl rfl
theorem Words.bpnoneLong (p lc : Nat) (off : Int) : Words.Statement (.bpnoneLong p lc off) := e64_words _ _ _ _ rfl rfl
theorem Words.jmpLong (off : Int) : Words.Statement (.jmpLong off) := e64_words _ _ _ _ rfl rfl
theorem Words.callLong (a : Nat) (off : Int) : Words.Statement (.callLong a off) := e64_words _ _ _ _ rfl rfl
theorem Words.loopLong (a : Nat) (off : Int) : Words.Statement (.loopLong a off) := e64_words _ _ _ _ rfl rfl
theorem Words.phase : Words.Statement (.phase) := fun _ h => none_words h
theorem Words.ldb (d a land : Nat) (off : Int) : Words.Statement (.ldb d a land off) := e64_words _ _ _ _ rfl rfl
theorem Words.ldbs (d a land : Nat) (off : Int) : Words.Statement (.ldbs d a land off) := e64_words _ _ _ _ rfl rfl
theorem Words.ldh (d a land : Nat) (off : Int) : Words.Statement (.ldh d a land off) := e64_words _ _ _ _ rfl rfl
theorem Words.ldhs (d a land : Nat) (off : Int) : Words.Statement (.ldhs d a land off) := e64_words _ _ _ _ rfl rfl
theorem Words.ldw (d a land : Nat) (off : Int) : Words.Statement (.ldw d a land off) := e64_words _ _ _ _ rfl rfl
theorem Words.ldws (d a land : Nat) (off : Int) : Words.Statement (.ldws d a land off) := e64_words _ _ _ _ rfl rfl
theorem Words.ldd (d a land : Nat) (off : Int) : Words.Statement (.ldd d a land off) := e64_words _ _ _ _ rfl rfl
theorem Words.stb (d a chn : Nat) (off : Int) : Words.Statement (.stb d a chn off) := e64_words _ _ _ _ rfl rfl
theorem Words.sth (d a chn : Nat) (off : Int) : Words.Statement (.sth d a chn off) := e64_words _ _ _ _ rfl rfl
theorem Words.stw (d a chn : Nat) (off : Int) : Words.Statement (.stw d a chn off) := e64_words _ _ _ _ rfl rfl
theorem Words.std (d a chn : Nat) (off : Int) : Words.Statement (.std d a chn off) := e64_words _ _ _ _ rfl rfl
theorem Words.vld (d a land : Nat) (off : Int) : Words.Statement (.vld d a land off) := e64_words _ _ _ _ rfl rfl
theorem Words.vst (d a chn : Nat) (off : Int) : Words.Statement (.vst d a chn off) := e64_words _ _ _ _ rfl rfl
theorem Words.vldp (land pt d : Nat) : Words.Statement (.vldp land pt d) := e32_words _ _ _ rfl
theorem Words.vldpSet (land pt a : Nat) : Words.Statement (.vldpSet land pt a) := e32_words _ _ _ rfl
theorem Words.vstp (chn pt d : Nat) : Words.Statement (.vstp chn pt d) := e32_words _ _ _ rfl
theorem Words.vstpSave (pt a : Nat) : Words.Statement (.vstpSave pt a) := e32_words _ _ _ rfl
theorem Words.vgth (esz ix a d land px : Nat) : Words.Statement (.vgth esz ix a d land px) := e64_words _ _ _ _ rfl rfl
theorem Words.vsct (esz ix a d px chn : Nat) : Words.Statement (.vsct esz ix a d px chn) := e64_words _ _ _ _ rfl rfl
theorem Words.tld (bo t f a land : Nat) : Words.Statement (.tld bo t f a land) := e64_words _ _ _ _ rfl rfl
theorem Words.tst (bo t f a chn : Nat) : Words.Statement (.tst bo t f a chn) := e64_words _ _ _ _ rfl rfl
theorem Words.prf (cnt a lv : Nat) (off : Int) : Words.Statement (.prf cnt a lv off) := e64_words _ _ _ _ rfl rfl
theorem Words.spin (n a : Nat) : Words.Statement (.spin n a) := e32_words _ _ _ rfl
theorem Words.sprel (n a : Nat) : Words.Statement (.sprel n a) := e32_words _ _ _ rfl
theorem Words.aadd (o : AT) : Words.Statement (.aadd o) := e64_words _ _ _ _ rfl rfl
theorem Words.afadd (o : AT) : Words.Statement (.afadd o) := e64_words _ _ _ _ rfl rfl
theorem Words.axchg (o : AT) : Words.Statement (.axchg o) := e64_words _ _ _ _ rfl rfl
theorem Words.acas (o : AT) : Words.Statement (.acas o) := e64_words _ _ _ _ rfl rfl
theorem Words.aand (o : AT) : Words.Statement (.aand o) := e64_words _ _ _ _ rfl rfl
theorem Words.aor (o : AT) : Words.Statement (.aor o) := e64_words _ _ _ _ rfl rfl
theorem Words.axor (o : AT) : Words.Statement (.axor o) := e64_words _ _ _ _ rfl rfl
theorem Words.amin (o : AT) : Words.Statement (.amin o) := e64_words _ _ _ _ rfl rfl
theorem Words.amax (o : AT) : Words.Statement (.amax o) := e64_words _ _ _ _ rfl rfl
theorem Words.aminu (o : AT) : Words.Statement (.aminu o) := e64_words _ _ _ _ rfl rfl
theorem Words.amaxu (o : AT) : Words.Statement (.amaxu o) := e64_words _ _ _ _ rfl rfl
theorem Words.afmin (o : AT) : Words.Statement (.afmin o) := e64_words _ _ _ _ rfl rfl
theorem Words.afmax (o : AT) : Words.Statement (.afmax o) := e64_words _ _ _ _ rfl rfl
theorem Words.waita (sz a d b : Nat) (off : Int) : Words.Statement (.waita sz a d b off) := e64_words _ _ _ _ rfl rfl
theorem Words.wake (sz b a : Nat) : Words.Statement (.wake sz b a) := e32_words _ _ _ rfl
theorem Words.vadd (o : VR) : Words.Statement (.vadd o) := e32_words _ _ _ rfl
theorem Words.vsub (o : VR) : Words.Statement (.vsub o) := e32_words _ _ _ rfl
theorem Words.vmul (o : VR) : Words.Statement (.vmul o) := e32_words _ _ _ rfl
theorem Words.vmulh (o : VR) : Words.Statement (.vmulh o) := e32_words _ _ _ rfl
theorem Words.vmad (o : VL) : Words.Statement (.vmad o) := e64_words _ _ _ _ rfl rfl
theorem Words.vmin (o : VR) : Words.Statement (.vmin o) := e32_words _ _ _ rfl
theorem Words.vmax (o : VR) : Words.Statement (.vmax o) := e32_words _ _ _ rfl
theorem Words.vabs (o : VR) : Words.Statement (.vabs o) := e32_words _ _ _ rfl
theorem Words.vneg (o : VR) : Words.Statement (.vneg o) := e32_words _ _ _ rfl
theorem Words.vand (o : VR) : Words.Statement (.vand o) := e32_words _ _ _ rfl
theorem Words.vor (o : VR) : Words.Statement (.vor o) := e32_words _ _ _ rfl
theorem Words.vxor (o : VR) : Words.Statement (.vxor o) := e32_words _ _ _ rfl
theorem Words.vnot (o : VR) : Words.Statement (.vnot o) := e32_words _ _ _ rfl
theorem Words.vshl (o : VR) : Words.Statement (.vshl o) := e32_words _ _ _ rfl
theorem Words.vshr (o : VR) : Words.Statement (.vshr o) := e32_words _ _ _ rfl
theorem Words.vsra (o : VR) : Words.Statement (.vsra o) := e32_words _ _ _ rfl
theorem Words.vcmp (o : VL) : Words.Statement (.vcmp o) := e64_words _ _ _ _ rfl rfl
theorem Words.vsel (o : VL) : Words.Statement (.vsel o) := e64_words _ _ _ _ rfl rfl
theorem Words.vpopc (o : VR) : Words.Statement (.vpopc o) := e32_words _ _ _ rfl
theorem Words.vclz (o : VR) : Words.Statement (.vclz o) := e32_words _ _ _ rfl
theorem Words.vaddLong (o : VL) : Words.Statement (.vaddLong o) := e64_words _ _ _ _ rfl rfl
theorem Words.vsubLong (o : VL) : Words.Statement (.vsubLong o) := e64_words _ _ _ _ rfl rfl
theorem Words.vmulLong (o : VL) : Words.Statement (.vmulLong o) := e64_words _ _ _ _ rfl rfl
theorem Words.vmulhLong (o : VL) : Words.Statement (.vmulhLong o) := e64_words _ _ _ _ rfl rfl
theorem Words.vminLong (o : VL) : Words.Statement (.vminLong o) := e64_words _ _ _ _ rfl rfl
theorem Words.vmaxLong (o : VL) : Words.Statement (.vmaxLong o) := e64_words _ _ _ _ rfl rfl
theorem Words.vabsLong (o : VL) : Words.Statement (.vabsLong o) := e64_words _ _ _ _ rfl rfl
theorem Words.vnegLong (o : VL) : Words.Statement (.vnegLong o) := e64_words _ _ _ _ rfl rfl
theorem Words.vandLong (o : VL) : Words.Statement (.vandLong o) := e64_words _ _ _ _ rfl rfl
theorem Words.vorLong (o : VL) : Words.Statement (.vorLong o) := e64_words _ _ _ _ rfl rfl
theorem Words.vxorLong (o : VL) : Words.Statement (.vxorLong o) := e64_words _ _ _ _ rfl rfl
theorem Words.vnotLong (o : VL) : Words.Statement (.vnotLong o) := e64_words _ _ _ _ rfl rfl
theorem Words.vshlLong (o : VL) : Words.Statement (.vshlLong o) := e64_words _ _ _ _ rfl rfl
theorem Words.vshrLong (o : VL) : Words.Statement (.vshrLong o) := e64_words _ _ _ _ rfl rfl
theorem Words.vsraLong (o : VL) : Words.Statement (.vsraLong o) := e64_words _ _ _ _ rfl rfl
theorem Words.vpopcLong (o : VL) : Words.Statement (.vpopcLong o) := e64_words _ _ _ _ rfl rfl
theorem Words.vclzLong (o : VL) : Words.Statement (.vclzLong o) := e64_words _ _ _ _ rfl rfl
theorem Words.vfadd (o : VR) : Words.Statement (.vfadd o) := e32_words _ _ _ rfl
theorem Words.vfsub (o : VR) : Words.Statement (.vfsub o) := e32_words _ _ _ rfl
theorem Words.vfmul (o : VR) : Words.Statement (.vfmul o) := e32_words _ _ _ rfl
theorem Words.vfma (o : VL) : Words.Statement (.vfma o) := e64_words _ _ _ _ rfl rfl
theorem Words.vfmin (o : VR) : Words.Statement (.vfmin o) := e32_words _ _ _ rfl
theorem Words.vfmax (o : VR) : Words.Statement (.vfmax o) := e32_words _ _ _ rfl
theorem Words.vfabs (o : VR) : Words.Statement (.vfabs o) := e32_words _ _ _ rfl
theorem Words.vfneg (o : VR) : Words.Statement (.vfneg o) := e32_words _ _ _ rfl
theorem Words.vfcmp (o : VL) : Words.Statement (.vfcmp o) := e64_words _ _ _ _ rfl rfl
theorem Words.vfdiv (o : VR) : Words.Statement (.vfdiv o) := e32_words _ _ _ rfl
theorem Words.vfsqrt (o : VR) : Words.Statement (.vfsqrt o) := e32_words _ _ _ rfl
theorem Words.vrcp (o : VR) : Words.Statement (.vrcp o) := e32_words _ _ _ rfl
theorem Words.vrsq (o : VR) : Words.Statement (.vrsq o) := e32_words _ _ _ rfl
theorem Words.vexp2 (o : VR) : Words.Statement (.vexp2 o) := e32_words _ _ _ rfl
theorem Words.vlog2 (o : VR) : Words.Statement (.vlog2 o) := e32_words _ _ _ rfl
theorem Words.vtanh (o : VR) : Words.Statement (.vtanh o) := e32_words _ _ _ rfl
theorem Words.vfaddLong (o : VL) : Words.Statement (.vfaddLong o) := e64_words _ _ _ _ rfl rfl
theorem Words.vfsubLong (o : VL) : Words.Statement (.vfsubLong o) := e64_words _ _ _ _ rfl rfl
theorem Words.vfmulLong (o : VL) : Words.Statement (.vfmulLong o) := e64_words _ _ _ _ rfl rfl
theorem Words.vfminLong (o : VL) : Words.Statement (.vfminLong o) := e64_words _ _ _ _ rfl rfl
theorem Words.vfmaxLong (o : VL) : Words.Statement (.vfmaxLong o) := e64_words _ _ _ _ rfl rfl
theorem Words.vfabsLong (o : VL) : Words.Statement (.vfabsLong o) := e64_words _ _ _ _ rfl rfl
theorem Words.vfnegLong (o : VL) : Words.Statement (.vfnegLong o) := e64_words _ _ _ _ rfl rfl
theorem Words.vfdivLong (o : VL) : Words.Statement (.vfdivLong o) := e64_words _ _ _ _ rfl rfl
theorem Words.vfsqrtLong (o : VL) : Words.Statement (.vfsqrtLong o) := e64_words _ _ _ _ rfl rfl
theorem Words.vrcpLong (o : VL) : Words.Statement (.vrcpLong o) := e64_words _ _ _ _ rfl rfl
theorem Words.vrsqLong (o : VL) : Words.Statement (.vrsqLong o) := e64_words _ _ _ _ rfl rfl
theorem Words.vexp2Long (o : VL) : Words.Statement (.vexp2Long o) := e64_words _ _ _ _ rfl rfl
theorem Words.vlog2Long (o : VL) : Words.Statement (.vlog2Long o) := e64_words _ _ _ _ rfl rfl
theorem Words.vtanhLong (o : VL) : Words.Statement (.vtanhLong o) := e64_words _ _ _ _ rfl rfl
theorem Words.vcvt (o : VL) : Words.Statement (.vcvt o) := e64_words _ _ _ _ rfl rfl
theorem Words.vqnt (o : VL) : Words.Statement (.vqnt o) := e64_words _ _ _ _ rfl rfl
theorem Words.vdqnt (o : VL) : Words.Statement (.vdqnt o) := e64_words _ _ _ _ rfl rfl
theorem Words.vi2f (o : VL) : Words.Statement (.vi2f o) := e64_words _ _ _ _ rfl rfl
theorem Words.vf2i (o : VL) : Words.Statement (.vf2i o) := e64_words _ _ _ _ rfl rfl
theorem Words.vperm (o : VL) : Words.Statement (.vperm o) := e64_words _ _ _ _ rfl rfl
theorem Words.vshuf (o : VL) : Words.Statement (.vshuf o) := e64_words _ _ _ _ rfl rfl
theorem Words.vslide (o : VR) : Words.Statement (.vslide o) := e32_words _ _ _ rfl
theorem Words.vbcast (o : VR) : Words.Statement (.vbcast o) := e32_words _ _ _ rfl
theorem Words.vext (o : VR) : Words.Statement (.vext o) := e32_words _ _ _ rfl
theorem Words.vins (o : VR) : Words.Statement (.vins o) := e32_words _ _ _ rfl
theorem Words.vcmpr (o : VR) : Words.Statement (.vcmpr o) := e32_words _ _ _ rfl
theorem Words.vexpd (o : VR) : Words.Statement (.vexpd o) := e32_words _ _ _ rfl
theorem Words.vslideLong (o : VL) : Words.Statement (.vslideLong o) := e64_words _ _ _ _ rfl rfl
theorem Words.vbcastLong (o : VL) : Words.Statement (.vbcastLong o) := e64_words _ _ _ _ rfl rfl
theorem Words.vextLong (o : VL) : Words.Statement (.vextLong o) := e64_words _ _ _ _ rfl rfl
theorem Words.vinsLong (o : VL) : Words.Statement (.vinsLong o) := e64_words _ _ _ _ rfl rfl
theorem Words.vcmprLong (o : VL) : Words.Statement (.vcmprLong o) := e64_words _ _ _ _ rfl rfl
theorem Words.vexpdLong (o : VL) : Words.Statement (.vexpdLong o) := e64_words _ _ _ _ rfl rfl
theorem Words.vrsum (o : VR) : Words.Statement (.vrsum o) := e32_words _ _ _ rfl
theorem Words.vrfsum (o : VR) : Words.Statement (.vrfsum o) := e32_words _ _ _ rfl
theorem Words.vrmax (o : VR) : Words.Statement (.vrmax o) := e32_words _ _ _ rfl
theorem Words.vrmin (o : VR) : Words.Statement (.vrmin o) := e32_words _ _ _ rfl
theorem Words.vscan (o : VR) : Words.Statement (.vscan o) := e32_words _ _ _ rfl
theorem Words.vrsumLong (o : VL) : Words.Statement (.vrsumLong o) := e64_words _ _ _ _ rfl rfl
theorem Words.vrfsumLong (o : VL) : Words.Statement (.vrfsumLong o) := e64_words _ _ _ _ rfl rfl
theorem Words.vrmaxLong (o : VL) : Words.Statement (.vrmaxLong o) := e64_words _ _ _ _ rfl rfl
theorem Words.vrminLong (o : VL) : Words.Statement (.vrminLong o) := e64_words _ _ _ _ rfl rfl
theorem Words.vscanLong (o : VL) : Words.Statement (.vscanLong o) := e64_words _ _ _ _ rfl rfl
theorem Words.pand (d a b : Nat) : Words.Statement (.pand d a b) := e32_words _ _ _ rfl
theorem Words.por (d a b : Nat) : Words.Statement (.por d a b) := e32_words _ _ _ rfl
theorem Words.pxor (d a b : Nat) : Words.Statement (.pxor d a b) := e32_words _ _ _ rfl
theorem Words.pnot (d a : Nat) : Words.Statement (.pnot d a) := e32_words _ _ _ rfl
theorem Words.pandn (d a b : Nat) : Words.Statement (.pandn d a b) := e32_words _ _ _ rfl
theorem Words.pcnt (lc s a : Nat) : Words.Statement (.pcnt lc s a) := e32_words _ _ _ rfl
theorem Words.pfirst (lc s a : Nat) : Words.Statement (.pfirst lc s a) := e32_words _ _ _ rfl
theorem Words.psetn (lc s d : Nat) : Words.Statement (.psetn lc s d) := e32_words _ _ _ rfl
theorem Words.pmov (d a : Nat) : Words.Statement (.pmov d a) := e32_words _ _ _ rfl
theorem Words.tzero (mk fb fa set : Nat) : Words.Statement (.tzero mk fb fa set) := e32_words _ _ _ rfl
theorem Words.tmma (nv seg tb ta set : Nat) : Words.Statement (.tmma nv seg tb ta set) := e32_words _ _ _ rfl
theorem Words.tmsr (nv seg tb ta set : Nat) : Words.Statement (.tmsr nv seg tb ta set) := e32_words _ _ _ rfl
theorem Words.tdrainTile (f bo r set : Nat) : Words.Statement (.tdrainTile f bo r set) := e32_words _ _ _ rfl
theorem Words.tdrainVector (f row r set : Nat) : Words.Statement (.tdrainVector f row r set) := e32_words _ _ _ rfl
theorem Words.tdrainMemory (f r set sc chn : Nat) (off : Int) : Words.Statement (.tdrainMemory f r set sc chn off) := e64_words _ _ _ _ rfl rfl
theorem Words.twr (cv bq f v row tr : Nat) : Words.Statement (.twr cv bq f v row tr) := e32_words _ _ _ rfl
theorem Words.trdr (cv bq f v row tr : Nat) : Words.Statement (.trdr cv bq f v row tr) := e32_words _ _ _ rfl
theorem Words.trdc (cv f v j tr : Nat) : Words.Statement (.trdc cv f v j tr) := e32_words _ _ _ rfl
theorem Words.tchk (sd v bo f tr : Nat) : Words.Statement (.tchk sd v bo f tr) := e32_words _ _ _ rfl
theorem Words.tgen (v bo f tr : Nat) : Words.Statement (.tgen v bo f tr) := e32_words _ _ _ rfl
theorem Words.safe (idx : Nat) : Words.Statement (.safe idx) := e32_words _ _ _ rfl
theorem Words.spawn (a b : Nat) : Words.Statement (.spawn a b) := e32_words _ _ _ rfl
theorem Words.join (idx : Nat) : Words.Statement (.join idx) := e32_words _ _ _ rfl
theorem Words.suspend (a idx : Nat) : Words.Statement (.suspend a idx) := e32_words _ _ _ rfl
theorem Words.yield (idx : Nat) : Words.Statement (.yield idx) := e32_words _ _ _ rfl
theorem Words.exit : Words.Statement (.exit) := e32_words _ _ _ rfl
theorem Words.fuse (a n : Nat) : Words.Statement (.fuse a n) := e32_words _ _ _ rfl
theorem Words.decpl : Words.Statement (.decpl) := e32_words _ _ _ rfl
theorem Words.rejn : Words.Statement (.rejn) := e32_words _ _ _ rfl
theorem Words.trap (code : Nat) : Words.Statement (.trap code) := e32_words _ _ _ rfl
theorem Words.tret (a : Nat) : Words.Statement (.tret a) := e32_words _ _ _ rfl
theorem Words.tretNext (a : Nat) : Words.Statement (.tretNext a) := e32_words _ _ _ rfl
theorem Words.ctlr (c d : Nat) : Words.Statement (.ctlr c d) := e32_words _ _ _ rfl
theorem Words.ctlw (c a : Nat) : Words.Statement (.ctlw c a) := e32_words _ _ _ rfl
theorem Words.injectArm (a : Nat) : Words.Statement (.injectArm a) := e32_words _ _ _ rfl
theorem Words.sbDescriptorWrite (n a : Nat) : Words.Statement (.sbDescriptorWrite n a) := e32_words _ _ _ rfl
theorem Words.getid (k d : Nat) : Words.Statement (.getid k d) := e32_words _ _ _ rfl
theorem Words.time (d : Nat) : Words.Statement (.time d) := e32_words _ _ _ rfl
theorem Words.hbeat (a : Nat) : Words.Statement (.hbeat a) := e32_words _ _ _ rfl
theorem Words.fmtset (f a : Nat) : Words.Statement (.fmtset f a) := e32_words _ _ _ rfl
theorem Words.brk (code : Nat) : Words.Statement (.brk code) := e32_words _ _ _ rfl
theorem Words.fence (sc : Nat) : Words.Statement (.fence sc) := e32_words _ _ _ rfl
theorem Words.bar (g : Nat) : Words.Statement (.bar g) := e32_words _ _ _ rfl
theorem Words.flset (f : Nat) : Words.Statement (.flset f) := e32_words _ _ _ rfl
theorem Words.flclr (f : Nat) : Words.Statement (.flclr f) := e32_words _ _ _ rfl
theorem Words.flwait (f v : Nat) : Words.Statement (.flwait f v) := e32_words _ _ _ rfl
theorem Words.sbacq (d sb : Nat) : Words.Statement (.sbacq d sb) := e32_words _ _ _ rfl
theorem Words.sbrel (sb : Nat) : Words.Statement (.sbrel sb) := e32_words _ _ _ rfl
theorem Words.cpost (ch a : Nat) : Words.Statement (.cpost ch a) := e32_words _ _ _ rfl
theorem Words.cwait (a b : Nat) : Words.Statement (.cwait a b) := e32_words _ _ _ rfl
theorem Words.ctest (f a b : Nat) : Words.Statement (.ctest f a b) := e32_words _ _ _ rfl
theorem Words.cpinv : Words.Statement (.cpinv) := e32_words _ _ _ rfl
theorem Words.cqry (ch d : Nat) : Words.Statement (.cqry ch d) := e32_words _ _ _ rfl
theorem Words.dcfg (a : Nat) : Words.Statement (.dcfg a) := e32_words _ _ _ rfl
theorem Words.vldx (land d : Nat) : Words.Statement (.vldx land d) := e32_words _ _ _ rfl
theorem Words.vldxWait (d : Nat) : Words.Statement (.vldxWait d) := e32_words _ _ _ rfl
theorem Words.coll (a : Nat) : Words.Statement (.coll a) := e32_words _ _ _ rfl
theorem Words.frel (chn b a d : Nat) : Words.Statement (.frel chn b a d) := e32_words _ _ _ rfl
theorem Words.fchq (chn a d : Nat) : Words.Statement (.fchq chn a d) := e32_words _ _ _ rfl
theorem Words.tpost (b a d : Nat) : Words.Statement (.tpost b a d) := e32_words _ _ _ rfl
theorem Words.tcancel (a d : Nat) : Words.Statement (.tcancel a d) := e32_words _ _ _ rfl
theorem Words.guardReissue : Words.Statement (.guardReissue) := fun _ h => none_words h
theorem Words.queueStallReissue : Words.Statement (.queueStallReissue) := fun _ h => none_words h
theorem Words.resultLanding (k : Nat) : Words.Statement (.resultLanding k) := fun _ h => none_words h
theorem Words.loadLanding (k : Nat) : Words.Statement (.loadLanding k) := fun _ h => none_words h
theorem Words.loadDataReturn (k : Nat) : Words.Statement (.loadDataReturn k) := fun _ h => none_words h
theorem Words.tableWalk (part va : Nat) : Words.Statement (.tableWalk part va) := fun _ h => none_words h
theorem Words.scratchPageMove (page : Nat) : Words.Statement (.scratchPageMove page) := fun _ h => none_words h
theorem Words.arrayExecute : Words.Statement (.arrayExecute) := fun _ h => none_words h
theorem Words.drainComparison : Words.Statement (.drainComparison) := fun _ h => none_words h
theorem Words.windowWrite (k : Nat) : Words.Statement (.windowWrite k) := fun _ h => none_words h
theorem Words.heldWindowWrite (k : Nat) : Words.Statement (.heldWindowWrite k) := fun _ h => none_words h
theorem Words.preemptionRequest (core : Nat) : Words.Statement (.preemptionRequest core) := fun _ h => none_words h
theorem Words.writeBack : Words.Statement (.writeBack) := fun _ h => none_words h
theorem Words.pickUp (core : Nat) : Words.Statement (.pickUp core) := fun _ h => none_words h
theorem Words.trapEntry (t : Trap) : Words.Statement (.trapEntry t) := fun _ h => none_words h
theorem Words.homeSliceAtomic (k : Nat) : Words.Statement (.homeSliceAtomic k) := fun _ h => none_words h
theorem Words.storePerform (k : Nat) : Words.Statement (.storePerform k) := fun _ h => none_words h
theorem Words.monitorReread (k : Nat) : Words.Statement (.monitorReread k) := fun _ h => none_words h
theorem Words.atomicReply (k : Nat) (reply : Option FabricMsg) : Words.Statement (.atomicReply k reply) := fun _ h => none_words h
theorem Words.atomicTimeout (k : Nat) : Words.Statement (.atomicTimeout k) := fun _ h => none_words h
theorem Words.combiningRequest (stage port : Nat) (req : CombReq) : Words.Statement (.combiningRequest stage port req) := fun _ h => none_words h
theorem Words.decombineReply (k : Nat) (old : Word) : Words.Statement (.decombineReply k old) := fun _ h => none_words h
theorem Words.watchdogCoreTimer (core : Nat) : Words.Statement (.watchdogCoreTimer core) := fun _ h => none_words h
theorem Words.watchdogHeartbeatTimer (part idx : Nat) : Words.Statement (.watchdogHeartbeatTimer part idx) := fun _ h => none_words h
theorem Words.budgetOverrun (part idx : Nat) : Words.Statement (.budgetOverrun part idx) := fun _ h => none_words h
theorem Words.recordRead (k : Nat) : Words.Statement (.recordRead k) := fun _ h => none_words h
theorem Words.recordStart (k : Nat) : Words.Statement (.recordStart k) := fun _ h => none_words h
theorem Words.chunkMove (k : Nat) : Words.Statement (.chunkMove k) := fun _ h => none_words h
theorem Words.recordComplete (k : Nat) : Words.Statement (.recordComplete k) := fun _ h => none_words h
theorem Words.slotWrite (k : Nat) : Words.Statement (.slotWrite k) := fun _ h => none_words h
theorem Words.decoderSourceRead : Words.Statement (.decoderSourceRead) := fun _ h => none_words h
theorem Words.headerParse : Words.Statement (.headerParse) := fun _ h => none_words h
theorem Words.blockDecode : Words.Statement (.blockDecode) := fun _ h => none_words h
theorem Words.crcCompare : Words.Statement (.crcCompare) := fun _ h => none_words h
theorem Words.cycleBoundCutoff : Words.Statement (.cycleBoundCutoff) := fun _ h => none_words h
theorem Words.decoderDestWrite : Words.Statement (.decoderDestWrite) := fun _ h => none_words h
theorem Words.postedWriteEgress (k : Nat) : Words.Statement (.postedWriteEgress k) := fun _ h => none_words h
theorem Words.write (m : FabricMsg) : Words.Statement (.write m) := fun _ h => none_words h
theorem Words.release (m : FabricMsg) : Words.Statement (.release m) := fun _ h => none_words h
theorem Words.releaseFlagWrite (k : Nat) : Words.Statement (.releaseFlagWrite k) := fun _ h => none_words h
theorem Words.accept (m : FabricMsg) : Words.Statement (.accept m) := fun _ h => none_words h
theorem Words.resend (m : FabricMsg) : Words.Statement (.resend m) := fun _ h => none_words h
theorem Words.releaseTimeout (k : Nat) : Words.Statement (.releaseTimeout k) := fun _ h => none_words h
theorem Words.sourceReleaseTimer (k : Nat) : Words.Statement (.sourceReleaseTimer k) := fun _ h => none_words h
theorem Words.atomic (m : FabricMsg) : Words.Statement (.atomic m) := fun _ h => none_words h
theorem Words.read (m : FabricMsg) : Words.Statement (.read m) := fun _ h => none_words h
theorem Words.readReply (m : FabricMsg) : Words.Statement (.readReply m) := fun _ h => none_words h
theorem Words.readRetry (k : Nat) : Words.Statement (.readRetry k) := fun _ h => none_words h
theorem Words.keyRotation (station : Nat) (key : Nat) : Words.Statement (.keyRotation station key) := fun _ h => none_words h
theorem Words.previousKeyDrop (station : Nat) : Words.Statement (.previousKeyDrop station) := fun _ h => none_words h
theorem Words.collectiveCommandRead (k : Nat) : Words.Statement (.collectiveCommandRead k) := fun _ h => none_words h
theorem Words.blockIssue (k : Nat) : Words.Statement (.blockIssue k) := fun _ h => none_words h
theorem Words.collPacket (m : FabricMsg) : Words.Statement (.collPacket m) := fun _ h => none_words h
theorem Words.collectiveTimeout (k : Nat) : Words.Statement (.collectiveTimeout k) := fun _ h => none_words h
theorem Words.taskTake (part q : Nat) : Words.Statement (.taskTake part q) := fun _ h => none_words h
theorem Words.taskDispatch (part idx : Nat) : Words.Statement (.taskDispatch part idx) := fun _ h => none_words h
theorem Words.groupHold (part idx : Nat) : Words.Statement (.groupHold part idx) := fun _ h => none_words h
theorem Words.taskComplete (part idx : Nat) : Words.Statement (.taskComplete part idx) := fun _ h => none_words h
theorem Words.taskRerun (part idx : Nat) : Words.Statement (.taskRerun part idx) := fun _ h => none_words h
theorem Words.preload (core : Nat) : Words.Statement (.preload core) := fun _ h => none_words h
theorem Words.agateFrameWrite (k : Nat) : Words.Statement (.agateFrameWrite k) := fun _ h => none_words h
theorem Words.rdmaWrite (h : HostAccess) (addr : Nat) (data : List Byte) : Words.Statement (.rdmaWrite h addr data) := fun _ h => none_words h
theorem Words.rdmaRead (h : HostAccess) (addr len : Nat) : Words.Statement (.rdmaRead h addr len) := fun _ h => none_words h
theorem Words.fetchAndAdd (h : HostAccess) (addr : Nat) (v : Word) : Words.Statement (.fetchAndAdd h addr v) := fun _ h => none_words h
theorem Words.createPartition (part : Nat) (q : Quotas) : Words.Statement (.createPartition part q) := fun _ h => none_words h
theorem Words.destroyPartition (part : Nat) : Words.Statement (.destroyPartition part) := fun _ h => none_words h
theorem Words.setGroup (part g kind : Nat) (members : Nat) : Words.Statement (.setGroup part g kind members) := fun _ h => none_words h
theorem Words.createQueue (part q : Nat) (attr : QueueAttr) : Words.Statement (.createQueue part q attr) := fun _ h => none_words h
theorem Words.queueReset (part q : Nat) : Words.Statement (.queueReset part q) := fun _ h => none_words h
theorem Words.queueReopen (part q : Nat) : Words.Statement (.queueReopen part q) := fun _ h => none_words h
theorem Words.closeQueue (part q : Nat) : Words.Statement (.closeQueue part q) := fun _ h => none_words h
theorem Words.queueClosed (part q : Nat) : Words.Statement (.queueClosed part q) := fun _ h => none_words h
theorem Words.swapOut (part : Nat) : Words.Statement (.swapOut part) := fun _ h => none_words h
theorem Words.swapIn (part : Nat) : Words.Statement (.swapIn part) := fun _ h => none_words h
theorem Words.setCtl (part c : Nat) (v : Word) : Words.Statement (.setCtl part c v) := fun _ h => none_words h
theorem Words.resume (part rec : Nat) : Words.Statement (.resume part rec) := fun _ h => none_words h
theorem Words.deliver (part rec : Nat) : Words.Statement (.deliver part rec) := fun _ h => none_words h
theorem Words.openPair (part : Nat) (o : PairOpen) : Words.Statement (.openPair part o) := fun _ h => none_words h
theorem Words.closePair (part : Nat) (source : Bool) (peer chn : Nat) : Words.Statement (.closePair part source peer chn) := fun _ h => none_words h
theorem Words.openComm (part comm : Nat) : Words.Statement (.openComm part comm) := fun _ h => none_words h
theorem Words.closeComm (comm : Nat) : Words.Statement (.closeComm comm) := fun _ h => none_words h
theorem Words.setReach (dev : Nat) (v : Bool) : Words.Statement (.setReach dev v) := fun _ h => none_words h
theorem Words.quiesce (part : Nat) (dest key : Nat) : Words.Statement (.quiesce part dest key) := fun _ h => none_words h
theorem Words.thaw (part : Nat) : Words.Statement (.thaw part) := fun _ h => none_words h
theorem Words.restore (part addr len : Nat) (shift reqsig : Bool) : Words.Statement (.restore part addr len shift reqsig) := fun _ h => none_words h
theorem Words.setPowerLimit (watts : Nat) : Words.Statement (.setPowerLimit watts) := fun _ h => none_words h
theorem Words.attest (nonce : List Byte) : Words.Statement (.attest nonce) := fun _ h => none_words h
theorem Words.setTrust (install : Bool) (key : List Byte) : Words.Statement (.setTrust install key) := fun _ h => none_words h
theorem Words.shootdown (part va pages : Nat) (whole : Bool) : Words.Statement (.shootdown part va pages whole) := fun _ h => none_words h
theorem Words.collapse (tag va frame requester : Nat) : Words.Statement (.collapse tag va frame requester) := fun _ h => none_words h
theorem Words.invalidate (tag va owner frame home : Nat) : Words.Statement (.invalidate tag va owner frame home) := fun _ h => none_words h
theorem Words.grant (tag va : Nat) : Words.Statement (.grant tag va) := fun _ h => none_words h
theorem Words.owned (tag va : Nat) : Words.Statement (.owned tag va) := fun _ h => none_words h
theorem Words.nopart (tag va : Nat) (req : AgentReq) : Words.Statement (.nopart tag va req) := fun _ h => none_words h
theorem Words.migrationThreshold (part va : Nat) : Words.Statement (.migrationThreshold part va) := fun _ h => none_words h
theorem Words.migrationRequest (tag va requester : Nat) (note : MigrationNote) : Words.Statement (.migrationRequest tag va requester note) := fun _ h => none_words h
theorem Words.errorEvent (e : ErrorEvent) : Words.Statement (.errorEvent e) := fun _ h => none_words h
theorem Words.unitRetirement (u : HwUnit) : Words.Statement (.unitRetirement u) := fun _ h => none_words h
theorem Words.eventWindowEnd : Words.Statement (.eventWindowEnd) := fun _ h => none_words h
theorem Words.channelRetirement (ch : Nat) : Words.Statement (.channelRetirement ch) := fun _ h => none_words h
theorem Words.powerMeasurement (watts temp : Nat) : Words.Statement (.powerMeasurement watts temp) := fun _ h => none_words h
theorem Words.railLoss : Words.Statement (.railLoss) := fun _ h => none_words h
theorem Words.bringUp (fw : Firmware) (devId vlan : Nat) : Words.Statement (.bringUp fw devId vlan) := fun _ h => none_words h
theorem Words.scratchPageRefill (page : Nat) : Words.Statement (.scratchPageRefill page) := fun _ h => none_words h
theorem Words.tpostCopyComplete : Words.Statement (.tpostCopyComplete) := fun _ h => none_words h
theorem Words.collapseAcknowledgement (tag va dev : Nat) : Words.Statement (.collapseAcknowledgement tag va dev) := fun _ h => none_words h
theorem Words.migrationRewrite (tag va : Nat) (final : Bool) (sender : Nat) (place : PagePlace) : Words.Statement (.migrationRewrite tag va final sender place) := fun _ h => none_words h
theorem Words.invalidRequest (code : Nat) : Words.Statement (.invalidRequest code) := fun _ h => none_words h

end Sys2Proof.Laws
end

