-- ==== Sys2Proof/Laws/State.lean ====
section
/-! SUPPORT. What the updates of the state and of a core change, field by field, so that no proof unfolds a record update. -/

namespace Sys2Proof.Machine

variable (s : State) (c : Core)

/-! `State.onCore`: the acting core alone -/

@[simp] theorem State.onCore_core (g : Core → Core) : (s.onCore g).core = g s.core := rfl
@[simp] theorem State.onCore_others (g : Core → Core) : (s.onCore g).others = s.others := rfl
@[simp] theorem State.onCore_mem (g : Core → Core) : (s.onCore g).mem = s.mem := rfl
@[simp] theorem State.onCore_pubs (g : Core → Core) : (s.onCore g).pubs = s.pubs := rfl
@[simp] theorem State.onCore_atoms (g : Core → Core) : (s.onCore g).atoms = s.atoms := rfl
@[simp] theorem State.onCore_nextAtom (g : Core → Core) : (s.onCore g).nextAtom = s.nextAtom := rfl
@[simp] theorem State.onCore_combs (g : Core → Core) : (s.onCore g).combs = s.combs := rfl
@[simp] theorem State.onCore_monitors (g : Core → Core) : (s.onCore g).monitors = s.monitors := rfl
@[simp] theorem State.onCore_pages (g : Core → Core) : (s.onCore g).pages = s.pages := rfl
@[simp] theorem State.onCore_saved (g : Core → Core) : (s.onCore g).saved = s.saved := rfl
@[simp] theorem State.onCore_parts (g : Core → Core) : (s.onCore g).parts = s.parts := rfl
@[simp] theorem State.onCore_chans (g : Core → Core) : (s.onCore g).chans = s.chans := rfl
@[simp] theorem State.onCore_served (g : Core → Core) : (s.onCore g).served = s.served := rfl
@[simp] theorem State.onCore_rings (g : Core → Core) : (s.onCore g).rings = s.rings := rfl
@[simp] theorem State.onCore_windows (g : Core → Core) : (s.onCore g).windows = s.windows := rfl
@[simp] theorem State.onCore_params (g : Core → Core) : (s.onCore g).params = s.params := rfl
@[simp] theorem State.onCore_colls (g : Core → Core) : (s.onCore g).colls = s.colls := rfl
@[simp] theorem State.onCore_nextCid (g : Core → Core) : (s.onCore g).nextCid = s.nextCid := rfl
@[simp] theorem State.onCore_transit (g : Core → Core) : (s.onCore g).transit = s.transit := rfl
@[simp] theorem State.onCore_issuing (g : Core → Core) : (s.onCore g).issuing = s.issuing := rfl
@[simp] theorem State.onCore_comms (g : Core → Core) : (s.onCore g).comms = s.comms := rfl
@[simp] theorem State.onCore_egress (g : Core → Core) : (s.onCore g).egress = s.egress := rfl
@[simp] theorem State.onCore_pairs (g : Core → Core) : (s.onCore g).pairs = s.pairs := rfl
@[simp] theorem State.onCore_slots (g : Core → Core) : (s.onCore g).slots = s.slots := rfl
@[simp] theorem State.onCore_reads (g : Core → Core) : (s.onCore g).reads = s.reads := rfl
@[simp] theorem State.onCore_outbox (g : Core → Core) : (s.onCore g).outbox = s.outbox := rfl
@[simp] theorem State.onCore_notices (g : Core → Core) : (s.onCore g).notices = s.notices := rfl
@[simp] theorem State.onCore_reach (g : Core → Core) : (s.onCore g).reach = s.reach := rfl
@[simp] theorem State.onCore_relTimeout (g : Core → Core) : (s.onCore g).relTimeout = s.relTimeout := rfl
@[simp] theorem State.onCore_settings (g : Core → Core) : (s.onCore g).settings = s.settings := rfl
@[simp] theorem State.onCore_mgmtVlan (g : Core → Core) : (s.onCore g).mgmtVlan = s.mgmtVlan := rfl
@[simp] theorem State.onCore_staged (g : Core → Core) : (s.onCore g).staged = s.staged := rfl
@[simp] theorem State.onCore_keys (g : Core → Core) : (s.onCore g).keys = s.keys := rfl
@[simp] theorem State.onCore_fabDrop (g : Core → Core) : (s.onCore g).fabDrop = s.fabDrop := rfl
@[simp] theorem State.onCore_collDrop (g : Core → Core) : (s.onCore g).collDrop = s.collDrop := rfl
@[simp] theorem State.onCore_collBusy (g : Core → Core) : (s.onCore g).collBusy = s.collBusy := rfl
@[simp] theorem State.onCore_viol (g : Core → Core) : (s.onCore g).viol = s.viol := rfl
@[simp] theorem State.onCore_blockMeta (g : Core → Core) : (s.onCore g).blockMeta = s.blockMeta := rfl
@[simp] theorem State.onCore_compress (g : Core → Core) : (s.onCore g).compress = s.compress := rfl
@[simp] theorem State.onCore_access (g : Core → Core) : (s.onCore g).access = s.access := rfl
@[simp] theorem State.onCore_thresholds (g : Core → Core) : (s.onCore g).thresholds = s.thresholds := rfl
@[simp] theorem State.onCore_dieTlb (g : Core → Core) : (s.onCore g).dieTlb = s.dieTlb := rfl
@[simp] theorem State.onCore_walkCache (g : Core → Core) : (s.onCore g).walkCache = s.walkCache := rfl
@[simp] theorem State.onCore_agate (g : Core → Core) : (s.onCore g).agate = s.agate := rfl
@[simp] theorem State.onCore_events (g : Core → Core) : (s.onCore g).events = s.events := rfl
@[simp] theorem State.onCore_window (g : Core → Core) : (s.onCore g).window = s.window := rfl
@[simp] theorem State.onCore_retired (g : Core → Core) : (s.onCore g).retired = s.retired := rfl
@[simp] theorem State.onCore_doomed (g : Core → Core) : (s.onCore g).doomed = s.doomed := rfl
@[simp] theorem State.onCore_limits (g : Core → Core) : (s.onCore g).limits = s.limits := rfl
@[simp] theorem State.onCore_poisoned (g : Core → Core) : (s.onCore g).poisoned = s.poisoned := rfl
@[simp] theorem State.onCore_renewed (g : Core → Core) : (s.onCore g).renewed = s.renewed := rfl
@[simp] theorem State.onCore_corr (g : Core → Core) : (s.onCore g).corr = s.corr := rfl
@[simp] theorem State.onCore_cc (g : Core → Core) : (s.onCore g).cc = s.cc := rfl
@[simp] theorem State.onCore_now (g : Core → Core) : (s.onCore g).now = s.now := rfl
@[simp] theorem State.onCore_devId (g : Core → Core) : (s.onCore g).devId = s.devId := rfl
@[simp] theorem State.onCore_rails (g : Core → Core) : (s.onCore g).rails = s.rails := rfl
@[simp] theorem State.onCore_boot (g : Core → Core) : (s.onCore g).boot = s.boot := rfl
@[simp] theorem State.onCore_powerLimit (g : Core → Core) : (s.onCore g).powerLimit = s.powerLimit := rfl
@[simp] theorem State.onCore_power (g : Core → Core) : (s.onCore g).power = s.power := rfl
@[simp] theorem State.onCore_temp (g : Core → Core) : (s.onCore g).temp = s.temp := rfl
@[simp] theorem State.onCore_cclk (g : Core → Core) : (s.onCore g).cclk = s.cclk := rfl
@[simp] theorem State.onCore_firmware (g : Core → Core) : (s.onCore g).firmware = s.firmware := rfl
@[simp] theorem State.onCore_trusted (g : Core → Core) : (s.onCore g).trusted = s.trusted := rfl
@[simp] theorem State.onCore_dumps (g : Core → Core) : (s.onCore g).dumps = s.dumps := rfl
@[simp] theorem State.onCore_cutting (g : Core → Core) : (s.onCore g).cutting = s.cutting := rfl
@[simp] theorem State.onCore_retiring (g : Core → Core) : (s.onCore g).retiring = s.retiring := rfl
@[simp] theorem State.onCore_trapTaken (g : Core → Core) : (s.onCore g).trapTaken = s.trapTaken := rfl
@[simp] theorem State.onCore_fresh (g : Core → Core) : (s.onCore g).fresh = s.fresh := rfl
@[simp] theorem State.onCore_agenda (g : Core → Core) : (s.onCore g).agenda = s.agenda := rfl
@[simp] theorem State.onCore_turn (g : Core → Core) : (s.onCore g).turn = s.turn := rfl
@[simp] theorem State.onCore_pace (g : Core → Core) : (s.onCore g).pace = s.pace := rfl

/-! `State.onCores`: every core -/

@[simp] theorem State.onCores_core (g : Core → Core) : (s.onCores g).core = g s.core := rfl
@[simp] theorem State.onCores_others (g : Core → Core) : (s.onCores g).others = s.others.map fun x => (x.1, g x.2) := rfl
@[simp] theorem State.onCores_mem (g : Core → Core) : (s.onCores g).mem = s.mem := rfl
@[simp] theorem State.onCores_pubs (g : Core → Core) : (s.onCores g).pubs = s.pubs := rfl
@[simp] theorem State.onCores_atoms (g : Core → Core) : (s.onCores g).atoms = s.atoms := rfl
@[simp] theorem State.onCores_nextAtom (g : Core → Core) : (s.onCores g).nextAtom = s.nextAtom := rfl
@[simp] theorem State.onCores_combs (g : Core → Core) : (s.onCores g).combs = s.combs := rfl
@[simp] theorem State.onCores_monitors (g : Core → Core) : (s.onCores g).monitors = s.monitors := rfl
@[simp] theorem State.onCores_pages (g : Core → Core) : (s.onCores g).pages = s.pages := rfl
@[simp] theorem State.onCores_saved (g : Core → Core) : (s.onCores g).saved = s.saved := rfl
@[simp] theorem State.onCores_parts (g : Core → Core) : (s.onCores g).parts = s.parts := rfl
@[simp] theorem State.onCores_chans (g : Core → Core) : (s.onCores g).chans = s.chans := rfl
@[simp] theorem State.onCores_served (g : Core → Core) : (s.onCores g).served = s.served := rfl
@[simp] theorem State.onCores_rings (g : Core → Core) : (s.onCores g).rings = s.rings := rfl
@[simp] theorem State.onCores_windows (g : Core → Core) : (s.onCores g).windows = s.windows := rfl
@[simp] theorem State.onCores_params (g : Core → Core) : (s.onCores g).params = s.params := rfl
@[simp] theorem State.onCores_colls (g : Core → Core) : (s.onCores g).colls = s.colls := rfl
@[simp] theorem State.onCores_nextCid (g : Core → Core) : (s.onCores g).nextCid = s.nextCid := rfl
@[simp] theorem State.onCores_transit (g : Core → Core) : (s.onCores g).transit = s.transit := rfl
@[simp] theorem State.onCores_issuing (g : Core → Core) : (s.onCores g).issuing = s.issuing := rfl
@[simp] theorem State.onCores_comms (g : Core → Core) : (s.onCores g).comms = s.comms := rfl
@[simp] theorem State.onCores_egress (g : Core → Core) : (s.onCores g).egress = s.egress := rfl
@[simp] theorem State.onCores_pairs (g : Core → Core) : (s.onCores g).pairs = s.pairs := rfl
@[simp] theorem State.onCores_slots (g : Core → Core) : (s.onCores g).slots = s.slots := rfl
@[simp] theorem State.onCores_reads (g : Core → Core) : (s.onCores g).reads = s.reads := rfl
@[simp] theorem State.onCores_outbox (g : Core → Core) : (s.onCores g).outbox = s.outbox := rfl
@[simp] theorem State.onCores_notices (g : Core → Core) : (s.onCores g).notices = s.notices := rfl
@[simp] theorem State.onCores_reach (g : Core → Core) : (s.onCores g).reach = s.reach := rfl
@[simp] theorem State.onCores_relTimeout (g : Core → Core) : (s.onCores g).relTimeout = s.relTimeout := rfl
@[simp] theorem State.onCores_settings (g : Core → Core) : (s.onCores g).settings = s.settings := rfl
@[simp] theorem State.onCores_mgmtVlan (g : Core → Core) : (s.onCores g).mgmtVlan = s.mgmtVlan := rfl
@[simp] theorem State.onCores_staged (g : Core → Core) : (s.onCores g).staged = s.staged := rfl
@[simp] theorem State.onCores_keys (g : Core → Core) : (s.onCores g).keys = s.keys := rfl
@[simp] theorem State.onCores_fabDrop (g : Core → Core) : (s.onCores g).fabDrop = s.fabDrop := rfl
@[simp] theorem State.onCores_collDrop (g : Core → Core) : (s.onCores g).collDrop = s.collDrop := rfl
@[simp] theorem State.onCores_collBusy (g : Core → Core) : (s.onCores g).collBusy = s.collBusy := rfl
@[simp] theorem State.onCores_viol (g : Core → Core) : (s.onCores g).viol = s.viol := rfl
@[simp] theorem State.onCores_blockMeta (g : Core → Core) : (s.onCores g).blockMeta = s.blockMeta := rfl
@[simp] theorem State.onCores_compress (g : Core → Core) : (s.onCores g).compress = s.compress := rfl
@[simp] theorem State.onCores_access (g : Core → Core) : (s.onCores g).access = s.access := rfl
@[simp] theorem State.onCores_thresholds (g : Core → Core) : (s.onCores g).thresholds = s.thresholds := rfl
@[simp] theorem State.onCores_dieTlb (g : Core → Core) : (s.onCores g).dieTlb = s.dieTlb := rfl
@[simp] theorem State.onCores_walkCache (g : Core → Core) : (s.onCores g).walkCache = s.walkCache := rfl
@[simp] theorem State.onCores_agate (g : Core → Core) : (s.onCores g).agate = s.agate := rfl
@[simp] theorem State.onCores_events (g : Core → Core) : (s.onCores g).events = s.events := rfl
@[simp] theorem State.onCores_window (g : Core → Core) : (s.onCores g).window = s.window := rfl
@[simp] theorem State.onCores_retired (g : Core → Core) : (s.onCores g).retired = s.retired := rfl
@[simp] theorem State.onCores_doomed (g : Core → Core) : (s.onCores g).doomed = s.doomed := rfl
@[simp] theorem State.onCores_limits (g : Core → Core) : (s.onCores g).limits = s.limits := rfl
@[simp] theorem State.onCores_poisoned (g : Core → Core) : (s.onCores g).poisoned = s.poisoned := rfl
@[simp] theorem State.onCores_renewed (g : Core → Core) : (s.onCores g).renewed = s.renewed := rfl
@[simp] theorem State.onCores_corr (g : Core → Core) : (s.onCores g).corr = s.corr := rfl
@[simp] theorem State.onCores_cc (g : Core → Core) : (s.onCores g).cc = s.cc := rfl
@[simp] theorem State.onCores_now (g : Core → Core) : (s.onCores g).now = s.now := rfl
@[simp] theorem State.onCores_devId (g : Core → Core) : (s.onCores g).devId = s.devId := rfl
@[simp] theorem State.onCores_rails (g : Core → Core) : (s.onCores g).rails = s.rails := rfl
@[simp] theorem State.onCores_boot (g : Core → Core) : (s.onCores g).boot = s.boot := rfl
@[simp] theorem State.onCores_powerLimit (g : Core → Core) : (s.onCores g).powerLimit = s.powerLimit := rfl
@[simp] theorem State.onCores_power (g : Core → Core) : (s.onCores g).power = s.power := rfl
@[simp] theorem State.onCores_temp (g : Core → Core) : (s.onCores g).temp = s.temp := rfl
@[simp] theorem State.onCores_cclk (g : Core → Core) : (s.onCores g).cclk = s.cclk := rfl
@[simp] theorem State.onCores_firmware (g : Core → Core) : (s.onCores g).firmware = s.firmware := rfl
@[simp] theorem State.onCores_trusted (g : Core → Core) : (s.onCores g).trusted = s.trusted := rfl
@[simp] theorem State.onCores_dumps (g : Core → Core) : (s.onCores g).dumps = s.dumps := rfl
@[simp] theorem State.onCores_cutting (g : Core → Core) : (s.onCores g).cutting = s.cutting := rfl
@[simp] theorem State.onCores_retiring (g : Core → Core) : (s.onCores g).retiring = s.retiring := rfl
@[simp] theorem State.onCores_trapTaken (g : Core → Core) : (s.onCores g).trapTaken = s.trapTaken := rfl
@[simp] theorem State.onCores_fresh (g : Core → Core) : (s.onCores g).fresh = s.fresh := rfl
@[simp] theorem State.onCores_agenda (g : Core → Core) : (s.onCores g).agenda = s.agenda := rfl
@[simp] theorem State.onCores_turn (g : Core → Core) : (s.onCores g).turn = s.turn := rfl
@[simp] theorem State.onCores_pace (g : Core → Core) : (s.onCores g).pace = s.pace := rfl

/-! `State.onPart`: one partition -/

@[simp] theorem State.onPart_core (n : Nat) (g : Partition → Partition) : (s.onPart n g).core = s.core := rfl
@[simp] theorem State.onPart_others (n : Nat) (g : Partition → Partition) : (s.onPart n g).others = s.others := rfl
@[simp] theorem State.onPart_mem (n : Nat) (g : Partition → Partition) : (s.onPart n g).mem = s.mem := rfl
@[simp] theorem State.onPart_pubs (n : Nat) (g : Partition → Partition) : (s.onPart n g).pubs = s.pubs := rfl
@[simp] theorem State.onPart_atoms (n : Nat) (g : Partition → Partition) : (s.onPart n g).atoms = s.atoms := rfl
@[simp] theorem State.onPart_nextAtom (n : Nat) (g : Partition → Partition) : (s.onPart n g).nextAtom = s.nextAtom := rfl
@[simp] theorem State.onPart_combs (n : Nat) (g : Partition → Partition) : (s.onPart n g).combs = s.combs := rfl
@[simp] theorem State.onPart_monitors (n : Nat) (g : Partition → Partition) : (s.onPart n g).monitors = s.monitors := rfl
@[simp] theorem State.onPart_pages (n : Nat) (g : Partition → Partition) : (s.onPart n g).pages = s.pages := rfl
@[simp] theorem State.onPart_saved (n : Nat) (g : Partition → Partition) : (s.onPart n g).saved = s.saved := rfl
@[simp] theorem State.onPart_parts (n : Nat) (g : Partition → Partition) : (s.onPart n g).parts = s.parts.map fun p => if p.no = n then g p else p := rfl
@[simp] theorem State.onPart_chans (n : Nat) (g : Partition → Partition) : (s.onPart n g).chans = s.chans := rfl
@[simp] theorem State.onPart_served (n : Nat) (g : Partition → Partition) : (s.onPart n g).served = s.served := rfl
@[simp] theorem State.onPart_rings (n : Nat) (g : Partition → Partition) : (s.onPart n g).rings = s.rings := rfl
@[simp] theorem State.onPart_windows (n : Nat) (g : Partition → Partition) : (s.onPart n g).windows = s.windows := rfl
@[simp] theorem State.onPart_params (n : Nat) (g : Partition → Partition) : (s.onPart n g).params = s.params := rfl
@[simp] theorem State.onPart_colls (n : Nat) (g : Partition → Partition) : (s.onPart n g).colls = s.colls := rfl
@[simp] theorem State.onPart_nextCid (n : Nat) (g : Partition → Partition) : (s.onPart n g).nextCid = s.nextCid := rfl
@[simp] theorem State.onPart_transit (n : Nat) (g : Partition → Partition) : (s.onPart n g).transit = s.transit := rfl
@[simp] theorem State.onPart_issuing (n : Nat) (g : Partition → Partition) : (s.onPart n g).issuing = s.issuing := rfl
@[simp] theorem State.onPart_comms (n : Nat) (g : Partition → Partition) : (s.onPart n g).comms = s.comms := rfl
@[simp] theorem State.onPart_egress (n : Nat) (g : Partition → Partition) : (s.onPart n g).egress = s.egress := rfl
@[simp] theorem State.onPart_pairs (n : Nat) (g : Partition → Partition) : (s.onPart n g).pairs = s.pairs := rfl
@[simp] theorem State.onPart_slots (n : Nat) (g : Partition → Partition) : (s.onPart n g).slots = s.slots := rfl
@[simp] theorem State.onPart_reads (n : Nat) (g : Partition → Partition) : (s.onPart n g).reads = s.reads := rfl
@[simp] theorem State.onPart_outbox (n : Nat) (g : Partition → Partition) : (s.onPart n g).outbox = s.outbox := rfl
@[simp] theorem State.onPart_notices (n : Nat) (g : Partition → Partition) : (s.onPart n g).notices = s.notices := rfl
@[simp] theorem State.onPart_reach (n : Nat) (g : Partition → Partition) : (s.onPart n g).reach = s.reach := rfl
@[simp] theorem State.onPart_relTimeout (n : Nat) (g : Partition → Partition) : (s.onPart n g).relTimeout = s.relTimeout := rfl
@[simp] theorem State.onPart_settings (n : Nat) (g : Partition → Partition) : (s.onPart n g).settings = s.settings := rfl
@[simp] theorem State.onPart_mgmtVlan (n : Nat) (g : Partition → Partition) : (s.onPart n g).mgmtVlan = s.mgmtVlan := rfl
@[simp] theorem State.onPart_staged (n : Nat) (g : Partition → Partition) : (s.onPart n g).staged = s.staged := rfl
@[simp] theorem State.onPart_keys (n : Nat) (g : Partition → Partition) : (s.onPart n g).keys = s.keys := rfl
@[simp] theorem State.onPart_fabDrop (n : Nat) (g : Partition → Partition) : (s.onPart n g).fabDrop = s.fabDrop := rfl
@[simp] theorem State.onPart_collDrop (n : Nat) (g : Partition → Partition) : (s.onPart n g).collDrop = s.collDrop := rfl
@[simp] theorem State.onPart_collBusy (n : Nat) (g : Partition → Partition) : (s.onPart n g).collBusy = s.collBusy := rfl
@[simp] theorem State.onPart_viol (n : Nat) (g : Partition → Partition) : (s.onPart n g).viol = s.viol := rfl
@[simp] theorem State.onPart_blockMeta (n : Nat) (g : Partition → Partition) : (s.onPart n g).blockMeta = s.blockMeta := rfl
@[simp] theorem State.onPart_compress (n : Nat) (g : Partition → Partition) : (s.onPart n g).compress = s.compress := rfl
@[simp] theorem State.onPart_access (n : Nat) (g : Partition → Partition) : (s.onPart n g).access = s.access := rfl
@[simp] theorem State.onPart_thresholds (n : Nat) (g : Partition → Partition) : (s.onPart n g).thresholds = s.thresholds := rfl
@[simp] theorem State.onPart_dieTlb (n : Nat) (g : Partition → Partition) : (s.onPart n g).dieTlb = s.dieTlb := rfl
@[simp] theorem State.onPart_walkCache (n : Nat) (g : Partition → Partition) : (s.onPart n g).walkCache = s.walkCache := rfl
@[simp] theorem State.onPart_agate (n : Nat) (g : Partition → Partition) : (s.onPart n g).agate = s.agate := rfl
@[simp] theorem State.onPart_events (n : Nat) (g : Partition → Partition) : (s.onPart n g).events = s.events := rfl
@[simp] theorem State.onPart_window (n : Nat) (g : Partition → Partition) : (s.onPart n g).window = s.window := rfl
@[simp] theorem State.onPart_retired (n : Nat) (g : Partition → Partition) : (s.onPart n g).retired = s.retired := rfl
@[simp] theorem State.onPart_doomed (n : Nat) (g : Partition → Partition) : (s.onPart n g).doomed = s.doomed := rfl
@[simp] theorem State.onPart_limits (n : Nat) (g : Partition → Partition) : (s.onPart n g).limits = s.limits := rfl
@[simp] theorem State.onPart_poisoned (n : Nat) (g : Partition → Partition) : (s.onPart n g).poisoned = s.poisoned := rfl
@[simp] theorem State.onPart_renewed (n : Nat) (g : Partition → Partition) : (s.onPart n g).renewed = s.renewed := rfl
@[simp] theorem State.onPart_corr (n : Nat) (g : Partition → Partition) : (s.onPart n g).corr = s.corr := rfl
@[simp] theorem State.onPart_cc (n : Nat) (g : Partition → Partition) : (s.onPart n g).cc = s.cc := rfl
@[simp] theorem State.onPart_now (n : Nat) (g : Partition → Partition) : (s.onPart n g).now = s.now := rfl
@[simp] theorem State.onPart_devId (n : Nat) (g : Partition → Partition) : (s.onPart n g).devId = s.devId := rfl
@[simp] theorem State.onPart_rails (n : Nat) (g : Partition → Partition) : (s.onPart n g).rails = s.rails := rfl
@[simp] theorem State.onPart_boot (n : Nat) (g : Partition → Partition) : (s.onPart n g).boot = s.boot := rfl
@[simp] theorem State.onPart_powerLimit (n : Nat) (g : Partition → Partition) : (s.onPart n g).powerLimit = s.powerLimit := rfl
@[simp] theorem State.onPart_power (n : Nat) (g : Partition → Partition) : (s.onPart n g).power = s.power := rfl
@[simp] theorem State.onPart_temp (n : Nat) (g : Partition → Partition) : (s.onPart n g).temp = s.temp := rfl
@[simp] theorem State.onPart_cclk (n : Nat) (g : Partition → Partition) : (s.onPart n g).cclk = s.cclk := rfl
@[simp] theorem State.onPart_firmware (n : Nat) (g : Partition → Partition) : (s.onPart n g).firmware = s.firmware := rfl
@[simp] theorem State.onPart_trusted (n : Nat) (g : Partition → Partition) : (s.onPart n g).trusted = s.trusted := rfl
@[simp] theorem State.onPart_dumps (n : Nat) (g : Partition → Partition) : (s.onPart n g).dumps = s.dumps := rfl
@[simp] theorem State.onPart_cutting (n : Nat) (g : Partition → Partition) : (s.onPart n g).cutting = s.cutting := rfl
@[simp] theorem State.onPart_retiring (n : Nat) (g : Partition → Partition) : (s.onPart n g).retiring = s.retiring := rfl
@[simp] theorem State.onPart_trapTaken (n : Nat) (g : Partition → Partition) : (s.onPart n g).trapTaken = s.trapTaken := rfl
@[simp] theorem State.onPart_fresh (n : Nat) (g : Partition → Partition) : (s.onPart n g).fresh = s.fresh := rfl
@[simp] theorem State.onPart_agenda (n : Nat) (g : Partition → Partition) : (s.onPart n g).agenda = s.agenda := rfl
@[simp] theorem State.onPart_turn (n : Nat) (g : Partition → Partition) : (s.onPart n g).turn = s.turn := rfl
@[simp] theorem State.onPart_pace (n : Nat) (g : Partition → Partition) : (s.onPart n g).pace = s.pace := rfl

/-! `State.notify`: what the host is told -/

@[simp] theorem State.notify_core (x : Notice) : (s.notify x).core = s.core := rfl
@[simp] theorem State.notify_others (x : Notice) : (s.notify x).others = s.others := rfl
@[simp] theorem State.notify_mem (x : Notice) : (s.notify x).mem = s.mem := rfl
@[simp] theorem State.notify_pubs (x : Notice) : (s.notify x).pubs = s.pubs := rfl
@[simp] theorem State.notify_atoms (x : Notice) : (s.notify x).atoms = s.atoms := rfl
@[simp] theorem State.notify_nextAtom (x : Notice) : (s.notify x).nextAtom = s.nextAtom := rfl
@[simp] theorem State.notify_combs (x : Notice) : (s.notify x).combs = s.combs := rfl
@[simp] theorem State.notify_monitors (x : Notice) : (s.notify x).monitors = s.monitors := rfl
@[simp] theorem State.notify_pages (x : Notice) : (s.notify x).pages = s.pages := rfl
@[simp] theorem State.notify_saved (x : Notice) : (s.notify x).saved = s.saved := rfl
@[simp] theorem State.notify_parts (x : Notice) : (s.notify x).parts = s.parts := rfl
@[simp] theorem State.notify_chans (x : Notice) : (s.notify x).chans = s.chans := rfl
@[simp] theorem State.notify_served (x : Notice) : (s.notify x).served = s.served := rfl
@[simp] theorem State.notify_rings (x : Notice) : (s.notify x).rings = s.rings := rfl
@[simp] theorem State.notify_windows (x : Notice) : (s.notify x).windows = s.windows := rfl
@[simp] theorem State.notify_params (x : Notice) : (s.notify x).params = s.params := rfl
@[simp] theorem State.notify_colls (x : Notice) : (s.notify x).colls = s.colls := rfl
@[simp] theorem State.notify_nextCid (x : Notice) : (s.notify x).nextCid = s.nextCid := rfl
@[simp] theorem State.notify_transit (x : Notice) : (s.notify x).transit = s.transit := rfl
@[simp] theorem State.notify_issuing (x : Notice) : (s.notify x).issuing = s.issuing := rfl
@[simp] theorem State.notify_comms (x : Notice) : (s.notify x).comms = s.comms := rfl
@[simp] theorem State.notify_egress (x : Notice) : (s.notify x).egress = s.egress := rfl
@[simp] theorem State.notify_pairs (x : Notice) : (s.notify x).pairs = s.pairs := rfl
@[simp] theorem State.notify_slots (x : Notice) : (s.notify x).slots = s.slots := rfl
@[simp] theorem State.notify_reads (x : Notice) : (s.notify x).reads = s.reads := rfl
@[simp] theorem State.notify_outbox (x : Notice) : (s.notify x).outbox = s.outbox := rfl
@[simp] theorem State.notify_notices (x : Notice) : (s.notify x).notices = s.notices ++ [x] := rfl
@[simp] theorem State.notify_reach (x : Notice) : (s.notify x).reach = s.reach := rfl
@[simp] theorem State.notify_relTimeout (x : Notice) : (s.notify x).relTimeout = s.relTimeout := rfl
@[simp] theorem State.notify_settings (x : Notice) : (s.notify x).settings = s.settings := rfl
@[simp] theorem State.notify_mgmtVlan (x : Notice) : (s.notify x).mgmtVlan = s.mgmtVlan := rfl
@[simp] theorem State.notify_staged (x : Notice) : (s.notify x).staged = s.staged := rfl
@[simp] theorem State.notify_keys (x : Notice) : (s.notify x).keys = s.keys := rfl
@[simp] theorem State.notify_fabDrop (x : Notice) : (s.notify x).fabDrop = s.fabDrop := rfl
@[simp] theorem State.notify_collDrop (x : Notice) : (s.notify x).collDrop = s.collDrop := rfl
@[simp] theorem State.notify_collBusy (x : Notice) : (s.notify x).collBusy = s.collBusy := rfl
@[simp] theorem State.notify_viol (x : Notice) : (s.notify x).viol = s.viol := rfl
@[simp] theorem State.notify_blockMeta (x : Notice) : (s.notify x).blockMeta = s.blockMeta := rfl
@[simp] theorem State.notify_compress (x : Notice) : (s.notify x).compress = s.compress := rfl
@[simp] theorem State.notify_access (x : Notice) : (s.notify x).access = s.access := rfl
@[simp] theorem State.notify_thresholds (x : Notice) : (s.notify x).thresholds = s.thresholds := rfl
@[simp] theorem State.notify_dieTlb (x : Notice) : (s.notify x).dieTlb = s.dieTlb := rfl
@[simp] theorem State.notify_walkCache (x : Notice) : (s.notify x).walkCache = s.walkCache := rfl
@[simp] theorem State.notify_agate (x : Notice) : (s.notify x).agate = s.agate := rfl
@[simp] theorem State.notify_events (x : Notice) : (s.notify x).events = s.events := rfl
@[simp] theorem State.notify_window (x : Notice) : (s.notify x).window = s.window := rfl
@[simp] theorem State.notify_retired (x : Notice) : (s.notify x).retired = s.retired := rfl
@[simp] theorem State.notify_doomed (x : Notice) : (s.notify x).doomed = s.doomed := rfl
@[simp] theorem State.notify_limits (x : Notice) : (s.notify x).limits = s.limits := rfl
@[simp] theorem State.notify_poisoned (x : Notice) : (s.notify x).poisoned = s.poisoned := rfl
@[simp] theorem State.notify_renewed (x : Notice) : (s.notify x).renewed = s.renewed := rfl
@[simp] theorem State.notify_corr (x : Notice) : (s.notify x).corr = s.corr := rfl
@[simp] theorem State.notify_cc (x : Notice) : (s.notify x).cc = s.cc := rfl
@[simp] theorem State.notify_now (x : Notice) : (s.notify x).now = s.now := rfl
@[simp] theorem State.notify_devId (x : Notice) : (s.notify x).devId = s.devId := rfl
@[simp] theorem State.notify_rails (x : Notice) : (s.notify x).rails = s.rails := rfl
@[simp] theorem State.notify_boot (x : Notice) : (s.notify x).boot = s.boot := rfl
@[simp] theorem State.notify_powerLimit (x : Notice) : (s.notify x).powerLimit = s.powerLimit := rfl
@[simp] theorem State.notify_power (x : Notice) : (s.notify x).power = s.power := rfl
@[simp] theorem State.notify_temp (x : Notice) : (s.notify x).temp = s.temp := rfl
@[simp] theorem State.notify_cclk (x : Notice) : (s.notify x).cclk = s.cclk := rfl
@[simp] theorem State.notify_firmware (x : Notice) : (s.notify x).firmware = s.firmware := rfl
@[simp] theorem State.notify_trusted (x : Notice) : (s.notify x).trusted = s.trusted := rfl
@[simp] theorem State.notify_dumps (x : Notice) : (s.notify x).dumps = s.dumps := rfl
@[simp] theorem State.notify_cutting (x : Notice) : (s.notify x).cutting = s.cutting := rfl
@[simp] theorem State.notify_retiring (x : Notice) : (s.notify x).retiring = s.retiring := rfl
@[simp] theorem State.notify_trapTaken (x : Notice) : (s.notify x).trapTaken = s.trapTaken := rfl
@[simp] theorem State.notify_fresh (x : Notice) : (s.notify x).fresh = s.fresh := rfl
@[simp] theorem State.notify_agenda (x : Notice) : (s.notify x).agenda = s.agenda := rfl
@[simp] theorem State.notify_turn (x : Notice) : (s.notify x).turn = s.turn := rfl
@[simp] theorem State.notify_pace (x : Notice) : (s.notify x).pace = s.pace := rfl

/-! `State.send`: what a station is given -/

@[simp] theorem State.send_core (x : FabricMsg) : (s.send x).core = s.core := rfl
@[simp] theorem State.send_others (x : FabricMsg) : (s.send x).others = s.others := rfl
@[simp] theorem State.send_mem (x : FabricMsg) : (s.send x).mem = s.mem := rfl
@[simp] theorem State.send_pubs (x : FabricMsg) : (s.send x).pubs = s.pubs := rfl
@[simp] theorem State.send_atoms (x : FabricMsg) : (s.send x).atoms = s.atoms := rfl
@[simp] theorem State.send_nextAtom (x : FabricMsg) : (s.send x).nextAtom = s.nextAtom := rfl
@[simp] theorem State.send_combs (x : FabricMsg) : (s.send x).combs = s.combs := rfl
@[simp] theorem State.send_monitors (x : FabricMsg) : (s.send x).monitors = s.monitors := rfl
@[simp] theorem State.send_pages (x : FabricMsg) : (s.send x).pages = s.pages := rfl
@[simp] theorem State.send_saved (x : FabricMsg) : (s.send x).saved = s.saved := rfl
@[simp] theorem State.send_parts (x : FabricMsg) : (s.send x).parts = s.parts := rfl
@[simp] theorem State.send_chans (x : FabricMsg) : (s.send x).chans = s.chans := rfl
@[simp] theorem State.send_served (x : FabricMsg) : (s.send x).served = s.served := rfl
@[simp] theorem State.send_rings (x : FabricMsg) : (s.send x).rings = s.rings := rfl
@[simp] theorem State.send_windows (x : FabricMsg) : (s.send x).windows = s.windows := rfl
@[simp] theorem State.send_params (x : FabricMsg) : (s.send x).params = s.params := rfl
@[simp] theorem State.send_colls (x : FabricMsg) : (s.send x).colls = s.colls := rfl
@[simp] theorem State.send_nextCid (x : FabricMsg) : (s.send x).nextCid = s.nextCid := rfl
@[simp] theorem State.send_transit (x : FabricMsg) : (s.send x).transit = s.transit := rfl
@[simp] theorem State.send_issuing (x : FabricMsg) : (s.send x).issuing = s.issuing := rfl
@[simp] theorem State.send_comms (x : FabricMsg) : (s.send x).comms = s.comms := rfl
@[simp] theorem State.send_egress (x : FabricMsg) : (s.send x).egress = s.egress := rfl
@[simp] theorem State.send_pairs (x : FabricMsg) : (s.send x).pairs = s.pairs := rfl
@[simp] theorem State.send_slots (x : FabricMsg) : (s.send x).slots = s.slots := rfl
@[simp] theorem State.send_reads (x : FabricMsg) : (s.send x).reads = s.reads := rfl
@[simp] theorem State.send_outbox (x : FabricMsg) : (s.send x).outbox = s.outbox ++ [x] := rfl
@[simp] theorem State.send_notices (x : FabricMsg) : (s.send x).notices = s.notices := rfl
@[simp] theorem State.send_reach (x : FabricMsg) : (s.send x).reach = s.reach := rfl
@[simp] theorem State.send_relTimeout (x : FabricMsg) : (s.send x).relTimeout = s.relTimeout := rfl
@[simp] theorem State.send_settings (x : FabricMsg) : (s.send x).settings = s.settings := rfl
@[simp] theorem State.send_mgmtVlan (x : FabricMsg) : (s.send x).mgmtVlan = s.mgmtVlan := rfl
@[simp] theorem State.send_staged (x : FabricMsg) : (s.send x).staged = s.staged := rfl
@[simp] theorem State.send_keys (x : FabricMsg) : (s.send x).keys = s.keys := rfl
@[simp] theorem State.send_fabDrop (x : FabricMsg) : (s.send x).fabDrop = s.fabDrop := rfl
@[simp] theorem State.send_collDrop (x : FabricMsg) : (s.send x).collDrop = s.collDrop := rfl
@[simp] theorem State.send_collBusy (x : FabricMsg) : (s.send x).collBusy = s.collBusy := rfl
@[simp] theorem State.send_viol (x : FabricMsg) : (s.send x).viol = s.viol := rfl
@[simp] theorem State.send_blockMeta (x : FabricMsg) : (s.send x).blockMeta = s.blockMeta := rfl
@[simp] theorem State.send_compress (x : FabricMsg) : (s.send x).compress = s.compress := rfl
@[simp] theorem State.send_access (x : FabricMsg) : (s.send x).access = s.access := rfl
@[simp] theorem State.send_thresholds (x : FabricMsg) : (s.send x).thresholds = s.thresholds := rfl
@[simp] theorem State.send_dieTlb (x : FabricMsg) : (s.send x).dieTlb = s.dieTlb := rfl
@[simp] theorem State.send_walkCache (x : FabricMsg) : (s.send x).walkCache = s.walkCache := rfl
@[simp] theorem State.send_agate (x : FabricMsg) : (s.send x).agate = s.agate := rfl
@[simp] theorem State.send_events (x : FabricMsg) : (s.send x).events = s.events := rfl
@[simp] theorem State.send_window (x : FabricMsg) : (s.send x).window = s.window := rfl
@[simp] theorem State.send_retired (x : FabricMsg) : (s.send x).retired = s.retired := rfl
@[simp] theorem State.send_doomed (x : FabricMsg) : (s.send x).doomed = s.doomed := rfl
@[simp] theorem State.send_limits (x : FabricMsg) : (s.send x).limits = s.limits := rfl
@[simp] theorem State.send_poisoned (x : FabricMsg) : (s.send x).poisoned = s.poisoned := rfl
@[simp] theorem State.send_renewed (x : FabricMsg) : (s.send x).renewed = s.renewed := rfl
@[simp] theorem State.send_corr (x : FabricMsg) : (s.send x).corr = s.corr := rfl
@[simp] theorem State.send_cc (x : FabricMsg) : (s.send x).cc = s.cc := rfl
@[simp] theorem State.send_now (x : FabricMsg) : (s.send x).now = s.now := rfl
@[simp] theorem State.send_devId (x : FabricMsg) : (s.send x).devId = s.devId := rfl
@[simp] theorem State.send_rails (x : FabricMsg) : (s.send x).rails = s.rails := rfl
@[simp] theorem State.send_boot (x : FabricMsg) : (s.send x).boot = s.boot := rfl
@[simp] theorem State.send_powerLimit (x : FabricMsg) : (s.send x).powerLimit = s.powerLimit := rfl
@[simp] theorem State.send_power (x : FabricMsg) : (s.send x).power = s.power := rfl
@[simp] theorem State.send_temp (x : FabricMsg) : (s.send x).temp = s.temp := rfl
@[simp] theorem State.send_cclk (x : FabricMsg) : (s.send x).cclk = s.cclk := rfl
@[simp] theorem State.send_firmware (x : FabricMsg) : (s.send x).firmware = s.firmware := rfl
@[simp] theorem State.send_trusted (x : FabricMsg) : (s.send x).trusted = s.trusted := rfl
@[simp] theorem State.send_dumps (x : FabricMsg) : (s.send x).dumps = s.dumps := rfl
@[simp] theorem State.send_cutting (x : FabricMsg) : (s.send x).cutting = s.cutting := rfl
@[simp] theorem State.send_retiring (x : FabricMsg) : (s.send x).retiring = s.retiring := rfl
@[simp] theorem State.send_trapTaken (x : FabricMsg) : (s.send x).trapTaken = s.trapTaken := rfl
@[simp] theorem State.send_fresh (x : FabricMsg) : (s.send x).fresh = s.fresh := rfl
@[simp] theorem State.send_agenda (x : FabricMsg) : (s.send x).agenda = s.agenda := rfl
@[simp] theorem State.send_turn (x : FabricMsg) : (s.send x).turn = s.turn := rfl
@[simp] theorem State.send_pace (x : FabricMsg) : (s.send x).pace = s.pace := rfl

/-! `State.result`: a result in flight (R68) -/

@[simp] theorem State.result_core (l : Nat) (ws : List RegWrite) : (s.result l ws).core = s.core.result l ws := rfl
@[simp] theorem State.result_others (l : Nat) (ws : List RegWrite) : (s.result l ws).others = s.others := rfl
@[simp] theorem State.result_mem (l : Nat) (ws : List RegWrite) : (s.result l ws).mem = s.mem := rfl
@[simp] theorem State.result_pubs (l : Nat) (ws : List RegWrite) : (s.result l ws).pubs = s.pubs := rfl
@[simp] theorem State.result_atoms (l : Nat) (ws : List RegWrite) : (s.result l ws).atoms = s.atoms := rfl
@[simp] theorem State.result_nextAtom (l : Nat) (ws : List RegWrite) : (s.result l ws).nextAtom = s.nextAtom := rfl
@[simp] theorem State.result_combs (l : Nat) (ws : List RegWrite) : (s.result l ws).combs = s.combs := rfl
@[simp] theorem State.result_monitors (l : Nat) (ws : List RegWrite) : (s.result l ws).monitors = s.monitors := rfl
@[simp] theorem State.result_pages (l : Nat) (ws : List RegWrite) : (s.result l ws).pages = s.pages := rfl
@[simp] theorem State.result_saved (l : Nat) (ws : List RegWrite) : (s.result l ws).saved = s.saved := rfl
@[simp] theorem State.result_parts (l : Nat) (ws : List RegWrite) : (s.result l ws).parts = s.parts := rfl
@[simp] theorem State.result_chans (l : Nat) (ws : List RegWrite) : (s.result l ws).chans = s.chans := rfl
@[simp] theorem State.result_served (l : Nat) (ws : List RegWrite) : (s.result l ws).served = s.served := rfl
@[simp] theorem State.result_rings (l : Nat) (ws : List RegWrite) : (s.result l ws).rings = s.rings := rfl
@[simp] theorem State.result_windows (l : Nat) (ws : List RegWrite) : (s.result l ws).windows = s.windows := rfl
@[simp] theorem State.result_params (l : Nat) (ws : List RegWrite) : (s.result l ws).params = s.params := rfl
@[simp] theorem State.result_colls (l : Nat) (ws : List RegWrite) : (s.result l ws).colls = s.colls := rfl
@[simp] theorem State.result_nextCid (l : Nat) (ws : List RegWrite) : (s.result l ws).nextCid = s.nextCid := rfl
@[simp] theorem State.result_transit (l : Nat) (ws : List RegWrite) : (s.result l ws).transit = s.transit := rfl
@[simp] theorem State.result_issuing (l : Nat) (ws : List RegWrite) : (s.result l ws).issuing = s.issuing := rfl
@[simp] theorem State.result_comms (l : Nat) (ws : List RegWrite) : (s.result l ws).comms = s.comms := rfl
@[simp] theorem State.result_egress (l : Nat) (ws : List RegWrite) : (s.result l ws).egress = s.egress := rfl
@[simp] theorem State.result_pairs (l : Nat) (ws : List RegWrite) : (s.result l ws).pairs = s.pairs := rfl
@[simp] theorem State.result_slots (l : Nat) (ws : List RegWrite) : (s.result l ws).slots = s.slots := rfl
@[simp] theorem State.result_reads (l : Nat) (ws : List RegWrite) : (s.result l ws).reads = s.reads := rfl
@[simp] theorem State.result_outbox (l : Nat) (ws : List RegWrite) : (s.result l ws).outbox = s.outbox := rfl
@[simp] theorem State.result_notices (l : Nat) (ws : List RegWrite) : (s.result l ws).notices = s.notices := rfl
@[simp] theorem State.result_reach (l : Nat) (ws : List RegWrite) : (s.result l ws).reach = s.reach := rfl
@[simp] theorem State.result_relTimeout (l : Nat) (ws : List RegWrite) : (s.result l ws).relTimeout = s.relTimeout := rfl
@[simp] theorem State.result_settings (l : Nat) (ws : List RegWrite) : (s.result l ws).settings = s.settings := rfl
@[simp] theorem State.result_mgmtVlan (l : Nat) (ws : List RegWrite) : (s.result l ws).mgmtVlan = s.mgmtVlan := rfl
@[simp] theorem State.result_staged (l : Nat) (ws : List RegWrite) : (s.result l ws).staged = s.staged := rfl
@[simp] theorem State.result_keys (l : Nat) (ws : List RegWrite) : (s.result l ws).keys = s.keys := rfl
@[simp] theorem State.result_fabDrop (l : Nat) (ws : List RegWrite) : (s.result l ws).fabDrop = s.fabDrop := rfl
@[simp] theorem State.result_collDrop (l : Nat) (ws : List RegWrite) : (s.result l ws).collDrop = s.collDrop := rfl
@[simp] theorem State.result_collBusy (l : Nat) (ws : List RegWrite) : (s.result l ws).collBusy = s.collBusy := rfl
@[simp] theorem State.result_viol (l : Nat) (ws : List RegWrite) : (s.result l ws).viol = s.viol := rfl
@[simp] theorem State.result_blockMeta (l : Nat) (ws : List RegWrite) : (s.result l ws).blockMeta = s.blockMeta := rfl
@[simp] theorem State.result_compress (l : Nat) (ws : List RegWrite) : (s.result l ws).compress = s.compress := rfl
@[simp] theorem State.result_access (l : Nat) (ws : List RegWrite) : (s.result l ws).access = s.access := rfl
@[simp] theorem State.result_thresholds (l : Nat) (ws : List RegWrite) : (s.result l ws).thresholds = s.thresholds := rfl
@[simp] theorem State.result_dieTlb (l : Nat) (ws : List RegWrite) : (s.result l ws).dieTlb = s.dieTlb := rfl
@[simp] theorem State.result_walkCache (l : Nat) (ws : List RegWrite) : (s.result l ws).walkCache = s.walkCache := rfl
@[simp] theorem State.result_agate (l : Nat) (ws : List RegWrite) : (s.result l ws).agate = s.agate := rfl
@[simp] theorem State.result_events (l : Nat) (ws : List RegWrite) : (s.result l ws).events = s.events := rfl
@[simp] theorem State.result_window (l : Nat) (ws : List RegWrite) : (s.result l ws).window = s.window := rfl
@[simp] theorem State.result_retired (l : Nat) (ws : List RegWrite) : (s.result l ws).retired = s.retired := rfl
@[simp] theorem State.result_doomed (l : Nat) (ws : List RegWrite) : (s.result l ws).doomed = s.doomed := rfl
@[simp] theorem State.result_limits (l : Nat) (ws : List RegWrite) : (s.result l ws).limits = s.limits := rfl
@[simp] theorem State.result_poisoned (l : Nat) (ws : List RegWrite) : (s.result l ws).poisoned = s.poisoned := rfl
@[simp] theorem State.result_renewed (l : Nat) (ws : List RegWrite) : (s.result l ws).renewed = s.renewed := rfl
@[simp] theorem State.result_corr (l : Nat) (ws : List RegWrite) : (s.result l ws).corr = s.corr := rfl
@[simp] theorem State.result_cc (l : Nat) (ws : List RegWrite) : (s.result l ws).cc = s.cc := rfl
@[simp] theorem State.result_now (l : Nat) (ws : List RegWrite) : (s.result l ws).now = s.now := rfl
@[simp] theorem State.result_devId (l : Nat) (ws : List RegWrite) : (s.result l ws).devId = s.devId := rfl
@[simp] theorem State.result_rails (l : Nat) (ws : List RegWrite) : (s.result l ws).rails = s.rails := rfl
@[simp] theorem State.result_boot (l : Nat) (ws : List RegWrite) : (s.result l ws).boot = s.boot := rfl
@[simp] theorem State.result_powerLimit (l : Nat) (ws : List RegWrite) : (s.result l ws).powerLimit = s.powerLimit := rfl
@[simp] theorem State.result_power (l : Nat) (ws : List RegWrite) : (s.result l ws).power = s.power := rfl
@[simp] theorem State.result_temp (l : Nat) (ws : List RegWrite) : (s.result l ws).temp = s.temp := rfl
@[simp] theorem State.result_cclk (l : Nat) (ws : List RegWrite) : (s.result l ws).cclk = s.cclk := rfl
@[simp] theorem State.result_firmware (l : Nat) (ws : List RegWrite) : (s.result l ws).firmware = s.firmware := rfl
@[simp] theorem State.result_trusted (l : Nat) (ws : List RegWrite) : (s.result l ws).trusted = s.trusted := rfl
@[simp] theorem State.result_dumps (l : Nat) (ws : List RegWrite) : (s.result l ws).dumps = s.dumps := rfl
@[simp] theorem State.result_cutting (l : Nat) (ws : List RegWrite) : (s.result l ws).cutting = s.cutting := rfl
@[simp] theorem State.result_retiring (l : Nat) (ws : List RegWrite) : (s.result l ws).retiring = s.retiring := rfl
@[simp] theorem State.result_trapTaken (l : Nat) (ws : List RegWrite) : (s.result l ws).trapTaken = s.trapTaken := rfl
@[simp] theorem State.result_fresh (l : Nat) (ws : List RegWrite) : (s.result l ws).fresh = s.fresh := rfl
@[simp] theorem State.result_agenda (l : Nat) (ws : List RegWrite) : (s.result l ws).agenda = s.agenda := rfl
@[simp] theorem State.result_turn (l : Nat) (ws : List RegWrite) : (s.result l ws).turn = s.turn := rfl
@[simp] theorem State.result_pace (l : Nat) (ws : List RegWrite) : (s.result l ws).pace = s.pace := rfl

/-! `State.freeze`: the acting core's clock stops (R69) -/

@[simp] theorem State.freeze_core (w : Freeze) : (s.freeze w).core = { s.core with frozen := some w } := rfl
@[simp] theorem State.freeze_others (w : Freeze) : (s.freeze w).others = s.others := rfl
@[simp] theorem State.freeze_mem (w : Freeze) : (s.freeze w).mem = s.mem := rfl
@[simp] theorem State.freeze_pubs (w : Freeze) : (s.freeze w).pubs = s.pubs := rfl
@[simp] theorem State.freeze_atoms (w : Freeze) : (s.freeze w).atoms = s.atoms := rfl
@[simp] theorem State.freeze_nextAtom (w : Freeze) : (s.freeze w).nextAtom = s.nextAtom := rfl
@[simp] theorem State.freeze_combs (w : Freeze) : (s.freeze w).combs = s.combs := rfl
@[simp] theorem State.freeze_monitors (w : Freeze) : (s.freeze w).monitors = s.monitors := rfl
@[simp] theorem State.freeze_pages (w : Freeze) : (s.freeze w).pages = s.pages := rfl
@[simp] theorem State.freeze_saved (w : Freeze) : (s.freeze w).saved = s.saved := rfl
@[simp] theorem State.freeze_parts (w : Freeze) : (s.freeze w).parts = s.parts := rfl
@[simp] theorem State.freeze_chans (w : Freeze) : (s.freeze w).chans = s.chans := rfl
@[simp] theorem State.freeze_served (w : Freeze) : (s.freeze w).served = s.served := rfl
@[simp] theorem State.freeze_rings (w : Freeze) : (s.freeze w).rings = s.rings := rfl
@[simp] theorem State.freeze_windows (w : Freeze) : (s.freeze w).windows = s.windows := rfl
@[simp] theorem State.freeze_params (w : Freeze) : (s.freeze w).params = s.params := rfl
@[simp] theorem State.freeze_colls (w : Freeze) : (s.freeze w).colls = s.colls := rfl
@[simp] theorem State.freeze_nextCid (w : Freeze) : (s.freeze w).nextCid = s.nextCid := rfl
@[simp] theorem State.freeze_transit (w : Freeze) : (s.freeze w).transit = s.transit := rfl
@[simp] theorem State.freeze_issuing (w : Freeze) : (s.freeze w).issuing = s.issuing := rfl
@[simp] theorem State.freeze_comms (w : Freeze) : (s.freeze w).comms = s.comms := rfl
@[simp] theorem State.freeze_egress (w : Freeze) : (s.freeze w).egress = s.egress := rfl
@[simp] theorem State.freeze_pairs (w : Freeze) : (s.freeze w).pairs = s.pairs := rfl
@[simp] theorem State.freeze_slots (w : Freeze) : (s.freeze w).slots = s.slots := rfl
@[simp] theorem State.freeze_reads (w : Freeze) : (s.freeze w).reads = s.reads := rfl
@[simp] theorem State.freeze_outbox (w : Freeze) : (s.freeze w).outbox = s.outbox := rfl
@[simp] theorem State.freeze_notices (w : Freeze) : (s.freeze w).notices = s.notices := rfl
@[simp] theorem State.freeze_reach (w : Freeze) : (s.freeze w).reach = s.reach := rfl
@[simp] theorem State.freeze_relTimeout (w : Freeze) : (s.freeze w).relTimeout = s.relTimeout := rfl
@[simp] theorem State.freeze_settings (w : Freeze) : (s.freeze w).settings = s.settings := rfl
@[simp] theorem State.freeze_mgmtVlan (w : Freeze) : (s.freeze w).mgmtVlan = s.mgmtVlan := rfl
@[simp] theorem State.freeze_staged (w : Freeze) : (s.freeze w).staged = s.staged := rfl
@[simp] theorem State.freeze_keys (w : Freeze) : (s.freeze w).keys = s.keys := rfl
@[simp] theorem State.freeze_fabDrop (w : Freeze) : (s.freeze w).fabDrop = s.fabDrop := rfl
@[simp] theorem State.freeze_collDrop (w : Freeze) : (s.freeze w).collDrop = s.collDrop := rfl
@[simp] theorem State.freeze_collBusy (w : Freeze) : (s.freeze w).collBusy = s.collBusy := rfl
@[simp] theorem State.freeze_viol (w : Freeze) : (s.freeze w).viol = s.viol := rfl
@[simp] theorem State.freeze_blockMeta (w : Freeze) : (s.freeze w).blockMeta = s.blockMeta := rfl
@[simp] theorem State.freeze_compress (w : Freeze) : (s.freeze w).compress = s.compress := rfl
@[simp] theorem State.freeze_access (w : Freeze) : (s.freeze w).access = s.access := rfl
@[simp] theorem State.freeze_thresholds (w : Freeze) : (s.freeze w).thresholds = s.thresholds := rfl
@[simp] theorem State.freeze_dieTlb (w : Freeze) : (s.freeze w).dieTlb = s.dieTlb := rfl
@[simp] theorem State.freeze_walkCache (w : Freeze) : (s.freeze w).walkCache = s.walkCache := rfl
@[simp] theorem State.freeze_agate (w : Freeze) : (s.freeze w).agate = s.agate := rfl
@[simp] theorem State.freeze_events (w : Freeze) : (s.freeze w).events = s.events := rfl
@[simp] theorem State.freeze_window (w : Freeze) : (s.freeze w).window = s.window := rfl
@[simp] theorem State.freeze_retired (w : Freeze) : (s.freeze w).retired = s.retired := rfl
@[simp] theorem State.freeze_doomed (w : Freeze) : (s.freeze w).doomed = s.doomed := rfl
@[simp] theorem State.freeze_limits (w : Freeze) : (s.freeze w).limits = s.limits := rfl
@[simp] theorem State.freeze_poisoned (w : Freeze) : (s.freeze w).poisoned = s.poisoned := rfl
@[simp] theorem State.freeze_renewed (w : Freeze) : (s.freeze w).renewed = s.renewed := rfl
@[simp] theorem State.freeze_corr (w : Freeze) : (s.freeze w).corr = s.corr := rfl
@[simp] theorem State.freeze_cc (w : Freeze) : (s.freeze w).cc = s.cc := rfl
@[simp] theorem State.freeze_now (w : Freeze) : (s.freeze w).now = s.now := rfl
@[simp] theorem State.freeze_devId (w : Freeze) : (s.freeze w).devId = s.devId := rfl
@[simp] theorem State.freeze_rails (w : Freeze) : (s.freeze w).rails = s.rails := rfl
@[simp] theorem State.freeze_boot (w : Freeze) : (s.freeze w).boot = s.boot := rfl
@[simp] theorem State.freeze_powerLimit (w : Freeze) : (s.freeze w).powerLimit = s.powerLimit := rfl
@[simp] theorem State.freeze_power (w : Freeze) : (s.freeze w).power = s.power := rfl
@[simp] theorem State.freeze_temp (w : Freeze) : (s.freeze w).temp = s.temp := rfl
@[simp] theorem State.freeze_cclk (w : Freeze) : (s.freeze w).cclk = s.cclk := rfl
@[simp] theorem State.freeze_firmware (w : Freeze) : (s.freeze w).firmware = s.firmware := rfl
@[simp] theorem State.freeze_trusted (w : Freeze) : (s.freeze w).trusted = s.trusted := rfl
@[simp] theorem State.freeze_dumps (w : Freeze) : (s.freeze w).dumps = s.dumps := rfl
@[simp] theorem State.freeze_cutting (w : Freeze) : (s.freeze w).cutting = s.cutting := rfl
@[simp] theorem State.freeze_retiring (w : Freeze) : (s.freeze w).retiring = s.retiring := rfl
@[simp] theorem State.freeze_trapTaken (w : Freeze) : (s.freeze w).trapTaken = s.trapTaken := rfl
@[simp] theorem State.freeze_fresh (w : Freeze) : (s.freeze w).fresh = s.fresh := rfl
@[simp] theorem State.freeze_agenda (w : Freeze) : (s.freeze w).agenda = s.agenda := rfl
@[simp] theorem State.freeze_turn (w : Freeze) : (s.freeze w).turn = s.turn := rfl
@[simp] theorem State.freeze_pace (w : Freeze) : (s.freeze w).pace = s.pace := rfl

/-! `State.raiseFlags`: the flags of CTL.FSTAT (R48) -/

@[simp] theorem State.raiseFlags_core (w : Flags) : (s.raiseFlags w).core = { s.core with fstat := s.core.fstat ||| w } := rfl
@[simp] theorem State.raiseFlags_others (w : Flags) : (s.raiseFlags w).others = s.others := rfl
@[simp] theorem State.raiseFlags_mem (w : Flags) : (s.raiseFlags w).mem = s.mem := rfl
@[simp] theorem State.raiseFlags_pubs (w : Flags) : (s.raiseFlags w).pubs = s.pubs := rfl
@[simp] theorem State.raiseFlags_atoms (w : Flags) : (s.raiseFlags w).atoms = s.atoms := rfl
@[simp] theorem State.raiseFlags_nextAtom (w : Flags) : (s.raiseFlags w).nextAtom = s.nextAtom := rfl
@[simp] theorem State.raiseFlags_combs (w : Flags) : (s.raiseFlags w).combs = s.combs := rfl
@[simp] theorem State.raiseFlags_monitors (w : Flags) : (s.raiseFlags w).monitors = s.monitors := rfl
@[simp] theorem State.raiseFlags_pages (w : Flags) : (s.raiseFlags w).pages = s.pages := rfl
@[simp] theorem State.raiseFlags_saved (w : Flags) : (s.raiseFlags w).saved = s.saved := rfl
@[simp] theorem State.raiseFlags_parts (w : Flags) : (s.raiseFlags w).parts = s.parts := rfl
@[simp] theorem State.raiseFlags_chans (w : Flags) : (s.raiseFlags w).chans = s.chans := rfl
@[simp] theorem State.raiseFlags_served (w : Flags) : (s.raiseFlags w).served = s.served := rfl
@[simp] theorem State.raiseFlags_rings (w : Flags) : (s.raiseFlags w).rings = s.rings := rfl
@[simp] theorem State.raiseFlags_windows (w : Flags) : (s.raiseFlags w).windows = s.windows := rfl
@[simp] theorem State.raiseFlags_params (w : Flags) : (s.raiseFlags w).params = s.params := rfl
@[simp] theorem State.raiseFlags_colls (w : Flags) : (s.raiseFlags w).colls = s.colls := rfl
@[simp] theorem State.raiseFlags_nextCid (w : Flags) : (s.raiseFlags w).nextCid = s.nextCid := rfl
@[simp] theorem State.raiseFlags_transit (w : Flags) : (s.raiseFlags w).transit = s.transit := rfl
@[simp] theorem State.raiseFlags_issuing (w : Flags) : (s.raiseFlags w).issuing = s.issuing := rfl
@[simp] theorem State.raiseFlags_comms (w : Flags) : (s.raiseFlags w).comms = s.comms := rfl
@[simp] theorem State.raiseFlags_egress (w : Flags) : (s.raiseFlags w).egress = s.egress := rfl
@[simp] theorem State.raiseFlags_pairs (w : Flags) : (s.raiseFlags w).pairs = s.pairs := rfl
@[simp] theorem State.raiseFlags_slots (w : Flags) : (s.raiseFlags w).slots = s.slots := rfl
@[simp] theorem State.raiseFlags_reads (w : Flags) : (s.raiseFlags w).reads = s.reads := rfl
@[simp] theorem State.raiseFlags_outbox (w : Flags) : (s.raiseFlags w).outbox = s.outbox := rfl
@[simp] theorem State.raiseFlags_notices (w : Flags) : (s.raiseFlags w).notices = s.notices := rfl
@[simp] theorem State.raiseFlags_reach (w : Flags) : (s.raiseFlags w).reach = s.reach := rfl
@[simp] theorem State.raiseFlags_relTimeout (w : Flags) : (s.raiseFlags w).relTimeout = s.relTimeout := rfl
@[simp] theorem State.raiseFlags_settings (w : Flags) : (s.raiseFlags w).settings = s.settings := rfl
@[simp] theorem State.raiseFlags_mgmtVlan (w : Flags) : (s.raiseFlags w).mgmtVlan = s.mgmtVlan := rfl
@[simp] theorem State.raiseFlags_staged (w : Flags) : (s.raiseFlags w).staged = s.staged := rfl
@[simp] theorem State.raiseFlags_keys (w : Flags) : (s.raiseFlags w).keys = s.keys := rfl
@[simp] theorem State.raiseFlags_fabDrop (w : Flags) : (s.raiseFlags w).fabDrop = s.fabDrop := rfl
@[simp] theorem State.raiseFlags_collDrop (w : Flags) : (s.raiseFlags w).collDrop = s.collDrop := rfl
@[simp] theorem State.raiseFlags_collBusy (w : Flags) : (s.raiseFlags w).collBusy = s.collBusy := rfl
@[simp] theorem State.raiseFlags_viol (w : Flags) : (s.raiseFlags w).viol = s.viol := rfl
@[simp] theorem State.raiseFlags_blockMeta (w : Flags) : (s.raiseFlags w).blockMeta = s.blockMeta := rfl
@[simp] theorem State.raiseFlags_compress (w : Flags) : (s.raiseFlags w).compress = s.compress := rfl
@[simp] theorem State.raiseFlags_access (w : Flags) : (s.raiseFlags w).access = s.access := rfl
@[simp] theorem State.raiseFlags_thresholds (w : Flags) : (s.raiseFlags w).thresholds = s.thresholds := rfl
@[simp] theorem State.raiseFlags_dieTlb (w : Flags) : (s.raiseFlags w).dieTlb = s.dieTlb := rfl
@[simp] theorem State.raiseFlags_walkCache (w : Flags) : (s.raiseFlags w).walkCache = s.walkCache := rfl
@[simp] theorem State.raiseFlags_agate (w : Flags) : (s.raiseFlags w).agate = s.agate := rfl
@[simp] theorem State.raiseFlags_events (w : Flags) : (s.raiseFlags w).events = s.events := rfl
@[simp] theorem State.raiseFlags_window (w : Flags) : (s.raiseFlags w).window = s.window := rfl
@[simp] theorem State.raiseFlags_retired (w : Flags) : (s.raiseFlags w).retired = s.retired := rfl
@[simp] theorem State.raiseFlags_doomed (w : Flags) : (s.raiseFlags w).doomed = s.doomed := rfl
@[simp] theorem State.raiseFlags_limits (w : Flags) : (s.raiseFlags w).limits = s.limits := rfl
@[simp] theorem State.raiseFlags_poisoned (w : Flags) : (s.raiseFlags w).poisoned = s.poisoned := rfl
@[simp] theorem State.raiseFlags_renewed (w : Flags) : (s.raiseFlags w).renewed = s.renewed := rfl
@[simp] theorem State.raiseFlags_corr (w : Flags) : (s.raiseFlags w).corr = s.corr := rfl
@[simp] theorem State.raiseFlags_cc (w : Flags) : (s.raiseFlags w).cc = s.cc := rfl
@[simp] theorem State.raiseFlags_now (w : Flags) : (s.raiseFlags w).now = s.now := rfl
@[simp] theorem State.raiseFlags_devId (w : Flags) : (s.raiseFlags w).devId = s.devId := rfl
@[simp] theorem State.raiseFlags_rails (w : Flags) : (s.raiseFlags w).rails = s.rails := rfl
@[simp] theorem State.raiseFlags_boot (w : Flags) : (s.raiseFlags w).boot = s.boot := rfl
@[simp] theorem State.raiseFlags_powerLimit (w : Flags) : (s.raiseFlags w).powerLimit = s.powerLimit := rfl
@[simp] theorem State.raiseFlags_power (w : Flags) : (s.raiseFlags w).power = s.power := rfl
@[simp] theorem State.raiseFlags_temp (w : Flags) : (s.raiseFlags w).temp = s.temp := rfl
@[simp] theorem State.raiseFlags_cclk (w : Flags) : (s.raiseFlags w).cclk = s.cclk := rfl
@[simp] theorem State.raiseFlags_firmware (w : Flags) : (s.raiseFlags w).firmware = s.firmware := rfl
@[simp] theorem State.raiseFlags_trusted (w : Flags) : (s.raiseFlags w).trusted = s.trusted := rfl
@[simp] theorem State.raiseFlags_dumps (w : Flags) : (s.raiseFlags w).dumps = s.dumps := rfl
@[simp] theorem State.raiseFlags_cutting (w : Flags) : (s.raiseFlags w).cutting = s.cutting := rfl
@[simp] theorem State.raiseFlags_retiring (w : Flags) : (s.raiseFlags w).retiring = s.retiring := rfl
@[simp] theorem State.raiseFlags_trapTaken (w : Flags) : (s.raiseFlags w).trapTaken = s.trapTaken := rfl
@[simp] theorem State.raiseFlags_fresh (w : Flags) : (s.raiseFlags w).fresh = s.fresh := rfl
@[simp] theorem State.raiseFlags_agenda (w : Flags) : (s.raiseFlags w).agenda = s.agenda := rfl
@[simp] theorem State.raiseFlags_turn (w : Flags) : (s.raiseFlags w).turn = s.turn := rfl
@[simp] theorem State.raiseFlags_pace (w : Flags) : (s.raiseFlags w).pace = s.pace := rfl

/-! `Core.result`: a result in flight (R68) -/

@[simp] theorem Core.result_phys (l : Nat) (ws : List RegWrite) : (c.result l ws).phys = c.phys := rfl
@[simp] theorem Core.result_part (l : Nat) (ws : List RegWrite) : (c.result l ws).part = c.part := rfl
@[simp] theorem Core.result_running (l : Nat) (ws : List RegWrite) : (c.result l ws).running = c.running := rfl
@[simp] theorem Core.result_cont (l : Nat) (ws : List RegWrite) : (c.result l ws).cont = c.cont := rfl
@[simp] theorem Core.result_task (l : Nat) (ws : List RegWrite) : (c.result l ws).task = c.task := rfl
@[simp] theorem Core.result_deadline (l : Nat) (ws : List RegWrite) : (c.result l ws).deadline = c.deadline := rfl
@[simp] theorem Core.result_scratch (l : Nat) (ws : List RegWrite) : (c.result l ws).scratch = c.scratch := rfl
@[simp] theorem Core.result_frame (l : Nat) (ws : List RegWrite) : (c.result l ws).frame = c.frame := rfl
@[simp] theorem Core.result_parent (l : Nat) (ws : List RegWrite) : (c.result l ws).parent = c.parent := rfl
@[simp] theorem Core.result_pc (l : Nat) (ws : List RegWrite) : (c.result l ws).pc = c.pc := rfl
@[simp] theorem Core.result_rep (l : Nat) (ws : List RegWrite) : (c.result l ws).rep = c.rep := rfl
@[simp] theorem Core.result_done (l : Nat) (ws : List RegWrite) : (c.result l ws).done = c.done := rfl
@[simp] theorem Core.result_current (l : Nat) (ws : List RegWrite) : (c.result l ws).current = c.current := rfl
@[simp] theorem Core.result_gated (l : Nat) (ws : List RegWrite) : (c.result l ws).gated = c.gated := rfl
@[simp] theorem Core.result_frozen (l : Nat) (ws : List RegWrite) : (c.result l ws).frozen = c.frozen := rfl
@[simp] theorem Core.result_bubble (l : Nat) (ws : List RegWrite) : (c.result l ws).bubble = c.bubble := rfl
@[simp] theorem Core.result_branch (l : Nat) (ws : List RegWrite) : (c.result l ws).branch = c.branch := rfl
@[simp] theorem Core.result_leave (l : Nat) (ws : List RegWrite) : (c.result l ws).leave = c.leave := rfl
@[simp] theorem Core.result_waiting (l : Nat) (ws : List RegWrite) : (c.result l ws).waiting = c.waiting := rfl
@[simp] theorem Core.result_ctx (l : Nat) (ws : List RegWrite) : (c.result l ws).ctx = c.ctx := rfl
@[simp] theorem Core.result_waited (l : Nat) (ws : List RegWrite) : (c.result l ws).waited = c.waited := rfl
@[simp] theorem Core.result_flChanged (l : Nat) (ws : List RegWrite) : (c.result l ws).flChanged = c.flChanged := rfl
@[simp] theorem Core.result_requeue (l : Nat) (ws : List RegWrite) : (c.result l ws).requeue = c.requeue := rfl
@[simp] theorem Core.result_hist (l : Nat) (ws : List RegWrite) : (c.result l ws).hist = c.hist := rfl
@[simp] theorem Core.result_s (l : Nat) (ws : List RegWrite) : (c.result l ws).s = c.s := rfl
@[simp] theorem Core.result_v (l : Nat) (ws : List RegWrite) : (c.result l ws).v = c.v := rfl
@[simp] theorem Core.result_p (l : Nat) (ws : List RegWrite) : (c.result l ws).p = c.p := rfl
@[simp] theorem Core.result_t (l : Nat) (ws : List RegWrite) : (c.result l ws).t = c.t := rfl
@[simp] theorem Core.result_acc0 (l : Nat) (ws : List RegWrite) : (c.result l ws).acc0 = c.acc0 := rfl
@[simp] theorem Core.result_acc1 (l : Nat) (ws : List RegWrite) : (c.result l ws).acc1 = c.acc1 := rfl
@[simp] theorem Core.result_fl (l : Nat) (ws : List RegWrite) : (c.result l ws).fl = c.fl := rfl
@[simp] theorem Core.result_fmt (l : Nat) (ws : List RegWrite) : (c.result l ws).fmt = c.fmt := rfl
@[simp] theorem Core.result_pat (l : Nat) (ws : List RegWrite) : (c.result l ws).pat = c.pat := rfl
@[simp] theorem Core.result_stepr (l : Nat) (ws : List RegWrite) : (c.result l ws).stepr = c.stepr := rfl
@[simp] theorem Core.result_sb (l : Nat) (ws : List RegWrite) : (c.result l ws).sb = c.sb := rfl
@[simp] theorem Core.result_sbPos (l : Nat) (ws : List RegWrite) : (c.result l ws).sbPos = c.sbPos := rfl
@[simp] theorem Core.result_sbAcq (l : Nat) (ws : List RegWrite) : (c.result l ws).sbAcq = c.sbAcq := rfl
@[simp] theorem Core.result_tests (l : Nat) (ws : List RegWrite) : (c.result l ws).tests = c.tests := rfl
@[simp] theorem Core.result_fstat (l : Nat) (ws : List RegWrite) : (c.result l ws).fstat = c.fstat := rfl
@[simp] theorem Core.result_mode (l : Nat) (ws : List RegWrite) : (c.result l ws).mode = c.mode := rfl
@[simp] theorem Core.result_safecnt (l : Nat) (ws : List RegWrite) : (c.result l ws).safecnt = c.safecnt := rfl
@[simp] theorem Core.result_qstall (l : Nat) (ws : List RegWrite) : (c.result l ws).qstall = c.qstall := rfl
@[simp] theorem Core.result_safeIdx (l : Nat) (ws : List RegWrite) : (c.result l ws).safeIdx = c.safeIdx := rfl
@[simp] theorem Core.result_point (l : Nat) (ws : List RegWrite) : (c.result l ws).point = c.point := rfl
@[simp] theorem Core.result_written (l : Nat) (ws : List RegWrite) : (c.result l ws).written = c.written := rfl
@[simp] theorem Core.result_saved (l : Nat) (ws : List RegWrite) : (c.result l ws).saved = c.saved := rfl
@[simp] theorem Core.result_lands (l : Nat) (ws : List RegWrite) : (c.result l ws).lands = c.lands ++ [⟨ws, l, c.issued, false⟩] := rfl
@[simp] theorem Core.result_here (l : Nat) (ws : List RegWrite) : (c.result l ws).here = c.here := rfl
@[simp] theorem Core.result_loads (l : Nat) (ws : List RegWrite) : (c.result l ws).loads = c.loads := rfl
@[simp] theorem Core.result_stores (l : Nat) (ws : List RegWrite) : (c.result l ws).stores = c.stores := rfl
@[simp] theorem Core.result_phase (l : Nat) (ws : List RegWrite) : (c.result l ws).phase = c.phase := rfl
@[simp] theorem Core.result_unsettled (l : Nat) (ws : List RegWrite) : (c.result l ws).unsettled = c.unsettled := rfl
@[simp] theorem Core.result_issued (l : Nat) (ws : List RegWrite) : (c.result l ws).issued = c.issued + 1 := rfl
@[simp] theorem Core.result_snap (l : Nat) (ws : List RegWrite) : (c.result l ws).snap = c.snap := rfl
@[simp] theorem Core.result_filled (l : Nat) (ws : List RegWrite) : (c.result l ws).filled = c.filled := rfl
@[simp] theorem Core.result_gens (l : Nat) (ws : List RegWrite) : (c.result l ws).gens = c.gens := rfl
@[simp] theorem Core.result_array (l : Nat) (ws : List RegWrite) : (c.result l ws).array = c.array := rfl
@[simp] theorem Core.result_group (l : Nat) (ws : List RegWrite) : (c.result l ws).group = c.group.map fun g => (g.1, g.2.owning ws) := rfl
@[simp] theorem Core.result_drained (l : Nat) (ws : List RegWrite) : (c.result l ws).drained = c.drained := rfl
@[simp] theorem Core.result_closed (l : Nat) (ws : List RegWrite) : (c.result l ws).closed = c.closed := rfl
@[simp] theorem Core.result_start (l : Nat) (ws : List RegWrite) : (c.result l ws).start = c.start.map fun g => (g.1, g.2.owning ws) := rfl
@[simp] theorem Core.result_stream (l : Nat) (ws : List RegWrite) : (c.result l ws).stream = c.stream := rfl
@[simp] theorem Core.result_fused (l : Nat) (ws : List RegWrite) : (c.result l ws).fused = c.fused := rfl
@[simp] theorem Core.result_lastFused (l : Nat) (ws : List RegWrite) : (c.result l ws).lastFused = c.lastFused := rfl
@[simp] theorem Core.result_fuseArrived (l : Nat) (ws : List RegWrite) : (c.result l ws).fuseArrived = c.fuseArrived := rfl
@[simp] theorem Core.result_rejoined (l : Nat) (ws : List RegWrite) : (c.result l ws).rejoined = c.rejoined := rfl
@[simp] theorem Core.result_barWait (l : Nat) (ws : List RegWrite) : (c.result l ws).barWait = c.barWait := rfl
@[simp] theorem Core.result_released (l : Nat) (ws : List RegWrite) : (c.result l ws).released = c.released := rfl
@[simp] theorem Core.result_late (l : Nat) (ws : List RegWrite) : (c.result l ws).late = c.late := rfl
@[simp] theorem Core.result_posting (l : Nat) (ws : List RegWrite) : (c.result l ws).posting = c.posting := rfl
@[simp] theorem Core.result_stall (l : Nat) (ws : List RegWrite) : (c.result l ws).stall = c.stall := rfl
@[simp] theorem Core.result_preempt (l : Nat) (ws : List RegWrite) : (c.result l ws).preempt = c.preempt := rfl
@[simp] theorem Core.result_landTrap (l : Nat) (ws : List RegWrite) : (c.result l ws).landTrap = c.landTrap := rfl
@[simp] theorem Core.result_atomLost (l : Nat) (ws : List RegWrite) : (c.result l ws).atomLost = c.atomLost := rfl
@[simp] theorem Core.result_watchdog (l : Nat) (ws : List RegWrite) : (c.result l ws).watchdog = c.watchdog := rfl
@[simp] theorem Core.result_coreTimer (l : Nat) (ws : List RegWrite) : (c.result l ws).coreTimer = c.coreTimer := rfl
@[simp] theorem Core.result_inject (l : Nat) (ws : List RegWrite) : (c.result l ws).inject = c.inject := rfl
@[simp] theorem Core.result_beryl (l : Nat) (ws : List RegWrite) : (c.result l ws).beryl = c.beryl := rfl
@[simp] theorem Core.result_roles (l : Nat) (ws : List RegWrite) : (c.result l ws).roles = c.roles := rfl
@[simp] theorem Core.result_marked (l : Nat) (ws : List RegWrite) : (c.result l ws).marked = c.marked := rfl
@[simp] theorem Core.result_lost (l : Nat) (ws : List RegWrite) : (c.result l ws).lost = c.lost := rfl
@[simp] theorem Core.result_tlb (l : Nat) (ws : List RegWrite) : (c.result l ws).tlb = c.tlb := rfl
@[simp] theorem Core.result_preload (l : Nat) (ws : List RegWrite) : (c.result l ws).preload = c.preload := rfl
@[simp] theorem Core.result_bank (l : Nat) (ws : List RegWrite) : (c.result l ws).bank = c.bank := rfl

/-! `Core.idled`: a core without a continuation -/

@[simp] theorem Core.idled_phys : (c.idled).phys = c.phys := rfl
@[simp] theorem Core.idled_part : (c.idled).part = (Core.reset c.phys).part := rfl
@[simp] theorem Core.idled_running : (c.idled).running = (Core.reset c.phys).running := rfl
@[simp] theorem Core.idled_cont : (c.idled).cont = (Core.reset c.phys).cont := rfl
@[simp] theorem Core.idled_task : (c.idled).task = (Core.reset c.phys).task := rfl
@[simp] theorem Core.idled_deadline : (c.idled).deadline = (Core.reset c.phys).deadline := rfl
@[simp] theorem Core.idled_scratch : (c.idled).scratch = (Core.reset c.phys).scratch := rfl
@[simp] theorem Core.idled_frame : (c.idled).frame = (Core.reset c.phys).frame := rfl
@[simp] theorem Core.idled_parent : (c.idled).parent = (Core.reset c.phys).parent := rfl
@[simp] theorem Core.idled_pc : (c.idled).pc = (Core.reset c.phys).pc := rfl
@[simp] theorem Core.idled_rep : (c.idled).rep = (Core.reset c.phys).rep := rfl
@[simp] theorem Core.idled_done : (c.idled).done = (Core.reset c.phys).done := rfl
@[simp] theorem Core.idled_current : (c.idled).current = (Core.reset c.phys).current := rfl
@[simp] theorem Core.idled_gated : (c.idled).gated = (Core.reset c.phys).gated := rfl
@[simp] theorem Core.idled_frozen : (c.idled).frozen = (Core.reset c.phys).frozen := rfl
@[simp] theorem Core.idled_bubble : (c.idled).bubble = (Core.reset c.phys).bubble := rfl
@[simp] theorem Core.idled_branch : (c.idled).branch = (Core.reset c.phys).branch := rfl
@[simp] theorem Core.idled_leave : (c.idled).leave = (Core.reset c.phys).leave := rfl
@[simp] theorem Core.idled_waiting : (c.idled).waiting = (Core.reset c.phys).waiting := rfl
@[simp] theorem Core.idled_ctx : (c.idled).ctx = (Core.reset c.phys).ctx := rfl
@[simp] theorem Core.idled_waited : (c.idled).waited = (Core.reset c.phys).waited := rfl
@[simp] theorem Core.idled_flChanged : (c.idled).flChanged = (Core.reset c.phys).flChanged := rfl
@[simp] theorem Core.idled_requeue : (c.idled).requeue = (Core.reset c.phys).requeue := rfl
@[simp] theorem Core.idled_hist : (c.idled).hist = (Core.reset c.phys).hist := rfl
@[simp] theorem Core.idled_s : (c.idled).s = (Core.reset c.phys).s := rfl
@[simp] theorem Core.idled_v : (c.idled).v = (Core.reset c.phys).v := rfl
@[simp] theorem Core.idled_p : (c.idled).p = (Core.reset c.phys).p := rfl
@[simp] theorem Core.idled_t : (c.idled).t = (Core.reset c.phys).t := rfl
@[simp] theorem Core.idled_acc0 : (c.idled).acc0 = (Core.reset c.phys).acc0 := rfl
@[simp] theorem Core.idled_acc1 : (c.idled).acc1 = (Core.reset c.phys).acc1 := rfl
@[simp] theorem Core.idled_fl : (c.idled).fl = (Core.reset c.phys).fl := rfl
@[simp] theorem Core.idled_fmt : (c.idled).fmt = (Core.reset c.phys).fmt := rfl
@[simp] theorem Core.idled_pat : (c.idled).pat = (Core.reset c.phys).pat := rfl
@[simp] theorem Core.idled_stepr : (c.idled).stepr = (Core.reset c.phys).stepr := rfl
@[simp] theorem Core.idled_sb : (c.idled).sb = (Core.reset c.phys).sb := rfl
@[simp] theorem Core.idled_sbPos : (c.idled).sbPos = (Core.reset c.phys).sbPos := rfl
@[simp] theorem Core.idled_sbAcq : (c.idled).sbAcq = (Core.reset c.phys).sbAcq := rfl
@[simp] theorem Core.idled_tests : (c.idled).tests = (Core.reset c.phys).tests := rfl
@[simp] theorem Core.idled_fstat : (c.idled).fstat = (Core.reset c.phys).fstat := rfl
@[simp] theorem Core.idled_mode : (c.idled).mode = (Core.reset c.phys).mode := rfl
@[simp] theorem Core.idled_safecnt : (c.idled).safecnt = (Core.reset c.phys).safecnt := rfl
@[simp] theorem Core.idled_qstall : (c.idled).qstall = (Core.reset c.phys).qstall := rfl
@[simp] theorem Core.idled_safeIdx : (c.idled).safeIdx = (Core.reset c.phys).safeIdx := rfl
@[simp] theorem Core.idled_point : (c.idled).point = (Core.reset c.phys).point := rfl
@[simp] theorem Core.idled_written : (c.idled).written = (Core.reset c.phys).written := rfl
@[simp] theorem Core.idled_saved : (c.idled).saved = (Core.reset c.phys).saved := rfl
@[simp] theorem Core.idled_lands : (c.idled).lands = (Core.reset c.phys).lands := rfl
@[simp] theorem Core.idled_here : (c.idled).here = (Core.reset c.phys).here := rfl
@[simp] theorem Core.idled_loads : (c.idled).loads = (Core.reset c.phys).loads := rfl
@[simp] theorem Core.idled_stores : (c.idled).stores = (Core.reset c.phys).stores := rfl
@[simp] theorem Core.idled_phase : (c.idled).phase = (Core.reset c.phys).phase := rfl
@[simp] theorem Core.idled_unsettled : (c.idled).unsettled = (Core.reset c.phys).unsettled := rfl
@[simp] theorem Core.idled_issued : (c.idled).issued = (Core.reset c.phys).issued := rfl
@[simp] theorem Core.idled_snap : (c.idled).snap = (Core.reset c.phys).snap := rfl
@[simp] theorem Core.idled_filled : (c.idled).filled = (Core.reset c.phys).filled := rfl
@[simp] theorem Core.idled_gens : (c.idled).gens = (Core.reset c.phys).gens := rfl
@[simp] theorem Core.idled_array : (c.idled).array = (Core.reset c.phys).array := rfl
@[simp] theorem Core.idled_group : (c.idled).group = (Core.reset c.phys).group := rfl
@[simp] theorem Core.idled_drained : (c.idled).drained = (Core.reset c.phys).drained := rfl
@[simp] theorem Core.idled_closed : (c.idled).closed = (Core.reset c.phys).closed := rfl
@[simp] theorem Core.idled_start : (c.idled).start = (Core.reset c.phys).start := rfl
@[simp] theorem Core.idled_stream : (c.idled).stream = (Core.reset c.phys).stream := rfl
@[simp] theorem Core.idled_fused : (c.idled).fused = (Core.reset c.phys).fused := rfl
@[simp] theorem Core.idled_lastFused : (c.idled).lastFused = (Core.reset c.phys).lastFused := rfl
@[simp] theorem Core.idled_fuseArrived : (c.idled).fuseArrived = (Core.reset c.phys).fuseArrived := rfl
@[simp] theorem Core.idled_rejoined : (c.idled).rejoined = (Core.reset c.phys).rejoined := rfl
@[simp] theorem Core.idled_barWait : (c.idled).barWait = (Core.reset c.phys).barWait := rfl
@[simp] theorem Core.idled_released : (c.idled).released = (Core.reset c.phys).released := rfl
@[simp] theorem Core.idled_late : (c.idled).late = (Core.reset c.phys).late := rfl
@[simp] theorem Core.idled_posting : (c.idled).posting = (Core.reset c.phys).posting := rfl
@[simp] theorem Core.idled_stall : (c.idled).stall = (Core.reset c.phys).stall := rfl
@[simp] theorem Core.idled_preempt : (c.idled).preempt = (Core.reset c.phys).preempt := rfl
@[simp] theorem Core.idled_landTrap : (c.idled).landTrap = (Core.reset c.phys).landTrap := rfl
@[simp] theorem Core.idled_atomLost : (c.idled).atomLost = (Core.reset c.phys).atomLost := rfl
@[simp] theorem Core.idled_watchdog : (c.idled).watchdog = (Core.reset c.phys).watchdog := rfl
@[simp] theorem Core.idled_coreTimer : (c.idled).coreTimer = (Core.reset c.phys).coreTimer := rfl
@[simp] theorem Core.idled_inject : (c.idled).inject = c.inject := rfl
@[simp] theorem Core.idled_beryl : (c.idled).beryl = c.beryl := rfl
@[simp] theorem Core.idled_roles : (c.idled).roles = c.roles := rfl
@[simp] theorem Core.idled_marked : (c.idled).marked = c.marked := rfl
@[simp] theorem Core.idled_lost : (c.idled).lost = c.lost := rfl
@[simp] theorem Core.idled_tlb : (c.idled).tlb = c.tlb := rfl
@[simp] theorem Core.idled_preload : (c.idled).preload = c.preload := rfl
@[simp] theorem Core.idled_bank : (c.idled).bank = c.bank := rfl

end Sys2Proof.Machine
end

