-- ==== Sys2Proof/Tests/Slice0.lean ====
section
/-! SUPPORT. Small tests: ill-formed operands are refused; words laid out from the manual's encodings decode to their
instructions, one for every op word; reserved encodings are refused by name; and for every statement with hypotheses a concrete
state and operands that meet them. Words of 32-bit op words come from the opcode table's fixed bits and field places, words of
64-bit op words from Table 4-3 and the field lists of chapters 05 to 09. -/

open Sys2Proof Sys2Proof.Machine

namespace Sys2Proof.Tests

set_option Elab.async false

/-! ## Ill-formed operands (check 2 of Table 4-6) -/

/-- One term for every operand check of `Instr.wellFormed`, each just outside a range. -/
theorem test_ill_formed_scalar : ([.add 64 0 0, .sub 0 64 0, .mul 0 0 64, .clz 64 0, .ctz 0 64, .sext 0 0 3, .zext 0 0 3, .sel 0 0 0 64,
    .bfx 0 0 64 1 0, .bfx 0 0 0 0 0, .bfx 0 0 0 65 0, .bfx 0 0 0 1 2, .bfi 0 0 0 0 0, .bfi 0 0 0 0 65, .addi 0 0 1024, .addi 0 0 (-1025),
    .addiLong 0 0 (2 ^ 31), .addiLong 0 0 (-2 ^ 31 - 1), .shli 0 0 64, .shli 0 0 (-1), .sraiLong 0 0 64, .movi 0 2 0, .movi 0 0 (2 ^ 32),
    .moviHi 64 0, .step 5 0 0 0, .step 0 0 0 2048, .step 0 0 1 0, .step 0 1 0 1, .step 0 2 0 0] : List Instr).all (fun i => !i.wellFormed) = true := by
  decide +kernel

theorem test_ill_formed_control : ([.beq 64 0 0, .bne 0 0 1024, .bltLong 0 0 (2 ^ 31), .bpany 64 0 0, .bpany 0 5 0, .bpnone 0 0 (-1025),
    .bpanyLong 0 5 0, .jmp 1024, .jmpLong (2 ^ 31), .jmpi 64, .ret 64, .call 64 0, .loop 0 1024, .callLong 0 (2 ^ 31), .calli 0 64,
    .safe 65536, .spawn 64 0, .suspend 64 0, .fuse 0 2, .trap 65536, .tret 64, .ctlr 6 0, .ctlw 0x27 0, .ctlw 0x11 0, .ctlw 0x4F 0,
    .sbDescriptorWrite 16 0, .getid 9 0, .time 64, .fmtset 16 0, .fence 5, .bar 256, .flset 64, .flwait 0 2, .sbacq 0 16, .sbrel 16] : List Instr).all
    (fun i => !i.wellFormed) = true := by
  decide +kernel

theorem test_ill_formed_memory : ([.ldb 64 0 1 0, .ldb 0 64 1 0, .ldb 0 0 0 0, .ldb 0 0 128 0, .ldd 0 0 1 (2 ^ 31), .vld 32 0 1 0, .vld 0 0 0 0,
    .stb 0 0 16 0, .vst 32 0 0 0, .vldp 0 0 0, .vldp 1 8 0, .vldpSet 1 0 64, .vstp 16 0 0, .vstpSave 8 0, .vgth 4 0 0 0 1 0, .vgth 0 0 0 0 0 0,
    .vgth 0 0 0 0 1 96, .vsct 0 0 0 0 96 0, .vsct 0 0 0 0 0 16, .tld 16 0 0 0 1, .tld 0 8 0 0 1, .tld 0 0 0 0 0, .tst 0 0 16 0 0, .prf 0 0 2 0,
    .spin 16 0, .sprel 0 64, .aadd ⟨0, 0, 0, 0, 0, 0, 0, 0⟩, .aadd ⟨1, 0, 1, 0, 0, 0, 0, 0⟩, .aadd ⟨1, 0, 0, 0, 1, 0, 0, 0⟩, .aadd ⟨0, 0, 1, 0, 0, 0, 1, 0⟩,
    .aadd ⟨0, 0, 1, 0, 0, 0, 0, 524288⟩, .afadd ⟨0, 1, 1, 0, 0, 0, 0, 0⟩, .acas ⟨0, 2, 1, 0, 0, 0, 0, 0⟩, .waita 2 0 0 0 0, .wake 0 0 64] : List Instr).all
    (fun i => !i.wellFormed) = true := by
  decide +kernel

theorem test_ill_formed_vector : ([.vadd ⟨0, 5, 0, 0, 0⟩, .vadd ⟨32, 0, 0, 0, 0⟩, .vadd ⟨0, 6, 0, 0, 0⟩, .vabs ⟨0, 0, 1, 0, 0⟩, .vfadd ⟨0, 0, 0, 0, 0⟩,
    .vfadd ⟨0, 6, 0, 0, 0⟩, .vfsqrt ⟨0, 3, 1, 0, 0⟩, .vaddLong ⟨0, 0, 0, 0, 1, 0, 0, 0⟩, .vaddLong ⟨0, 0, 0, 0, 0, 1, 0, 0⟩, .vaddLong ⟨0, 0, 0, 0, 0, 0, 96, 0⟩,
    .vaddLong ⟨6, 0, 0, 0, 0, 0, 0, 2⟩, .vaddLong ⟨7, 0, 0, 0, 0, 0, 0, 0⟩, .vandLong ⟨0, 0, 0, 0, 0, 0, 0, 2⟩, .vcmp ⟨0, 0, 0, 1, 0, 0, 0, 0⟩,
    .vcmp ⟨0, 0, 0, 0, 0, 0, 0, 0xA000⟩, .vfcmp ⟨3, 0, 0, 0, 0, 0, 0, 0x8000⟩, .vcmp ⟨0, 0, 0, 0, 0, 0, 0, 96⟩, .vsel ⟨7, 0, 0, 0, 0, 0, 0, 0⟩,
    .vcvt ⟨1, 0, 0, 0, 0, 0, 0, 0⟩, .vcvt ⟨0, 0, 0, 0, 0, 0, 0, 1⟩, .vcvt ⟨0, 0, 0, 0, 0, 0, 0, 0x8000⟩, .vqnt ⟨2, 0, 0, 0, 0, 0, 0, 0x4000⟩, .vi2f ⟨2, 0, 0, 0, 0, 0, 0, 0x1200⟩, .vqnt ⟨0, 0, 0, 0, 0, 0, 0, 0⟩, .vi2f ⟨5, 0, 0, 0, 0, 0, 0, 0x200⟩, .vf2i ⟨0, 0, 0, 0, 0, 0, 0, 0⟩,
    .vperm ⟨1, 0, 0, 0, 0, 0, 0, 0⟩, .vshuf ⟨0, 0, 0, 0, 0, 0, 0, 0⟩, .vslideLong ⟨3, 0, 0, 0, 0, 0, 0, 129⟩, .vbcastLong ⟨3, 0, 0, 0, 0, 0, 0, 0x880⟩,
    .vext ⟨1, 0, 0, 0, 0⟩, .vextLong ⟨3, 0, 0, 0, 0, 0, 0, 128⟩, .vins ⟨1, 0, 0, 0, 0⟩, .vinsLong ⟨3, 0, 0, 0, 0, 0, 0, 0x800⟩, .vcmpr ⟨0, 0, 1, 0, 0⟩,
    .vrmaxLong ⟨0, 0, 0, 0, 0, 0, 0, 4⟩, .vrminLong ⟨6, 0, 0, 0, 0, 0, 0, 2⟩, .vscanLong ⟨3, 0, 0, 0, 0, 0, 0, 6⟩, .vrfsum ⟨0, 4, 0, 0, 0⟩,
    .pand 96 0 0, .pnot 0 96, .pcnt 5 0 0, .pfirst 0 64 0, .psetn 0 0 96] : List Instr).all (fun i => !i.wellFormed) = true := by
  decide +kernel

theorem test_ill_formed_tile_and_engine : ([.tzero 5 0 0 0, .tzero 0 16 0 0, .tzero 0 0 0 2, .tmma 128 0 0 0 0, .tmma 0 10 0 0 0, .tmsr 0 0 8 0 0, .tmsr 25 0 0 0 0,
    .tdrainTile 16 0 0 0, .tdrainTile 0 0 8 0, .tdrainVector 0 128 0 0, .tdrainVector 0 0 32 0, .tdrainMemory 0 0 0 5 0 0, .tdrainMemory 0 0 0 3 1 0,
    .tdrainMemory 0 0 0 0 0 524288, .twr 2 0 0 0 0 0, .trdr 0 8 0 0 0 0, .trdc 0 0 0 1024 0, .tchk 0 31 0 0 0, .tgen 31 0 0 0, .cpost 8 0, .cwait 64 0,
    .ctest 64 0 0, .cqry 8 0, .dcfg 64, .vldx 0 0, .vldx 1 32, .vldxWait 64, .coll 64, .frel 16 0 0 0, .fchq 0 64 0, .tpost 64 0 0, .tcancel 0 64] :
    List Instr).all (fun i => !i.wellFormed) = true := by
  decide +kernel

/-! ## One word for every op word -/

theorem test_decode_I_short_1 :
  decodeOp .I 0x036CAE04 none = .ok (.add 23 25 27) ∧
  decodeOp .I 0x02071808 none = .ok (.sub 12 14 16) ∧
  decodeOp .I 0x00A1820C none = .ok (.mul 1 3 5) ∧
  decodeOp .I 0x034C2C10 none = .ok (.mulh 22 24 26) ∧
  decodeOp .I 0x01E69614 none = .ok (.mulhu 11 13 15) ∧
  decodeOp .I 0x00810018 none = .ok (.div 0 2 4) ∧
  decodeOp .I 0x032BAA1C none = .ok (.divu 21 23 25) ∧
  decodeOp .I 0x01C61420 none = .ok (.rem 10 12 14) ∧
  decodeOp .I 0x0060BE24 none = .ok (.remu 31 1 3) ∧
  decodeOp .I 0x030B2828 none = .ok (.and 20 22 24) ∧
  decodeOp .I 0x01A5922C none = .ok (.or 9 11 13) ∧
  decodeOp .I 0x00403C30 none = .ok (.xor 30 0 2) ∧
  decodeOp .I 0x02EAA634 none = .ok (.andn 19 21 23) ∧
  decodeOp .I 0x01851038 none = .ok (.shl 8 10 12) ∧
  decodeOp .I 0x002FBA3C none = .ok (.shr 29 31 1) := by
  exact ⟨rfl, rfl, rfl, rfl, rfl, rfl, rfl, rfl, rfl, rfl, rfl, rfl, rfl, rfl, rfl⟩

theorem test_decode_I_short_2 :
  decodeOp .I 0x02CA2440 none = .ok (.sra 18 20 22) ∧
  decodeOp .I 0x01648E44 none = .ok (.rotr 7 9 11) ∧
  decodeOp .I 0x000BAA48 none = .ok (.clz 21 23) ∧
  decodeOp .I 0x0002864C none = .ok (.ctz 3 5) ∧
  decodeOp .I 0x0009A250 none = .ok (.popc 17 19) ∧
  decodeOp .I 0x01440C54 none = .ok (.min 6 8 10) ∧
  decodeOp .I 0x03EEB658 none = .ok (.max 27 29 31) ∧
  decodeOp .I 0x0289205C none = .ok (.minu 16 18 20) ∧
  decodeOp .I 0x01238A60 none = .ok (.maxu 5 7 9) ∧
  decodeOp .I 0x03CE3464 none = .ok (.seq 26 28 30) ∧
  decodeOp .I 0x02689E68 none = .ok (.slt 15 17 19) ∧
  decodeOp .I 0x0103086C none = .ok (.sltu 4 6 8) ∧
  decodeOp .I 0x100A2470 none = .ok (.sext 18 20 2) ∧
  decodeOp .I 0x08010074 none = .ok (.zext 0 2 1) ∧
  decodeOp .I 0x800BAA84 none = .ok (.addi 21 23 (-1024)) := by
  exact ⟨rfl, rfl, rfl, rfl, rfl, rfl, rfl, rfl, rfl, rfl, rfl, rfl, rfl, rfl, rfl⟩

theorem test_decode_I_short_3 :
  decodeOp .I 0x7FE61488 none = .ok (.andi 10 12 1023) ∧
  decodeOp .I 0x8000BE8C none = .ok (.ori 31 1 (-1024)) ∧
  decodeOp .I 0x7FEB2890 none = .ok (.xori 20 22 1023) ∧
  decodeOp .I 0x07E20494 none = .ok (.shli 2 4 63) ∧
  decodeOp .I 0x00A92098 none = .ok (.shri 16 18 5) ∧
  decodeOp .I 0x05003C9C none = .ok (.srai 30 0 40) ∧
  decodeOp .I 0x800600A4 none = .ok (.step 3 0 0 (-2048)) ∧
  decodeOp .I 0x800F3900 none = .ok (.beq 28 30 (-1024)) ∧
  decodeOp .I 0x7FE9A304 none = .ok (.bne 17 19 1023) ∧
  decodeOp .I 0x80040D08 none = .ok (.blt 6 8 (-1024)) ∧
  decodeOp .I 0x7FEEB70C none = .ok (.bge 27 29 1023) ∧
  decodeOp .I 0x80092110 none = .ok (.bltu 16 18 (-1024)) ∧
  decodeOp .I 0x7FE38B14 none = .ok (.bgeu 5 7 1023) ∧
  decodeOp .I 0x80022718 none = .ok (.bpany 19 4 (-1024)) ∧
  decodeOp .I 0x8001031C none = .ok (.bpnone 1 2 (-1024)) := by
  exact ⟨rfl, rfl, rfl, rfl, rfl, rfl, rfl, rfl, rfl, rfl, rfl, rfl, rfl, rfl, rfl⟩

theorem test_decode_I_short_4 :
  decodeOp .I 0x80000120 none = .ok (.jmp (-1024)) ∧
  decodeOp .I 0x00001F24 none = .ok (.jmpi 15) ∧
  decodeOp .I 0x80003B28 none = .ok (.call 29 (-1024)) ∧
  decodeOp .I 0x0006972C none = .ok (.calli 11 13) ∧
  decodeOp .I 0x00002530 none = .ok (.ret 18) ∧
  decodeOp .I 0x7FE00134 none = .ok (.loop 0 1023) := by
  exact ⟨rfl, rfl, rfl, rfl, rfl, rfl⟩

theorem test_decode_I_long_1 :
  decodeOp .I 0x07909279 (some 0x00000033) = .ok (.sel 9 33 60 51) ∧
  decodeOp .I 0x0011147D (some 0x0000303F) = .ok (.bfx 10 34 63 64 1) ∧
  decodeOp .I 0x07D19681 (some 0x00000047) = .ok (.bfi 11 35 62 7 1) ∧
  decodeOp .I 0x00140A85 (some 0x80000000) = .ok (.addiLong 5 40 (-2147483648)) ∧
  decodeOp .I 0x00148C89 (some 0x7FFFFFFF) = .ok (.andiLong 6 41 2147483647) ∧
  decodeOp .I 0x00150E8D (some 0xFFFFFFFF) = .ok (.oriLong 7 42 (-1)) ∧
  decodeOp .I 0x00159091 (some 0x12345678) = .ok (.xoriLong 8 43 305419896) ∧
  decodeOp .I 0x00140A95 (some 0x00000000) = .ok (.shliLong 5 40 0) ∧
  decodeOp .I 0x00148C99 (some 0x0000003F) = .ok (.shriLong 6 41 63) ∧
  decodeOp .I 0x00150E9D (some 0x00000021) = .ok (.sraiLong 7 42 33) ∧
  decodeOp .I 0x00001AA1 (some 0xFEDCBA98) = .ok (.movi 13 0 0xFEDCBA98) ∧
  decodeOp .I 0x00201CA1 (some 0x80000001) = .ok (.movi 14 1 0x80000001) ∧
  decodeOp .I 0x00401EA1 (some 0x76543210) = .ok (.moviHi 15 0x76543210) ∧
  decodeOp .I 0x00190701 (some 0x00100000) = .ok (.beqLong 3 50 1048576) ∧
  decodeOp .I 0x00198905 (some 0xFFEFFFFF) = .ok (.bneLong 4 51 (-1048577)) := by
  exact ⟨rfl, rfl, rfl, rfl, rfl, rfl, rfl, rfl, rfl, rfl, rfl, rfl, rfl, rfl, rfl⟩

theorem test_decode_I_long_2 :
  decodeOp .I 0x001A0B09 (some 0x00100002) = .ok (.bltLong 5 52 1048578) ∧
  decodeOp .I 0x001A8D0D (some 0xFFEFFFFD) = .ok (.bgeLong 6 53 (-1048579)) ∧
  decodeOp .I 0x001B0F11 (some 0x00100004) = .ok (.bltuLong 7 54 1048580) ∧
  decodeOp .I 0x001B9115 (some 0xFFEFFFFB) = .ok (.bgeuLong 8 55 (-1048581)) ∧
  decodeOp .I 0x00027B19 (some 0xFFFFFFF9) = .ok (.bpanyLong 61 4 (-7)) ∧
  decodeOp .I 0x0000851D (some 0x00001B58) = .ok (.bpnoneLong 2 1 7000) ∧
  decodeOp .I 0x00000121 (some 0xFFFEEE90) = .ok (.jmpLong (-70000)) ∧
  decodeOp .I 0x00007F29 (some 0x00011170) = .ok (.callLong 63 70000) ∧
  decodeOp .I 0x00002B35 (some 0xFFFFFFF4) = .ok (.loopLong 21 (-12)) := by
  exact ⟨rfl, rfl, rfl, rfl, rfl, rfl, rfl, rfl, rfl⟩

theorem test_decode_M_short_1 :
  decodeOp .M 0x18000A48 none = .ok (.vldp 12 0 5) ∧
  decodeOp .M 0xFEE70048 none = .ok (.vldpSet 127 6 28) ∧
  decodeOp .M 0x4030104C none = .ok (.vstp 4 3 8) ∧
  decodeOp .M 0x0097C04C none = .ok (.vstpSave 1 31) ∧
  decodeOp .M 0x00E6806C none = .ok (.spin 7 13) ∧
  decodeOp .M 0x00AD8070 none = .ok (.sprel 5 27) ∧
  decodeOp .M 0x0A4800C4 none = .ok (.wake 1 18 16) := by
  exact ⟨rfl, rfl, rfl, rfl, rfl, rfl, rfl⟩

theorem test_decode_M_long_1 :
  decodeOp .M 0x003FA805 (some 0x00100000) = .ok (.ldb 20 63 1 1048576) ∧
  decodeOp .M 0x0FFF2A09 (some 0xFFEFFFF8) = .ok (.ldbs 21 62 127 (-1048584)) ∧
  decodeOp .M 0x019EAC0D (some 0x00100010) = .ok (.ldh 22 61 12 1048592) ∧
  decodeOp .M 0x081E2E11 (some 0xFFEFFFE8) = .ok (.ldhs 23 60 64 (-1048600)) ∧
  decodeOp .M 0x043DB015 (some 0x00100020) = .ok (.ldw 24 59 33 1048608) ∧
  decodeOp .M 0x013D3219 (some 0xFFEFFFD8) = .ok (.ldws 25 58 9 (-1048616)) ∧
  decodeOp .M 0x0C9CB41D (some 0x00100030) = .ok (.ldd 26 57 100 1048624) ∧
  decodeOp .M 0xF0023C21 (some 0x00000000) = .ok (.stb 30 4 15 0) ∧
  decodeOp .M 0xC002BE25 (some 0xFFFFFFFB) = .ok (.sth 31 5 12 (-5)) ∧
  decodeOp .M 0x90034029 (some 0xFFFFFFF6) = .ok (.stw 32 6 9 (-10)) ∧
  decodeOp .M 0x6003C22D (some 0xFFFFFFF1) = .ok (.std 33 7 6 (-15)) ∧
  decodeOp .M 0x029F3E41 (some 0x00000200) = .ok (.vld 31 62 20 512) ∧
  decodeOp .M 0x901EBC45 (some 0xFFFFFE00) = .ok (.vst 30 61 9 (-512)) ∧
  decodeOp .M 0x04910651 (some 0x657C0000) = .ok (.vgth 2 9 4 3 50 95) ∧
  decodeOp .M 0x03EF2255 (some 0x010B4000) = .ok (.vsct 1 30 60 17 66 13) := by
  exact ⟨rfl, rfl, rfl, rfl, rfl, rfl, rfl, rfl, rfl, rfl, rfl, rfl, rfl, rfl, rfl⟩

theorem test_decode_M_long_2 :
  decodeOp .M 0x34830061 (some 0x78000000) = .ok (.tld 3 2 4 6 60) ∧
  decodeOp .M 0xCFD48065 (some 0x00A00000) = .ok (.tst 12 7 14 41 5) ∧
  decodeOp .M 0xF0160269 (some 0xFFFFF000) = .ok (.prf 15 44 1 (-4096)) ∧
  decodeOp .M 0x03D95081 (some 0x84080000) = .ok (.aadd ⟨0, 0, 30, 50, 40, 33, 0, (-524288)⟩) ∧
  decodeOp .M 0x80188085 (some 0x8807FFFF) = .ok (.afadd ⟨1, 0, 0, 49, 0, 34, 0, 524287⟩) ∧
  decodeOp .M 0x44185489 (some 0x8C000040) = .ok (.axchg ⟨0, 1, 32, 48, 42, 35, 0, 64⟩) ∧
  decodeOp .M 0xC017808D (some 0x915FFFF8) = .ok (.acas ⟨1, 1, 0, 47, 0, 36, 21, (-8)⟩) ∧
  decodeOp .M 0x04575891 (some 0x94080000) = .ok (.aand ⟨0, 0, 34, 46, 44, 37, 0, (-524288)⟩) ∧
  decodeOp .M 0x80168095 (some 0x9807FFFF) = .ok (.aor ⟨1, 0, 0, 45, 0, 38, 0, 524287⟩) ∧
  decodeOp .M 0x44965C99 (some 0x9C000040) = .ok (.axor ⟨0, 1, 36, 44, 46, 39, 0, 64⟩) ∧
  decodeOp .M 0xC015809D (some 0xA00FFFF8) = .ok (.amin ⟨1, 1, 0, 43, 0, 40, 0, (-8)⟩) ∧
  decodeOp .M 0x04D560A1 (some 0xA4080000) = .ok (.amax ⟨0, 0, 38, 42, 48, 41, 0, (-524288)⟩) ∧
  decodeOp .M 0x801480A5 (some 0xA807FFFF) = .ok (.aminu ⟨1, 0, 0, 41, 0, 42, 0, 524287⟩) ∧
  decodeOp .M 0x451464A9 (some 0xAC000040) = .ok (.amaxu ⟨0, 1, 40, 40, 50, 43, 0, 64⟩) ∧
  decodeOp .M 0x801380AD (some 0xB00FFFF8) = .ok (.afmin ⟨1, 0, 0, 39, 0, 44, 0, (-8)⟩) := by
  exact ⟨rfl, rfl, rfl, rfl, rfl, rfl, rfl, rfl, rfl, rfl, rfl, rfl, rfl, rfl, rfl⟩

theorem test_decode_M_long_3 :
  decodeOp .M 0x055368B1 (some 0xB4080000) = .ok (.afmax ⟨0, 0, 42, 38, 52, 45, 0, (-524288)⟩) ∧
  decodeOp .M 0x40020AC1 (some 0x180FFFF0) = .ok (.waita 1 4 5 6 (-16)) := by
  exact ⟨rfl, rfl⟩

theorem test_decode_V_short_1 :
  decodeOp .V 0x44731404 none = .ok (.vadd ⟨8, 4, 14, 12, 10⟩) ∧
  decodeOp .V 0x5C8BDA08 none = .ok (.vsub ⟨11, 4, 17, 15, 13⟩) ∧
  decodeOp .V 0x74A4A00C none = .ok (.vmul ⟨14, 4, 20, 18, 16⟩) ∧
  decodeOp .V 0x8CBD6610 none = .ok (.vmulh ⟨17, 4, 23, 21, 19⟩) ∧
  decodeOp .V 0xA4D62C18 none = .ok (.vmin ⟨20, 4, 26, 24, 22⟩) ∧
  decodeOp .V 0xBCEEF21C none = .ok (.vmax ⟨23, 4, 29, 27, 25⟩) ∧
  decodeOp .V 0xD405EA20 none = .ok (.vabs ⟨26, 4, 0, 23, 21⟩) ∧
  decodeOp .V 0xB304E224 none = .ok (.vneg ⟨22, 3, 0, 19, 17⟩) ∧
  decodeOp .V 0x92C5A828 none = .ok (.vand ⟨18, 2, 24, 22, 20⟩) ∧
  decodeOp .V 0xAADE6E2C none = .ok (.vor ⟨21, 2, 27, 25, 23⟩) ∧
  decodeOp .V 0xC2F73430 none = .ok (.vxor ⟨24, 2, 30, 28, 26⟩) ∧
  decodeOp .V 0xDA062C34 none = .ok (.vnot ⟨27, 2, 0, 24, 22⟩) ∧
  decodeOp .V 0xB9EEF238 none = .ok (.vshl ⟨23, 1, 29, 27, 25⟩) ∧
  decodeOp .V 0xD107B83C none = .ok (.vshr ⟨26, 1, 0, 30, 28⟩) ∧
  decodeOp .V 0xE9187E40 none = .ok (.vsra ⟨29, 1, 3, 1, 31⟩) := by
  exact ⟨rfl, rfl, rfl, rfl, rfl, rfl, rfl, rfl, rfl, rfl, rfl, rfl, rfl, rfl, rfl⟩

theorem test_decode_V_short_2 :
  decodeOp .V 0x0107764C none = .ok (.vpopc ⟨0, 1, 0, 29, 27⟩) ∧
  decodeOp .V 0xE0066E50 none = .ok (.vclz ⟨28, 0, 0, 25, 23⟩) ∧
  decodeOp .V 0xC3F73480 none = .ok (.vfadd ⟨24, 3, 30, 28, 26⟩) ∧
  decodeOp .V 0xDD0FFA84 none = .ok (.vfsub ⟨27, 5, 1, 31, 29⟩) ∧
  decodeOp .V 0xF3208088 none = .ok (.vfmul ⟨30, 3, 4, 2, 0⟩) ∧
  decodeOp .V 0x0A394690 none = .ok (.vfmin ⟨1, 2, 7, 5, 3⟩) ∧
  decodeOp .V 0x25520C94 none = .ok (.vfmax ⟨4, 5, 10, 8, 6⟩) ∧
  decodeOp .V 0x3A010498 none = .ok (.vfabs ⟨7, 2, 0, 4, 2⟩) ∧
  decodeOp .V 0x1D003C9C none = .ok (.vfneg ⟨3, 5, 0, 0, 30⟩) ∧
  decodeOp .V 0xFA28C2A4 none = .ok (.vfdiv ⟨31, 2, 5, 3, 1⟩) ∧
  decodeOp .V 0x1507FAA8 none = .ok (.vfsqrt ⟨2, 5, 0, 31, 29⟩) ∧
  decodeOp .V 0xF306F2AC none = .ok (.vrcp ⟨30, 3, 0, 27, 25⟩) ∧
  decodeOp .V 0xD305EAB0 none = .ok (.vrsq ⟨26, 3, 0, 23, 21⟩) ∧
  decodeOp .V 0xB504E2B4 none = .ok (.vexp2 ⟨22, 5, 0, 19, 17⟩) ∧
  decodeOp .V 0x9303DAB8 none = .ok (.vlog2 ⟨18, 3, 0, 15, 13⟩) := by
  exact ⟨rfl, rfl, rfl, rfl, rfl, rfl, rfl, rfl, rfl, rfl, rfl, rfl, rfl, rfl, rfl⟩

theorem test_decode_V_short_3 :
  decodeOp .V 0x7302D2BC none = .ok (.vtanh ⟨14, 3, 0, 11, 9⟩) ∧
  decodeOp .V 0x548398E8 none = .ok (.vslide ⟨10, 4, 16, 14, 12⟩) ∧
  decodeOp .V 0x690290EC none = .ok (.vbcast ⟨13, 1, 0, 10, 8⟩) ∧
  decodeOp .V 0x044188F0 none = .ok (.vext ⟨0, 4, 8, 6, 4⟩) ∧
  decodeOp .V 0x032080F4 none = .ok (.vins ⟨0, 3, 4, 2, 0⟩) ∧
  decodeOp .V 0x0B07B8F8 none = .ok (.vcmpr ⟨1, 3, 0, 30, 28⟩) ∧
  decodeOp .V 0xEA06B0FC none = .ok (.vexpd ⟨29, 2, 0, 26, 24⟩) ∧
  decodeOp .V 0xC905A900 none = .ok (.vrsum ⟨25, 1, 0, 22, 20⟩) ∧
  decodeOp .V 0xAA04A104 none = .ok (.vrfsum ⟨21, 2, 0, 18, 16⟩) ∧
  decodeOp .V 0x8C039908 none = .ok (.vrmax ⟨17, 4, 0, 14, 12⟩) ∧
  decodeOp .V 0x6B02910C none = .ok (.vrmin ⟨13, 3, 0, 10, 8⟩) ∧
  decodeOp .V 0x4A018910 none = .ok (.vscan ⟨9, 2, 0, 6, 4⟩) ∧
  decodeOp .V 0x059B1740 none = .ok (.pand 11 27 11) ∧
  decodeOp .V 0x00100144 none = .ok (.por 0 16 0) ∧
  decodeOp .V 0x0A852B48 none = .ok (.pxor 21 5 21) := by
  exact ⟨rfl, rfl, rfl, rfl, rfl, rfl, rfl, rfl, rfl, rfl, rfl, rfl, rfl, rfl, rfl⟩

theorem test_decode_V_short_4 :
  decodeOp .V 0x051A014C none = .ok (.pnot 10 26) ∧
  decodeOp .V 0x0C083150 none = .ok (.pandn 24 8 24) ∧
  decodeOp .V 0x839D0154 none = .ok (.pcnt 4 7 29) ∧
  decodeOp .V 0x2A8B0158 none = .ok (.pfirst 1 21 11) ∧
  decodeOp .V 0x6190015C none = .ok (.psetn 3 3 16) ∧
  decodeOp .V 0x0B870160 none = .ok (.pmov 23 7) := by
  exact ⟨rfl, rfl, rfl, rfl, rfl, rfl⟩

theorem test_decode_V_long_1 :
  decodeOp .V 0x01F1D605 (some 0x0002005E) = .ok (.vaddLong ⟨1, 30, 7, 11, 0, 0, 94, 2⟩) ∧
  decodeOp .V 0x02EBAC09 (some 0x0002005D) = .ok (.vsubLong ⟨2, 29, 14, 22, 0, 0, 93, 2⟩) ∧
  decodeOp .V 0x06E5420D (some 0x0000C05C) = .ok (.vmulLong ⟨6, 28, 21, 1, 12, 0, 92, 0⟩) ∧
  decodeOp .V 0x04DF1811 (some 0x0002005B) = .ok (.vmulhLong ⟨4, 27, 28, 12, 0, 0, 91, 2⟩) ∧
  decodeOp .V 0x00D0EE19 (some 0x0002005A) = .ok (.vminLong ⟨0, 26, 3, 23, 0, 0, 90, 2⟩) ∧
  decodeOp .V 0x06CA841D (some 0x00009059) = .ok (.vmaxLong ⟨6, 25, 10, 2, 9, 0, 89, 0⟩) ∧
  decodeOp .V 0x02045A21 (some 0x00000058) = .ok (.vabsLong ⟨2, 0, 17, 13, 0, 0, 88, 0⟩) ∧
  decodeOp .V 0x03063025 (some 0x00000057) = .ok (.vnegLong ⟨3, 0, 24, 24, 0, 0, 87, 0⟩) ∧
  decodeOp .V 0x06B7C629 (some 0x00006056) = .ok (.vandLong ⟨6, 22, 31, 3, 6, 0, 86, 0⟩) ∧
  decodeOp .V 0x00A99C2D (some 0x00000055) = .ok (.vorLong ⟨0, 21, 6, 14, 0, 0, 85, 0⟩) ∧
  decodeOp .V 0x01A37231 (some 0x00000054) = .ok (.vxorLong ⟨1, 20, 13, 25, 0, 0, 84, 0⟩) ∧
  decodeOp .V 0x06050835 (some 0x00003053) = .ok (.vnotLong ⟨6, 0, 20, 4, 3, 0, 83, 0⟩) ∧
  decodeOp .V 0x0396DE39 (some 0x00020052) = .ok (.vshlLong ⟨3, 18, 27, 15, 0, 0, 82, 2⟩) ∧
  decodeOp .V 0x0488B43D (some 0x00000051) = .ok (.vshrLong ⟨4, 17, 2, 26, 0, 0, 81, 0⟩) ∧
  decodeOp .V 0x06824A41 (some 0x00000050) = .ok (.vsraLong ⟨6, 16, 9, 5, 0, 0, 80, 0⟩) := by
  exact ⟨rfl, rfl, rfl, rfl, rfl, rfl, rfl, rfl, rfl, rfl, rfl, rfl, rfl, rfl, rfl⟩

theorem test_decode_V_long_2 :
  decodeOp .V 0x0104204D (some 0x0000004F) = .ok (.vpopcLong ⟨1, 0, 16, 16, 0, 0, 79, 0⟩) ∧
  decodeOp .V 0x0205F651 (some 0x0000004E) = .ok (.vclzLong ⟨2, 0, 23, 27, 0, 0, 78, 0⟩) ∧
  decodeOp .V 0x011F9815 (some 0x00020EA1) = .ok (.vmad ⟨1, 3, 30, 12, 0, 29, 33, 2⟩) ∧
  decodeOp .V 0x03104045 (some 0x905F0040) = .ok (.vcmp ⟨3, 2, 1, 0, 0, 0, 64, 36959⟩) ∧
  decodeOp .V 0x03188249 (some 0x00550009) = .ok (.vsel ⟨3, 3, 2, 1, 0, 0, 9, 85⟩) ∧
  decodeOp .V 0x055E9481 (some 0x00000052) = .ok (.vfaddLong ⟨5, 11, 26, 10, 0, 0, 82, 0⟩) ∧
  decodeOp .V 0x0657EE85 (some 0x0000B053) = .ok (.vfsubLong ⟨6, 10, 31, 23, 11, 0, 83, 0⟩) ∧
  decodeOp .V 0x02490889 (some 0x00000054) = .ok (.vfmulLong ⟨2, 9, 4, 4, 0, 0, 84, 0⟩) ∧
  decodeOp .V 0x03426291 (some 0x00000055) = .ok (.vfminLong ⟨3, 8, 9, 17, 0, 0, 85, 0⟩) ∧
  decodeOp .V 0x053BBC95 (some 0x00000056) = .ok (.vfmaxLong ⟨5, 7, 14, 30, 0, 0, 86, 0⟩) ∧
  decodeOp .V 0x0604D699 (some 0x0000B057) = .ok (.vfabsLong ⟨6, 0, 19, 11, 11, 0, 87, 0⟩) ∧
  decodeOp .V 0x0206309D (some 0x00000058) = .ok (.vfnegLong ⟨2, 0, 24, 24, 0, 0, 88, 0⟩) ∧
  decodeOp .V 0x03274AA5 (some 0x00000059) = .ok (.vfdivLong ⟨3, 4, 29, 5, 0, 0, 89, 0⟩) ∧
  decodeOp .V 0x0500A4A9 (some 0x0000005A) = .ok (.vfsqrtLong ⟨5, 0, 2, 18, 0, 0, 90, 0⟩) ∧
  decodeOp .V 0x0601FEAD (some 0x0000B05B) = .ok (.vrcpLong ⟨6, 0, 7, 31, 11, 0, 91, 0⟩) := by
  exact ⟨rfl, rfl, rfl, rfl, rfl, rfl, rfl, rfl, rfl, rfl, rfl, rfl, rfl, rfl, rfl⟩

theorem test_decode_V_long_3 :
  decodeOp .V 0x020318B1 (some 0x0000005C) = .ok (.vrsqLong ⟨2, 0, 12, 12, 0, 0, 92, 0⟩) ∧
  decodeOp .V 0x030472B5 (some 0x0000005D) = .ok (.vexp2Long ⟨3, 0, 17, 25, 0, 0, 93, 0⟩) ∧
  decodeOp .V 0x05058CB9 (some 0x0000005E) = .ok (.vlog2Long ⟨5, 0, 22, 6, 0, 0, 94, 0⟩) ∧
  decodeOp .V 0x0606E6BD (some 0x0000B040) = .ok (.vtanhLong ⟨6, 0, 27, 19, 11, 0, 64, 0⟩) ∧
  decodeOp .V 0x02000105 (some 0x00000041) = .ok (.vrfsumLong ⟨2, 0, 0, 0, 0, 0, 65, 0⟩) ∧
  decodeOp .V 0x063A128D (some 0x0000E55F) = .ok (.vfma ⟨6, 7, 8, 9, 14, 10, 95, 0⟩) ∧
  decodeOp .V 0x05A540A1 (some 0x70400005) = .ok (.vfcmp ⟨5, 20, 21, 0, 0, 0, 5, 28736⟩) ∧
  decodeOp .V 0x000082C1 (some 0x31007004) = .ok (.vcvt ⟨0, 0, 2, 1, 7, 0, 4, 12544⟩) ∧
  decodeOp .V 0x03008AC5 (some 0x00122000) = .ok (.vqnt ⟨3, 0, 2, 5, 2, 0, 0, 18⟩) ∧
  decodeOp .V 0x020736C9 (some 0x107ED04D) = .ok (.vdqnt ⟨2, 0, 28, 27, 13, 0, 77, 4222⟩) ∧
  decodeOp .V 0x0401B4CD (some 0x26809002) = .ok (.vi2f ⟨4, 0, 6, 26, 9, 0, 2, 9856⟩) ∧
  decodeOp .V 0x00041ED1 (some 0x02000003) = .ok (.vf2i ⟨0, 0, 16, 15, 0, 0, 3, 512⟩) ∧
  decodeOp .V 0x025B1AE1 (some 0x0000070F) = .ok (.vperm ⟨2, 11, 12, 13, 0, 14, 15, 0⟩) ∧
  decodeOp .V 0x0105AEE5 (some 0x00000C19) = .ok (.vshuf ⟨1, 0, 22, 23, 0, 24, 25, 0⟩) ∧
  decodeOp .V 0x000886E9 (some 0x0C000004) = .ok (.vslideLong ⟨0, 1, 2, 3, 0, 0, 4, 3072⟩) := by
  exact ⟨rfl, rfl, rfl, rfl, rfl, rfl, rfl, rfl, rfl, rfl, rfl, rfl, rfl, rfl, rfl⟩

theorem test_decode_V_long_4 :
  decodeOp .V 0x010250ED (some 0x09FF0007) = .ok (.vbcastLong ⟨1, 0, 9, 8, 0, 0, 7, 2559⟩) ∧
  decodeOp .V 0x0307BEF1 (some 0x087F0000) = .ok (.vextLong ⟨3, 0, 30, 31, 0, 0, 0, 2175⟩) ∧
  decodeOp .V 0x040044F5 (some 0x003F0000) = .ok (.vinsLong ⟨4, 0, 1, 2, 0, 0, 0, 63⟩) ∧
  decodeOp .V 0x0500C8F9 (some 0x0000005A) = .ok (.vcmprLong ⟨5, 0, 3, 4, 0, 0, 90, 0⟩) ∧
  decodeOp .V 0x06035CFD (some 0x0000305B) = .ok (.vexpdLong ⟨6, 0, 13, 14, 3, 0, 91, 0⟩) ∧
  decodeOp .V 0x0404E501 (some 0x0002005C) = .ok (.vrsumLong ⟨4, 0, 19, 18, 0, 0, 92, 2⟩) ∧
  decodeOp .V 0x03050F09 (some 0x0004005D) = .ok (.vrmaxLong ⟨3, 0, 20, 7, 0, 0, 93, 4⟩) ∧
  decodeOp .V 0x02054D0D (some 0x0002005E) = .ok (.vrminLong ⟨2, 0, 21, 6, 0, 0, 94, 2⟩) ∧
  decodeOp .V 0x0605CB11 (some 0x0004105F) = .ok (.vscanLong ⟨6, 0, 23, 5, 1, 0, 95, 4⟩) := by
  exact ⟨rfl, rfl, rfl, rfl, rfl, rfl, rfl, rfl, rfl⟩

theorem test_decode_X_short_1 :
  decodeOp .X 0x0012DA04 none = .ok (.tzero 4 11 6 1) ∧
  decodeOp .X 0x01F9D008 none = .ok (.tmma 31 9 6 4 0) ∧
  decodeOp .X 0x0141400C none = .ok (.tmsr 20 1 2 0 0) ∧
  decodeOp .X 0x0FC05210 none = .ok (.tdrainTile 7 14 5 1) ∧
  decodeOp .X 0x584DD010 none = .ok (.tdrainVector 12 19 29 0) ∧
  decodeOp .X 0x8FB1D814 none = .ok (.twr 1 0 15 22 29 4) ∧
  decodeOp .X 0xA9007C18 none = .ok (.trdr 1 2 9 0 7 6) ∧
  decodeOp .X 0xE0C0A21C none = .ok (.trdc 1 12 3 10 1) ∧
  decodeOp .X 0x31EF6A20 none = .ok (.tchk 24 30 15 6 5) ∧
  decodeOp .X 0x0074B424 none = .ok (.tgen 7 4 11 2) := by
  exact ⟨rfl, rfl, rfl, rfl, rfl, rfl, rfl, rfl, rfl, rfl⟩

theorem test_decode_X_long_1 :
  decodeOp .X 0x84006211 (some 0x9E0FFE00) = .ok (.tdrainMemory 2 6 1 4 15 (-512)) := by
  exact rfl

theorem test_decode_E_short_1 :
  decodeOp .E 0x01579A04 none = .ok (.safe 43981) ∧
  decodeOp .E 0x002F8008 none = .ok (.spawn 31 1) ∧
  decodeOp .E 0x0024680C none = .ok (.join 4660) ∧
  decodeOp .E 0x0CFFFC10 none = .ok (.suspend 6 32766) ∧
  decodeOp .E 0x01000214 none = .ok (.yield 32769) ∧
  decodeOp .E 0x00000018 none = .ok (.exit) ∧
  decodeOp .E 0x0000361C none = .ok (.fuse 13 1) ∧
  decodeOp .E 0x00000020 none = .ok (.decpl) ∧
  decodeOp .E 0x00000024 none = .ok (.rejn) ∧
  decodeOp .E 0x01FFFE40 none = .ok (.trap 65535) ∧
  decodeOp .E 0x00003644 none = .ok (.tret 27) ∧
  decodeOp .E 0x00008444 none = .ok (.tretNext 2) ∧
  decodeOp .E 0x00010A48 none = .ok (.ctlr 2 5) ∧
  decodeOp .E 0x0010204C none = .ok (.ctlw 32 16) ∧
  decodeOp .E 0x00041C50 none = .ok (.getid 8 14) := by
  exact ⟨rfl, rfl, rfl, rfl, rfl, rfl, rfl, rfl, rfl, rfl, rfl, rfl, rfl, rfl, rfl⟩

theorem test_decode_E_short_2 :
  decodeOp .E 0x00002A54 none = .ok (.time 21) ∧
  decodeOp .E 0x00000A58 none = .ok (.hbeat 5) ∧
  decodeOp .E 0x0006A65C none = .ok (.fmtset 13 19) ∧
  decodeOp .E 0x0001FE60 none = .ok (.brk 255) ∧
  decodeOp .E 0x00000880 none = .ok (.fence 4) ∧
  decodeOp .E 0x00014A84 none = .ok (.bar 165) ∧
  decodeOp .E 0x00001688 none = .ok (.flset 11) ∧
  decodeOp .E 0x0000248C none = .ok (.flclr 18) ∧
  decodeOp .E 0x00008090 none = .ok (.flwait 0 1) ∧
  decodeOp .E 0x00068C94 none = .ok (.sbacq 13 6) ∧
  decodeOp .E 0x00001A98 none = .ok (.sbrel 13) ∧
  decodeOp .E 0x0000B6C0 none = .ok (.cpost 3 11) ∧
  decodeOp .E 0x000100C4 none = .ok (.cwait 0 2) ∧
  decodeOp .E 0x030BAAC8 none = .ok (.ctest 24 21 23) ∧
  decodeOp .E 0x000000CC none = .ok (.cpinv) := by
  exact ⟨rfl, rfl, rfl, rfl, rfl, rfl, rfl, rfl, rfl, rfl, rfl, rfl, rfl, rfl, rfl⟩

theorem test_decode_E_short_3 :
  decodeOp .E 0x000138D0 none = .ok (.cqry 4 19) ∧
  decodeOp .E 0x000014E0 none = .ok (.dcfg 10) ∧
  decodeOp .E 0x420010E4 none = .ok (.vldx 33 8) ∧
  decodeOp .E 0x01001EE4 none = .ok (.vldxWait 15) ∧
  decodeOp .E 0x00003EE8 none = .ok (.coll 31) ∧
  decodeOp .E 0x3ACA24F0 none = .ok (.frel 7 22 20 18) ∧
  decodeOp .E 0x18048EF4 none = .ok (.fchq 3 9 7) ∧
  decodeOp .E 0x000F38F8 none = .ok (.tpost 0 30 28) ∧
  decodeOp .E 0x000614FC none = .ok (.tcancel 12 10) := by
  exact ⟨rfl, rfl, rfl, rfl, rfl, rfl, rfl, rfl, rfl⟩

/-! ## Bundles: the disassembly example of chapter 04 -/

theorem test_bundle_load : decodeBundle [0x00040017, 0x05001284, 0x01820E1D, 0x00000080] =
    .ok ⟨⟨5, 0, false, false, 4⟩, 0, false, [⟨.i1, .addi 9 0 40, {}⟩, ⟨.m1, .ldd 7 4 12 128, {}⟩], false⟩ := by rfl

theorem test_bundle_rounding : decodeBundle [0x00030043, 0x00000022, 0x03188280] =
    .ok ⟨⟨16, 0, false, false, 3⟩, 0, false, [⟨.v1, .vfadd ⟨0, 3, 3, 2, 1⟩, { rnd := some 1 }⟩], false⟩ := by rfl

theorem test_bundle_safe : decodeBundle [0x00038207, 0x00E41004, 0x00000604] =
    .ok ⟨⟨0x81, 0, false, true, 3⟩, 0, false, [⟨.i1, .add 8 8 7, {}⟩, ⟨.e, .safe 3, {}⟩], false⟩ := by rfl

theorem test_bundle_branch : decodeBundle [0x0002000B, 0x01C49104] =
    .ok ⟨⟨2, 0, false, false, 2⟩, 0, false, [⟨.i2, .bne 8 9 14, {}⟩], false⟩ := by rfl

theorem test_bundle_guard : decodeBundle [0x00030007, 0x000000EA, 0x01051404] =
    .ok ⟨⟨1, 0, false, false, 3⟩, 0, false, [⟨.i1, .add 10 10 8, { guard := some 7 }⟩], false⟩ := by rfl

theorem test_bundle_scope : decodeBundle [0x00040013, 0x0000006E, 0x02828841, 0x00000000] =
    .ok ⟨⟨4, 0, false, false, 4⟩, 3, true, [⟨.m1, .vld 4 5 20 0, {}⟩], false⟩ := by rfl

/-- SAT after the last op word of the bundle is orphaned (R65). -/
theorem test_bundle_trailing_prefix : decodeBundle [0x00050047, 0x00259684, 0x00000042, 0x03204A88, 0x00000006] =
    .ok ⟨⟨17, 0, false, false, 5⟩, 0, false, [⟨.i1, .addi 11 11 1, {}⟩, ⟨.v1, .vfmul ⟨0, 3, 4, 1, 5⟩, { rnd := some 2 }⟩], true⟩ := by rfl

/-! ## Refused by name -/

/-- A word that is no header; header bits 31:22 not zero; a word count of 0, too small, too large; an op word missing for a mask bit;
an op word of kind 64 without its operand; a control instruction in I1; a prefix of kind 4 and a rounding mode 6; the same prefix
twice; SCOPE after an op word; a non-zero unused field; an unassigned major opcode. -/
theorem test_bundle_refused :
    decodeBundle [0x05001284] = .error .notHeader ∧ decodeBundle [0x00410003] = .error .reservedHeader ∧
    decodeBundle [0x00000003] = .error .wordCount ∧ decodeBundle [0x00010007, 0x05001284] = .error .wordCount ∧
    decodeBundle [0x00020007] = .error .wordCount ∧ decodeBundle [0x0002000F, 0x05001284] = .error .structure ∧
    decodeBundle [0x00020013, 0x01820E1D] = .error .structure ∧ decodeBundle [0x00020007, 0x01C49104] = .error .slotClass ∧
    decodeBundle [0x00030007, 0x00000012, 0x05001284] = .error .prefixKind ∧ decodeBundle [0x00030043, 0x000000C2, 0x03188280] = .error .prefixArg ∧
    decodeBundle [0x00040043, 0x00000022, 0x00000022, 0x03188280] = .error .twicePrefixed ∧
    decodeBundle [0x00030007, 0x05001284, 0x0000006E] = .error .prefixPlace ∧
    decodeBundle [0x00020007, 0x08000004] = .error .nonZeroField ∧ decodeBundle [0x00020007, 0x000001FC] = .error .unassignedOp := by
  refine ⟨rfl, rfl, rfl, rfl, rfl, rfl, rfl, rfl, rfl, rfl, rfl, rfl, rfl, rfl⟩

/-- Bits above the table's count are 0, and the first class that accepts the word answers: the ADD word as the host asks for it,
PHASE, and a word no class accepts. -/
theorem test_table_words : decodeTableWord 32 0x00E41004 = some (.add 8 8 7) ∧ decodeTableWord 32 0x00018003 = some .phase ∧
    decodeTableWord 32 0xFFFFFFFC = none := ⟨rfl, rfl, rfl⟩

/-! ## Hypotheses that are met

For every statement with hypotheses: states and operands that meet them, for every clause that completes or stops somewhere,
at a boundary of its range where it has one. -/

/-- The checks admit the access. -/
def admitted : Checked → Bool
  | .ok _ => true
  | _ => false

/-- The checks answer this trap number. -/
def trapped (n : TrapNo) : Checked → Bool
  | .trap t => t.no == n
  | _ => false

/-- The checks make the core wait. -/
def waits : Checked → Bool
  | .freeze _ => true
  | _ => false

theorem admits {r : Checked} (h : admitted r = true) : ∃ ps, r = .ok ps := by
  cases r <;> simp_all [admitted]

/-- The answer is a next state of which `p` holds. -/
def nextHas (p : State → Bool) : Host.Outcome State Fault Refusal → Bool
  | .next t => p t
  | _ => false

/-- The bytes that placing ADD S8, S8, S7 lists: the root entry, the 1 GiB leaf, the bundle and the record of Step.lean. -/
def demoMem : Memory :=
  [(0x40000001, 0x01), (0x40000002, 0x40), (0x40000007, 0x80), (0x40010001, 0x40), (0x40010005, 0x1C), (0x40010007, 0xC0),
   (0x40200000, 0x07), (0x40200002, 0x02), (0x40200004, 0x04), (0x40200005, 0x10), (0x40200006, 0xE4),
   (0x40300002, 0x20), (0x4030000A, 0x40), (0x40300018, 0xFF), (0x40300019, 0xFF), (0x4030001A, 0xFF), (0x4030001B, 0xFF),
   (0x4030001C, 0xFF), (0x4030001D, 0xFF), (0x4030001E, 0xFF), (0x4030001F, 0xFF), (0x40300020, 0x02), (0x40300024, 0xFF), (0x40300025, 0xFF)]

/-- A running core of the placed partition at the bundle of ADD S8, S8, S7, with its tables and its record. -/
def demo : State := { State.reset with
  core := { Core.reset 0 with
    running := true, cont := placedRecord, deadline := 2 ^ 64 - 1, scratch := 0x800000, frame := placedFrame, pc := placedCode }
  parts := [placedPartition], mem := demoMem }

/-- `demo` is the state in which the next step runs that ADD. -/
theorem test_demo_is_placed : State.reset.withFetchWord 32 0x00E41004 = demo := by decide +kernel

/-- `demo` with registers S1 to S3. -/
def demoS (a b c : Word) : State := demo.onCore fun k => { k with s := [(1, a), (2, b), (3, c)] }

/-- A snapshot, for an open group. -/
def snap0 : Snapshot := Core.snapshot (Core.reset 0)

/-- `demo` inside a tile group on set 0. -/
def demoG : State := demo.onCore fun k => { k with group := some (0, snap0) }

theorem test_met_DecodeEncodeRoundTrip : (Instr.beqLong 63 63 (-2 ^ 31)).wellFormed = true ∧
    encode (.beqLong 63 63 (-2 ^ 31)) = some ⟨.I, 0x001FFF01, some 0x80000000⟩ := ⟨rfl, rfl⟩

theorem test_met_DecodedWordsReencode : (0x001FFF01 < 2 ^ 32 ∧ (∀ v, some 0x80000000 = some v → v < 2 ^ 32)) ∧
    decodeOp .I 0x001FFF01 (some 0x80000000) = .ok (.beqLong 63 63 (-2 ^ 31)) :=
  ⟨⟨by decide, fun v h => by cases h; decide⟩, rfl⟩

theorem okOf {e α : Type} {x : Except e α} {v : α} (h : x.toOption = some v) : x = .ok v := by
  cases x <;> simp_all [Except.toOption]

theorem okBytes {e : Type} {x : Except e (List Byte)} {bs : List Byte} (h : x.toOption.map (·.map (·.toNat)) = some (bs.map (·.toNat))) :
    x = .ok bs := by
  cases x with
  | error => simp [Except.toOption] at h
  | ok v =>
    simp only [Except.toOption, Option.map_some, Option.some.injEq] at h
    rw [(List.map_inj_right (fun _ _ => BitVec.eq_of_toNat_eq)).mp h]

/-- The bundle of the placed word. -/
def demoBundle : Bundle := ⟨⟨1, 0, false, false, 2⟩, 0, false, [⟨.i1, .add 8 8 7, {}⟩], false⟩

/-- The state in which the instruction of `demoBundle`'s slot acts. -/
def demoIssue : State :=
  let s1 := demo.onCore fun c => c.decoded demoBundle
  let t : Todo := ⟨0, ⟨.i1, .add 8 8 7, {}⟩, 0, 0⟩
  { s1 with core := s1.core.withCtx demoBundle [t] t, trapTaken := none }

/-- The placed ADD is unguarded, passes checks 4 to 6 and completes without a trap; CTLR 6 in its place raises one. -/
theorem test_met_StepRunsDecodedInstruction : demo.calm ∧ demo.peekWord demo.core.part demo.core.pc = .ok 0x00020007 ∧
    decodeHeader 0x00020007 = .ok ⟨1, 0, false, false, 2⟩ ∧
    demo.readVa demo.core.part .exec demo.core.pc 8 = .ok (leBytes 4 0x00020007 ++ leBytes 4 0x00E41004) ∧
    decodeBytes (leBytes 4 0x00020007 ++ leBytes 4 0x00E41004) = .ok demoBundle ∧
    (demo.onCore fun c => c.decoded demoBundle).core.bundleTrap demoBundle = none ∧
    nextHas (fun u => u.trapTaken.isNone && u.core.frozen.isNone && !u.core.waiting && u.core.phys == 0 && u.core.done == 0)
      (exec (.add 8 8 7) demoIssue) = true ∧
    nextHas (fun u => u.trapTaken == some { no := .illegal }) (exec (.ctlr 6 8) demoIssue) = true ∧ raisesLate (.ctlr 6 8) = false :=
  ⟨by unfold State.calm; decide +kernel, okOf (by decide +kernel), okOf (by decide +kernel), okBytes (by decide +kernel), okOf (by decide +kernel),
    by decide +kernel, by decide +kernel, by decide +kernel, by decide +kernel⟩

theorem test_met_AgendaAndDueEventsAct : demo.emptied = none ∧ demo.shotDone = none ∧ ({ demo with agenda := [.eventWindowEnd] } : State).tooEarly exec .eventWindowEnd = false ∧
    demo.badRoot = none ∧ demo.recalled = none ∧ demo.cutting = none ∧ demo.agenda = [] ∧ demo.settings = [] ∧
    ({ demo with settings := [.relTimeout 1000] } : State).recalled = none ∧ ({ demo with agenda := [.eventWindowEnd] } : State).recalled = none ∧
    ({ demo with cc := 2 ^ 30 } : State).dueEvent = some .eventWindowEnd := by
  decide +kernel

theorem test_met_NeverStops : demo.badRoot = none ∧
    ({ demo with parts := [{ placedPartition with quotas := { placedPartition.quotas with root := 2 ^ 48 } }] } : State).badRoot = some (2 ^ 48) := by
  decide +kernel

theorem test_met_StepKeepsMemoryCanonical : demo.inv ∧ nextHas (fun t => t.core.pc == placedCode + 8) (step demo) = true := by
  unfold State.inv
  decide +kernel

/-- A zero divisor, the signed overflow, and neither. -/
theorem test_met_ScalarDivision : (demoS 7 0 0).rs 2 = 0 ∧
    ((demoS (BitVec.ofInt 64 (-2 ^ 63)) (BitVec.ofInt 64 (-1)) 0).rs 1).toInt = -2 ^ 63 ∧
    ((demoS (BitVec.ofInt 64 (-2 ^ 63)) (BitVec.ofInt 64 (-1)) 0).rs 2).toInt = -1 ∧ (demoS 7 1 0).rs 2 ≠ 0 := by
  decide +kernel

theorem test_met_ScalarCountsFieldsAndImmediates : (63 < 64 ∧ 1 ≤ 64 ∧ 64 ≤ 64) ∧ ((2 ^ 32 - 1 : Nat) < 2 ^ 32 ∧ (-2 : Int) ^ 31 ≤ -2 ^ 31 ∧ (2 ^ 31 - 1 : Int) < 2 ^ 31) := by
  decide

theorem test_met_ResultsLandAlone : demo.core.banks ∧ (0 < 4096 ∧ 4096 ∣ 4096) := by
  unfold Core.banks
  decide +kernel

/-- The bundle's own header is a good target, its op word and an odd address are not; the conditions hold and fail. -/
theorem test_met_BranchesCallsAndLoops : demo.badTarget placedCode = false ∧ demo.badTarget (placedCode + 4) = true ∧ demo.badTarget (placedCode + 2) = true ∧
    demo.codeMoves demo.core.part placedCode = false ∧
    (let target := fun (off : Int) => (((demo.core.pc : Int) + 4 * off) % 2 ^ 64).toNat
     target 0 = placedCode ∧ target 1 = placedCode + 4 ∧ target (-0x80001) = 2 ^ 64 - 4) ∧
    ((demoS 5 5 0).leadCore.rs 1 = (demoS 5 5 0).leadCore.rs 2 ∧ (demoS 5 6 0).leadCore.rs 1 ≠ (demoS 5 6 0).leadCore.rs 2) ∧
    (demo.leadCore.rp 0).getLsbD 1023 = true ∧ (demo.leadCore.rp 1).getLsbD 0 = false ∧
    ((demoS (BitVec.ofNat 64 placedCode) 1 0).leadCore.rs 1).toNat = placedCode ∧ ((demoS 0 1 0).leadCore.rs 2).toNat = 1 ∧ ((demoS 0 1 0).leadCore.rs 1).toNat ≠ 1 := by
  decide +kernel

/-- A published store of device scope at its place, and one of die scope that has not reached its point of coherence. -/
def pub0 (scope : Nat) (atPoint : Bool) : PubStore := ⟨0, 0, 0, ⟨none, placedBase + 0x100000⟩, [some 1, some 2], scope, 0, false, 0, atPoint⟩

theorem test_met_StoresArePublishedAndPerformed : demo.core.loads = [] ∧ demo.monitors = [] ∧ demo.poisoned = [] ∧ demo.mem.wf = true ∧
    ((3 ≤ (pub0 3 false).scope ∨ (pub0 3 false).atPoint = true) ∧ (3 ≤ (pub0 0 true).scope ∨ (pub0 0 true).atPoint = true)) ∧
    (∀ x ∈ [pub0 3 false, pub0 0 true, pub0 2 false], ({ demo with pubs := [x] } : State).aheadOf x = []) ∧
    ({ demo with pubs := [pub0 3 false] } : State).held 0 0 = false ∧ ((pub0 2 false).scope ≤ 2 ∧ (pub0 2 false).atPoint = false) ∧
    (let x : PubStore := { pub0 1 false with seq := 5 }
     ({ demo with pubs := [pub0 1 false, x] } : State).held x.core x.seq = true ∧ x.atPoint = false) := by
  decide +kernel

/-! Memory accesses: the placed partition maps the 1 GiB from virtual 0. -/

theorem test_met_ChecksOfAnAccess : (4 % 8 ≠ 0) ∧ (2 ^ 51 % 1 = 0 ∧ 0 < 1 ∧ 2 ^ 51 < 2 ^ 64 ∧ canonical (2 ^ 51) = false) ∧
    (0x00F000000000 % 1 = 0 ∧ canonical 0x00F000000000 = true ∧ inWindow (va52 0x00F000000000) = true ∧ inWindow (va52 0x00F1FFFFFFFF) = true) ∧
    admitted (demo.check .read 0 (2 ^ 30 - 8) 8 8) = true ∧ trapped .page (demo.check .read 0 (2 ^ 30) 8 8) = true := by
  decide +kernel

/-- A load, a vector load and a tile load are admitted; the scratch segment's pages are not resident; a BO at and above its bound;
the first pin. -/
theorem test_met_LoadsHintsAndPins : admitted (demo.check .read demo.scope ((demoS 0x3FFFFFF8 0 0).eaM 1 0) 8 8) = true ∧
    admitted (demo.check .read demo.scope (2 ^ 30 - 512) 512 64) = true ∧ trapped .align (demo.check .read demo.scope 1 2 2) = true ∧
    waits (demo.check .read demo.scope 0x800000 8 8) = true ∧ demo.inGroup = false ∧ demoG.inGroup = true ∧
    boOk (demo.core.rfmt 1) 8 = true ∧ boOk (demo.core.rfmt 1) 9 = false ∧ admitted (demo.check .read demo.scope 0x210000 (tileSize (demo.core.rfmt 4)) 64) = true ∧
    demo.core.inScratch 0x800000 = true ∧ demo.core.inScratch 0x17F0000 = true ∧ demo.core.inScratch 0x1800000 = false ∧
    (bankGet (demo.core.phys + 1, false) demo.pages (pageKey 0 0x800000)).1 ≠ demo.core.phys ∧
    (bankGet (demo.core.phys + 1, false) ({ demo with pages := [(pageKey 0 0x800000, (0, true))] } : State).pages (pageKey 0 0x800000)).1 = demo.core.phys := by
  decide +kernel

/-! ### Patterns, loads, stores, atomics, waits -/

/-- An indirect pattern of 4-byte elements (bytes 60 = 6), whose index array stands in the scratch segment. -/
def patInd : BitVec 512 := BitVec.ofNat 512 (6 * 2 ^ 480 + 0x800000 * 2 ^ 64)

/-- `demo` with PAT0, and P1 naming one active lane. -/
def demoP (x : BitVec 512) : State := demo.onCore fun k => { k with pat := [(0, x)], p := [(1, 1)] }

def resolved : Resolved → Bool
  | .ok _ _ => true
  | _ => false

/-- A pattern of 8-byte elements at address 0x210000. -/
def pat8 : BitVec 512 := BitVec.ofNat 512 (3 * 2 ^ 480 + 0x210000)

theorem test_met_PatternAndGatherAccesses : resolved ((demoP pat8).resolve (Pattern.of pat8) 64) = true ∧
    admitted ((demoP pat8).checkList .read [(0x210000, 0), (0x210000, 8)] 8).1 = true ∧
    trapped .align ((demoP pat8).checkList .read [(0x210001, 0)] 8).1 = true ∧
    admitted ((demoP 0).checkList .read [((demoP 0).eaM 0 0, 0)] 1).1 = true ∧ (demoP 0).core.act 1 0 = true ∧ (demoP 0).core.act 1 127 = false ∧
    demoG.inGroup = true ∧ demo.inGroup = false ∧ demo.core.unsettled = false ∧ demo.trapTaken = none ∧ demo.core.frozen = none ∧
    admitted (demo.check .write demo.core.ctx.scope 0x210000 8 8) = true := by
  decide +kernel

theorem test_met_PatternAddresses : (Pattern.of pat8).ind = false ∧ (Pattern.of pat8).esz = 8 := by decide +kernel

/-- One landing load of 8 bytes at the last place of a 64-byte unit. -/
def load0 (data : Option (List Byte)) : LoadLanding := ⟨[⟨0x210038, ⟨none, placedBase + 0x210038⟩, 8, 0, [], none, false, false⟩], .s 63 8 true, 0, 0, placedCode, 0, 0, data⟩

theorem test_met_LoadedValueIsMemory : (let s := demo.onCore fun k => { k with loads := [load0 none] }
    s.core.loads = [load0 none] ∧ (load0 none).data = none ∧ s.core.snap = [] ∧ s.pubs = [] ∧ s.atoms = [] ∧ s.poisoned = [] ∧ s.mem.wf = true ∧ s.core.lands = [] ∧ s.core.here = []) ∧
    (8 ≤ 64 - (placedBase + 0x210038) % 64) ∧ demo.core.banks := by
  unfold Core.banks
  decide +kernel

/-- Every store's items are admitted to local memory outside the scratch segment; in the scratch segment they are not resident. -/
theorem test_met_StoresJoinThePhase : demoG.inGroup = true ∧ demo.inGroup = false ∧
    admitted (demo.check .write 0 (2 ^ 30 - 8) 8 8) = true ∧ trapped .align (demo.check .write 0 (2 ^ 30 - 7) 8 8) = true ∧
    admitted (demo.check .write 0 (2 ^ 30 - 512) 512 64) = true ∧
    (match demo.check .write 0 (2 ^ 30 - 8) 8 8 with
      | .ok ps => ps.all fun p => p.loc.peer.isNone && !p.scratch
      | _ => false) = true ∧
    boOk (demo.core.rfmt 4) 8 = true ∧ boOk (demo.core.rfmt 4) 15 = false := by
  decide +kernel

theorem test_met_AtomicsGoToTheHomeSlice : demoG.inGroup = true ∧ demo.inGroup = false ∧
    admitted (demo.check .atomic demo.scope (2 ^ 30 - 4) 4 4) = true ∧ admitted (demo.check .atomic demo.scope (2 ^ 30 - 8) 8 8) = true ∧
    trapped .align (demo.check .atomic demo.scope (2 ^ 30 - 4) 8 8) = true := by
  decide +kernel

/-- A local request, at the last word of the partition's gigabyte. -/
def atom0 (op : AtomOp) (ret : Bool) : Atom :=
  ⟨7, .cont 0 placedRecord, 0, 0, 0, op, 0, ⟨none, placedBase + 2 ^ 30 - 4⟩, 2 ^ 30 - 4, 5, 0, 0, ret, false, placedCode, 0, 0, false, false, none, [], none, none⟩

/-- Nothing stands before the only request. -/
theorem aheadAtom_alone (s : State) (a : Atom) (h : s.atoms = [a]) (h' : a.after = []) (hp : s.pubs = [])
    (ho : ∃ p r, a.owner = .cont p r) : s.aheadAtom a = [] := by
  obtain ⟨p, r, ho⟩ := ho
  simp [State.aheadAtom, State.ahead, State.queuedAhead, State.standing, h, h', hp, ho, Atom.path, Path.ofCore]

theorem test_met_HomeSlicePerformsAtomically_ahead : ({ demo with atoms := [atom0 .cas true] } : State).aheadAtom (atom0 .cas true) = [] :=
  aheadAtom_alone _ _ rfl rfl rfl ⟨_, _, rfl⟩

theorem test_met_HomeSlicePerformsAtomically : (let s : State := { demo with atoms := [atom0 .cas true] }
    s.atoms[0]? = some (atom0 .cas true) ∧ s.mem.wf = true ∧ s.behind (atom0 .cas true) = false ∧ s.held 0 0 = false ∧ s.monitors = [] ∧ s.poisoned = []) ∧
    ((atom0 .cas true).old = none ∧ (atom0 .cas true).inRecord = none ∧ (atom0 .cas true).sent = false ∧ (atom0 .cas true).loc.peer = none ∧
      (atom0 .cas true).owner = .cont 0 placedRecord) := by
  decide +kernel

/-- A waiter of slot 0 on a word that is 0, comparing with 1, and one comparing with 0. -/
def mon0 (v : Word) : Monitor := ⟨.core 0 0, 0x210000, placedBase + 0x210000, 4, v, false, true, false⟩

theorem test_met_WaitsOnAWord : demo.begun = false ∧ demo.core.unsettled = false ∧ demo.core.loads = [] ∧ demo.atoms = [] ∧ demo.mustWait = false ∧
    admitted (demo.check .watched demo.scope (2 ^ 30 - 8) 8 8) = true ∧
    (BitVec.ofNat 64 (leNat (demo.seenN (Path.ofCore 0 0) (placedBase + 2 ^ 30 - 8) 8)) = 0 ∧ placedBase + 2 ^ 30 ≤ 2 ^ 47 ∧ (demoS 0 1 0).rs 1 = 0 ∧ (demoS 0 1 0).rs 2 ≠ 0) ∧
    (let s := demo.onCore fun k => { k with waited := 1, released := [(0, 9)] }
     s.begun = true ∧ s.core.released.find? (·.1 == s.core.ctx.slot) = some (s.core.ctx.slot, 9)) ∧
    (let s := demo.onCore fun k => { k with waited := 1 }
     s.begun = true ∧ s.core.released.find? (·.1 == s.core.ctx.slot) = none) ∧
    (let s : State := { demo with monitors := [mon0 1] }
     s.monitors[0]? = some (mon0 1) ∧ (mon0 1).fallen = true ∧ (mon0 1).bitmap = false ∧ (mon0 1).who = .core s.core.phys 0 ∧ s.watchedFrom (mon0 1) ≠ (mon0 1).value) := by
  decide +kernel

/-- The placed partition with barrier group 255 of the logical core 0 alone, at its last generation before the wrap. -/
def barPart : Partition := { placedPartition with groups := [(255, ⟨2, 2 ^ 30 - 1, 1, 0, 0⟩)], cores := [some 0] }
def demoBar : State := { demo with parts := [barPart] }

/-- Ring 15 of one slot of 64 bytes, with its counts. -/
def ringWord (filled free : Nat) : Word := BitVec.ofNat 64 (filled * 2 ^ 55 + free * 2 ^ 46 + 2 ^ 38)
def demoRing (filled free acq : Nat) : State := demo.onCore fun k => k.setRing 15 (ringWord filled free) 0 acq

theorem test_met_FencesFlagsBarriersAndRings : demo.core.loads = [] ∧ demo.fenced 4 = true ∧
    ({ demo with egress := [⟨some (0, 3), 0, 0, 0, 1, 0, 0, 0, [1], none⟩] } : State).fenced 4 = false ∧
    (demo.core.fl.getLsbD 63 = decide (0 = 1) ∧ demo.core.fl.getLsbD 63 ≠ decide (1 = 1)) ∧
    (demoBar.part? 0 = some barPart ∧ barPart.logical 0 = some 0 ∧ demoBar.core.barWait = none ∧ (barPart.group 254).kind ≠ 2 ∧ (barPart.group 255).kind = 2 ∧
      hasBit (barPart.group 255).members 1 = false ∧ hasBit (barPart.group 255).members 0 = true ∧ demoBar.core.ctx.full = true ∧
      hasBit (barPart.group 255).arr 0 = false ∧ (barPart.group 255).next = 0 ∧ (barPart.group 255).gen < 2 ^ 30 ∧
      (∀ k < 256, hasBit (barPart.group 255).members k = true → barPart.vacant k = false → k = 0 ∨ hasBit (barPart.group 255).arr k = true) ∧
      barPart.vacant 0 = false ∧ demoBar.core.stores = [] ∧ demoBar.pubs = [] ∧ demoBar.atoms = [] ∧ bankWf Group.unused barPart.groups = true) ∧
    (SbWord.of (bankGet 0 demo.core.sb 15)).slots = 0 ∧ (SbWord.of (bankGet 0 (demoRing 0 1 0).core.sb 15)).slots = 1 ∧
    (SbWord.of (bankGet 0 (demoRing 0 1 0).core.sb 15)).filled = 0 ∧ (SbWord.of (bankGet 0 (demoRing 1 0 0).core.sb 15)).filled = 1 ∧
    bankGet 0 (demoRing 1 0 0).core.sbAcq 15 = 0 ∧ bankGet 0 (demoRing 0 510 1).core.sbAcq 15 = 1 ∧ (SbWord.of (bankGet 0 (demoRing 0 510 1).core.sb 15)).free < 511 := by
  decide +kernel

/-! ### Continuations and system instructions -/

/-- A task of one run, holding its group, with a safe table of two entries at 0x500000. -/
def demoDesc : Desc := ⟨0, 0, 2 ^ 63, 1, true, false, true, true, 1, 2, 100, 3, 0x600100, 0x700000, placedRecord, [], []⟩
def demoTask (st : TaskState) : Task := { Task.queued 0 0 0 none with
  desc := some demoDesc, state := st, holds := true, safePtr := some 0x500000, budget := 100, cls := 1 }
def taskPart (st : TaskState) : Partition := { placedPartition with
  tasks := [demoTask st], groups := [(1, ⟨3, 0, 15, 0, 0⟩)], cores := [some 0, some 1, some 2, some 3], recs := [(placedRecord, 0), (0x600000, 0)], nextIdx := 1 }
/-- The running core of that task; the second record is faulted at the placed bundle. -/
def demoT : State := { demo with
  parts := [taskPart .running]
  mem := demoMem ++ [(0x40500000, 2), (0x40600002, 0x20), (0x40600020, 4)] }

/-- The 2 MiB from 0x40000000 are in transit, the safe table among them where `table` says so. -/
def moving (table : Bool) : State := { demoT with
  parts := [{ taskPart .running with tasks := [{ demoTask .running with safePtr := some (if table then 0x40000000 else 0x500000) }] }]
  mem := (demoT.mem.writeN 0x40010008 (leBytes 8 (2 ^ 63 + 0x400200))).writeN 0x40020000 (leBytes 8 (2 ^ 62 + 2 ^ 61)) }

/-- Indices at both ends of the table; a parent of none, one whose word is misaligned, and one in transit; a table in transit. -/
theorem test_met_SafePointsAndDepartures : demoT.safeCount 0 0 = 2 ∧ (1 < 2 ∧ 1 < 0xFFFE) ∧ 2 ≤ 2 ∧ demoT.inGroup = false ∧ demoG.inGroup = true ∧
    admitted (demoT.check .watched 3 ((demoS 0x3FFFFFFC 0 0).rs 1).toNat 4 4) = true ∧ admitted (demoT.parentCheck demoT.core.parent) = true ∧
    trapped .align (demoT.parentCheck 1) = true ∧ demoT.safeMoves 0 0 0 = none ∧ demoT.safeMoves 0 0 1 = none ∧ demoT.safeMoves 0 0 0xFFFF = none ∧
    ((moving true).safeMoves 0 0 1).isSome = true ∧ demo.inGroup = false ∧ demoG.inGroup = true ∧ demoT.inGroup = false ∧ (moving true).inGroup = false ∧
    waits ((moving false).parentCheck 0x40000000) = true ∧ demoT.core.rep = 0 := by
  decide +kernel

theorem test_met_SpawnPublishesAChild : 0x600000 % 64 = 0 ∧ 0x600001 % 64 ≠ 0 ∧ admitted (demoT.check .record 3 0x600000 64 64) = true ∧
    admitted (demoT.parentCheck 0) = true ∧ trapped .align (demoT.parentCheck 1) = true ∧ waits (demoT.parentCheck 0) = false ∧
    waits ((moving false).check .record 3 0x40000000 64 64) = true ∧ waits ((moving false).parentCheck 0x40000000) = true ∧ demoT.finishOwn.owing = false ∧ demoT.finishOwn.recSt 0 (va52 0x600000) = 4 ∧ demoT.finishOwn.recSt 0 (va52 0x600040) = 0 ∧
    demoT.finishOwn.recSt 0 (va52 placedRecord) = 2 ∧ demoT.inGroup = false := by
  decide +kernel

theorem test_met_TandemFusion : demoT.core.fused = none ∧ demo.holdsSet 2 = false ∧ demoT.holdsSet 2 = true ∧ demoT.holdsSet 4 = true ∧ demoT.disagreeing 4 = [] ∧
    demoT.core.ctx.full = true ∧
    (({ demoT with core := { demoT.core with fuseArrived := some (2, 0) } } : State).allArrived 2 = false) ∧
    (({ demoT with core := { demoT.core with fuseArrived := some (2, 0) }, others := [(1, { Core.reset 1 with fuseArrived := some (2, 8) })] } : State).allArrived 2 = true) ∧
    demoT.core.lastFused = none ∧
    (let s := demoT.onCore fun k => { k with lastFused := some ⟨2, 0, 64, placedRecord⟩, rejoined := true, released := [(0, 0)] }
     s.core.lastFused = some ⟨2, 0, 64, placedRecord⟩ ∧ s.core.released.find? (·.1 == s.core.ctx.slot) = some (s.core.ctx.slot, 0) ∧
       (s.rejoining ⟨2, 0, 64, placedRecord⟩).length ≠ 2) ∧
    demoT.core.released.find? (·.1 == demoT.core.ctx.slot) = none := by
  decide +kernel

theorem test_met_SoftwareTrapsEnterTheHandler : demo.core.ctx.full = true ∧ (demo.onCore fun k => { k with ctx := { k.ctx with full := false } }).core.ctx.full = false ∧
    demo.frameInTransit = none := by
  decide +kernel

theorem test_met_ReturnsFromAnException : demoT.settle.tretOk 0x600000 = true ∧ demoT.settle.tretOk placedRecord = false ∧ admitted (demoT.settle.parentCheck demoT.settle.core.parent) = true ∧
    demoT.settle.codeMoves 0 (demoT.settle.recCode 0 0x600000) = false ∧ (moving false).codeMoves 0 0x40000000 = true ∧ (moving false).badTarget 0x40000000 = false ∧
    demoT.settle.bundleAfter 0 (demoT.settle.recCode 0 0x600000) = some (placedCode + 8) ∧
    ({ demoT with mem := demoMem ++ [(0x40600020, 4)] } : State).settle.tretOk 0x600000 = true ∧
    ({ demoT with mem := demoMem ++ [(0x40600020, 4)] } : State).settle.bundleAfter 0 (({ demoT with mem := demoMem ++ [(0x40600020, 4)] } : State).settle.recCode 0 0x600000) = none := by
  decide +kernel

theorem test_met_ControlRegisterReads : demo.part? demo.core.part = some placedPartition ∧ 8 ≤ 8 ∧ 0x12 ≤ 0x1F ∧ 0x27 ≤ 0x3F ∧ 9 ≤ 9 := by decide +kernel

/-- ARM with debug on and off; a ring that ends at the segment's end and one past it; a busy ring; values of HBEAT at and above the
greatest recorded; descriptors. -/
theorem test_met_ControlRegisterWrites : ((demoS 0x80000000 0 0).rs 1).getLsbD 31 = true ∧ placedPartition.quotas.debug = true ∧
    (∀ p, ({ demo with parts := [] } : State).part? 0 = some p → p.quotas.debug = false) ∧
    demo.ringBusy 15 = false ∧ (demoRing 1 0 0).ringBusy 15 = true ∧
    (let r := SbWord.of 0x0000003F003FFFC0#64; ¬ 0x1000000 < r.base * 64 + r.slots * r.size) ∧
    (let r := SbWord.of 0x0000007F00FFFFC0#64; 0x1000000 < r.base * 64 + r.slots * r.size) ∧
    (demoT.task? 0 0).map (·.hbeat) = some 0 ∧ descWellFormed 0x147F0820 = true ∧ descWellFormed 0 = false := by
  refine ⟨by decide +kernel, by decide +kernel, (fun p h => by cases h), by decide +kernel, by decide +kernel, by decide +kernel, by decide +kernel,
    by decide +kernel, by decide +kernel, by decide +kernel⟩

/-- A format on its way at the last repetition and before it. -/
theorem test_met_ControlRegisterWrites_fmtset : (let s := demo.onCore fun k => { k with late := [.fmt 6 0x04000008] }
    s.core.late = [.fmt 6 0x04000008] ∧ s.core.rep = demoBundle.header.rep) ∧ demoBundle.header.ph = false ∧
    demoBundle.ops.any (fun o => endsPhase o.instr) = false ∧ (demo.onCore fun k => { k with rep := 1 }).core.rep ≠ demoBundle.header.rep := by
  decide +kernel

/-! ### Engine commands and the decoder -/

/-- The status with which an engine's access fails. -/
def failsWith {α : Type} : Look α → Option Nat
  | .error (.fail st) => some st
  | _ => none

/-- A record that copies one byte from 0x510000 to 0x220000, with OWN as given. -/
def rec0 (own : Nat) : List Byte :=
  leBytes 8 0 ++ leBytes 8 0x510000 ++ leBytes 8 0x220000 ++ leBytes 8 0 ++ leBytes 4 0 ++ leBytes 4 own ++ leBytes 8 0 ++ leBytes 8 0 ++ leBytes 8 1

/-- Channel 7 of the running record with `n` heads. -/
def chan0 (n : Nat) (w : Option Walk) : Chan := ⟨0, placedRecord, 7, 0, 0, List.replicate n ⟨0x600000, 0, false⟩, w, 0, false⟩
def demoC (n : Nat) (w : Option Walk) : State := { demo with chans := [chan0 n w] }

/-- Queues of 15 and 16 heads; QSTRICT; a bitmap word that holds its mask and one that does not; seven and eight armed tests. -/
theorem test_met_CopyChannelsAndBitmapWaits : demoG.inGroup = true ∧ demo.inGroup = false ∧ 0x600001 % 64 ≠ 0 ∧
    admitted (demo.check .rw 3 0x600000 1 64) = true ∧ ((demoC 15 none).myChan 7).heads.length < 16 ∧ 16 ≤ ((demoC 16 none).myChan 7).heads.length ∧
    demo.core.mode.getLsbD 1 = false ∧ (demo.onCore fun c => { c with mode := 2 }).core.mode.getLsbD 1 = true ∧ demo.freshIssue = true ∧
    demo.begun = false ∧ (∀ y ∈ demo.core.released, y.1 ≠ demo.core.ctx.slot) ∧ demo.core.ctx.full = true ∧ demo.core.unsettled = false ∧ demo.core.loads = [] ∧
    demo.atoms = [] ∧ demo.mustWait = false ∧ admitted (demo.checkBitmap (2 ^ 30 - 8)) = true ∧
    (let w : Word := BitVec.ofNat 64 (leNat (demo.seenN (Path.ofCore 0 0) (placedBase + 2 ^ 30 - 8) 8)); w &&& 0 = 0 ∧ w &&& 1 ≠ 1) ∧
    (let t : ArmedTest := ⟨0, ⟨none, 0⟩, 1, 5, 0⟩; ((List.replicate 7 t).filter (·.fl != 6)).length < 8 ∧ 8 ≤ ((List.replicate 8 t).filter (·.fl != 6)).length) ∧
    (let s := demo.onCore fun c => { c with gated := true, flChanged := true, requeue := true }
     s.core.gated = true ∧ s.core.flChanged = true ∧ s.core.requeue = true ∧ s.badRoot = none ∧ s.recalled = some 0 ∧ (s.focus 0).crew ≠ []) ∧
    (let s : State := { demo with others := [(3, { Core.reset 3 with gated := true, flChanged := true, requeue := true })] }
     s.core.gated = false ∧ (s.allCores.find? (fun c => c.gated && c.flChanged)).isSome = true ∧ (s.allCores.find? (fun c => c.gated && c.requeue)).isSome = true) ∧
    demo.finishOwn.owing = false ∧ ({ demo with atoms := [{ atom0 .add true with loc := ⟨some 3, 0x80000000⟩ }] } : State).finishOwn.owing = true ∧ demo.poisoned = [] ∧ demo.emptied = none := by
  decide +kernel

/-- A decoder configuration of two CB blocks of 8-bit lanes, at the least ratio that admits `block0`, and one block: two table
entries, four one-bit indices. -/
def cfg0 (dest drow ratio : Nat) : DecCfg := ⟨0x210000, 2, ratio, 0, dest, 0, 7, drow, 5, 0, 0, 8⟩
def block0 (exp nel : Nat) : List Byte :=
  leBytes 2 exp ++ leBytes 2 1 ++ [0, 1] ++ leBytes 2 nel ++ leBytes 4 1066167940 ++ leBytes 20 0 ++ [0x11, 0x22] ++ leBytes 30 0 ++ [0x0A]
def stream0 (d : DecCfg) (ph : DecPhase) (buf yield : List Byte) : Stream := { Stream.start d 0 with phase := ph, buf := buf, yield := yield }
def demoD (st : Stream) : State := demo.onCore fun c => { c with stream := some st }

/-- The configuration record of `cfg0 0 0 0x100`, and one with no blocks. -/
def cfgBytes (nblk : Nat) : List Byte :=
  leBytes 8 0x210000 ++ leBytes 4 nblk ++ leBytes 2 0x100 ++ leBytes 1 0 ++ leBytes 1 0 ++ leBytes 8 0 ++ [0, 0, 5, 0] ++ leBytes 4 0 ++ leBytes 32 0

theorem test_met_DecoderStreamsAndPops : demoG.inGroup = true ∧ demo.inGroup = false ∧ demo.core.stream = none ∧ 0x600001 % 64 ≠ 0 ∧
    admitted (demo.check .read 3 0x600000 64 64) = true ∧ demo.finishOwn.owing = false ∧
    (match demo.check .read 3 0x600000 64 64 with
      | .ok (p :: _) => match demo.finishOwn.readNow 0 p with
        | (.inl bs, _) => bs.length == 64
        | _ => false
      | _ => false) = true ∧ demo.core.cfgTrap (cfgBytes 1) = none ∧ demo.core.cfgTrap (cfgBytes 0) = some .illegal ∧
    ((stream0 (cfg0 0 0 0x400) .reading [] []).cfg.dest = 0 ∧ (stream0 (cfg0 1 0 0x400) .reading [] []).cfg.dest ≠ 0) ∧
    (let st := stream0 (cfg0 2 0 0x400) .done [] []; st.fifo = [] ∧ st.fail = none ∧ st.phase = .done) ∧
    (let st := { stream0 (cfg0 2 0 0x400) .reading [] [] with fail := some (0, 1, 0) }; st.fifo = [] ∧ st.fail = some (0, 1, 0)) ∧
    (let st := stream0 (cfg0 2 0 0x400) .reading [] []; ¬ (st.fifo = [] ∧ (st.phase = .done ∨ st.fail.isSome = true))) := by
  decide +kernel

/-- Each outcome of a block: read, malformed header, ratio at its bound and one above, room, decoded, more and fewer bytes than declared,
no capacity, cycles at the bound and above, CRC right and wrong, and the write of a released unit at the tile's last row. -/
theorem test_met_DecoderReadsChecksAndReleases : demo.core.running = true ∧ demo.reads = [] ∧
    (let st := stream0 (cfg0 0 0 0x400) .reading [] []
     min st.wanted (64 - st.next % 64) = 64 ∧ ((demoD st).peek (demoD st).decAgent st.next 64).toOption.isSome = true) ∧
    failsWith (demo.peek demo.decAgent (2 ^ 30) 64) = some 6 ∧
    (let st := stream0 (cfg0 0 0 0x400) .reading (block0 4 4) []
     st.wanted = 0 ∧ headerLen st.cfg.codec ≤ st.buf.length ∧ headerBad st.cfg st.buf = false ∧
       (Machine.Header.of st.buf).exp * 256 ≤ st.cfg.ratio * (Machine.Header.of st.buf).clen ∧
       (cfg0 0 0 0x3FF).ratio * (Machine.Header.of st.buf).clen < (Machine.Header.of st.buf).exp * 256 ∧ headerBad st.cfg (block0 0 4) = true) ∧
    (let st := stream0 (cfg0 0 0 0x400) .parsed (block0 4 4) []
     let h := Machine.Header.of st.buf
     let out := blockBytes st.cfg h st.buf
     st.fifo.length + h.exp ≤ 8192 ∧ headerLen st.cfg.codec + h.clen ≤ st.buf.length ∧ min out.length h.exp ≤ st.capacity ∧ out.length = h.exp) ∧
    (let h := Machine.Header.of (block0 3 4); h.exp < (blockBytes (cfg0 0 0 0x400) h (block0 3 4)).length) ∧
    (let h := Machine.Header.of (block0 5 4); (blockBytes (cfg0 0 0 0x400) h (block0 5 4)).length < h.exp) ∧
    ({ stream0 (cfg0 1 127 0x400) .parsed (block0 4 4) [] with taken := 125 }).capacity < 4 ∧
    (let st := { stream0 (cfg0 0 0 0x400) .parsed (block0 4 4) [] with cycles := 65 }; (Machine.Header.of st.buf).exp / 16 + 64 < st.cycles) ∧
    (let st := { stream0 (cfg0 0 0 0x400) .parsed (block0 4 4) [] with cycles := 64 }; st.cycles ≤ (Machine.Header.of st.buf).exp / 16 + 64) ∧
    crc32c [0x11, 0x22, 0x11, 0x22] = (Machine.Header.of (block0 4 4)).crc ∧ crc32c [0x11, 0x22, 0x11] ≠ (Machine.Header.of (block0 4 4)).crc ∧
    (let st := { stream0 (cfg0 1 127 0x400) .reading [] [] with fifo := [1], taken := 127 }
     st.fifo ≠ [] ∧ st.cfg.dest = 1 ∧ st.cfg.dtile < 8 ∧ st.cfg.drow + st.taken / 128 < 128 ∧ 32 * st.cfg.dbo + st.taken % 128 + 1 ≤ 512) := by
  decide +kernel

/-! ### Vector, tile and matrix instructions -/

theorem test_met_IntegerNarrowing : (1 ≤ 1 ∧ 1 ≤ 64) ∧ (1 ≤ 64 ∧ 64 ≤ 64) ∧ ((-2 ^ 63 : Int) ≤ -2 ^ 63 ∧ (-2 ^ 63 : Int) ≤ 2 ^ 63 - 1) := by decide

/-- Types with integers and without; T = 6 through an integer and a float format register. -/
theorem test_met_IntegerVectorInstructions : (demo.intElt (demo.shortArgs ⟨1, 4, 2, 1, 0⟩)).isSome = true ∧
    (demo.intElt (demo.longArgs ⟨6, 2, 1, 0, 5, 0, 1, 0⟩)).isSome = true ∧ demo.intElt (demo.longArgs ⟨6, 2, 1, 0, 0, 0, 1, 0⟩) = none := by
  decide +kernel

theorem test_met_ComparisonsSelectionAndPredicates :
    (let x := demo.longArgs ⟨6, 2, 1, 0, 5, 0, 1, 0x905F⟩; (demo.intElt { x with u := 0 }).map (·.lane) = some 8 ∧ (demo.floatOf 6 5).isNone = true) ∧
    (let x := demo.longArgs ⟨6, 2, 1, 0, 0, 0, 1, 0x705F⟩; demo.intElt { x with u := 0 } = none ∧ (demo.floatOf 6 0).map (·.lane) = some 32) ∧
    demo.core.banks ∧ (∀ h ∈ demo.core.here, h.1 ≤ demo.core.issued) ∧ (1023 < 1024 ∧ 512 ≤ 512) := by
  unfold Core.banks
  decide +kernel

theorem test_met_FloatVectorInstructions : (demo.floatOf 2 0).isSome = true ∧ (demo.floatOf 3 0).isSome = true ∧ (demo.floatOf 5 0).isSome = true ∧
    (demo.floatOf 6 1).isSome = true ∧ (demo.floatOf 6 5).isNone = true ∧ (demo.floatOf 6 2).isNone = true := by
  decide +kernel

/-- SEL below and at the ratio of two lane widths; formats admitted and not. -/
theorem test_met_VectorConversions : ((demo.core.rfmt 0).scale = 0 ∧ (demo.core.rfmt 5).scale = 0 ∧ (demo.core.rfmt 2).scale = 1 ∧ (demo.core.rfmt 2).width ≤ 8) ∧
    (let o : VL := ⟨0, 0, 2, 1, 5, 0, 0, 0x3000⟩; o.sel < max 32 8 / min 32 8) ∧ (let o : VL := ⟨0, 0, 2, 1, 5, 0, 0, 0x4000⟩; max 32 8 / min 32 8 ≤ o.sel) ∧
    (demo.floatOf 3 0).isSome = true ∧ (demo.floatOf 0 5).isNone = true ∧ (demo.floatOf 6 5).isNone = true := by
  decide +kernel

/-- Element widths at and above 8 bits, K at the lane count and one above, LN at the last lane and the count, SRC and UP. -/
theorem test_met_VectorPermutations : (demo.anyElt (demo.longArgs ⟨1, 0, 0, 0, 0, 0, 0, 0⟩)).2 ≤ 8 ∧ 8 < (demo.anyElt (demo.longArgs ⟨2, 0, 0, 0, 0, 0, 0, 0⟩)).2 ∧
    (4096 / (demo.anyElt (demo.longArgs ⟨3, 0, 0, 0, 0, 0, 0, 0⟩)).2 = 128) ∧ (let q : VL := ⟨3, 0, 0, 0, 0, 0, 0, 0x080⟩; q.k = 128 ∧ q.x ≠ 1) ∧
    (let q : VL := ⟨3, 0, 0, 0, 0, 0, 0, 0x881⟩; q.k = 129 ∧ q.x = 1) ∧ (let q : VL := ⟨3, 0, 0, 0, 0, 0, 0, 0x87F⟩; q.k = 127 ∧ q.x = 1) ∧
    1 ≤ 4096 / (demo.anyElt (demo.shortArgs ⟨0, 4, 0, 0, 0⟩)).2 := by
  decide +kernel

theorem test_met_VectorReductions : (demo.intElt (demo.shortArgs ⟨0, 3, 0, 1, 2⟩)).isSome = true ∧ demo.intElt (demo.longArgs ⟨6, 0, 1, 2, 0, 0, 0, 0⟩) = none ∧
    (let q : VL := ⟨3, 0, 1, 2, 0, 0, 0, 4⟩; q.fk = 1 ∧ (demo.floatOf q.t q.fd).isSome = true) ∧ (let q : VL := ⟨6, 0, 1, 2, 5, 0, 0, 4⟩; q.fk = 1 ∧ (demo.floatOf q.t q.fd).isNone = true) ∧
    (let q : VL := ⟨3, 0, 1, 2, 0, 0, 0, 2⟩; q.fk ≠ 1) ∧ demo.core.ctx.sat = false ∧ 128 = 2 ^ Nat.log2 128 := by
  decide +kernel

/-- A core with set 1 in a status, of 16-bit operands. -/
def demoAcc (st : AccStatus) (kind : GroupKind) (array : List MatrixOp) : State := demo.onCore fun c =>
  { c with array := array, acc1 := { AccSet.opening (c.rf 1) (c.rf 1) kind 0 with status := st } }
def mop0 : MatrixOp := ⟨false, 0, 0, 0, 0, 1, 0, none, false⟩

/-- Formats taken and not; a sticky repetition; a tile load in flight; a marked line; segments and NV at their bounds; none, one and
two instructions queued. -/
theorem test_met_TileGroupsAndMatrixWork : arrayAccepts .ring (demo.core.rfmt 1) (demo.core.rfmt 1) = true ∧ arrayAccepts .ring (demo.core.rfmt 0) (demo.core.rfmt 0) = false ∧
    demo.core.ctx.rep = 0 ∧ (demo.onCore fun c => { c with ctx := { c.ctx with rep := 1 } }).core.ctx.rep ≠ 0 ∧ demo.core.loads = [] ∧
    (demo.core.applyRetirements).isSome = true ∧ (demo.onCore fun c => { c with marked := [5], lost := List.range 144 }).core.applyRetirements = none ∧
    ((segOf ((demoAcc .opened .ring []).core.acc 1).fmtA.lane).1 = 24 ∧ ((demoAcc .opened .ring []).core.acc 1).status = .opened ∧ ((demoAcc .opened .ring []).core.acc 1).kind = .ring ∧
      ((demoAcc .opened .minPlus []).core.acc 1).kind ≠ .ring) ∧
    ((0 : Int) ≤ (9 : Nat) + demo.core.ctx.off ∧ (9 : Nat) + demo.core.ctx.off ≤ 9) ∧ (demoAcc .opened .ring [mop0]).core.array.length < 2 ∧
    2 ≤ (demoAcc .opened .ring [mop0, mop0]).core.array.length := by
  decide +kernel

/-- Queued work on a set of INT32 accumulation. -/
def demoInts : State := demo.onCore fun c => { c with array := [mop0], acc1 := AccSet.opening (c.rf 5) (c.rf 5) .ring 0 }

theorem test_met_MatrixProductsAccumulate : demo.core.array = [] ∧ demoInts.core.array = [mop0] ∧ mop0.tmsr = false ∧ mop0.inject = none ∧
    (demoInts.core.acc mop0.set).kind = .ring ∧ (demoInts.core.acc mop0.set).ints = true ∧ mop0.nv ≤ (segOf (demoInts.core.acc mop0.set).fmtA.lane).1 := by
  decide +kernel

theorem test_met_DrainsOfAccumulatorSets : (demo.core.acc 0).status = .idle ∧ ((demoAcc .checked .ring []).core.acc 1).status = .checked ∧
    ((demoAcc .opened .ring []).core.acc 1).status = .opened ∧ (demo.drainArgs 1).f.scale = 0 ∧ (demo.drainArgs 2).f.scale = 1 ∧
    ((0 : Int) ≤ (127 : Nat) + demo.core.ctx.off ∧ (127 : Nat) + demo.core.ctx.off ≤ 127) ∧ boOk (demo.drainArgs 1).f 8 = true ∧ boOk (demo.drainArgs 1).f 9 = false ∧
    (∃ m ∈ (demoAcc .opened .ring [mop0]).core.array, m.set = 1) ∧ (∀ m ∈ (demoAcc .opened .ring []).core.array, m.set ≠ 1) ∧
    (demoAcc .opened .ring []).core.drained = false ∧ demo.inGroup = false ∧ demoG.inGroup = true ∧ ((demoAcc .opened .ring []).onCore fun c => { c with drained := true }).core.drained = true ∧
    (demoG.onCore fun c => { c with frozen := some .drain }).core.frozen = some .drain ∧ demo.core.frozen ≠ some .drain := by
  refine ⟨by decide +kernel, by decide +kernel, by decide +kernel, by decide +kernel, by decide +kernel, by decide +kernel, by decide +kernel, by decide +kernel,
    ⟨mop0, by decide +kernel, rfl⟩, by decide +kernel, by decide +kernel, by decide +kernel, by decide +kernel, by decide +kernel, by decide +kernel⟩

/-- A set of INT32 accumulation whose cells are 0, with some row checksums. -/
def zeroSet (cr : Bank W32) : AccSet := { AccSet.opening 0x04000008 0x04000008 .ring 0 with cr := cr }

theorem dense_empty (n k : Nat) : (dense (0 : W32) [] n).getD k 0 = 0 := by
  by_cases h : k < n <;> simp [dense, Array.getD, h]

theorem intSum_replicate (n : Nat) : intSum (List.replicate n 0) = 0 := by
  unfold intSum
  induction n with
  | zero => rfl
  | succ n ih => simpa [List.replicate_succ, toSigned] using ih

theorem grid_data (s : AccSet) (h : s.data = []) : s.grid.data = dense 0 [] 16384 := by
  simp only [AccSet.grid, h]

theorem grid_cc (s : AccSet) (h : s.cc = []) : s.grid.cc = dense 0 [] 128 := by
  simp only [AccSet.grid, h]

theorem zeroSet_passes (cr : Bank W32) (isRow : Bool) (n : Nat) :
    (zeroSet cr).linePasses ((zeroSet cr).line isRow n) = (((zeroSet cr).line isRow n).sum == 0) := by
  have hi : (zeroSet cr).ints = true := (show (zeroSet []).ints = true by decide +kernel)
  have hc : ((zeroSet cr).line isRow n).cells = List.replicate 128 0 := by
    simp only [AccSet.line, grid_data (zeroSet cr) (show (zeroSet []).data = [] by decide +kernel)]
    apply List.eq_replicate_iff.mpr
    constructor
    · simp
    · intro x hx
      obtain ⟨k, -, rfl⟩ := List.mem_map.mp hx
      exact dense_empty _ _
  unfold AccSet.linePasses
  rw [if_pos hi, hc, intSum_replicate]
  generalize ((zeroSet cr).line isRow n).sum = w
  have : toBits 32 0 = 0 := by rfl
  rw [this]
  by_cases h : w = 0
  · subst h; rfl
  · have h' : w.toNat ≠ 0 := fun e => h (BitVec.eq_of_toNat_eq (by simpa using e))
    rw [beq_eq_false_iff_ne.mpr h, beq_eq_false_iff_ne.mpr h'.symm]

theorem filter_never (l : List Nat) : l.filter (fun _ => false) = [] := by simp

theorem grid_cr (s : AccSet) (cr : Bank W32) (h : s.cr = cr) : s.grid.cr = dense 0 cr 128 := by
  simp only [AccSet.grid, h]

theorem zeroSet_row (cr : Bank W32) (n : Nat) : ((zeroSet cr).line true n).sum = (dense 0 cr 128).getD n 0 := by
  simp only [AccSet.line, grid_cr (zeroSet cr) cr rfl, if_true]

theorem zeroSet_col (cr : Bank W32) (n : Nat) : ((zeroSet cr).line false n).sum = 0 := by
  simp only [AccSet.line, grid_cc (zeroSet cr) rfl, Bool.false_eq_true, if_false, dense_empty]

theorem zeroSet_compare (cr : Bank W32) (rows : List Nat) (h : ((List.range 128).filter fun n => !((dense 0 cr 128).getD n 0 == 0)) = rows) :
    (zeroSet cr).compare = match rows, ([] : List Nat) with
      | [], [] => .pass (zeroSet cr) 0 []
      | [r], [] => .pass { zeroSet cr with
          cr := bankSet 0 (zeroSet cr).cr r (BitVec.ofNat 32 (if (zeroSet cr).ints = true then toBits 32 (intSum ((zeroSet cr).line true r).cells)
            else (Fmt.fp32.store 0 false 0 (floatSum ((zeroSet cr).line true r).cells)).1)) } 1 [(true, r)]
      | rows, _ => .replay (rows.map (true, ·)) := by
  have hr : ((List.range 128).filter fun n => !(zeroSet cr).linePasses ((zeroSet cr).line true n)) = rows := by
    rw [← h]; congr; funext n; rw [zeroSet_passes, zeroSet_row]
  have hc : ((List.range 128).filter fun n => !(zeroSet cr).linePasses ((zeroSet cr).line false n)) = [] := by
    apply List.filter_eq_nil_iff.mpr
    intro n _; rw [zeroSet_passes, zeroSet_col]; decide
  unfold AccSet.compare
  rw [if_pos (show (zeroSet cr).kind = .ring by simp [zeroSet, AccSet.opening])]
  simp only [hr, hc]
  match rows with
  | [] => simp
  | [r] => simp
  | a :: b :: r => simp

/-- An untouched set passes its comparison; one with two wrong row checksums asks for a replay. -/
theorem test_met_DrainsOfAccumulatorSets_compare :
    (zeroSet []).compare = .pass (zeroSet []) 0 [] ∧ (zeroSet [(3, 1), (5, 1)]).compare = .replay [(true, 3), (true, 5)] :=
  ⟨zeroSet_compare [] [] (by decide +kernel), zeroSet_compare _ [3, 5] (by decide +kernel)⟩

theorem test_met_TileRowAndColumnMoves : demoG.inGroup = true ∧ demo.inGroup = false ∧ ((0 : Int) ≤ (127 : Nat) + demo.core.ctx.off) ∧
    bqOk (demo.core.rfmt 1) 4 = true ∧ bqOk (demo.core.rfmt 1) 5 = false ∧ (demo.core.rfmt 1).scale = 0 ∧
    (demo.onCore fun c => { c with fmt := [(9, 0x8C070408)] }).core.fmt = [(9, 0x8C070408)] ∧ (Fmt.ofWord 0x8C070408).scale = 2 ∧
    ((255 : Nat) + demo.core.ctx.off < (4096 / (demo.core.rfmt 1).lane : Nat)) ∧ ((4096 / (demo.core.rfmt 1).lane : Nat) ≤ (256 : Nat) + demo.core.ctx.off) ∧
    ((254 : Nat) + demo.core.ctx.off + (4096 / (demo.core.rfmt 1).lane / 128 : Nat) ≤ (4096 / (demo.core.rfmt 1).lane : Nat)) ∧
    boOk (demo.core.rfmt 1) 8 = true ∧ boOk (demo.core.rfmt 1) 9 = false := by
  decide +kernel

/-! ### Copy engines and windows -/

/-- The walk of that record, read and started. -/
def walk0 (run : Option Started) (final : Option Nat) : Walk := ⟨1, 0x600000, some (rec0 1), run, false, final, []⟩
def run0 (pos : Nat) : Started := ⟨none, none, none, none, none, [], [], [], pos, 0, none, false, 0, false⟩
/-- The record and its source byte in memory. -/
def demoR (w : Option Walk) : State := { (demoC 1 w) with mem := demoMem ++ [(0x40510000, 0x5A), (0x4060000A, 0x51), (0x40600012, 0x22), (0x40600024, 1), (0x40600038, 1)] }
def agent0 : Agent := (chan0 1 none).agent

theorem test_met_CopyRecordsRunToTheirEnd :
    (demoR none).chans[0]? = some (chan0 1 none) ∧ (demoR none).parkedCopies 0 = false ∧ (demoR none).reads = [] ∧ (demoR none).copyCancelled (chan0 1 none) = false ∧
    (chan0 1 none).walk = none ∧ (chan0 1 none).heads = [⟨0x600000, 0, false⟩] ∧ ((demoR none).peek agent0 0x600000 64).toOption = some (rec0 1) ∧
    (Xfer.of (rec0 1)).own = true ∧ (Xfer.of (rec0 0)).own = false ∧ failsWith ((demoR none).peek agent0 (2 ^ 30) 64) = some 6 ∧
    (Xfer.of (rec0 1)).sbe = false ∧ (Xfer.of (rec0 1)).bitmap = 0 ∧ (Xfer.of (rec0 1)).pblk = 0 ∧
    ((run0 0).job (Xfer.of (rec0 1))).toOption.map (fun j => (j.chunks, j.total)) = some (1, 1) ∧
    (((demoR none).evictParams 1).obtainAll agent0 1 (Xfer.of (rec0 1))).toOption.map (·.1) = some (run0 0) ∧ (run0 0).pos < 1 ∧ 1 ≤ (run0 1).pos ∧
    (((run0 0).job (Xfer.of (rec0 1))).toOption.bind fun j => ((demoR none).chunkOf agent0 j (run0 0) 0).toOption.map fun mv =>
      decide (mv.writes = [(0x220000, [(0x5A, 0xFF)], some 0x510000)]) && decide (mv.events = []) &&
      ((demoR none).aimAll agent0 0 mv.writes).toOption.isSome) = some true ∧
    ((demoR none).peek agent0 0x510000 1).toOption = some [0x5A] ∧
    (let c : Chan := { chan0 1 (some (walk0 none none)) with heads := [⟨0x600000, 0, true⟩] }
     ({ demo with chans := [c] } : State).copyCancelled c = true) ∧
    (let s : State := demoR (some (walk0 (some (run0 0)) none))
     s.hasTurn (chan0 1 (some (walk0 (some (run0 0)) none))) = true ∧ s.windowsOf agent0.key = false ∧
       ({ s with egress := [⟨none, agent0.key, 0, 0, 3, 2, 0x80000000, 2 ^ 30, [1], none⟩] } : State).windowsOf agent0.key = true) ∧
    (((demoR none).aim agent0 0 0x600000 (wholeBytes (rec0 1)) none).toOption.map fun plan => ((demoR none).emit agent0 0 plan).reads.length) = some 0 := by
  refine ⟨?_, ?_, ?_, ?_, ?_, ?_, ?_, ?_, ?_, ?_, ?_, ?_, ?_, ?_, ?_, ?_, ?_, ?_, ?_⟩ <;> decide +kernel

/-- A record that writes its byte to ring 15, one slot of 64 bytes. -/
def slotRec : List Byte := leBytes 8 0 ++ leBytes 8 0x510000 ++ leBytes 16 0 ++ leBytes 4 0 ++ leBytes 4 (1 + 15 * 2 ^ 23 + 2 ^ 27) ++ leBytes 16 0 ++ leBytes 8 1
def slotChan (run : Started) : Chan := chan0 1 (some { walk0 (some run) none with bytes := some slotRec })
def demoSlot (filled free : Nat) (run : Started) : State :=
  { demoR none with core := (demoRing filled free 0).core, chans := [slotChan run], rings := [⟨0, placedRecord, 15, 0, ringWord filled free, 0, true⟩] }

/-- No free slot, a free one, a slot taken, and no bytes left; a bit on its way to a window; a record met a second time in a cancelled
chain. -/
theorem test_met_CopyRecordsRunToTheirEnd_slots : (Xfer.of slotRec).sbe = true ∧ ((run0 0).job (Xfer.of slotRec)).toOption.map (·.total) = some 1 ∧
    (SbWord.of ((demoSlot 1 0 (run0 0)).ringWord (slotChan (run0 0)) 15)).free = 0 ∧ (SbWord.of ((demoSlot 0 1 (run0 0)).ringWord (slotChan (run0 0)) 15)).free = 1 ∧
    (run0 0).taken = false ∧ (run0 0).base + (run0 0).slots * 64 < 1 ∧ 1 ≤ (run0 0).base + (({ run0 0 with slots := 1 } : Started).slots) * 64 ∧
    (let run := { run0 0 with taken := true }
     let s := demoSlot 0 0 run
     s.reads = [] ∧ s.parkedCopies 0 = false ∧ s.hasTurn (slotChan run) = true ∧
       ((run.job (Xfer.of slotRec)).toOption.bind fun j => (s.denseMove agent0 j run 0 1).toOption.map fun mv => (mv.writes.length, mv.events.length)) = some (1, 0) ∧
       (s.aim agent0 0 0x220000 (wholeBytes [0x5A]) none).toOption.isSome = true) ∧
    ({ demoR (some (walk0 (some (run0 0)) none)) with windows := [{ (⟨0, 0, 0, 0x200000, [(7, 0xFF)], 0, false, 0⟩ : WinWrite) with job := bitKey agent0.key }] } : State).windowsOf (bitKey agent0.key) = true ∧
    (let w := { walk0 none none with bytes := none, seen := [0x600000] }; w.va ∈ w.seen) ∧ (walk0 none none).va ∉ (walk0 none none).seen := by
  refine ⟨?_, ?_, ?_, ?_, ?_, ?_, ?_, ?_, ?_, ?_, ?_⟩ <;> decide +kernel

/-- A window write of scratch bytes and one of a register of the running task's logical core 0: held, open, its page resident or not. -/
def win0 (off : Nat) (held : Bool) : WinWrite := ⟨0, 0, 0, off, [(7, 0xFF)], 0, held, 0⟩

/-- A place, a trap, a page in transit. -/
def landsAt : Xlat → Nat
  | .ok .. => 0
  | .trap _ => 1
  | .transit => 2

theorem test_met_WindowWritesLand : (win0 0x200000 false).failed = 0 ∧ demoT.windowRefusal (win0 0x200000 false) = stOk ∧
    demo.windowRefusal (win0 0x200000 false) ≠ stOk ∧ (win0 0 false).job < noteKey 0 ∧ noteKey 0 ≤ ({ win0 0 false with job := noteKey agent0.key } : WinWrite).job ∧ ({ demoT with windows := [win0 0x200000 false] } : State).windows[0]? = some (win0 0x200000 false) ∧
    demoT.windowOpen (win0 0x200000 false) = some 0 ∧ demoT.windowOpen (win0 0x27FFFF true) = some 0 ∧
    (demoT.onCore fun c => { c with group := some (0, snap0) }).windowOpen (win0 0x27FFFF false) = none ∧
    demoT.windowPage (win0 0x1FFFFF false) 0 = some (pageKey 0 (0x800000 + 0x1FFFFF)) ∧
    ({ demoT with pages := [(pageKey 0 0x800000, (0, false))] } : State).windowPage (win0 0 false) 0 = none ∧ landsAt (demoT.scratchAt 0 0 .write) = 0 ∧
    landsAt ((demoT.onCore fun c => { c with scratch := 2 ^ 31 }).scratchAt 0 0 .write) = 1 ∧
    landsAt (((moving false).onCore fun c => { c with scratch := 2 ^ 30 }).scratchAt 0 0 .write) = 2 := by
  decide +kernel

/-! ### Collectives, pairs and combining -/

/-- COLL with three and four commands outstanding, QSTRICT on and off. -/
def cmd0 (read : Bool) (cmd : List Byte) (blocks : List CollBlock) : CollCmd := ⟨9, 0, 0, 0, placedRecord, 0x600000, read, cmd, [], blocks, 0⟩
def demoColl (l : List CollCmd) : State := { demo with colls := l }
/-- A command of one float element on communicator 2 from 0x610000 to 0x620000, and its route record at 0x630000: add, scale and store
here. -/
def collBytes : List Byte := leBytes 8 0x610000 ++ leBytes 8 0x620000 ++ leBytes 8 0x630000 ++ leBytes 8 0 ++ leBytes 4 1 ++ [0, 0, 2] ++ leBytes 25 0
def routeBytes : List Byte := [2, 0x40, 0xA0] ++ leBytes 61 0
def demoRoute : State := { demoColl [cmd0 false [] []] with mem := (demoMem.writeN 0x40600000 collBytes).writeN 0x40630000 routeBytes }
/-- A packet that shifts the scale by its argument and comes back to this device once more, and one whose last hop stays here. -/
def packet0 (op nhop route : Nat) : Packet :=
  { nhop := nhop, ops := [op], route := [0, route], etype := 0, ct := false, otype := 0, comm := 2, die := 0, err := 0, nadd := 1, emax := none, sk := 120
    att := 0, blk := 0, cid := 9, nvalid := 1, cyc := 0, src := 0x610000, dst := 0x620000, spec := List.replicate 128 0, acc := List.replicate 128 0 }
def demoComm : State := { demo with comms := [(2, 0)] }

theorem test_met_CollectiveCommandsAndHops : demoG.inGroup = true ∧ demo.inGroup = false ∧ admitted (demo.check .rw 3 0x600000 64 64) = true ∧
    (demoColl (List.replicate 3 (cmd0 false [] []))).outstanding 0 placedRecord < 4 ∧ 4 ≤ (demoColl (List.replicate 4 (cmd0 false [] []))).outstanding 0 placedRecord ∧
    demo.core.mode.getLsbD 1 = false ∧ (demo.onCore fun c => { c with mode := 2 }).core.mode.getLsbD 1 = true ∧
    (demoRoute.reads = [] ∧ demoRoute.parkedPart 0 = false ∧ (demoRoute.readColl (cmd0 false [] [])).toOption.map (·.2.2) = some stOk) ∧
    ((cmd0 true [] [⟨0, 0, false, false, 0, 0⟩]).blocks.find? (fun b => !b.flying && !b.done) = some ⟨0, 0, false, false, 0, 0⟩) ∧ demo.flying (demo.opalAt 0) < 256 ∧
    256 ≤ (demoColl [cmd0 true [] (List.replicate 256 ⟨0, 0, true, false, 0, 0⟩)]).flying (demo.opalAt 0) ∧
    ({ demo with now := 400000 } : State).lateBlock (cmd0 true [] [⟨0, 7, true, false, 0, 0⟩]) = some ⟨0, 7, true, false, 0, 0⟩ ∧
    ({ demo with now := 400000 } : State).lateBlock (cmd0 true [] [⟨0, 6, true, false, 0, 0⟩]) = some ⟨0, 6, true, false, 0, 0⟩ ∧
    ({ demo with now := 399999 } : State).lateBlock (cmd0 true [] [⟨0, 6, true, false, 0, 0⟩]) = none ∧
    (demoComm.comms.find? (·.1 == (packet0 0 1 0).comm) = some ((packet0 0 1 0).comm, 0) ∧ (packet0 0x70 2 0).err = 0 ∧ opCode ((packet0 0x70 2 0).ops.headD 0) = 3 ∧
      opCode ((packet0 0x81 2 0).ops.headD 0) = 4 ∧ opCode ((packet0 0 2 0).ops.headD 0) = 0) ∧
    ((demoComm.hop (packet0 0x70 2 0)).toOption.map fun x => (x.1.sk, x.1.nhop, x.1.route.headD 0 == demoComm.devId)) = some (104, 1, true) ∧
    ((demoComm.hop (packet0 0x6F 2 0)).toOption.map fun x => (x.1.sk, x.1.nhop)) = some (127, 1) ∧
    ((demoComm.hop (packet0 0 2 5)).toOption.map fun x => (x.1.nhop, x.1.route.headD 0 == x.2.devId)) = some (1, false) ∧
    ((demoComm.hop (packet0 0 1 5)).toOption.map fun x => x.1.nhop) = some 0 ∧ demoComm.opalWaits (packet0 0 2 0) = false ∧
    ({ demoColl [cmd0 false [] []] with windows := [⟨0, 0, 0, 0x304008, [(7, 0xFF)], jobKey 0 placedRecord 9, false, 0⟩] } : State).opalWaits (packet0 0 2 0) = true := by
  refine ⟨?_, ?_, ?_, ?_, ?_, ?_, ?_, ?_, ?_, ?_, ?_, ?_, ?_, ?_, ?_, ?_, ?_, ?_, ?_⟩ <;> decide +kernel

/-- The CRC register after n zero bytes. -/
def zeros (n c : Nat) : Nat := (List.replicate n (0 : Byte)).foldl crcByte c

theorem zeros_add (m n c : Nat) : zeros (m + n) c = zeros n (zeros m c) := by
  unfold zeros; rw [← List.replicate_append_replicate, List.foldl_append]

theorem test_crc_of_1132_zero_bytes : zeros (60 + 1072) 0xFFFFFFFF = 4010223656 := by
  have h : zeros 128 4294967295 = 4158167844 ∧
    zeros 128 4158167844 = 1200442991 ∧
    zeros 128 1200442991 = 1158271177 ∧
    zeros 128 1158271177 = 3473084991 ∧
    zeros 128 3473084991 = 534250289 ∧
    zeros 128 534250289 = 3318006521 ∧
    zeros 128 3318006521 = 225952960 ∧
    zeros 128 225952960 = 290529667 ∧
    zeros 108 290529667 = 4010223656 := by decide +kernel
  obtain ⟨h1, h2, h3, h4, h5, h6, h7, h8, h9⟩ := h
  rw [show 60 + 1072 = 128 + (128 + (128 + (128 + (128 + (128 + (128 + (128 + 108))))))) from rfl]
  simp only [zeros_add, h1, h2, h3, h4, h5, h6, h7, h8, h9]

/-- An arriving packet: 511 and 512 transit slots taken. -/
def collPayload (crc : List Byte) : List Byte := List.replicate 60 0 ++ crc ++ List.replicate 1072 0
def collMsg0 : FabricMsg := { blankMsg with kind := 8, payload := collPayload (leBytes 4 0x10F8D7D7) }

theorem test_met_CollectiveCommandsAndHops_transit : collMsg0.ver = 1 ∧ collMsg0.kind = 8 ∧ collMsg0.dst = demo.devId ∧ demo.transit = [] ∧ demo.comms = [] ∧
    (({ demo with transit := List.replicate 511 (0, blankMsg) } : State).transit.filter fun x => x.1 == demo.opalAt (Packet.of collMsg0.payload).die).length < 512 ∧
    512 ≤ (({ demo with transit := List.replicate 512 (0, blankMsg) } : State).transit.filter fun x => x.1 == demo.opalAt (Packet.of collMsg0.payload).die).length := by
  decide +kernel

theorem packetOk_of (a b c : List Byte) (ha : a.length = 60) (hb : b.length = 4) (hc : c.length = 1072) :
    packetOk (a ++ b ++ c) = (crc32c (a ++ c) == leNat b) := by
  simp [packetOk, List.drop_append, ha, hb, hc, List.drop_of_length_le (show a.length ≤ 64 by omega)]

theorem crc_of_zeros (n : Nat) : crc32c (List.replicate n 0) = zeros n 0xFFFFFFFF ^^^ 0xFFFFFFFF := rfl

/-- A payload of zeros with the CRC of its 1132 other bytes is intact; without it, it is not. -/
theorem test_met_CollectiveCommandsAndHops_crc : packetOk collMsg0.payload = true ∧ packetOk (collPayload (leBytes 4 0)) = false := by
  have z (b : List Byte) (hb : b.length = 4) : packetOk (collPayload b) = (0x10F8D7D7 == leNat b) := by
    rw [collPayload, packetOk_of _ _ _ List.length_replicate hb List.length_replicate, List.replicate_append_replicate]
    rw [crc_of_zeros, test_crc_of_1132_zero_bytes, show 4010223656 ^^^ 0xFFFFFFFF = 0x10F8D7D7 from by decide]
  have l (n : Nat) : (leBytes 4 n).length = 4 := rfl
  exact ⟨(z (leBytes 4 0x10F8D7D7) (l _)).trans (by decide), (z (leBytes 4 0) (l _)).trans (by decide)⟩

/-- A second gibibyte of device 3's memory, remote. -/
def demoFar : State := { demo with reach := 8, mem := demoMem.writeN 0x40010008 (leBytes 8 (leafWord true ⟨1, 3, 0, false, true, true, 2 ^ 15⟩)) }
def rel0 (sent : Nat) : Rel := ⟨5, 2, 0x80000000, 7, sent⟩
def pair0 (out cap : Nat) (log : List LogEntry) (rels : List Rel) : Pair := ⟨0, 3, 2, 6, 4, out, 1, 0, false, 0x300000, cap, 0, log, rels, [], 0⟩
def slot0 (accd count : Nat) (held : List HeldRel) : Machine.Slot := ⟨0, 3, 2, 1, accd, (List.replicate 8 0).set 5 count, held, 0, 0⟩
def held0 : HeldRel := ⟨5, 2, placedBase + 0x700000, 9⟩
def posted0 : Posted := ⟨some (0, 3), 0, 0, 0, 3, 2, 0x80000000, 2 ^ 30, [1], none⟩
def msg0 (kind seq gen : Nat) : FabricMsg := { blankMsg with kind := kind, chn := 2, src := 3, seq := seq, gen := gen, addr := placedBase + 0x700000, payload := leBytes 16 2 }
def demoPair (p : Pair) : State := { demoFar with pairs := [p] }

theorem test_met_PairsAndReleases : admitted (demoFar.checkWord .frel 4 (2 ^ 30) 8) = true ∧ admitted (demoFar.checkWord .fchq 4 (2 ^ 30) 8) = true ∧
    (match demoFar.checkWord .frel 4 (2 ^ 30) 8 with
      | .ok ps => (ps.head?).map fun p => (p.loc.peer, p.loc.pa)
      | _ => none) = some (some 3, 0x80000000) ∧
    demoFar.pair? 3 2 = none ∧ (demoPair (pair0 3 4 [] [])).pair? 3 2 = some (pair0 3 4 [] []) ∧ (pair0 3 4 [] []).out < 4 ∧ 4 ≤ (pair0 4 4 [] []).out ∧
    (((demoPair (pair0 3 4 [] [])).enginePost.passPair 3 2).pair? 3 2).isSome = true ∧
    ({ demoPair (pair0 0 1 [] []) with egress := [posted0] } : State).egress[0]? = some posted0 ∧ (pair0 0 1 [] []).log.length < (pair0 0 1 [] []).cap ∧
    (pair0 0 1 [⟨0, 6, [1], none⟩] []).cap ≤ (pair0 0 1 [⟨0, 6, [1], none⟩] []).log.length ∧
    (({ demo with slots := [slot0 4 2 [held0]] } : State).slot? 3 2 = some (slot0 4 2 [held0]) ∧ demo.ingressCut 0 = false ∧ (msg0 0 0 1).gen = (slot0 4 2 []).gen ∧
      (msg0 0 0 1).ver = 1 ∧ (msg0 0 0 1).dst = demo.devId) ∧
    ((msg0 1 5 1).rsv = false ∧ padded (msg0 1 5 1) = false ∧ padded { msg0 1 5 1 with payload := leBytes 16 (2 ^ 32) } = true ∧
      padded { msg0 4 0 0 with payload := leBytes 24 0x2000 } = true) ∧
    (let p : Pair := { pair0 1 4 [⟨0x80000000, 5, [1], none⟩] [rel0 0] with rsnd := true, again := [⟨0x80000000, 5, [1], none⟩] }
     ((demoPair p).pairs.find? (fun x => x.rsnd && !(demoPair p).ingressCut x.part)) = some p ∧ (demoPair p).pair? p.dev p.chn = some p ∧
       (demoPair p).pairs[0]? = some p) ∧
    demo.granted 0 (msg0 0 0 1).addr 16 = true ∧ demo.granted 0 (placedBase + 2 ^ 30 - 15) 16 = false ∧ demo.granted 0 (placedBase + 2 ^ 30 - 16) 16 = true ∧
    (precedes 3 4 = true ∧ precedes (2 ^ 32 - 1) 0 = true ∧ precedes 5 4 = false ∧ precedes 4 4 = false) ∧
    ((slot0 4 2 [held0]).acceptable = some held0 ∧ (slot0 4 1 [held0]).acceptable = none ∧ (slot0 4 1 [held0]).lowest = some held0) ∧
    demo.granted 0 held0.addr 8 = true ∧ demo.relTimeout ≤ ({ demo with now := 50000 } : State).now - (slot0 4 1 [held0]).timer ∧
    ({ demo with now := 49999 } : State).now - (slot0 4 1 [held0]).timer < demo.relTimeout ∧
    (precedes (pair0 1 4 [] [rel0 0]).acc 5 = true ∧ (msg0 3 5 0).gen = (pair0 1 4 [] []).gen ∧ (msg0 3 5 1).gen ≠ (pair0 1 4 [] []).gen) ∧
    2 * demo.relTimeout ≤ 100000 - max (rel0 0).sent (pair0 1 4 [] [rel0 0]).heard ∧ 99999 - max (rel0 0).sent 0 < 2 * demo.relTimeout ∧
    (demo.onPart 0 fun p => { p with cut := true }).ingressCut 0 = true ∧ demoFar.finishOwn.owing = false ∧
    ({ demoFar with atoms := [{ atom0 .add true with loc := ⟨some 3, 0x80000000⟩ }] } : State).finishOwn.owing = true ∧
    (let s : State := { demoPair (pair0 0 1 [] []) with egress := [posted0] }
     s.mayPass posted0 = true ∧ ({ s with atoms := [{ atom0 .add true with loc := ⟨some 3, 0x80000000⟩ }] } : State).mayPass posted0 = false) := by
  refine ⟨?_, ?_, ?_, ?_, ?_, ?_, ?_, ?_, ?_, ?_, ?_, ?_, ?_, ?_, ?_, ?_, ?_, ?_, ?_, ?_, ?_, ?_, ?_, ?_, ?_, ?_, ?_⟩ <;> decide +kernel

/-- A returning AADD of one word at device 3 on its way to a port of stage 3; the merged request of a record of it, replied. -/
def aadd0 (id since : Nat) (old : Option (Word × Flags)) (rec_ : Option Nat) : Atom :=
  ⟨id, .cont 0 placedRecord, 0, 0, 0, .add, 0, ⟨some 3, 0x80000000⟩, 2 ^ 30, 3, 0, 0, true, true, placedCode, id, since, false, false, none, [], rec_, old⟩
def merged0 (old : Option (Word × Flags)) : Atom :=
  ⟨40, .comb 40, 65536, 0, 0, .add, 0, ⟨some 3, 0x80000000⟩, 2 ^ 30, 3, 0, 0, true, true, placedCode, 0, 0, false, false, some (3, 5), [], none, old⟩
def comb0 (n : Nat) : CombRecord := ⟨40, 3, 5, 0x80000000, 3, 0, List.replicate n ⟨1, 3, true, 0, 2⟩, true⟩
def creq0 (id : Nat) (aadd : Bool) : CombReq := ⟨id, false, 0x80000000, 3, 0, 3, true, aadd, 0, 9⟩
def demoAtoms (l : List Atom) : State := { demo with atoms := l }

/-- Behind a queued record of its word an exchange stands in the port's queue, and the record's request is performed before it
(R308: the worked example of file 14). -/
theorem test_combining_queue_keeps_order :
    (let x : Atom := { aadd0 3 0 none none with op := .xchg, core := 5 }
     let s : State := { demo with atoms := [merged0 none, aadd0 1 0 none (some 40), x], combs := [comb0 1] }
     (match execCombiningRequest 3 5 (creq0 3 false) s with
      | .next t => (t.atoms.find? (·.id == 3)).map (fun a => ((a.after, a.queue), (t.queuedAhead a).map (·.id), t.mayReach a 3 6))
          == some (([40], some (3, 5)), [40], false) && t.combs.map (·.opened) == [false]
      | _ => false) = true) := by decide +kernel

theorem test_met_AtomicRepliesReadsAndCombining : demo.poisoned = [] ∧ padded { msg0 4 0 0 with payload := leBytes 24 0x23 } = false ∧ AtomOp.ofCode (leNat ((leBytes 16 0x23).take 1)) = some .cas ∧ AtomOp.ofCode 0x31 = some .wake ∧
    demo.monitors = [] ∧ demo.mem.wf = true ∧
    (50000 - 0 ≥ demo.relTimeout ∧ 49999 - 0 < demo.relTimeout) ∧
    (bankGet LinkKeys.blank ({ demo with keys := [(1, ⟨0, 7, some 6, 0⟩)] } : State).keys 1).prev.isSome = true ∧ (bankGet LinkKeys.blank demo.keys 1).prev = none ∧
    demo.runner 0 placedRecord = some 0 ∧ ({ demo with now := 64000 } : State).atomicExpired { aadd0 1 0 none none with loc := ⟨none, placedBase⟩ } = true ∧
    ({ demo with now := 63999 } : State).atomicExpired { aadd0 1 0 none none with loc := ⟨none, placedBase⟩ } = false ∧ (aadd0 1 0 (some (5, 0)) none).old = some (5, 0) ∧
    (demoAtoms [aadd0 1 0 none none]).combAtom (creq0 1 true) = some (aadd0 1 0 none none) ∧
    (let s : State := { demoAtoms [merged0 none, aadd0 1 0 none (some 40), aadd0 2 0 none none] with combs := [comb0 15] }
     s.pubs = [] ∧ s.mayGo (aadd0 2 0 none none) = true ∧ s.queued (comb0 15) = true ∧ (comb0 15).entries.length < 16 ∧ ∀ x ∈ (comb0 15).entries, x.cycle ≤ (creq0 2 true).cycle) ∧
    (let a := aadd0 1 0 none none
     let s : State := { demoAtoms [merged0 none, a] with combs := [comb0 15] }
     (∀ x ∈ s.atoms, x.core = a.core → a.seq ≤ x.seq) ∧ s.pubs = [] ∧ s.mayGo a = true ∧ s.mayReach a 3 5 = true ∧ s.behind a = false ∧ (creq0 1 true).inPort = s.inPort a 3 ∧
       (demoAtoms [a]).mayReach a 3 5 = true ∧ (demoAtoms [a]).mayGo a = true ∧ (demoAtoms [a]).combs = [] ∧
       ({ demoAtoms [{ a with op := .xchg }] with combs := [] } : State).combAtom (creq0 1 false) = some { a with op := .xchg }) ∧
    (demoAtoms [⟨7, .peer 3 9, 65536, 65536, 0, .add, 0, ⟨none, placedBase⟩, 0, 3, 0, 0, true, true, 0, 0, 0, false, false, none, [], none, none⟩]).mayGo
      ⟨7, .peer 3 9, 65536, 65536, 0, .add, 0, ⟨none, placedBase⟩, 0, 3, 0, 0, true, true, 0, 0, 0, false, false, none, [], none, none⟩ = true ∧
    (let s : State := { demoAtoms [merged0 (some (5, 0)), aadd0 1 0 none (some 40)] with combs := [comb0 1] }
     s.combs[0]? = some (comb0 1) ∧ s.combs.find? (·.id == 40) = some (comb0 1) ∧ s.merged 40 = some (merged0 (some (5, 0))) ∧ (s.atoms.map (·.id)).Nodup ∧
       ((comb0 1).entries.map (·.atom)).Nodup) := by
  refine ⟨?_, ?_, ?_, ?_, ?_, ?_, ?_, ?_, ?_, ?_, ?_, ?_, ?_, ?_, ?_, ?_, ?_, ?_⟩ <;> decide +kernel


/-! ### Tasks -/

/-- A queue of two slots with one entry, in a state, rejecting or not, programmable or not. -/
def queue0 (prog : Bool) (st : QState) (head tail : Nat) (idx : List Nat) (mark : Option Nat) : Queue :=
  ⟨3, ⟨2, 0, prog, false, false, placedBase + 0x640000, 0, 0, 0⟩, placedBase + 0x650000, st, mark, tail, head, idx, 0⟩
def queuePart (x : Queue) (ts : List Task) : Partition := { taskPart .running with queues := [x], tasks := demoTask .running :: ts, nextIdx := 2 }
def demoQ (x : Queue) : State := { demoT with parts := [queuePart x [{ Task.queued 1 3 0 none with idx := 1 }]] }
/-- TPOST's descriptor word: queue 3, notice flag 5; reserved bits; a field with no notice. -/
def postWord (v : Nat) (x : Queue) : State := (demoQ x).onCore fun c => { c with s := [(1, BitVec.ofNat 64 v), (2, 0x600000)] }

theorem test_met_TaskQueuesAndPosting : demoG.inGroup = true ∧ demoT.core.posting = none ∧ demoT.inGroup = false ∧
    (let v := ((postWord 0x4503 (queue0 true .opened 0 1 [1] none)).rs 1).toNat; v / 2 ^ 15 = 0 ∧ field v 6 2 = 0 ∧ field v 14 1 = 1 ∧ field v 8 6 = 5) ∧
    (field 0x503 14 1 = 0 ∧ field 0x503 8 6 ≠ 0) ∧ 0x8003 / 2 ^ 15 ≠ 0 ∧ field 0x43 6 2 ≠ 0 ∧
    (demoQ (queue0 true .opened 0 1 [1] none)).queue? 0 3 = some (queue0 true .opened 0 1 [1] none) ∧ (demoQ (queue0 true .opened 0 1 [1] none)).queue? 0 4 = none ∧
    admitted ((demoQ (queue0 true .opened 0 1 [1] none)).check .read 3 0x600000 128 64) = true ∧
    ((queue0 true .opened 0 1 [1] none).rejects = false ∧ (queue0 true .opened 0 1 [1] none).held < 2 ∧ 2 ≤ (queue0 true .opened 0 2 [1, 1] none).held) ∧
    ((demoQ (queue0 true .opened 0 1 [1] none)).taken 0 (queue0 true .opened 0 1 [1] none) = 1 ∧
      ((demoQ (queue0 true .opened 0 1 [1] none)).onCore fun c => { c with posting := some ⟨3, [], 4, none⟩ }).taken 0 (queue0 true .opened 0 1 [1] none) = 2 ∧
      (demoQ (queue0 true .opened 0 1 [1] none)).enginePost.mustWait = false ∧
      (demoQ (queue0 true .opened 0 1 [1] none)).rootMoves 0 placedRecord = false ∧ (moving false).rootMoves 0 0x40000000 = true) ∧
    ((queue0 true .closed 0 1 [1] none).rejects = true ∧ (queue0 true .opened 0 1 [1] (some 1)).rejects = true) ∧
    (match (demoQ (queue0 true .opened 0 1 [1] none)).check .read 3 0x600000 128 64 with
      | .ok ps => match (demoQ (queue0 true .opened 0 1 [1] none)).finishOwn.enginePost.readPieces ps with
        | (.inl bs, _) => bs.length == 128
        | _ => false
      | _ => false) = true ∧
    (let s : State := (demoQ (queue0 true .opened 0 1 [1] none)).onCore fun c => { c with posting := some ⟨3, List.replicate 128 0, 4, none⟩ }
     (s.core.posting.map fun w => (w.q, w.desc.length)) = some (3, 128) ∧ s.monitors = [] ∧ s.poisoned = [] ∧ s.mem.wf = true ∧
       (∀ u ∈ (queuePart (queue0 true .opened 0 1 [1] none) [{ Task.queued 1 3 0 none with idx := 1 }]).tasks, u.idx = 2 → u.finished = true)) ∧
    ((demoT.task? 0 0).map (·.finished) = some false ∧ demoT.task? 0 (2 ^ 32 - 1) = none ∧
      (({ demoT with parts := [taskPart .done] } : State).task? 0 0).map (·.finished) = some true ∧ ((taskPart .done).tasks.map (·.idx)).Nodup) ∧
    ((queuePart (queue0 false .opened 0 1 [1] none) [Task.queued 1 3 0 none]).next (queue0 false .opened 0 1 [1] none) = some 1 ∧
      (queuePart (queue0 false .opened 1 1 [] none) [Task.queued 1 3 0 none]).next (queue0 false .opened 1 1 [] none) = none ∧
      ((demoQ (queue0 false .resetting 0 1 [1] none)).task? 0 1).map (·.state) = some .queued) ∧
    (let p := queuePart (queue0 false .resetting 1 1 [] none) []; p.queueDone 3 = true ∧ (p.tasks.map (·.idx)).Nodup) ∧
    (queuePart (queue0 false .resetting 1 1 [] none) [Task.queued 1 3 0 none]).queueDone 3 = false ∧
    (demoQ (queue0 true .opened 0 1 [1] none)).finishOwn.owing = false ∧
    ({ demoQ (queue0 true .opened 0 1 [1] none) with atoms := [{ atom0 .add true with loc := ⟨some 3, 0x80000000⟩ }] } : State).finishOwn.owing = true := by
  refine ⟨?_, ?_, ?_, ?_, ?_, ?_, ?_, ?_, ?_, ?_, ?_, ?_, ?_, ?_, ?_, ?_, ?_, ?_, ?_, ?_⟩ <;> decide +kernel

/-- The tasks of a waiting, of a draining and of a rerunning state. -/
def demoW (st : TaskState) (ts : List Task) : State := { demoT with core := Core.reset 0, parts := [{ taskPart st with tasks := demoTask st :: ts, recs := [] }] }

theorem test_met_TasksAreDispatchedAndCompleted : (demoTask .waiting).pinned = true ∧ (demoTask .waiting).edges = [] ∧ (demoTask .waiting).holds = true ∧
    (∀ u ∈ [{ demoTask .waiting with holds := false }], u.holds = true → (taskPart .waiting).placement u &&& (taskPart .waiting).placement (demoTask .waiting) = 0) ∧
    (taskPart .running).placement (demoTask .running) &&& (taskPart .waiting).placement (demoTask .waiting) ≠ 0 ∧
    (demoW .waiting []).xlatOf ((demoW .waiting []).walk 0 (va52 demoDesc.root)) .rw 3 (va52 demoDesc.root) = .ok ⟨none, placedBase + placedRecord⟩ false ∧
    ((demoW .waiting []).pointerMoves 0 demoDesc.entry = false ∧ (moving false).pointerMoves 0 0x40000008 = true) ∧
    ((demoW .waiting []).monitors = [] ∧ (demoW .waiting []).poisoned = [] ∧ (demoW .waiting []).mem.wf = true) ∧
    (demoW .draining []).jobsEnded 0 0 = true ∧ (demoW .draining []).egress = [] ∧
    ({ demoW .draining [] with chans := [chan0 1 none] } : State).jobsEnded 0 0 = false ∧
    (demoW .draining []).pubs = [] ∧ (demoW .draining []).atoms = [] ∧ (demoTask .draining).notice = none ∧ demoDesc.signal ≠ 0 ∧
    (demoW .draining []).signalPa 0 demoDesc.signal = some (placedBase + 0x600100) ∧
    (taskPart .rerunning).live 0 = 2 ∧ ({ taskPart .rerunning with recs := [] }).live 0 = 0 ∧ (demoW .rerunning []).jobsEnded 0 0 = true ∧
    (let s : State := { demoT with parts := [{ taskPart .running with tasks := [{ demoTask .running with desc := some { demoDesc with preload := true } }], ready := [⟨0x600000, 0, 1, 0, 0, 0, false⟩] }] }
     (s.coreOf 0).running = true ∧ (s.candidate 0).isSome = true) ∧
    (demoW .waiting []).pointerNeeds 0 demoDesc.entry = none ∧ (moving false).pointerNeeds 0 0x40000008 = none ∧ (demoTask .draining).code = 0 ∧
    (taskPart .waiting).quiesced = false ∧ (taskPart .waiting).fatal = false ∧ (∀ y ∈ [demoTask .draining], (0 : Nat) ∉ y.edges) ∧
    ((taskPart .draining).tasks.map (·.idx)).Nodup ∧ (queue0 false .opened 0 1 [1] none).attr.cring = 0 ∧
    ({ (queue0 false .opened 0 1 [1] none).attr with cring := 0x100, cdepth := 8 } : QueueAttr).cring ≠ 0 := by
  refine ⟨?_, ?_, ?_, ?_, ?_, ?_, ?_, ?_, ?_, ?_, ?_, ?_, ?_, ?_, ?_, ?_, ?_, ?_, ?_, ?_, ?_, ?_, ?_, ?_, ?_, ?_, ?_, ?_⟩ <;> decide +kernel

/-! ### Leaving and coming back; watchdogs; pages -/

def ready0 (cont fus : Nat) : Ready := ⟨cont, 0, 5, fus, 0, 0, false⟩
/-- Physical core 1, where nothing runs, and the ready records of the partition; a second record at 0x600000 is new there. -/
def demoPick (fus : Nat) : State := { demoT with mem := demoMem ++ [(0x40600002, 0x20), (0x40600020, 1), (0x40600024, 0xFF), (0x40600025, 0xFF)]
                                                 parts := [{ taskPart .running with ready := [ready0 0x600000 fus] }] }

theorem test_met_ContinuationsLeaveAndReturn : (demoT.coreOf 0).running = true ∧ (demoT.coreOf 1).running = false ∧
    ((demoT.onCore fun c => { c with watchdog := true }).core.watchdog = true) ∧ demoT.core.watchdog = false ∧ demoT.core.atomLost = none ∧ demoT.core.landTrap = none ∧
    (demoT.onCore fun c => { c with atomLost := some placedCode }).core.atomLost = some placedCode ∧
    (demoT.onCore fun c => { c with landTrap := some { no := .page } }).core.landTrap = some { no := .page } ∧
    demoT.core.leave = none ∧ demoT.core.frozen ≠ some .retire ∧ demoT.core.preempt = false ∧ demoT.cancelMarked = false ∧ demoT.yields = false ∧
    (let s := demoT.onCore fun c => { c with leave := some .yield }
     s.core.gated = false ∧ s.core.fused = none ∧ s.frameInTransit = none ∧ s.cancelMarked = false ∧ (s.writeBackAt true 0 s.core.pc s.core.rep s.core.done).2 = none ∧
       (s.part? s.core.part).isSome = true ∧ s.retired = [] ∧
       (s.writeBackAt true 0 s.core.pc s.core.rep s.core.done).1.pendingAtoms s.core.part s.core.cont = []) ∧
    (let s := demoT.onCore fun c => { c with leave := some (.join 0) }
     let u := s.published
     s.core.gated = false ∧ s.core.fused = none ∧ u.readRec u.core.part u.core.cont 16 4 = 0 ∧ u.cancelMarked = false ∧ u.overrunHere = false ∧ u.core.preempt = false) ∧
    ((demoPick 0).parts.find? (fun p => (p.logical 1).isSome) = some { taskPart .running with ready := [ready0 0x600000 0] }) ∧
    ((demoPick 0).choose { taskPart .running with ready := [ready0 0x600000 0] } 1 = some (ready0 0x600000 0, 0)) ∧ (demoPick 0).pickMoves 0 (1, ready0 0x600000 0) = false ∧ demoT.choose (taskPart .running) 1 = none ∧
    (let s := demoPick 0
     let u := (((s.onPart 0 fun p => { p with rr := 0 }).focus 1).usePreload 0 0x600000).onPart 0 fun p => { p with ready := p.ready.filter (·.cont != 0x600000) }
     ((u.task? 0 0).map (·.overrun)).getD false = false ∧ (u.restored 0 0x600000).toOption.isSome = true ∧ u.readRec 0 0x600000 36 2 = 0xFFFF) ∧
    (demoPick 0).pickNeeds 0 (1, ready0 0x600000 0) = none ∧ (demoPick 0).poisoned = [] ∧ (demoPick 0).part? 0 = some { taskPart .running with ready := [ready0 0x600000 0] } ∧
    (let s := (demoT.onCore fun c => { c with leave := some (.join 0), frame := 0x40000000 })
     ({ s with mem := (moving false).mem } : State).frameInTransit.isSome = true) := by
  refine ⟨?_, ?_, ?_, ?_, ?_, ?_, ?_, ?_, ?_, ?_, ?_, ?_, ?_, ?_, ?_, ?_, ?_, ?_, ?_, ?_, ?_⟩ <;> decide +kernel

/-- The heartbeat at its period and one before; a task with no core; budgets at and above their bound under each policy. -/
def demoOver (policy charge : Nat) (graced : Bool) : Task :=
  { demoTask .running with desc := some { demoDesc with policy := policy }, charge := charge, graced := graced }

theorem test_met_WatchdogsAndOverrunsFire :
    (let s : State := { demoT with now := 100000000 }
     (s.coreOf 0).running = true ∧ (s.coreOf 0).watchdog = false ∧ ((s.task? 0 0).bind (·.desc)).map (·.persist) = some true ∧
       ((s.part? 0).map (·.quotas.wdog)).getD 0 ≤ s.now - (s.coreOf 0).coreTimer ∧ (taskPart .running).quotas.wdog ≤ s.now - (demoTask .running).hbTimer ∧
       (s.onTask 0 0 fun t => { t with hbTimer := s.now }).firstRunner 0 0 = some 0) ∧
    ¬ (taskPart .running).quotas.wdog ≤ 99999999 - (demoTask .running).hbTimer ∧
    ({ demoT with core := Core.reset 0, now := 100000000 } : State).firstRunner 0 0 = none ∧
    (256 * (demoOver 1 25601 false).budget < (demoOver 1 25601 false).charge ∧ ¬ 256 * (demoOver 1 25600 false).budget < (demoOver 1 25600 false).charge) ∧
    (¬ ((demoOver 1 25601 false).cls = 2 ∧ (demoOver 1 25601 false).dem = true)) ∧ demoDesc.handler ≠ 0 ∧ (demoOver 2 25601 false).graced = false ∧
    (demoOver 2 25601 true).graced = true ∧ (demoOver 0 25601 false).desc = some { demoDesc with policy := 0 } := by
  decide +kernel

/-- A second gibibyte of 64 KiB leaves: MIGRATE placed here, MIGRATE placed at device 3, DUP, MIGRATE in transit, REMOTE_CACHED; and one
2 MiB leaf. -/
def pageMem : Memory :=
  (((((((demoMem.writeN 0x40010008 (leBytes 8 (2 ^ 63 + 0x400200))).writeN 0x40020000 (leBytes 8 (2 ^ 63 + 0x400300))).writeN 0x40020008
    (leBytes 8 (leafWord true ⟨0, 0, 0, true, true, true, 0x4040⟩))).writeN 0x40030000 (leBytes 8 (leafWord true ⟨4, 0, 1, false, true, true, 0x4060⟩))).writeN 0x40030008
    (leBytes 8 (leafWord true ⟨4, 3, 1, false, true, true, 0x9000⟩))).writeN 0x40030010 (leBytes 8 (leafWord true ⟨3, 0, 0, false, true, true, 0x4061⟩))).writeN 0x40030018
    (leBytes 8 (leafWord false ⟨4, 0, 1, false, true, true, 0x4062⟩)))
def pagePart : Partition := { placedPartition with pool := [0x4070, 0x4071] }
def demoPg : State := { demo with mem := pageMem, parts := [pagePart], reach := 8, thresholds := [0, 5] }
def pg (i : Nat) : Nat := 2 ^ 30 + i * 2 ^ 16

theorem test_met_WalksShootdownsAndScratchPages :
    (match demo.walk 0 (va52 (2 ^ 30 - 1)), demoPg.walk 0 (va52 (pg 2)), demoPg.walk 0 (va52 (pg 32)), demo.walk 0 (va52 (2 ^ 30)) with
      | .leaf _ 1, .leaf _ 3, .leaf _ 2, .fail => true
      | _, _, _, _ => false) = true ∧
    ((demoPg.leafSlot 0 (pg 0)).map fun x => (x.1, x.2.2)) = some (0x40030000, 3) ∧ ((demoPg.leafSlot 0 (pg 33)).map fun x => (x.1, x.2.2)) = some (0x40020008, 2) ∧
    demoPg.part? 0 = some pagePart ∧ pagePart.pool = 0x4070 :: [0x4071] ∧ 0x40020008 + 8 ≤ 0x4070 * 2 ^ 16 ∧
    demoPg.pubs = [] ∧ demoPg.atoms = [] ∧ demoPg.egress = [] ∧ (∀ c ∈ demoPg.allCores, c.stores = []) ∧ demoPg.monitors = [] ∧ demoPg.poisoned = [] ∧
    demoPg.mem.wf = true ∧
    (let s : State := { demo.onCore fun c => { c with frozen := some (.refill [pageKey 0 0x800000, pageKey 0 0x810000]) } with pages := [(pageKey 0 0x810000, (1, false))] }
     s.frozenFor (pageKey 0 0x800000) = some 0 ∧ (s.coreOf 0).frozen = some (.refill [pageKey 0 0x800000, pageKey 0 0x810000]) ∧
       (s.pages.filter fun q => q.2.1 == 0 && q.1 != pageKey 0 0x800000).length < 32 ∧ s.pageHolder (pageKey 0 0x800000) = none ∧ s.pageHolder (pageKey 0 0x810000) = some 1) ∧ demo.frozenFor 0 = none ∧
    demo.walkPoison 0 0 (va52 (2 ^ 30 - 1)) = none ∧
    (match demo.walkOn 0 0 (va52 (2 ^ 30 - 1)), demo.walkOn 0 0 (va52 (2 ^ 30)) with
      | .leaf _ 1, .fail => true
      | _, _ => false) = true ∧ demoPg.unwatched ∧ demoPg.inv ∧
    ((demoPg.takeTable 0 256).map fun x =>
      let w := (x.2.perform x.1 ((List.range 32).flatMap fun i => leBytes 8 (leafWord true ⟨0, 0, 0, true, true, true, 0x4040⟩ + i))).perform 0x40020008 (leBytes 8 (2 ^ 63 + x.1 / 256))
      (x.1, (demoPg.leafSlot 0 (pg 33)).map (·.2.1), w.leafSlot 0 (pg 33))) =
      some (0x40700000, some (leafWord true ⟨0, 0, 0, true, true, true, 0x4040⟩), some (0x40700008, leafWord true ⟨0, 0, 0, true, true, true, 0x4041⟩, 3)) ∧
    (demo.shoot 0 0 1 true).framesInUse 0 = [] ∧
    (({ demo with atoms := [{ atom0 .add true with loc := ⟨some 3, 0x80000000⟩, inRecord := some 9 }] } : State).shoot 0 0 1 true).framesInUse 0 ≠ [] := by
  unfold State.unwatched State.inv
  refine ⟨?_, ?_, ?_, ?_, ?_, ?_, ?_, ?_, ?_, ?_, ?_, ?_, ?_, ?_, ?_, ?_, ?_, ?_, ?_, ?_, ?_, ?_⟩ <;> decide +kernel

def collapse0 (who : Nat) (waits : List Nat) (granted : Bool) : Collapse := ⟨pg 2, who, 0x9001, waits, granted⟩

theorem test_met_PageAgentCollapsesAndMigrates : demoPg.pageLeaf 0 (2 ^ 31) = none ∧ ((demoPg.pageLeaf 0 (pg 2)).map fun x => (x.1.mode, x.2)) = some (3, true) ∧
    ((demoPg.pageLeaf 0 (pg 0)).map fun x => (x.1.mode, x.1.peer == demoPg.devId, x.2)) = some (4, true, true) ∧
    ((demoPg.pageLeaf 0 (pg 1)).map fun x => (x.1.mode, x.1.peer, x.2)) = some (4, 3, true) ∧
    ((demoPg.pageLeaf 0 (pg 3)).map fun x => (x.1.mode, x.2)) = some (4, false) ∧
    ((demoPg.remap 0 (pg 2) fun _ => leafWord true ⟨2, 3, 0, false, false, true, 0x9001⟩).isSome = true) ∧
    ((demoPg.remap 0 (pg 0) fun _ => leafWord false ⟨4, 0, 1, false, true, true, 0x4060⟩).isSome = true) ∧
    ({ pagePart with collapses := [collapse0 4 [5] false] }.collapses.find? (·.va == pageBase (pg 2 + 1)) = some (collapse0 4 [5] false)) ∧
    pagePart.collapses.find? (·.va == pageBase (pg 2)) = none ∧ demoPg.tagged pagePart.quotas.tag = some pagePart ∧ demoPg.tagged 77777 = none ∧
    pagePart.givenUp (pageBase (pg 2)) 3 0x9001 5 = none ∧ demoPg.inUse (none, 0x4061) = false ∧
    ({ demoPg with pubs := [⟨0, 0, 0, ⟨none, 0x40610000⟩, [some 1], 3, 0, false, 0, true⟩] } : State).inUse (none, 0x4061) = true ∧
    pagePart.turnOf (.collapse (pg 2) 0x9001 4) = true ∧ ({ pagePart with mail := [.collapse (pg 2) 0x9000 5] } : Partition).turnOf (.collapse (pg 2) 0x9001 4) = false ∧
    (({ pagePart with replicas := [(pg 2, [3, 4, 0])] } : Partition).replicasOf (pg 2) = [3, 4, 0]) ∧
    pagePart.turnOf (.request (pg 0) 4 0x9001) = true ∧ ({ pagePart with mail := [.request (pg 0) 5 0x9000] } : Partition).turnOf (.request (pg 0) 4 0x9001) = false ∧
    pagePart.onTheMove (pg 0) = false ∧ ({ pagePart with migrations := [⟨pg 0, 4, 0x9001, [6], 1⟩] } : Partition).onTheMove (pg 0) = true ∧
    (((demoPg.unhold 0 (.request (pg 0) 4 0x9001)).toTransit 0 (pg 0) ⟨4, 0, 1, false, true, true, 0x4060⟩).bind fun u => (u.part? 0).map (·.onTheMove (pg 0))) = some false ∧
    (demoPg.fromTransit 0 (pg 3) ⟨4, 0, 1, false, true, true, 0x4062⟩ 6 0x9001).isSome = true ∧
    demoPg.part? 0 = some pagePart ∧ pagePart.writers (pg 2) = [] ∧ (∀ m ∈ pagePart.migrations, m.va ≠ pg 2) ∧ 6 ≠ demoPg.devId ∧
    (let s : State := { demoPg with access := [(0, pg 1 / 2 ^ 16, 5)] }
     demoPg.thresholds.getD 1 0 ≠ 0 ∧ demoPg.thresholds.getD 1 0 ≤ ((s.access.find? fun x => x.1 == 0 && x.2.1 == va52 (pg 1) / 2 ^ 16).map (·.2.2)).getD 0) ∧
    demoPg.watched 0x4060 = false ∧ demoPg.mappersOf { pagePart with mappers := [(pg 0, [0, 6])] } (pg 0) = [6] ∧
    demoPg.logNames 0 0x4060 = false ∧ ({ demoPg with pairs := [pair0 0 4 [⟨0x40600000, 6, [1], none⟩] []] } : State).logNames 3 0x4060 = true ∧
    (({ pagePart with collapses := [collapse0 4 [5] false] }.collapses.find? (fun (c : Collapse) => c.va == pageBase (pg 2) && !c.waits.isEmpty)).bind (·.waits.head?)) = some 5 ∧
    (collapse0 4 [] true).granted = true ∧ demoPg.part? 1 = none := by
  refine ⟨?_, ?_, ?_, ?_, ?_, ?_, ?_, ?_, ?_, ?_, ?_, ?_, ?_, ?_, ?_, ?_, ?_, ?_, ?_, ?_, ?_, ?_, ?_, ?_, ?_, ?_, ?_, ?_, ?_, ?_, ?_, ?_, ?_, ?_, ?_⟩ <;> decide +kernel

/-! ### The host -/

/-- A module brought up, with the placed partition; with no task in it; with a queue. -/
def demoHost (p : Partition) : State := { State.reset with mem := demoMem, parts := [p], boot := 1, rails := true }
def ringQueue (prog : Bool) (st : QState) (mark : Option Nat) : Queue :=
  ⟨3, ⟨16, 0, prog, false, false, placedBase + 2 ^ 27, 0, 0, 0⟩, placedBase + 192, st, mark, 4, 4, [], 0⟩
def hostPart (qs : List Queue) (ts : List Task) : Partition := { placedPartition with queues := qs, tasks := ts }
def hold0 (asked : Bool) : AgentHold := ⟨placedRecord, { no := .page }, 0x700000, asked⟩

theorem test_met_PartitionCommandsActOrRefuse : State.reset.boot ≠ 1 ∧ (demoHost placedPartition).boot = 1 ∧
    (let q : Quotas := ⟨1, 1, 1, 2 ^ 26, 0, 0, 1000, false, 9⟩
     quotasFit q = true ∧ quotasFit { q with wdog := 999 } = false ∧ (∀ p ∈ (demoHost placedPartition).parts, p.quotas.tag ≠ q.tag) ∧
       q.clusters ≤ (demoHost placedPartition).freeClusters.length ∧
       ((demoHost placedPartition).parts.map (·.quotas.clusters)).foldl (· + ·) q.clusters ≤ (demoHost placedPartition).healthyClusters ∧
       (demoHost placedPartition).healthyClusters < ((demoHost placedPartition).parts.map (·.quotas.clusters)).foldl (· + ·) 64 ∧ (demoHost placedPartition).freeHbm q.hbm = some (2 ^ 31) ∧
       ((demoHost placedPartition).freeLpddr q.lpddr).isSome = true ∧ (demoHost placedPartition).part? 15 = none) ∧
    ((demoHost placedPartition).freeClusters.length < 64) ∧ (demoHost placedPartition).part? 0 = some placedPartition ∧
    (∀ t ∈ (hostPart [] [{ Task.queued 0 0 0 none with state := .done }]).tasks, t.finished = true) ∧
    (¬ ∀ t ∈ placedPartition.tasks, t.finished = true) ∧
    (placedPartition.groupRefused 255 3 15 = false ∧ placedPartition.groupRefused 255 3 16 = true ∧ (placedPartition.group 255).arr = 0 ∧ (placedPartition.group 255).next = 0) ∧
    ((taskPart .running).tasks.any (fun t => !t.finished && (((demoHost (taskPart .running)).describe 0 t).desc.map (·.pgroup)) == some 1) = true) ∧
    ((demoHost placedPartition).queueFits 0 (ringQueue false .opened none).attr = true ∧ (demoHost placedPartition).queueFits 0 { (ringQueue false .opened none).attr with depth := 8 } = false ∧
      (demoHost placedPartition).monitors = [] ∧ (demoHost placedPartition).poisoned = [] ∧
      (demoHost placedPartition).mem.wf = true) ∧
    (demoHost (hostPart [ringQueue false .opened none] [])).queue? 0 3 = some (ringQueue false .opened none) ∧
    (placedPartition.swapped = false ∧ placedPartition.quiesced = false ∧ placedPartition.fatal = false ∧ ({ placedPartition with swapped := true }).swapped = true) ∧
    ({ placedPartition with holds := [hold0 true] }.holds.find? (fun (h : AgentHold) => h.cont == placedRecord && h.asked) = some (hold0 true)) ∧
    ({ placedPartition with holds := [hold0 false] }.holds.find? (fun (h : AgentHold) => h.cont == placedRecord && h.asked) = none) := by
  refine ⟨?_, ?_, ?_, ?_, ?_, ?_, ?_, ?_, ?_, ?_, ?_, ?_, ?_, ?_⟩ <;> decide +kernel

/-- An image of an empty partition, at an address outside its reserved region. -/
def emptyImage : List Byte :=
  ([1, 2, 3, 4, 5, 6].flatMap fun t => sectionBytes t 1 [0, 0]) ++ sectionBytes 7 1 (zeroBytes 10) ++ ([8, 9, 10].flatMap fun t => sectionBytes t 1 [0, 0])
    ++ sectionBytes 11 1 (zeroBytes 4) ++ sectionBytes 12 1 [0, 0] ++ sectionBytes tyMemory 1 (zeroBytes 8) ++ sectionBytes tyEnd 1 []

theorem test_met_ModuleCommandsActOrRefuse :
    ((demoHost placedPartition).hostMay placedPartition true (placedBase + 2 ^ 26) 8 = true ∧ (demoHost placedPartition).hostMay placedPartition true (placedBase + 2 ^ 26 - 1) 1 = false ∧
      (demoHost placedPartition).hostMay placedPartition false (placedBase + 2 ^ 30 - 8) 8 = true ∧ (demoHost placedPartition).hostMay placedPartition false (placedBase + 2 ^ 30 - 7) 8 = false) ∧
    (placedBase + 2 ^ 26) % 8 = 0 ∧ placedPartition.queues.find? (·.ctl == placedBase + 2 ^ 26) = none ∧
    ((hostPart [ringQueue true .opened none] []).queues.find? (·.ctl == placedBase + 192) = some (ringQueue true .opened none)) ∧
    ((demoHost (hostPart [ringQueue false .opened none] [])).queue? 0 3 = some (ringQueue false .opened none)) ∧
    (let p : Partition := { placedPartition with quotas := { placedPartition.quotas with pairs := 1 }, pool := (List.range 8).map (placedBase / 2 ^ 16 + 256 + ·) }
     (demoHost p).pairEnds 0 < p.quotas.pairs ∧ (demoHost p).logFits p (placedBase + 2 ^ 24) 4096 = true ∧ (demoHost p).logFits p (placedBase + 2 ^ 24) 2048 = false ∧
       (demoHost p).pair? 3 14 = none ∧ (demoHost p).slot? 1023 14 = none) ∧ placedPartition.quotas.pairs ≤ (demoHost placedPartition).pairEnds 0 ∧
    (let s : State := { demoHost placedPartition with pairs := [pair0 0 4 [] []], slots := [slot0 4 2 []] }
     s.pairs.find? (fun x => x.part == 0 && x.dev == 3 && x.chn == 2) = some (pair0 0 4 [] []) ∧ s.slots.find? (fun x => x.part == 0 && x.dev == 3 && x.chn == 2) = some (slot0 4 2 [])) ∧
    (∃ x ∈ demoComm.comms, x.1 = 2) ∧ demoComm.colls = [] ∧ (∀ x ∈ demoComm.comms, x.1 ≠ 255) ∧ (demoHost placedPartition).cutting = none ∧
    (((demoHost placedPartition).onPart 0 fun p => { p with quiesced := true }).askAll 0).cutReady 0 = true ∧ demo.cutReady 0 = false ∧
    ({ placedPartition with quiesced := true, recs := [] } : Partition).recs = [] ∧
    ((demoHost placedPartition).occupied placedPartition = true ∧ (demoHost (hostPart [] [])).occupied (hostPart [] []) = false) ∧
    ((1023 : Nat) < 1024 ∧ (400 : Nat) ≤ 400 ∧ (1600 : Nat) ≤ 1600) ∧ (demoHost placedPartition).trusted = [] ∧
    (let h : HostAccess := ⟨9, 255, 0⟩
     (demoHost placedPartition).mgmtVlan ≠ some h.vlan ∧ ({ demoHost placedPartition with mgmtVlan := some 9 } : State).mgmtVlan = some h.vlan ∧
       (demoHost placedPartition).part? (h.qp / 256) = some placedPartition ∧ (demoHost placedPartition).part? (256 / 256) = none) ∧
    placedPartition.keyed 0 (placedBase + 2 ^ 30 - 8) 8 = true ∧ placedPartition.keyed 0 (placedBase + 2 ^ 30 - 7) 8 = false ∧ placedPartition.keyed 3 placedBase 8 = false ∧
    (∃ x ∈ (hostPart [ringQueue false .opened none] []).queues, x.ctl = placedBase + 192 ∧ (hostPart [ringQueue false .opened none] []).keyed 0 x.ctl 8 = true) := by
  refine ⟨?_, ?_, ?_, ?_, ?_, ?_, ?_, ?_, ⟨(2, 0), ?_⟩, ?_, ?_, ?_, ?_, ?_, ?_, ?_, ?_, ?_, ?_, ?_, ?_, ?_, ?_⟩ <;> decide +kernel

/-- RESTORE's checks: a truncated image, and the empty one, which is taken. -/
theorem test_met_ModuleCommandsActOrRefuse_restore :
    (let s : State := { demoHost (hostPart [] []) with mem := demoMem.writeN (placedBase + 2 ^ 27) emptyImage }
     match s.checkImage (hostPart [] []) (placedBase + 2 ^ 27) emptyImage.length false, s.checkImage (hostPart [] []) (placedBase + 2 ^ 27) 64 false with
      | .ok l, .error 1 => (s.restoreMemory (hostPart [] []) (placedBase + 2 ^ 27) emptyImage.length l).isSome
      | _, _ => false) = true := by
  decide +kernel

theorem test_met_UnitsErrorsAndPower : ({ demo with combs := [comb0 1] } : State).combs[0]? = some (comb0 1) ∧ demo.part? 0 = some placedPartition ∧ demo.cutting = none ∧
    demo.dumps = [] ∧ demo.monitors = [] ∧ demo.poisoned = [] ∧
    (let s : State := { demo with limits := [(1, 1), (4, 1), (5, 1)], events := [(.core 1, 1), (.lane 7, 1), (.engine 3, 1)] }
     HwUnit.core 1 ∉ s.retired ∧ s.limitOf (.core 1) ≤ s.eventCount (.core 1) ∧ s.limitOf (.lane 7) ≤ s.eventCount (.lane 7) ∧ s.limitOf (.engine 3) ≤ s.eventCount (.engine 3) ∧
       (s.coreOf 1).running = false ∧ (s.coreOf 0).running = true ∧ ({ taskPart .running with tasks := [] }).logical 1 = some 1 ∧
       s.eventCount (.core 2) < s.limitOf (.core 2) ∧
       ((List.range 4).filter fun i => HwUnit.lane (7 / 4 * 4 + i) ∉ s.retired ++ [.lane 7]).length = 3 ∧
       ((List.range 4).filter fun i => HwUnit.lane (7 / 4 * 4 + i) ∉ [HwUnit.lane 4, .lane 5] ++ [.lane 7]).length = 1) ∧
    (let s : State := { demo with others := [(1, { Core.reset 1 with beryl := [(9, 10 ^ 9)] })] }; s.limitOf (.arrayRow 1 9) ≤ bankGet 0 (s.coreOf 1).beryl 9 ∧ 9 ∉ (s.coreOf 1).marked) ∧
    (demo.cc / 2 ^ 30 = demo.window ∧ ({ demo with cc := 2 ^ 30 } : State).cc / 2 ^ 30 ≠ demo.window) ∧
    ((demoHost placedPartition).rails = true ∧ 7 ≤ (demoHost placedPartition).cclk ∧ (demoHost placedPartition).cclk ≤ 14 ∧ (109 : Nat) < 110) ∧
    (State.reset.rails = false ∧ State.reset.boot = 0) := by
  refine ⟨?_, ?_, ?_, ?_, ?_, ?_, ?_, ?_, ?_, ?_, ?_, ?_⟩ <;> decide +kernel

/-! Channels: a page table that is all zeros has no leaf, and one with a path to a leaf has it. -/

theorem tables_step {m : Memory} {fuel level base va next : Nat} {x : Nat × Nat × Nat} (i : Nat) (hi : i < levelCount level)
    (h : classify (leNat (m.readN (base + 8 * i) 8)) level (va + i * 2 ^ levelShift level) = .inr next)
    (hx : x ∈ tablesFrom m fuel (level + 1) next (va + i * 2 ^ levelShift level)) : x ∈ tablesFrom m (fuel + 1) level base va := by
  refine List.mem_cons_of_mem _ (List.mem_flatMap.mpr ⟨i, List.mem_range.mpr hi, ?_⟩)
  simpa only [h] using hx

theorem tables_self {m : Memory} {fuel level base va : Nat} : (level, va, base) ∈ tablesFrom m (fuel + 1) level base va := List.mem_cons_self

theorem leaves_of {s : State} {p : Partition} {level base va e l : Nat} (i : Nat) (hi : i < levelCount level) (ht : (level, va, base) ∈ s.tables p)
    (h : classify (leNat (s.mem.readN (base + 8 * i) 8)) level (va + i * 2 ^ levelShift level) = .inl (.leaf e l)) :
    (va + i * 2 ^ levelShift level, l, e) ∈ s.leaves p := by
  refine List.mem_mergeSort.mpr (List.mem_flatMap.mpr ⟨_, ht, List.mem_filterMap.mpr ⟨i, List.mem_range.mpr hi, ?_⟩⟩)
  simp only [h]

theorem pageOn_isSome {s : State} {p : Partition} {va level e ch : Nat} (hp : p ∈ s.parts) (hl : (va, level, e) ∈ s.leaves p)
    (hd : s.holdsData e = true) (h1 : level ≠ 1) (h : onChannel ch ((leafFields e).frame * 2 ^ 16) 65536 = true) : (s.pageOn ch).isSome = true := by
  unfold State.pageOn
  rw [List.findSome?_isSome_iff]
  refine ⟨p, hp, ?_⟩
  rw [List.findSome?_isSome_iff]
  refine ⟨(va, level, e), List.mem_filter.mpr ⟨hl, by simp [hd, h1]⟩, ?_⟩
  simp only [Option.isSome_map, List.find?_isSome]
  exact ⟨0, List.mem_range.mpr (Nat.two_pow_pos _), by simpa using h⟩

theorem zero_entry (s : State) (hm : s.mem = []) (a level va : Nat) : classify (leNat (s.mem.readN a 8)) level va = .inl .fail := by
  rw [hm, show leNat (Memory.readN [] a 8) = 0 from rfl]
  simp [classify, field]

theorem zero_tables (s : State) (p : Partition) (hm : s.mem = []) : s.tables p = [(0, 0, p.quotas.root)] := by
  unfold State.tables tablesFrom
  rw [List.flatMap_eq_nil_iff.mpr (fun i _ => by simp only [zero_entry s hm])]

theorem zero_leaves (s : State) (p : Partition) (hm : s.mem = []) : s.leaves p = [] := by
  unfold State.leaves
  rw [zero_tables s p hm, List.flatMap_eq_nil_iff.mpr (fun x _ => List.filterMap_eq_nil_iff.mpr (fun i _ => by simp only [zero_entry s hm]))]
  exact List.mergeSort_nil

theorem test_met_UnitsErrorsAndPower_channels : (demoPg.pageOn 0).isSome = true ∧
    (let s : State := { demoHost placedPartition with mem := [], retiring := [0] }; 0 ∈ s.retiring ∧ s.pageOn 0 = none ∧ s.fixedOn 0 = true) ∧
    (let s : State := { demoHost placedPartition with mem := [], retiring := [7] }; 7 ∈ s.retiring ∧ s.pageOn 7 = none ∧ s.fixedOn 7 = false) := by
  have none (ch : Nat) : (({ demoHost placedPartition with mem := [], retiring := [ch] } : State).pageOn ch) = none := by
    simp [State.pageOn, zero_leaves]
  have t : (3, 2 ^ 30, 0x40030000) ∈ demoPg.tables pagePart := by
    refine tables_step (next := 0x40010000) 0 (by decide) (by decide +kernel) ?_
    refine tables_step (next := 0x40020000) 1 (by decide) (by decide +kernel) ?_
    exact tables_step (next := 0x40030000) 0 (by decide) (by decide +kernel) tables_self
  have l := leaves_of (e := leafWord true ⟨4, 0, 1, false, true, true, 0x4060⟩) (l := 3) 0 (by decide) t (by decide +kernel)
  refine ⟨pageOn_isSome (p := pagePart) List.mem_cons_self l (by decide +kernel) (by decide) (by decide +kernel),
    ⟨by decide, none 0, by decide +kernel⟩, ⟨by decide, none 7, ?_⟩⟩
  · have e : ({ demoHost placedPartition with mem := [], retiring := [7] } : State).mem = [] := rfl
    unfold State.fixedOn
    simp only [zero_leaves _ _ e, zero_tables _ _ e]
    decide +kernel

end Sys2Proof.Tests
end

section
/-! The order in which one step looks for what acts next (log entry 3), case by case, so that a proof about a step cites
the case that it is in. -/

namespace Sys2Proof.Machine

/-- Where every root pointer is a physical address, a step is what acts next under the meaning of the instructions. -/
theorem step_eq_advance {s : State} (hroot : s.badRoot = none) : step s = s.advance exec := by
  simp only [step, hroot]

section
variable {exec : Exec} {s : State} (hemptied : s.emptied = none) (hrecalled : s.recalled = none) (hshot : s.shotDone = none)
include hemptied hrecalled hshot

/-- The first setting made by the management core goes before the agenda and the clock (log entry 76). -/
theorem State.advance_of_setting {x r} (hset : s.settings = x :: r) :
    s.advance exec = .next ({ s with settings := r }.set x) := by
  simp only [State.advance, hemptied, hrecalled, hshot, hset]

/-- An entry of the agenda that is not too early acts at its turn, unless a QUIESCE in progress holds it back (R386). -/
theorem State.advance_of_agenda {i r} (hset : s.settings = []) (hagenda : s.agenda = i :: r)
    (hcut : (s.cutting.isSome && waitsForCut i) = false) (hearly : s.tooEarly exec i = false) :
    s.advance exec = exec i { s with agenda := r, trapTaken := none } := by
  simp only [State.advance, hemptied, hrecalled, hshot, hset, hagenda, hcut, hearly, Bool.false_eq_true, if_false]

/-- With an empty agenda and no QUIESCE in progress, the event that is due by the clock acts. -/
theorem State.advance_of_dueEvent {i} (hset : s.settings = []) (hagenda : s.agenda = []) (hcut : s.cutting = none)
    (hdue : s.dueEvent = some i) : s.advance exec = exec i s := by
  simp only [State.advance, hemptied, hrecalled, hshot, hset, hagenda, hcut, hdue]

end

/-- Settles O5: the three clauses are three cases of the order in which a step looks for what acts next. -/
theorem agendaAndDueEventsAct : Obligations.AgendaAndDueEventsAct := by
  intro s hroot hemptied hrecalled hshot
  rw [step_eq_advance hroot]
  refine ⟨fun x r hset => ?setting, fun hset hcut => ⟨fun i r hagenda hearly => ?agenda, fun i hagenda hdue => ?dueEvent⟩⟩
  case setting => exact State.advance_of_setting hemptied hrecalled hshot hset
  case agenda => exact State.advance_of_agenda hemptied hrecalled hshot hset hagenda (by simp [hcut]) hearly
  case dueEvent => exact State.advance_of_dueEvent hemptied hrecalled hshot hset hagenda hcut hdue

end Sys2Proof.Machine
end

section
/-! The values at reset (Tables 2-4, 3-2, 3-3, 25-4). -/

namespace Sys2Proof.Machine

/-- At reset FMT0 to FMT15 read as R26's presets. -/
theorem reset_formats : (List.range 16).map State.reset.core.rf =
    [0x147F0820, 0x147F0810, 0x4C070408, 0x540F0508, 0x44010204, 0x04000008, 0x147F0820, 0x147F0820,
      0x147F0820, 0x147F0820, 0x147F0820, 0x147F0820, 0x147F0820, 0x147F0820, 0x147F0820, 0x147F0820] := by
  decide

/-- Settles O9: each register is read off the reset state and off a new partition. -/
theorem resetValues : Obligations.ResetValues :=
  ⟨reset_formats, rfl, rfl, rfl, rfl, rfl, rfl, rfl, rfl, rfl, rfl, rfl, rfl, rfl, rfl, rfl, rfl,
    fun _ _ _ _ _ => ⟨rfl, rfl, rfl, rfl, rfl, rfl, rfl⟩⟩

end Sys2Proof.Machine
end

section
/-! What CTLR, GETID and TIME read (R47, R48, R104, R105). -/

namespace Sys2Proof.Machine

variable {s : State} {d : Nat}

/-- CTLR of a listed index other than CTL.FSTAT's. -/
theorem exec_ctlr_of_listed {i : Nat} {v : Word} (hi : i ≠ 0) (hv : s.ctlRead i = some v) :
    exec (.ctlr i d) s = .next (s.result 2 [.s d v]) := by
  change execCtlr i d s = _
  simp only [execCtlr, if_neg hi, hv]

/-- CTLR of CTL.FSTAT reads it after what the ended phases owed (R35). -/
theorem exec_ctlr_fstat :
    exec (.ctlr 0 d) s = .next (s.settle.result 2 [.s d (s.settle.core.fstat.setWidth 64)]) := rfl

/-- CTLR of an unlisted index raises X_ILLEGAL. -/
theorem ctlr_raises_of_unlisted {i : Nat} (hi : i ≠ 0) (hv : s.ctlRead i = none) : raises (.ctlr i d) s .illegal := by
  change execCtlr i d s = _
  simp only [execCtlr, if_neg hi, hv, State.refuse]

/-- CTLR of a listed index puts its value in flight. -/
theorem ctlr_writes_of_listed {i : Nat} {v : Word} {n : Nat} (hi : i ≠ 0) (hv : s.ctlRead i = some v) (hn : v.toNat = n % 2 ^ 64) :
    writesScalar (.ctlr i d) s 2 d fun z => z.toNat = n % 2 ^ 64 :=
  ⟨v, exec_ctlr_of_listed hi hv, hn⟩

/-- The queue stalls stand at 0x008 to 0x00F (Table 3-2). -/
theorem State.ctlRead_qstall {k : Nat} (hk : k < 8) : s.ctlRead (8 + k) = some (bankGet 0 s.core.qstall k) := by
  interval_cases k <;> rfl

/-- The stream-buffer descriptors stand at 0x040 to 0x04F (Table 3-2). -/
theorem State.ctlRead_sb {k : Nat} (hk : k < 16) : s.ctlRead (0x40 + k) = some (bankGet 0 s.core.sb k) := by
  interval_cases k <;> rfl

/-- The indices that Table 3-2 does not list. -/
theorem State.ctlRead_unlisted {i : Nat} (hi : i ∈ [6, 7] ∨ (0x12 ≤ i ∧ i < 0x20) ∨ (0x27 ≤ i ∧ i < 0x40) ∨ 0x50 ≤ i) :
    s.ctlRead i = none := by
  simp only [List.mem_cons, List.not_mem_nil, or_false] at hi
  simp only [State.ctlRead]
  repeat rw [if_neg (by omega)]

/-- A register of the partition of the acting core, as CTLR reads it. -/
theorem State.partReg_of_part {p : Partition} (hp : s.part? s.core.part = some p) (f : Partition → Nat) :
    s.partReg f = BitVec.ofNat 64 (f p) := by
  simp only [State.partReg, State.myPart, hp, Option.map_some, Option.getD_some]

/-- CTL.SRSEED is the partition's (R47). -/
theorem State.ctlRead_srseed {p : Partition} (hp : s.part? s.core.part = some p) : s.ctlRead 0x20 = some p.srseed := by
  change some ((s.myPart.map (·.srseed)).getD 1) = _
  rw [State.myPart, hp]; rfl

/-- CTLR of a register of the partition, where index `i` reads field `f`. -/
theorem ctlr_writes_partReg {p : Partition} (hp : s.part? s.core.part = some p) {i : Nat} {f : Partition → Nat} (hi : i ≠ 0)
    (hf : s.ctlRead i = some (s.partReg f)) : writesScalar (.ctlr i d) s 2 d fun z => z.toNat = f p % 2 ^ 64 :=
  ctlr_writes_of_listed hi (hf.trans (congrArg some (State.partReg_of_part hp f))) (BitVec.toNat_ofNat ..)

/-- GETID puts an identifier in flight as a 64-bit number. -/
theorem getid_writes {k n : Nat} (h : exec (.getid k d) s = .next (s.result 2 [.s d (BitVec.ofNat 64 n)])) :
    writesScalar (.getid k d) s 2 d fun z => z.toNat = n % 2 ^ 64 :=
  ⟨_, h, BitVec.toNat_ofNat ..⟩

/-- GETID of a kind above 8 raises X_ILLEGAL. -/
theorem getid_raises {k : Nat} (hk : 9 ≤ k) : raises (.getid k d) s .illegal := by
  obtain ⟨j, rfl⟩ := Nat.exists_eq_add_of_le' hk
  rfl

/-- Settles O31: each index by what `State.ctlRead` answers for it. -/
theorem controlRegisterReads : Obligations.ControlRegisterReads := by
  intro s d
  have whole (x : Word) : x.toNat = x.toNat % 2 ^ 64 := (Nat.mod_eq_of_lt x.isLt).symm
  have number (n : Nat) : (BitVec.ofNat 64 n).toNat = n % 2 ^ 64 := BitVec.toNat_ofNat ..
  refine ⟨⟨_, exec_ctlr_fstat, ?fstat⟩, ctlr_writes_of_listed (by decide) rfl ?mode, ctlr_writes_of_listed (by decide) rfl (whole _),
    ctlr_writes_of_listed (by decide) rfl (number _), ctlr_writes_of_listed (by decide) rfl (number _),
    ctlr_writes_of_listed (by decide) rfl (number _),
    fun k hk => ctlr_writes_of_listed (by omega) (State.ctlRead_qstall hk) (whole _), ctlr_writes_of_listed (by decide) rfl (whole _),
    fun k hk => ctlr_writes_of_listed (by omega) (State.ctlRead_sb hk) (whole _), ctlr_writes_of_listed (by decide) rfl (number _),
    ?partition, ?unlisted, ?getid, fun k hk => getid_raises hk, ⟨_, rfl, number _⟩⟩
  case fstat => simp only [BitVec.toNat_setWidth]; omega
  case mode => exact BitVec.toNat_setWidth ..
  case partition =>
    exact fun p hp => ⟨ctlr_writes_of_listed (by decide) (State.ctlRead_srseed hp) (whole _), ctlr_writes_partReg hp (by decide) rfl,
      ctlr_writes_partReg hp (by decide) rfl, ctlr_writes_partReg hp (by decide) rfl, ctlr_writes_partReg hp (by decide) rfl,
      ctlr_writes_partReg hp (by decide) rfl, ctlr_writes_partReg hp (by decide) rfl⟩
  case unlisted =>
    exact fun i hi => ctlr_raises_of_unlisted (by rintro rfl; simp at hi) (State.ctlRead_unlisted hi)
  case getid =>
    simp only [List.forall_mem_cons, List.not_mem_nil, false_imp_iff, implies_true, and_true]
    exact ⟨getid_writes rfl, getid_writes rfl, getid_writes rfl, getid_writes rfl, getid_writes rfl, getid_writes rfl, getid_writes rfl,
      getid_writes rfl, getid_writes rfl⟩

end Sys2Proof.Machine
end

section
/-! Integer results narrowed to an element: residues and readings of codes, the clamp of SAT (R20). -/

namespace Sys2Proof.Machine

/-- The code of an integer is its residue (R20). -/
theorem toBits_cast (w : Nat) (x : Int) : ((toBits w x : Nat) : Int) = x % 2 ^ w := by
  have h : (0 : Int) < ((2 ^ w : Nat) : Int) := by positivity
  rw [toBits, Int.toNat_of_nonneg (Int.emod_nonneg _ h.ne')]
  norm_cast

/-- An integer in the unsigned range of `w` bits is its own code. -/
theorem toBits_cast_of_nonneg {w : Nat} {x : Int} (h0 : 0 ≤ x) (h1 : x < 2 ^ w) : ((toBits w x : Nat) : Int) = x :=
  (toBits_cast w x).trans (Int.emod_eq_of_lt h0 h1)

/-- The two's-complement reading of the code of an integer in the signed range of `w` bits is that integer. -/
theorem toBits_bmod {w : Nat} {x : Int} (hw : 1 ≤ w) (h0 : -2 ^ (w - 1) ≤ x) (h1 : x < 2 ^ (w - 1)) :
    ((toBits w x : Nat) : Int).bmod (2 ^ w) = x := by
  have hp : ((2 ^ w : Nat) : Int) = 2 * 2 ^ (w - 1) := by
    obtain ⟨n, rfl⟩ := Nat.exists_eq_add_of_le' hw
    push_cast; exact pow_succ' 2 n
  have hr : (x % ((2 ^ w : Nat) : Int)).bmod (2 ^ w) = x.bmod (2 ^ w) := Int.emod_bmod ..
  rw [toBits_cast]
  push_cast at hr hp
  rw [hr]
  exact Int.bmod_eq_of_le (by push_cast; omega) (by push_cast; omega)

variable (e : IntElt)

/-- The integer that a code of an element stands for: the two's-complement or the unsigned reading. -/
def IntElt.reading (c : Nat) : Int := if e.sgn then (c : Int).bmod (2 ^ e.w) else c

/-- The range of an element is not empty. -/
theorem IntElt.lo_le_hi : e.lo ≤ e.hi := by
  have h (n : Nat) : (1 : Int) ≤ ((2 ^ n : Nat) : Int) := by exact_mod_cast Nat.one_le_two_pow
  unfold IntElt.lo IntElt.hi
  split_ifs <;> linarith [h (e.w - 1), h e.w]

variable {e} {x : Int}

/-- The code of an integer of the element's range reads as that integer. -/
theorem IntElt.reading_toBits (hw : 1 ≤ e.w) (h0 : e.lo ≤ x) (h1 : x ≤ e.hi) : e.reading (toBits e.w x) = x := by
  unfold IntElt.lo at h0; unfold IntElt.hi at h1; unfold IntElt.reading
  by_cases hs : e.sgn = true
  · simp only [hs, if_true] at h0 h1 ⊢
    push_cast at h0 h1
    exact toBits_bmod hw (by split_ifs at h0 <;> omega) (by omega)
  · simp only [hs] at h0 h1 ⊢
    push_cast at h1
    exact toBits_cast_of_nonneg h0 (by omega)

/-- A result within the range passes without a flag, with SAT and without. -/
theorem IntElt.narrow_of_mem (h0 : e.lo ≤ x) (h1 : x ≤ e.hi) (sat : Bool) : e.narrow sat x = (toBits e.w x, 0) := by
  cases sat
  · rfl
  · simp [IntElt.narrow, min_eq_left h1, max_eq_right h0, flagIf]

/-- Under SAT the clamp raises SA exactly where it changes the result. -/
theorem IntElt.narrow_sat_flag : (e.narrow true x).2 = if e.lo ≤ x ∧ x ≤ e.hi then 0 else Flags.sa := by
  by_cases h : e.lo ≤ x ∧ x ≤ e.hi
  · rw [IntElt.narrow_of_mem h.1 h.2, if_pos h]
  · have hne : max e.lo (min x e.hi) ≠ x := by have := e.lo_le_hi; omega
    simp [IntElt.narrow, flagIf, hne, h]

/-- Settles O36: on the element's range codes and integers correspond, and the clamp goes into that range. -/
theorem integerNarrowing : Obligations.IntegerNarrowing := by
  intro e x hw hw64
  have hlo : e.lo = if e.sgn then -2 ^ (e.w - 1) + (if e.nzr then 1 else 0) else 0 := by unfold IntElt.lo; push_cast; rfl
  have hhi : e.hi = if e.sgn then 2 ^ (e.w - 1) - 1 else 2 ^ e.w - 1 := by unfold IntElt.hi; push_cast; rfl
  simp only [← hlo, ← hhi]
  refine ⟨toBits_cast e.w x, rfl, ?_, IntElt.narrow_sat_flag, fun h0 h1 sat => ?_⟩
  · exact IntElt.reading_toBits hw (le_max_left ..) (max_le e.lo_le_hi (min_le_right ..))
  · rw [IntElt.narrow_of_mem h0 h1]
    exact ⟨IntElt.reading_toBits hw h0 h1, rfl⟩

end Sys2Proof.Machine
end

section
/-! The lanes of vector registers, and the float vector instructions over them (R141, R149, R150). -/

namespace Sys2Proof.Machine

variable (s : State)

/-- The codes of the lanes of a register, lane by lane. -/
theorem lanesOf_rv (w n r : Nat) : lanesOf w n (s.core.rv r) = (List.range n).map (s.core.lane w r) := rfl

theorem State.lanes_eq_map (l r : Nat) : s.lanes l r = (List.range (4096 / l)).map (s.core.lane l r) := rfl

/-- Bit k of a register's number. -/
theorem hasBit_toNat {n : Nat} (x : BitVec n) (k : Nat) : hasBit x.toNat k = x.getLsbD k := by
  rw [hasBit, ← BitVec.testBit_toNat, Nat.testBit_eq_decide_div_mod_eq]; rfl

theorem State.active_eq_map (n p : Nat) : s.active n p = (List.range n).map (s.core.act p) :=
  List.map_congr_left fun k _ => hasBit_toNat (s.core.rp p) k

/-- Element `i` of a list made over a range. -/
theorem toArray_getD_map_range {α : Type} (f : Nat → α) (d : α) {n i : Nat} (hi : i < n) :
    ((List.range n).map f).toArray.getD i d = f i := by
  simp [Array.getD, hi]

/-- A lanewise operation, lane by lane. -/
theorem State.lanewise_eq_map (x : VArgs) (l : Nat) (f : Nat → Nat → Nat → Nat → Nat × Flags) :
    s.lanewise x l f = (List.range (4096 / l)).map fun k =>
      if s.core.act x.p k then some (f k (s.core.lane l x.a k) (s.core.lane l x.b k) (s.core.lane l x.c k)) else none := by
  refine List.ext_getElem ?_ fun k h1 h2 => ?_ 
  · simp [State.lanewise, State.active_eq_map]
  · have hk : k < 4096 / l := by simpa using h2
    simp only [State.lanewise, State.active_eq_map, State.lanes_eq_map, List.getElem_map, List.getElem_zipIdx, List.getElem_range, Nat.zero_add, toArray_getD_map_range _ _ hk]

/-! ### Float instructions (R149, R150) -/

variable {s} {x : VArgs} {bound : Nat}

/-- A float instruction on a type that is none raises X_FORMAT. -/
theorem State.floatOp_of_none (h : s.floatOf x.t x.fd = none) (g) : s.floatOp x bound g = .next (s.takeTrap { no := .format }) := by
  simp only [State.floatOp, h, State.refuse]

theorem State.floatCopy_of_none (h : s.floatOf x.t x.fd = none) (g) : s.floatCopy x bound g = .next (s.takeTrap { no := .format }) := by
  simp only [State.floatCopy, h, State.refuse]

/-- A float instruction that rounds, lane by lane: lane k uses the k-th draw. -/
theorem State.floatOp_of_some {f : Fmt} (h : s.floatOf x.t x.fd = some f) (g) :
    s.floatOp x bound g = .next ((s.draws (4096 / f.lane)).2.putLanes bound x.d f.lane ((List.range (4096 / f.lane)).map fun k =>
      if s.core.act x.p k then
        some (g f s.core.ctx.rnd s.core.ctx.sat ((s.draws (4096 / f.lane)).1.getD k 0)
          (s.core.lane f.lane x.a k) (s.core.lane f.lane x.b k) (s.core.lane f.lane x.c k))
      else none)) := by
  simp only [State.floatOp, h, State.lanewise_eq_map, Array.getD_eq_getD_getElem?, List.getElem?_toArray, List.getD_eq_getElem?_getD]

theorem State.floatCopy_of_some {f : Fmt} (h : s.floatOf x.t x.fd = some f) (g) :
    s.floatCopy x bound g = .next (s.putLanes bound x.d f.lane ((List.range (4096 / f.lane)).map fun k =>
      if s.core.act x.p k then some (g f (s.core.lane f.lane x.a k) (s.core.lane f.lane x.b k)) else none)) := by
  simp only [State.floatCopy, h, State.lanewise_eq_map]

/-- VFNEG inverts the sign bit where the format has one, and leaves the only zero of a format with NZR (R149). -/
theorem vfNeg_eq (f : Fmt) (a b : Nat) : vfNeg f a b =
    (if f.sgn = false then a % 2 ^ f.width else if f.nzr = true ∧ a % 2 ^ f.width = 0 then 0
      else a % 2 ^ f.width ^^^ 2 ^ (f.width - 1), 0) := by
  simp [vfNeg]

/-- Settles O39: each instruction is a float operation, rounding or not, of the lane's codes. -/
theorem floatVectorInstructions : Obligations.FloatVectorInstructions := by
  refine ⟨fun s o q => ?rounding, fun s o q => ?copying⟩
  case rounding =>
    intro mode sat lanes both v
    have one {i x bound r g} (hi : exec i s = s.floatOp x bound g) (hr : ∀ f d a b c, g f mode sat d a b c = r f d a b c) :
        lanes i x bound r := by
      refine ⟨fun h => hi.trans (State.floatOp_of_none h g), fun f h => ?_⟩
      rw [hi, State.floatOp_of_some h]
      simp only [mode, sat] at hr
      simp only [hr]
    clear_value lanes
    have two {i j bound r g} (hi : exec i s = s.floatOp (s.shortArgs o) bound g) (hj : exec j s = s.floatOp (s.longArgs q) bound g)
        (hr : ∀ f d a b c, g f mode sat d a b c = r f d a b c) : both i j bound r := ⟨one hi hr, one hj hr⟩
    clear_value both
    exact ⟨two rfl rfl fun _ _ _ _ _ => rfl, two rfl rfl fun _ _ _ _ _ => rfl, two rfl rfl fun _ _ _ _ _ => rfl,
      two rfl rfl fun _ _ _ _ _ => rfl, two rfl rfl fun _ _ _ _ _ => rfl, one rfl fun _ _ _ _ _ => rfl⟩
  case copying =>
    intro lanes both special top
    have one {i x bound r g} (hi : exec i s = s.floatCopy x bound g) (hr : ∀ f a b, g f a b = r f a b) : lanes i x bound r := by
      refine ⟨fun h => hi.trans (State.floatCopy_of_none h g), fun f h => ?_⟩
      rw [hi, State.floatCopy_of_some h]
      simp only [hr]
    clear_value lanes
    have two {i j bound r g} (hi : exec i s = s.floatCopy (s.shortArgs o) bound g) (hj : exec j s = s.floatCopy (s.longArgs q) bound g)
        (hr : ∀ f a b, g f a b = r f a b) : both i j bound r := ⟨one hi hr, one hj hr⟩
    have fn {i j bound k} (hi : exec i s = s.special (s.shortArgs o) bound k) (hj : exec j s = s.special (s.longArgs q) bound k) :
        special i j bound k := ⟨one hi fun _ _ _ => rfl, one hj fun _ _ _ => rfl⟩
    clear_value special both
    exact ⟨two rfl rfl fun _ _ _ => rfl, two rfl rfl fun _ _ _ => rfl, two rfl rfl fun _ _ _ => rfl, two rfl rfl vfNeg_eq,
      fn rfl rfl, fn rfl rfl, fn rfl rfl, fn rfl rfl, fn rfl rfl⟩

end Sys2Proof.Machine
end

section
/-! Reductions and scans (R38, R160, R161): what the sum, the extreme, the tree and the running sums of active lanes are. -/

namespace Sys2Proof.Machine

/-! ## Extremes of lists of integers -/

/-- A running maximum is the greatest of the values. -/
theorem foldl_max_mem_and_ge {α : Type} (h : α → Int) (c : α) (r : List α) :
    r.foldl (fun a c => max a (h c)) (h c) ∈ (c :: r).map h ∧ ∀ x ∈ c :: r, h x ≤ r.foldl (fun a c => max a (h c)) (h c) := by
  have hmax : ((c :: r).map h).max? = some (r.foldl (fun a c => max a (h c)) (h c)) := by
    rw [List.map_cons, List.max?_cons', List.foldl_map]
  obtain ⟨hmem, hge⟩ := List.max?_eq_some_iff.1 hmax
  exact ⟨hmem, fun x hx => hge _ (List.mem_map_of_mem hx)⟩

/-- A running minimum is the least of the values. -/
theorem foldl_min_mem_and_le {α : Type} (h : α → Int) (c : α) (r : List α) :
    r.foldl (fun a c => min a (h c)) (h c) ∈ (c :: r).map h ∧ ∀ x ∈ c :: r, r.foldl (fun a c => min a (h c)) (h c) ≤ h x := by
  have hmin : ((c :: r).map h).min? = some (r.foldl (fun a c => min a (h c)) (h c)) := by
    rw [List.map_cons, List.min?_cons', List.foldl_map]
  obtain ⟨hmem, hle⟩ := List.min?_eq_some_iff.1 hmin
  exact ⟨hmem, fun x hx => hle _ (List.mem_map_of_mem hx)⟩

/-! ## The tree of R38 -/

section
variable (add : Nat → Nat → Nat × Flags)

/-- A level without a value has none above it and raises nothing. -/
theorem treeLevel_replicate_none : ∀ n, treeLevel add (List.replicate n none) = (List.replicate ((n + 1) / 2) none, 0)
  | 0 => rfl
  | 1 => rfl
  | n + 2 => by
    have ih := treeLevel_replicate_none n
    have hn : (n + 2 + 1) / 2 = (n + 1) / 2 + 1 := by omega
    simp only [List.replicate_succ, treeLevel, ih, hn]

/-- In a level of even length a lone value passes unchanged. -/
theorem treeLevel_lone (c : Nat) : ∀ a b, (a + 1 + b) % 2 = 0 →
    treeLevel add (List.replicate a none ++ some c :: List.replicate b none)
      = (List.replicate (a / 2) none ++ some c :: List.replicate (b / 2) none, 0)
  | 0, b + 1, h => by
    have hb : (b + 1) / 2 = b / 2 ∧ (b + 1) / 2 = b / 2 := by omega
    simp [List.replicate_succ, treeLevel, treeLevel_replicate_none, hb]
  | 1, b, h => by
    have hb : (b + 1) / 2 = b / 2 := by omega
    simp [List.replicate_succ, treeLevel, treeLevel_replicate_none, hb]
  | a + 2, b, h => by
    have ih := treeLevel_lone c a b (by omega)
    have ha : (a + 2) / 2 = a / 2 + 1 := by omega
    simp only [List.replicate_succ, List.cons_append, treeLevel, ih, ha]

/-- Without a value the root is absent. -/
theorem treeSum_replicate_none (k : Nat) : ∀ n, treeSum add k (List.replicate n none) = (0, 0) := by
  induction k with
  | zero => intro n; cases n <;> rfl
  | succ k ih => intro n; simp [treeSum, treeLevel_replicate_none, ih]

/-- A lone value passes to the root. -/
theorem treeSum_lone (c k : Nat) : ∀ a b, a + 1 + b = 2 ^ k →
    treeSum add k (List.replicate a none ++ some c :: List.replicate b none) = (c, 0) := by
  induction k with
  | zero =>
    intro a b h
    obtain ⟨rfl, rfl⟩ : a = 0 ∧ b = 0 := by omega
    rfl
  | succ k ih =>
    intro a b h
    have h2 : a + 1 + b = 2 * 2 ^ k := by rw [h, pow_succ']
    simp [treeSum, treeLevel_lone add c a b (by omega), ih (a / 2) (b / 2) (by omega)]

end

/-- A list of absent values. -/
theorem eq_replicate_none {l : List (Option Nat)} (h : l.all Option.isNone = true) : l = List.replicate l.length none :=
  List.eq_replicate_of_mem fun _ hx => Option.isNone_iff_eq_none.1 (List.all_eq_true.1 h _ hx)

/-- A list with one value. -/
theorem eq_lone {l : List (Option Nat)} {k c : Nat} (hk : l[k]? = some (some c))
    (hj : ∀ j, j ≠ k → l[j]? ≠ none → l[j]? = some none) :
    l = List.replicate k none ++ some c :: List.replicate (l.length - k - 1) none := by
  have hlt : k < l.length := (List.getElem?_eq_some_iff.1 hk).1
  refine List.ext_getElem? fun i => ?_
  rcases lt_trichotomy i k with h | rfl | h
  · rw [hj i h.ne (by simp only [ne_eq, List.getElem?_eq_none_iff]; omega), List.getElem?_append_left (by simpa using h),
      List.getElem?_replicate, if_pos h]
  · simp [hk]
  · obtain ⟨d, rfl⟩ := Nat.exists_eq_add_of_lt h
    rw [List.getElem?_append_right (by simp; omega)]
    by_cases hd : k + d + 1 < l.length
    · rw [hj _ (by omega) (by simp only [ne_eq, List.getElem?_eq_none_iff]; omega)]
      have : d < l.length - k - 1 := by omega
      simp [Nat.add_assoc, this]
    · rw [List.getElem?_eq_none (by omega)]
      simp [Nat.add_assoc]; omega

/-! ## Running sums (R161) -/

section
variable (first : Nat → Nat × Flags) (next : Nat → Nat → Nat × Flags)

theorem scanLanes_length : ∀ l acc, (scanLanes first next l acc).length = l.length
  | [], _ => rfl
  | none :: r, acc => by simp [scanLanes, scanLanes_length r]
  | some c :: r, none => by simp [scanLanes, scanLanes_length r]
  | some c :: r, some a => by simp [scanLanes, scanLanes_length r]

/-- What the lane that follows no active one receives: `first` of it, or `next` of the running value before it. -/
def scanStep (acc : Option Nat) (c : Nat) : Nat × Flags := acc.elim (first c) (next · c)

/-- A scan whose first lane is active. -/
theorem scanLanes_cons_some (c : Nat) (r : List (Option Nat)) (acc : Option Nat) :
    scanLanes first next (some c :: r) acc =
      some (scanStep first next acc c) :: scanLanes first next r (some (scanStep first next acc c).1) := by
  cases acc <;> rfl

/-- An inactive lane receives nothing. -/
theorem scanLanes_inactive {l : List (Option Nat)} : ∀ {k : Nat} {acc : Option Nat}, l[k]? = some none → (scanLanes first next l acc)[k]? = some none := by
  induction l with
  | nil => intro k acc h; simp at h
  | cons x r ih =>
    intro k acc h
    cases x with
    | none => cases k <;> simp_all [scanLanes]
    | some c => cases k <;> simp_all [scanLanes_cons_some]

/-- The first active lane continues the running value that stands before the list. -/
theorem scanLanes_first {l : List (Option Nat)} {c : Nat} : ∀ {k : Nat} {acc : Option Nat}, l[k]? = some (some c) → (∀ m < k, l[m]? = some none) →
    (scanLanes first next l acc)[k]? = some (some (scanStep first next acc c)) := by
  induction l with
  | nil => intro k acc h; simp at h
  | cons x r ih =>
    intro k acc h hb
    cases k with
    | zero =>
      obtain rfl : x = some c := by simpa using h
      simp [scanLanes_cons_some]
    | succ k =>
      obtain rfl : x = none := by simpa using hb 0 (by omega)
      simpa [scanLanes] using ih (by simpa using h) fun m hm => by simpa using hb (m + 1) (by omega)

/-- An active lane continues the result of the active lane before it. -/
theorem scanLanes_next {l : List (Option Nat)} {c : Nat} {y : Nat × Flags} : ∀ {j k : Nat} {acc : Option Nat}, j < k → l[k]? = some (some c) →
    (scanLanes first next l acc)[j]? = some (some y) → (∀ m, j < m → m < k → l[m]? = some none) →
    (scanLanes first next l acc)[k]? = some (some (next y.1 c)) := by
  induction l with
  | nil => intro j k acc _ h; simp at h
  | cons x r ih =>
    intro j k acc hjk h hy hb
    obtain ⟨k, rfl⟩ : ∃ i, k = i + 1 := ⟨k - 1, by omega⟩
    have hk : r[k]? = some (some c) := by simpa using h
    cases j with
    | zero =>
      have hbr : ∀ m < k, r[m]? = some none := fun m hm => by simpa using hb (m + 1) (by omega) (by omega)
      cases x with
      | none => simp [scanLanes] at hy
      | some b =>
        rw [scanLanes_cons_some] at hy ⊢
        obtain rfl : scanStep first next acc b = y := by simpa using hy
        exact scanLanes_first first next hk hbr
    | succ j =>
      have hbr : ∀ m, j < m → m < k → r[m]? = some none := fun m h1 h2 => by simpa using hb (m + 1) (by omega) (by omega)
      cases x with
      | none => simpa [scanLanes] using ih (by omega) hk (by simpa [scanLanes] using hy) hbr
      | some b =>
        rw [scanLanes_cons_some] at hy ⊢
        simpa using ih (by omega) hk (by simpa using hy) hbr

end

end Sys2Proof.Machine
end

section
/-! What VRSUM, VRFSUM, VRMAX, VRMIN and VSCAN do with the active lanes (R160, R161). -/

namespace Sys2Proof.Machine

variable {s : State} {x : VArgs}

/-- The values of the elements that a test admits. -/
theorem filterMap_ite_some {α β : Type} (p : α → Bool) (f : α → β) (l : List α) :
    (l.filterMap fun k => if p k then some (f k) else none) = (l.filter p).map f := by
  rw [← List.filterMap_eq_map, List.filterMap_filter]
  rfl

/-- The codes of the active lanes. -/
theorem State.actives_eq (x : VArgs) (l : Nat) :
    s.actives x l = ((List.range (4096 / l)).filter (s.core.act x.p)).map (s.core.lane l x.a) := by
  rw [State.actives, State.active_eq_map, State.lanes_eq_map, List.zip_map', List.filterMap_map, ← filterMap_ite_some]
  rfl

/-- What a reduction makes of each lane. -/
theorem State.map_zip_active {α : Type} (h : Bool × Nat → α) (x : VArgs) (l : Nat) :
    ((s.active (4096 / l) x.p).zip (s.lanes l x.a)).map h =
      (List.range (4096 / l)).map fun k => h (s.core.act x.p k, s.core.lane l x.a k) := by
  rw [State.active_eq_map, State.lanes_eq_map, List.zip_map', List.map_map]; rfl

/-- The lanes of a source by number: an active one with its code. -/
def State.sourceLanes (s : State) (x : VArgs) (l : Nat) : List (Option Nat) :=
  (List.range (4096 / l)).map fun k => if s.core.act x.p k then some (s.core.lane l x.a k) else none

theorem State.sourceLanes_length (x : VArgs) (l : Nat) : (s.sourceLanes x l).length = 4096 / l := by
  simp [State.sourceLanes]

theorem State.sourceLanes_getElem? {l k : Nat} (hk : k < 4096 / l) :
    (s.sourceLanes x l)[k]? = some (if s.core.act x.p k then some (s.core.lane l x.a k) else none) := by
  simp [State.sourceLanes, hk]

theorem State.filterMap_sourceLanes (x : VArgs) (l : Nat) : (s.sourceLanes x l).filterMap id = s.actives x l := by
  rw [State.actives_eq, ← filterMap_ite_some, State.sourceLanes, List.filterMap_map]; rfl

/-! ## VRSUM -/

/-- The codes of the active lanes as an element type reads them. -/
def State.activeCodes (s : State) (x : VArgs) (e : IntElt) : List (Nat × Flags) :=
  ((List.range (4096 / e.lane)).filter fun k => s.core.act x.p k).map fun k => e.code (s.core.lane e.lane x.a k)

theorem State.map_code_actives (x : VArgs) (e : IntElt) : (s.actives x e.lane).map e.code = s.activeCodes x e := by
  rw [State.actives_eq, List.map_map]; rfl

theorem foldl_add_eq_sum {α : Type} (h : α → Int) (l : List α) : l.foldl (fun a c => a + h c) 0 = (l.map h).sum := by
  rw [List.sum_eq_foldl, List.foldl_map]

theorem State.sumLanes_of_some {e : IntElt} (h : s.intElt x = some e) :
    s.sumLanes x =
      let y := e.narrow s.core.ctx.sat ((s.activeCodes x e).map fun c => e.int c.1).sum
      (s.raiseFlags ((s.activeCodes x e).foldl (fun g c => g ||| c.2) 0 ||| y.2)).result 6 [laneWrite x.d e.lane 0 [some y.1]] := by
  simp only [State.sumLanes, h, State.map_code_actives, foldl_add_eq_sum, State.putLane0]

/-! ## VRMAX and VRMIN -/

/-- The extreme of an integer type is the greatest or least active lane, or the type's least or greatest value. -/
theorem State.extremeLanes_int {e : IntElt} (h : s.intElt x = some e) (most : Bool) :
    ∃ b : Int, s.extremeLanes x false most =
        (s.raiseFlags ((s.activeCodes x e).foldl (fun g c => g ||| c.2) 0)).result 6 [laneWrite x.d e.lane 0 [some (toBits e.w b)]] ∧
      (s.activeCodes x e = [] → b = if most then e.lo else e.hi) ∧
      (s.activeCodes x e ≠ [] → b ∈ (s.activeCodes x e).map (fun c => e.int c.1) ∧
        ∀ c ∈ s.activeCodes x e, if most then e.int c.1 ≤ b else b ≤ e.int c.1) := by
  simp only [State.extremeLanes, h, State.map_code_actives, State.putLane0, Bool.false_eq_true, if_false]
  refine ⟨_, rfl, ?_⟩
  cases s.activeCodes x e with
  | nil => exact ⟨fun _ => rfl, fun h => absurd rfl h⟩
  | cons c r =>
    refine ⟨fun h => (List.cons_ne_nil _ _ h).elim, fun _ => ?_⟩
    cases most
    · simpa using foldl_min_mem_and_le (fun c : Nat × Flags => e.int c.1) c r
    · simpa using foldl_max_mem_and_ge (fun c : Nat × Flags => e.int c.1) c r

/-- The extreme of a float type (R41). -/
theorem State.extremeLanes_float {f : Fmt} (h : s.floatOf x.t x.fd = some f) (most : Bool) :
    s.extremeLanes x true most =
      let y := f.extreme most ((s.sourceLanes x f.lane).filterMap id)
      (s.raiseFlags y.2).result 6 [laneWrite x.d f.lane 0 [some y.1]] := by
  simp only [State.extremeLanes, h, State.filterMap_sourceLanes, State.putLane0, if_true]

/-- The flags that a list of codes raises in R41's pairwise operation. -/
def Fmt.signals (f : Fmt) (cs : List Nat) : Flags :=
  cs.foldl (fun g c => g ||| (f.operand c).2 ||| flagIf (f.operand c).1.isSig Flags.nv) 0

theorem Fmt.extreme_nil (f : Fmt) (most : Bool) : f.extreme most [] = (f.canon.1, 0) := rfl

/-- Of NaNs alone the extreme is the canonical one. -/
theorem Fmt.extreme_of_nans {f : Fmt} {cs : List Nat} (most : Bool) (h0 : cs ≠ []) (h : ∀ c ∈ cs, (f.operand c).1.isNan = true) :
    f.extreme most cs = (f.canon.1, f.signals cs ||| f.canon.2) := by
  have hf : (cs.filter fun c => !(f.operand c).1.isNan) = [] := by
    simpa [List.filter_eq_nil_iff] using h
  simp only [Fmt.extreme, hf, List.foldl_map, List.isEmpty_iff, h0, if_false, Fmt.signals]

/-- With a number the extreme is that of the numbers. -/
theorem Fmt.extreme_of_numbers {f : Fmt} {cs r : List Nat} {a : Nat} (most : Bool)
    (h : (cs.filter fun c => !(f.operand c).1.isNan) = a :: r) :
    f.extreme most cs = (r.foldl (fun acc b => (f.minMax most acc b).1) (a % 2 ^ f.width), f.signals cs) := by
  simp only [Fmt.extreme, h, List.foldl_map, Fmt.signals]

/-! ## VRFSUM -/

/-- The tree of R38 over the active lanes. -/
theorem State.treeLanes_of_some {f : Fmt} (h : s.floatOf x.t x.fd = some f) :
    s.treeLanes x =
      let y := treeSum (fun a b => vfAdd f s.core.ctx.rnd false 0 a b 0) (4096 / f.lane).log2
        ((s.sourceLanes x f.lane).map fun c => c.map (· % 2 ^ f.width))
      (s.raiseFlags y.2).result 14 [laneWrite x.d f.lane 0 [some y.1]] := by
  have hl : (s.sourceLanes x f.lane).map (fun c => c.map (· % 2 ^ f.width)) =
      (List.range (4096 / f.lane)).map fun k => if s.core.act x.p k then some (s.core.lane f.lane x.a k % 2 ^ f.width) else none := by
    rw [State.sourceLanes, List.map_map]
    exact List.map_congr_left fun k _ => by simp only [Function.comp, apply_ite (Option.map _)]; rfl
  simp only [State.treeLanes, h, State.putLane0, State.map_zip_active, hl]

/-! ## VSCAN -/

/-- The running sums of an integer type. -/
def State.intScan (s : State) (x : VArgs) (e : IntElt) : List (Option (Nat × Flags)) :=
  scanLanes
    (fun c => ((e.narrow s.core.ctx.sat (e.int (e.code c).1)).1, (e.code c).2 ||| (e.narrow s.core.ctx.sat (e.int (e.code c).1)).2))
    (fun a c =>
      let y := e.narrow s.core.ctx.sat (e.int (e.code a).1 + e.int (e.code c).1)
      (y.1, (e.code a).2 ||| (e.code c).2 ||| y.2))
    (s.sourceLanes x e.lane) none

/-- The running sums of a float type. -/
def State.floatScan (s : State) (x : VArgs) (f : Fmt) : List (Option (Nat × Flags)) :=
  scanLanes (fun c => ((f.store 0 false 0 (f.operand c).1).1, (f.operand c).2 ||| (f.store 0 false 0 (f.operand c).1).2))
    (fun a c => vfAdd f s.core.ctx.rnd false 0 a c 0) (s.sourceLanes x f.lane) none

theorem State.scan_int {e : IntElt} (h : s.intElt x = some e) : s.scan x false = s.putLanes 16 x.d e.lane (s.intScan x e) := by
  simp only [State.scan, h, State.map_zip_active, Bool.false_eq_true, if_false]; rfl

theorem State.scan_float {f : Fmt} (h : s.floatOf x.t x.fd = some f) :
    s.scan x true = s.putLanes 16 x.d f.lane (s.floatScan x f) := by
  simp only [State.scan, h, State.map_zip_active, if_true, State.floatScan, stored, BitVec.ofNat_eq_ofNat, BitVec.or_zero]; rfl

/-- The running sums of an integer type, lane by lane. -/
theorem State.intScan_spec (s : State) (x : VArgs) (e : IntElt) :
    (s.intScan x e).length = 4096 / e.lane ∧
    let a (k : Nat) : Nat × Flags := e.code (s.core.lane e.lane x.a k)
    (∀ k < 4096 / e.lane, s.core.act x.p k = false → (s.intScan x e)[k]? = some none) ∧
    (∀ k < 4096 / e.lane, s.core.act x.p k = true → (∀ m < k, s.core.act x.p m = false) →
      let y := e.narrow s.core.ctx.sat (e.int (a k).1)
      (s.intScan x e)[k]? = some (some (y.1, (a k).2 ||| y.2))) ∧
    (∀ j k : Nat, j < k → k < 4096 / e.lane → s.core.act x.p j = true → s.core.act x.p k = true →
      (∀ m, j < m → m < k → s.core.act x.p m = false) → ∀ r : Nat × Flags, (s.intScan x e)[j]? = some (some r) →
      let y := e.narrow s.core.ctx.sat (e.int (e.code r.1).1 + e.int (a k).1)
      (s.intScan x e)[k]? = some (some (y.1, (e.code r.1).2 ||| (a k).2 ||| y.2))) := by
  have active {k : Nat} (hk : k < 4096 / e.lane) (ha : s.core.act x.p k = true) :
      (s.sourceLanes x e.lane)[k]? = some (some (s.core.lane e.lane x.a k)) := by
    rw [State.sourceLanes_getElem? hk, if_pos ha]
  have inactive {k : Nat} (hk : k < 4096 / e.lane) (ha : s.core.act x.p k = false) : (s.sourceLanes x e.lane)[k]? = some none := by
    simp [State.sourceLanes_getElem? hk, ha]
  refine ⟨(scanLanes_length ..).trans (State.sourceLanes_length ..), fun k hk ha => ?_, fun k hk ha hb => ?_,
    fun j k hjk hk _ ha hb r hr => ?_⟩
  · exact scanLanes_inactive _ _ (inactive hk ha)
  · exact scanLanes_first _ _ (active hk ha) fun m hm => inactive (hm.trans hk) (hb m hm)
  · exact scanLanes_next _ _ hjk (active hk ha) hr fun m h1 h2 => inactive (h2.trans hk) (hb m h1 h2)

/-! The long forms go by FK (R160, R161). -/

theorem exec_vrmaxLong (o : VL) (s : State) : exec (.vrmaxLong o) s = .next (s.extremeLanes (s.longArgs o) (o.fk == 1) true) := rfl
theorem exec_vrminLong (o : VL) (s : State) : exec (.vrminLong o) s = .next (s.extremeLanes (s.longArgs o) (o.fk == 1) false) := rfl
theorem exec_vscanLong (o : VL) (s : State) : exec (.vscanLong o) s = .next (s.scan (s.longArgs o) (o.fk == 1)) := rfl

/-- Settles O42: each reduction by what its shared operation makes of the active lanes, integer or float. -/
theorem vectorReductions : Obligations.VectorReductions := by
  refine ⟨fun s o q => ?integers, fun s o q => ?floats⟩
  case integers =>
    intro codes flags sum extreme scan
    have hsum {i x} (hi : exec i s = .next (s.sumLanes x)) : sum i x := by
      refine ⟨fun h => hi.trans ?_, fun e h => hi.trans (congrArg _ (State.sumLanes_of_some h))⟩
      simp only [State.sumLanes, h, State.refuse]
    have hext {i x most} (hi : exec i s = .next (s.extremeLanes x false most)) : extreme i x most := by
      refine ⟨fun h => hi.trans ?_, fun e h => ?_⟩
      · simp only [State.extremeLanes, h, State.refuse, Bool.false_eq_true, if_false]
      · obtain ⟨b, hb, hempty, hmost⟩ := State.extremeLanes_int h most
        exact ⟨b, hi.trans (congrArg _ hb), hempty, hmost⟩
    have hscan {i x} (hi : exec i s = .next (s.scan x false)) : scan i x := by
      refine ⟨fun h => hi.trans ?_, fun e h => ⟨_, hi.trans (congrArg _ (State.scan_int h)), State.intScan_spec s x e⟩⟩
      simp only [State.scan, h, State.refuse, Bool.false_eq_true, if_false]
    have long (hq : q.fk ≠ 1) : (q.fk == 1) = false := by simpa using hq
    clear_value sum extreme scan
    exact ⟨hsum rfl, hsum rfl, hext rfl, fun hq => hext (by rw [exec_vrmaxLong, long hq]), hext rfl,
      fun hq => hext (by rw [exec_vrminLong, long hq]), hscan rfl, fun hq => hscan (by rw [exec_vscanLong, long hq])⟩
  case floats =>
    intro leaves add tree extreme
    have htree {i x} (hi : exec i s = .next (s.treeLanes x)) : tree i x := by
      refine ⟨fun h => hi.trans ?_, fun f h => ⟨hi.trans (congrArg _ (State.treeLanes_of_some h)), fun hnone => ?_, fun k c hk hj hn => ?_⟩⟩
      · simp only [State.treeLanes, h, State.refuse]
      · rw [eq_replicate_none hnone, List.map_replicate, Option.map_none]
        exact treeSum_replicate_none ..
      · have hlen : (leaves x f).length = 4096 / f.lane := State.sourceLanes_length ..
        have hlt : k < (leaves x f).length := (List.getElem?_eq_some_iff.1 hk).1
        change treeSum _ _ ((leaves x f).map _) = _
        rw [eq_lone hk hj, List.map_append, List.map_cons, List.map_replicate, List.map_replicate, Option.map_none, Option.map_some]
        exact treeSum_lone _ _ _ _ _ (by omega)
    have long (hq : q.fk = 1) : (q.fk == 1) = true := by simpa using hq
    have hext {i most} (hi : exec i s = .next (s.extremeLanes (s.longArgs q) true most)) : extreme i most := by
      intro f h cs nv gives
      have hgives {y} (hy : f.extreme most cs = y) : gives y := by
        rw [← hy]; exact hi.trans (congrArg _ (State.extremeLanes_float h most))
      exact ⟨fun h0 => hgives (by rw [h0]; exact f.extreme_nil most), fun h0 hnan => hgives (Fmt.extreme_of_nans most h0 hnan),
        fun a r hr => hgives (Fmt.extreme_of_numbers most hr)⟩
    refine ⟨htree rfl, htree rfl, fun hq h => ?none, fun hq => ⟨hext (by rw [exec_vrmaxLong, long hq]), hext (by rw [exec_vrminLong, long hq])⟩,
      fun hq f h => ?scan⟩
    case none =>
      have hl : s.floatOf (s.longArgs q).t (s.longArgs q).fd = none := h
      simp only [raises, exec_vrmaxLong, exec_vrminLong, exec_vscanLong, State.extremeLanes, State.scan, long hq, hl, State.refuse, if_true,
        and_self]
    case scan =>
      exact ⟨s.floatScan (s.longArgs q) f, by rw [exec_vscanLong, long hq, State.scan_float h],
        (scanLanes_length ..).trans (State.sourceLanes_length ..), fun k hk => scanLanes_inactive _ _ hk,
        fun k c hk hb => scanLanes_first _ _ hk hb, fun j k a c hjk hk ha hb => scanLanes_next _ _ hjk hk ha hb⟩

end Sys2Proof.Machine
end

section
/-! The array's exact accumulation in INT32 (R37, R173): a cell gains the products of its row and its column modulo 2^32. -/

namespace Sys2Proof.Machine

/-! ## Dense and sparse views -/

/-- An entry of a dense view kept as a bank. -/
theorem bankGet_zipIdx {α : Type} [DecidableEq α] (d : α) (l : List α) : ∀ k n,
    bankGet d (((l.zipIdx k).filter fun x => x.1 ≠ d).map fun x => (x.2, x.1)) n = if n < k then d else l.getD (n - k) d := by
  induction l with
  | nil => intro k n; simp only [List.zipIdx_nil, List.filter_nil, List.map_nil, bankGet, List.getD_nil, ite_self]
  | cons x r ih =>
    intro k n
    rw [List.zipIdx_cons]
    have hn : ¬ n < k → n ≠ k → (x :: r).getD (n - k) d = r.getD (n - (k + 1)) d := fun h1 h2 => by
      rw [show n - k = n - (k + 1) + 1 by omega, List.getD_cons_succ]
    by_cases hx : x = d
    · rw [List.filter_cons_of_neg (by simpa using hx), ih]
      rcases lt_trichotomy n k with h | rfl | h
      · rw [if_pos h, if_pos (by omega)]
      · simp [hx]
      · rw [if_neg (by omega), if_neg (by omega), hn (by omega) (by omega)]
    · rw [List.filter_cons_of_pos (by simpa using hx), List.map_cons, bankGet]
      rcases lt_trichotomy n k with h | rfl | h
      · rw [if_neg h.ne', if_pos h, if_pos h]
      · simp
      · rw [if_neg h.ne, if_neg (by omega), ih, if_neg (by omega), if_neg (by omega), hn (by omega) (by omega)]

theorem bankGet_sparse {α : Type} [DecidableEq α] (d : α) (a : Array α) (n : Nat) : bankGet d (sparse d a) n = a.getD n d := by
  rw [sparse, bankGet_zipIdx d a.toList 0 n, if_neg (Nat.not_lt_zero n), Nat.sub_zero, Array.getD_eq_getD_getElem?, List.getD_eq_getElem?_getD,
    Array.getElem?_toList]

/-! ## One step -/

/-- The signed reading of a 32-bit accumulator (R19). -/
theorem toSigned_toNat (x : W32) : toSigned 32 x.toNat = x.toInt := by
  have := x.isLt
  rw [toSigned, BitVec.toInt_eq_toNat_cond]
  split_ifs <;> omega

/-- The accumulator that holds an integer modulo 2^32 (R37). -/
theorem ofNat_toBits (x : Int) : BitVec.ofNat 32 (toBits 32 x) = BitVec.ofInt 32 x := by
  apply BitVec.eq_of_toNat_eq
  have : x % 2 ^ 32 < 2 ^ 32 := Int.emod_lt_of_pos _ (by norm_num)
  simp [toBits, BitVec.toNat_ofInt]
  omega

/-- An accumulation in INT32 adds modulo 2^32 (R37). -/
theorem accumulate_ints (mode draw : Nat) (acc : W32) (ps : List Val) :
    (accumulate true mode draw acc ps).1 = acc + BitVec.ofInt 32 (ps.map (Val.scaled 0)).sum := by
  have hsum (z : Int) : ps.foldl (fun a v => a + v.scaled 0) z = z + (ps.map (Val.scaled 0)).sum := by
    induction ps generalizing z with
    | nil => simp
    | cons p r ih => rw [List.foldl_cons, ih, List.map_cons, List.sum_cons, Int.add_assoc]
  simp only [accumulate, if_true, hsum, toSigned_toNat, ofNat_toBits, BitVec.ofInt_add, BitVec.ofInt_toInt]

/-- The exact product of position k of row i of A and row j of B, beyond the n positions in use 0. -/
def cellTerm (a b : Array (Array Val)) (i j n k : Nat) : Int :=
  if k < n then (((a.getD i #[]).getD k .zero).mul ((b.getD j #[]).getD k .zero)).1.scaled 0 else 0

/-- The sum of a dot's products. -/
theorem dotProducts_scaled_sum (a b : Array (Array Val)) (i j lo d n : Nat) :
    ((dotProducts a b i j lo d n).map (Val.scaled 0 ∘ fun x => x.1)).sum = ((List.range d).map fun t => cellTerm a b i j n (lo + t)).sum := by
  rw [dotProducts, List.map_map]
  refine congrArg List.sum (List.map_congr_left fun t _ => ?_)
  simp only [Function.comp, cellTerm]
  split_ifs <;> rfl

/-- One step in INT32 adds a dot to each cell. -/
theorem ringStep_ints_cell (mode : Nat) (gen : List Nat) (a b : Array (Array Val)) (lo d n : Nat) (g : Grid) {c : Nat} (hc : c < 16384) :
    (ringStep true mode gen a b lo d n g).data.getD c 0 =
      g.data.getD c 0 + BitVec.ofInt 32 ((List.range d).map fun t => cellTerm a b (c / 128) (c % 128) n (lo + t)).sum := by
  simp only [ringStep, codes, List.map_map, toArray_getD_map_range _ _ hc, Function.comp, accumulate_ints, dotProducts_scaled_sum]

/-! ## The steps of one instruction -/

/-- A sum over a range cut in two. -/
theorem sum_map_range_add (f : Nat → Int) (m n : Nat) :
    ((List.range (m + n)).map f).sum = ((List.range m).map f).sum + ((List.range n).map fun t => f (m + t)).sum := by
  rw [List.range_add, List.map_append, List.sum_append, List.map_map]; rfl

/-- What is left of the steps adds what is left of the dots. -/
theorem matrixSteps_ints_cell {set : AccSet} {m : MatrixOp} (hints : set.ints = true) (hm : m.tmsr = false) (a b : Array (Array Val)) (n : Nat)
    {c : Nat} (hc : c < 16384) (left : Nat) : left ≤ 24 → ∀ x : Grid × List Nat,
    let d := (segOf set.fmtA.lane).2
    (matrixSteps set m a b n left x).1.data.getD c 0 = x.1.data.getD c 0 +
      BitVec.ofInt 32 ((List.range (d * left)).map fun t => cellTerm a b (c / 128) (c % 128) n (d * (24 - left) + t)).sum := by
  induction left with
  | zero => intro _ x; simp [matrixSteps]
  | succ left ih =>
    intro hl x d
    have hs : 24 - left = 23 - left + 1 ∧ 24 - (left + 1) = 23 - left := by omega
    simp only [matrixSteps, hm, hints, Bool.false_eq_true, if_false]
    rw [ih (by omega), ringStep_ints_cell _ _ _ _ _ _ _ _ hc, BitVec.add_assoc, ← BitVec.ofInt_add, hs.1, hs.2, Nat.mul_add_one d left,
      Nat.add_comm (d * left), sum_map_range_add]
    simp only [Nat.mul_add_one, Nat.add_assoc, d]

/-- The steps cover the elements of a segment (Table 8-1). -/
theorem segOf_steps (l : Nat) : (segOf l).2 * 24 = (segOf l).1 := by
  unfold segOf; split_ifs <;> rfl

/-- Of the positions of a segment those beyond the n in use add nothing. -/
theorem sum_cellTerm (a b : Array (Array Val)) (i j : Nat) {n e : Nat} (hn : n ≤ e) :
    ((List.range e).map (cellTerm a b i j n)).sum = ((List.range n).map (cellTerm a b i j n)).sum := by
  obtain ⟨k, rfl⟩ := Nat.exists_eq_add_of_le hn
  rw [sum_map_range_add]
  have h0 : ((List.range k).map fun t => cellTerm a b i j n (n + t)) = (List.range k).map fun _ => (0 : Int) :=
    List.map_congr_left fun t _ => if_neg (by omega)
  simp [h0]

/-! ## An instruction run to its end -/

/-- The elements of one operand that a matrix instruction uses, row by row (R164, R173). -/
def Core.operandRows (c : Core) (f : Fmt) (t lo n : Nat) : Array (Array Val) :=
  (((List.range 128).map fun i => operandRow f true (c.rt t i).toNat lo n).map (·.1)).toArray

theorem Core.operandRows_getD (c : Core) (f : Fmt) (t lo n : Nat) {i k : Nat} (hi : i < 128) (hk : k < n) :
    ((c.operandRows f t lo n).getD i #[]).getD k .zero = (operandElem f true (c.rt t i).toNat (lo + k)).1 := by
  rw [Core.operandRows, List.map_map, toArray_getD_map_range _ _ hi, Function.comp, operandRow, List.map_map, toArray_getD_map_range _ _ hk]; rfl

theorem Core.acc_setAcc (c : Core) (n : Nat) (a : AccSet) : (c.setAcc n a).acc n = a := by
  unfold Core.acc Core.setAcc; split_ifs <;> rfl

/-- The elements of a segment that an instruction uses: NV, or all for NV 0. -/
def MatrixOp.used (m : MatrixOp) (a : AccSet) : Nat := if m.nv = 0 then (segOf a.fmtA.lane).1 else m.nv

theorem MatrixOp.used_le {m : MatrixOp} {a : AccSet} (h : m.nv ≤ (segOf a.fmtA.lane).1) : m.used a ≤ (segOf a.fmtA.lane).1 := by
  unfold MatrixOp.used; split_ifs
  · exact le_rfl
  · exact h

/-- The product of position k of row i of A and row j of B as TMMA in INT32 reads them. -/
def Core.intProduct (c : Core) (a : AccSet) (m : MatrixOp) (i j k : Nat) : Int :=
  ((operandElem a.fmtA true (c.rt m.ta i).toNat ((segOf a.fmtA.lane).1 * m.seg + k)).1.mul
    (operandElem a.fmtB true (c.rt m.tb j).toNat ((segOf a.fmtA.lane).1 * m.seg + k)).1).1.scaled 0

/-- What a TMMA without an injection leaves in the cells of its set. -/
theorem Core.runMatrix_data (c : Core) {m : MatrixOp} (hm : m.tmsr = false) (hinj : m.inject = none) (hints : (c.acc m.set).ints = true) :
    ((c.runMatrix m).acc m.set).data = sparse 0 (matrixSteps (c.acc m.set) m
      (c.drain.operandRows (c.acc m.set).fmtA m.ta ((segOf (c.acc m.set).fmtA.lane).1 * m.seg) (m.used (c.acc m.set)))
      (c.drain.operandRows (c.acc m.set).fmtB m.tb ((segOf (c.acc m.set).fmtA.lane).1 * m.seg) (m.used (c.acc m.set)))
      (m.used (c.acc m.set)) 24 ((c.acc m.set).grid, c.gens.arr)).1.data := by
  unfold Core.runMatrix
  -- What the steps do plays no part: `id` keeps the goal for all of them, or the kernel would run the 24 steps.
  generalize matrixSteps = steps
  revert steps
  refine id fun steps => ?_
  simp only [Core.acc_setAcc, hinj, hm, hints, AccSet.ofGrid, Core.operandRows, MatrixOp.used, Bool.false_eq_true, if_false]

/-- TMMA in INT32: a cell of the dense view gains the products of the elements in use. -/
theorem Core.runMatrix_ints_cell (c : Core) {m : MatrixOp} (hm : m.tmsr = false) (hinj : m.inject = none) (hints : (c.acc m.set).ints = true)
    (hnv : m.nv ≤ (segOf (c.acc m.set).fmtA.lane).1) {i j : Nat} (hi : i < 128) (hj : j < 128) :
    bankGet 0 ((c.runMatrix m).acc m.set).data (128 * i + j) = (dense 0 (c.acc m.set).data 16384).getD (128 * i + j) 0 +
      BitVec.ofInt 32 ((List.range (m.used (c.acc m.set))).map (c.drain.intProduct (c.acc m.set) m i j)).sum := by
  have hdiv : (128 * i + j) / 128 = i := by omega
  have hmod : (128 * i + j) % 128 = j := by omega
  have hterm (n : Nat) : (List.range n).map (cellTerm
      (c.drain.operandRows (c.acc m.set).fmtA m.ta ((segOf (c.acc m.set).fmtA.lane).1 * m.seg) n)
      (c.drain.operandRows (c.acc m.set).fmtB m.tb ((segOf (c.acc m.set).fmtA.lane).1 * m.seg) n) i j n) =
      (List.range n).map (c.drain.intProduct (c.acc m.set) m i j) :=
    List.map_congr_left fun k hk => by
      have hk := List.mem_range.1 hk
      rw [cellTerm, if_pos hk, Core.operandRows_getD _ _ _ _ _ hi hk, Core.operandRows_getD _ _ _ _ _ hj hk, Core.intProduct]
  rw [Core.runMatrix_data c hm hinj hints, bankGet_sparse, matrixSteps_ints_cell hints hm _ _ _ (by omega) 24 le_rfl, hdiv, hmod, segOf_steps]
  simp only [Nat.sub_self, Nat.mul_zero, Nat.zero_add]
  rw [sum_cellTerm _ _ _ _ (MatrixOp.used_le hnv), hterm, AccSet.grid]

end Sys2Proof.Machine
end

section
/-! The array's turn, and where O44 fails. A set keeps its cells as a bank. The statement reads the bank before the instruction by
`bankGet`, which takes the first entry of a cell; the array works on the dense view, which takes the last one. They agree on canonical
banks (`bankWf`), but the statement is about every state, also one whose bank lists a cell twice. -/

namespace Sys2Proof.Machine

/-- Entries of a canonical bank laid over a dense view: each cell holds its entry, or what it held. -/
theorem foldl_dense_getD {α : Type} [DecidableEq α] (d : α) {size n : Nat} (hn : n < size) (b : Bank α) : ∀ (lo : Nat) (a : Array α),
    a.size = size → bankWfFrom d lo b = true →
    (b.foldl (fun a x => if x.1 < size then a.setIfInBounds x.1 x.2 else a) a).getD n d =
      if bankGet d b n = d then a.getD n d else bankGet d b n := by
  induction b with
  | nil => intro lo a _ _; simp
  | cons x r ih =>
    intro lo a hsize hwf
    obtain ⟨k, v⟩ := x
    simp only [bankWfFrom, Bool.and_eq_true, decide_eq_true_eq] at hwf
    obtain ⟨⟨-, hv⟩, hr⟩ := hwf
    have hset : (if k < size then a.setIfInBounds k v else a).size = size := by split_ifs <;> simp [hsize]
    have hcell : (if k < size then a.setIfInBounds k v else a).getD n d = if k = n then v else a.getD n d := by
      split_ifs <;> simp_all [Array.getD_eq_getD_getElem?]
    rw [List.foldl_cons, ih (k + 1) _ hset hr, hcell]
    rcases lt_trichotomy n k with h | rfl | h
    · simp [bankGet, bankGet_below hr (Nat.lt_succ_of_lt h), h, h.ne']
    · simp [bankGet, bankGet_below hr (Nat.lt_succ_self n), hv]
    · simp [bankGet, h.ne, h.not_gt]

/-- A canonical bank and its dense view agree. -/
theorem dense_getD {α : Type} [DecidableEq α] {d : α} {b : Bank α} (hwf : bankWf d b = true) {size n : Nat} (hn : n < size) :
    (dense d b size).getD n d = bankGet d b n := by
  rw [dense, foldl_dense_getD d hn b 0 _ (by simp) hwf]
  split_ifs with h
  · simp [h, hn]
  · rfl

/-- With work queued, the array's turn leaves the sets as its oldest instruction does (R174). -/
theorem arrayExecute_acc {s t : State} {m : MatrixOp} {r : List MatrixOp} (harray : s.core.array = m :: r)
    (ht : exec .arrayExecute s = .next t) (n : Nat) : t.core.acc n = (({ s.core with array := r } : Core).runMatrix m).acc n := by
  have hstate := Host.Outcome.next.inj ht
  simp only [State.onCore, Core.arrayRun, harray, List.isEmpty_cons, Bool.false_eq_true, if_false] at hstate
  generalize ({ s.core with array := r } : Core).runMatrix m = run at hstate ⊢
  rw [← hstate]; rfl

/-- Without results in flight a drain writes no tile register. -/
theorem Core.drain_t_of_no_lands {c : Core} (h : c.lands = []) : c.drain.t = c.t := by
  have go (n : Nat) : ∀ c : Core, c.lands = [] → (Core.drain.go n c).t = c.t := by
    induction n with
    | zero => intro c _; rfl
    | succ n ih => intro c h; simp only [Core.drain.go, h]; exact ih _ rfl
  exact go 145 c h

/-- Without results in flight the products depend on the tile registers alone. -/
theorem Core.drain_intProduct_congr {c d : Core} (hc : c.lands = []) (hd : d.lands = []) (ht : d.t = c.t) (a : AccSet) (m : MatrixOp)
    (i j : Nat) : d.drain.intProduct a m i j = c.drain.intProduct a m i j := by
  funext k
  simp only [Core.intProduct, Core.rt, Core.drain_t_of_no_lands hc, Core.drain_t_of_no_lands hd, ht]

/-- The array's turn with a TMMA in INT32 ahead and no result in flight: a cell of the dense view gains its products. -/
theorem arrayExecute_ints_cell {s t : State} {m : MatrixOp} {r : List MatrixOp} (harray : s.core.array = m :: r) (hlands : s.core.lands = [])
    (ht : exec .arrayExecute s = .next t) (hm : m.tmsr = false) (hinj : m.inject = none) (hints : (s.core.acc m.set).ints = true)
    (hnv : m.nv ≤ (segOf (s.core.acc m.set).fmtA.lane).1) {i j : Nat} (hi : i < 128) (hj : j < 128) :
    bankGet 0 (t.core.acc m.set).data (128 * i + j) = (dense 0 (s.core.acc m.set).data 16384).getD (128 * i + j) 0 +
      BitVec.ofInt 32 ((List.range (m.used (s.core.acc m.set))).map (s.core.drain.intProduct (s.core.acc m.set) m i j)).sum := by
  have htiles (a : AccSet) : ({ s.core with array := r } : Core).drain.intProduct a m i j = s.core.drain.intProduct a m i j :=
    Core.drain_intProduct_congr (c := s.core) (d := { s.core with array := r }) hlands hlands rfl a m i j
  have hrun := ({ s.core with array := r } : Core).runMatrix_ints_cell hm hinj hints hnv hi hj
  rw [htiles] at hrun
  rw [arrayExecute_acc harray ht]
  exact hrun

/-- On a canonical data bank, with no result in flight, each cell gains its products, as the statement's last clause says. -/
theorem arrayExecute_ints_cell_of_bankWf {s t : State} {m : MatrixOp} {r : List MatrixOp} (harray : s.core.array = m :: r)
    (hlands : s.core.lands = []) (ht : exec .arrayExecute s = .next t) (hm : m.tmsr = false) (hinj : m.inject = none)
    (hints : (s.core.acc m.set).ints = true) (hwf : bankWf 0 (s.core.acc m.set).data = true)
    (hnv : m.nv ≤ (segOf (s.core.acc m.set).fmtA.lane).1) {i j : Nat} (hi : i < 128) (hj : j < 128) :
    bankGet 0 (t.core.acc m.set).data (128 * i + j) = bankGet 0 (s.core.acc m.set).data (128 * i + j) +
      BitVec.ofInt 32 ((List.range (m.used (s.core.acc m.set))).map (s.core.drain.intProduct (s.core.acc m.set) m i j)).sum := by
  have hcell : 128 * i + j < 16384 := by omega
  rw [← dense_getD hwf hcell]
  exact arrayExecute_ints_cell harray hlands ht hm hinj hints hnv hi hj

/-- An open INT8 ring set that lists cell (0, 0) twice, as 1 and as 2. -/
def AccSet.listedTwice : AccSet :=
  { AccSet.empty with status := .opened, fa := 0x04000008, fb := 0x04000008, data := [(0, 1), (0, 2)] }

theorem dense_listedTwice : (dense 0 AccSet.listedTwice.data 16384).getD 0 0 = 2 := by
  simp [dense, AccSet.listedTwice]

/-- Refutes O44: with the set `AccSet.listedTwice` and tiles of zeros the statement wants 1 in cell (0, 0), and the array leaves 2. -/
theorem not_matrixProductsAccumulate : ¬ Obligations.MatrixProductsAccumulate := by
  intro h
  let m : MatrixOp := ⟨false, 0, 0, 0, 0, 0, 0, none, false⟩
  let s : State := { State.reset with core := { Core.reset 0 with array := [m], acc0 := AccSet.listedTwice } }
  obtain ⟨t, ht, -, -, -, -, -, -, -, -, -, -, hcells⟩ := h.2 s m [] rfl
  have hstated := hcells rfl rfl rfl (by decide) (Nat.zero_le _) 0 0 (by decide) (by decide)
  have hmodel := arrayExecute_ints_cell (s := s) (m := m) rfl rfl ht rfl rfl (by decide) (Nat.zero_le _) (i := 0) (j := 0) (by decide) (by decide)
  have hold : (dense 0 (s.core.acc m.set).data 16384).getD (128 * 0 + 0) 0 = 2 := dense_listedTwice
  rw [hold] at hmodel
  have htwo := hmodel.symm.trans hstated
  rw [BitVec.ofInt_add] at htwo
  have hone : (2 : W32) = BitVec.ofInt 32 1 := (BitVec.add_left_inj _).1 htwo
  exact absurd hone (by decide)

end Sys2Proof.Machine
end

section
/-! Row and column moves and the sums of tile registers (R185, R186, R187). -/

namespace Sys2Proof.Machine

variable {s : State}

/-- No flag raised changes nothing. -/
theorem State.raiseFlags_zero (s : State) : s.raiseFlags 0 = s := by
  have h : s.core.fstat ||| 0 = s.core.fstat := BitVec.or_zero
  simp only [State.raiseFlags, State.onCore, h]

/-- A list made over a range, element by element with its number. -/
theorem map_zipIdx_map_range {α β : Type} (f : Nat → α) (g : α × Nat → β) (n : Nat) :
    ((List.range n).map f).zipIdx.map g = (List.range n).map fun k => g (f k, k) := by
  refine List.ext_getElem (by simp) fun k h1 h2 => ?_
  simp

/-! ## TWR (R185) -/

section
variable {cv bq f v row tr : Nat}

/-- A tile group refuses TWR (R113). -/
theorem twr_raises_inGroup (hg : s.inGroup = true) : raises (.twr cv bq f v row tr) s .groupViolation := by
  change execTwr cv bq f v row tr s = _
  simp only [execTwr, hg, if_true, State.refuse]

/-- TWR to a row that does not exist. -/
theorem twr_raises_row (hg : s.inGroup = false) (hi : s.moved row < 0 ∨ 127 < s.moved row) : raises (.twr cv bq f v row tr) s .illegal := by
  change execTwr cv bq f v row tr s = _
  simp only [execTwr, hg, Bool.false_eq_true, if_false, if_pos hi, State.refuse]

/-- TWR does not convert into a format with row scales. -/
theorem twr_raises_format (hg : s.inGroup = false) (hi : ¬ (s.moved row < 0 ∨ 127 < s.moved row))
    (hc : cv = 1 ∧ (s.core.rfmt f).scale = 2) : raises (.twr cv bq f v row tr) s .format := by
  change execTwr cv bq f v row tr s = _
  simp only [execTwr, hg, Bool.false_eq_true, if_false, if_neg hi, if_pos hc, State.refuse]

/-- TWR of elements that do not fit at BQ. -/
theorem twr_raises_bq (hg : s.inGroup = false) (hi : ¬ (s.moved row < 0 ∨ 127 < s.moved row))
    (hc : ¬ (cv = 1 ∧ (s.core.rfmt f).scale = 2)) (hb : bqOk (s.core.rfmt f) bq = false) : raises (.twr cv bq f v row tr) s .illegal := by
  change execTwr cv bq f v row tr s = _
  simp only [execTwr, hg, Bool.false_eq_true, if_false, if_neg hi, if_neg hc, hb, Bool.not_false, if_true, State.refuse]

/-- TWR without conversion places the lanes' codes. -/
theorem exec_twr_codes (hg : s.inGroup = false) (hi : ¬ (s.moved row < 0 ∨ 127 < s.moved row)) (hb : bqOk (s.core.rfmt f) bq = true) :
    exec (.twr 0 bq f v row tr) s =
      let q := placeRow (s.core.rfmt f) (64 * bq)
        ([], (List.range 128).map fun k => some (s.core.lane (s.core.rfmt f).lane v k % 2 ^ (s.core.rfmt f).width), 0)
      .next (s.result 4 [.t tr (s.moved row).toNat q.1 q.2]) := by
  change execTwr 0 bq f v row tr s = _
  simp only [execTwr, hg, Bool.false_eq_true, if_false, if_neg hi, hb, Bool.not_true, if_true, Nat.zero_ne_one, false_and, lanesOf_rv,
    List.map_map, State.raiseFlags_zero]
  rfl

/-- TWR into an MX format quantises block by block. -/
theorem exec_twr_blocks (hg : s.inGroup = false) (hi : ¬ (s.moved row < 0 ∨ 127 < s.moved row)) (hb : bqOk (s.core.rfmt f) bq = true)
    (hs : (s.core.rfmt f).scale = 1) :
    exec (.twr 1 bq f v row tr) s =
      let y := quantiseAll (s.core.rfmt f) s.core.ctx.rnd (s.draws 128).1
        ((List.range 128).map fun k => some (Fmt.fp32.value (s.core.lane 32 v k)))
      let q := placeRow (s.core.rfmt f) (64 * bq) y
      .next (((s.draws 128).2.raiseFlags y.2.2).result 4 [.t tr (s.moved row).toNat q.1 q.2]) := by
  change execTwr 1 bq f v row tr s = _
  simp only [execTwr, hg, Bool.false_eq_true, if_false, if_neg hi, hb, Bool.not_true, if_true, Nat.one_ne_zero, hs, OfNat.one_ne_ofNat, and_false, lanesOf_rv,
    List.map_map]
  rfl

/-- TWR into a format without scales converts element by element. -/
theorem exec_twr_elements (hg : s.inGroup = false) (hi : ¬ (s.moved row < 0 ∨ 127 < s.moved row)) (hb : bqOk (s.core.rfmt f) bq = true)
    (h1 : (s.core.rfmt f).scale ≠ 1) (h2 : (s.core.rfmt f).scale ≠ 2) :
    exec (.twr 1 bq f v row tr) s =
      let rs := (List.range 128).map fun k =>
        stored (s.core.rfmt f) s.core.ctx.rnd s.core.ctx.sat ((s.draws 128).1.getD k 0) (Fmt.fp32.value (s.core.lane 32 v k), 0) 0
      let q := placeRow (s.core.rfmt f) (64 * bq) ([], rs.map fun x => some x.1, 0)
      .next (((s.draws 128).2.raiseFlags (rs.foldl (fun g x => g ||| x.2) 0)).result 4 [.t tr (s.moved row).toNat q.1 q.2]) := by
  change execTwr 1 bq f v row tr s = _
  simp only [execTwr, hg, Bool.false_eq_true, if_false, if_neg hi, hb, Bool.not_true, Nat.one_ne_zero, h1, h2, and_false, lanesOf_rv,
    map_zipIdx_map_range]
  rfl

end

end Sys2Proof.Machine
end

section
/-! What the moves out of tile registers read, and what TGEN and TCHK answer (R185, R186, R187, Table 8-7). -/

namespace Sys2Proof.Machine

variable {s : State}

/-! ## TRDR and TRDC (R185, R186) -/

section
variable {cv bq f v row j tr : Nat}

/-- TRDR of a row that does not exist. -/
theorem trdr_raises_row (hi : s.moved row < 0 ∨ 127 < s.moved row) : raises (.trdr cv bq f v row tr) s .illegal := by
  change execTrdr cv bq f v row tr s = _
  simp only [execTrdr, if_pos hi, State.refuse]

/-- TRDR of elements that do not fit at BQ. -/
theorem trdr_raises_bq (hi : ¬ (s.moved row < 0 ∨ 127 < s.moved row)) (hb : bqOk (s.core.rfmt f) bq = false) :
    raises (.trdr cv bq f v row tr) s .illegal := by
  change execTrdr cv bq f v row tr s = _
  simp only [execTrdr, if_neg hi, hb, Bool.not_false, if_true, State.refuse]

/-- TRDR without conversion reads codes. -/
theorem exec_trdr_codes (hi : ¬ (s.moved row < 0 ∨ 127 < s.moved row)) (hb : bqOk (s.core.rfmt f) bq = true) :
    exec (.trdr 0 bq f v row tr) s = .next (s.result 4 [laneRow v (s.core.rfmt f).lane ((List.range 128).map fun k =>
      some (field (s.core.rt tr (s.moved row).toNat).toNat ((s.core.rfmt f).lane * (512 * bq / (s.core.rfmt f).lane + k)) (s.core.rfmt f).lane
        % 2 ^ (s.core.rfmt f).width))]) := by
  change execTrdr 0 bq f v row tr s = _
  simp only [execTrdr, if_neg hi, hb, Bool.not_true, Bool.false_eq_true, if_false, if_true]

/-- TRDR with conversion reads FP32 values. -/
theorem exec_trdr_values (hi : ¬ (s.moved row < 0 ∨ 127 < s.moved row)) (hb : bqOk (s.core.rfmt f) bq = true) :
    exec (.trdr 1 bq f v row tr) s =
      let rs := (List.range 128).map fun k =>
        s.core.tileFp32 (s.core.rfmt f) tr (s.moved row).toNat (512 * bq / (s.core.rfmt f).lane + k) ((s.draws 128).1.getD k 0)
      .next (((s.draws 128).2.raiseFlags (rs.foldl (fun g x => g ||| x.2) 0)).result 4 [laneRow v 32 (rs.map fun x => some x.1)]) := by
  change execTrdr 1 bq f v row tr s = _
  simp only [execTrdr, if_neg hi, hb, Bool.not_true, Bool.false_eq_true, if_false, Nat.one_ne_zero]

/-- TRDC of codes beyond the row. -/
theorem trdc_raises_codes (h : s.moved j < 0 ∨ (4096 / (s.core.rfmt f).lane : Nat) < s.moved j + (4096 / (s.core.rfmt f).lane / 128 : Nat)) :
    raises (.trdc 0 f v j tr) s .illegal := by
  change execTrdc 0 f v j tr s = _
  simp only [execTrdc, if_true, if_pos h, State.refuse]

/-- TRDC of a column beyond the row. -/
theorem trdc_raises_column (h : s.moved j < 0 ∨ (4096 / (s.core.rfmt f).lane : Nat) ≤ s.moved j) : raises (.trdc 1 f v j tr) s .illegal := by
  have h' : s.moved j < 0 ∨ ((4096 / (s.core.rfmt f).lane : Nat) : Int) < s.moved j + (128 / 128 : Nat) := by omega
  change execTrdc 1 f v j tr s = _
  simp only [execTrdc, Nat.one_ne_zero, if_false, if_pos h', State.refuse]

/-- TRDC of a column among the scale bytes of a row. -/
theorem trdc_raises_scales (h : ¬ (s.moved j < 0 ∨ (4096 / (s.core.rfmt f).lane : Nat) ≤ s.moved j)) (hs : (s.core.rfmt f).scale ≠ 0)
    (hl : 3840 < (s.core.rfmt f).lane * ((s.moved j).toNat + 1)) : raises (.trdc 1 f v j tr) s .illegal := by
  have h' : ¬ (s.moved j < 0 ∨ ((4096 / (s.core.rfmt f).lane : Nat) : Int) < s.moved j + (128 / 128 : Nat)) := by omega
  change execTrdc 1 f v j tr s = _
  simp only [execTrdc, Nat.one_ne_zero, if_false, if_neg h', State.refuse]
  rw [if_pos ⟨trivial, hs, hl⟩]

/-- TRDC without conversion reads codes down the rows. -/
theorem exec_trdc_codes (h : ¬ (s.moved j < 0 ∨ (4096 / (s.core.rfmt f).lane : Nat) < s.moved j + (4096 / (s.core.rfmt f).lane / 128 : Nat))) :
    exec (.trdc 0 f v j tr) s = .next (s.result 6 [laneRow v (s.core.rfmt f).lane ((List.range (4096 / (s.core.rfmt f).lane)).map fun k =>
      some (field (s.core.rt tr (k % 128)).toNat ((s.core.rfmt f).lane * ((s.moved j).toNat + k / 128)) (s.core.rfmt f).lane
        % 2 ^ (s.core.rfmt f).width))]) := by
  change execTrdc 0 f v j tr s = _
  simp only [execTrdc, if_true, if_neg h, Nat.zero_ne_one, false_and, if_false]

/-- TRDC with conversion reads FP32 values down the rows. -/
theorem exec_trdc_values (h : ¬ (s.moved j < 0 ∨ (4096 / (s.core.rfmt f).lane : Nat) ≤ s.moved j))
    (hs : (s.core.rfmt f).scale = 0 ∨ (s.core.rfmt f).lane * ((s.moved j).toNat + 1) ≤ 3840) :
    exec (.trdc 1 f v j tr) s =
      let rs := (List.range 128).map fun k => s.core.tileFp32 (s.core.rfmt f) tr k (s.moved j).toNat ((s.draws 128).1.getD k 0)
      .next (((s.draws 128).2.raiseFlags (rs.foldl (fun g x => g ||| x.2) 0)).result 6 [laneRow v 32 (rs.map fun x => some x.1)]) := by
  have h' : ¬ (s.moved j < 0 ∨ ((4096 / (s.core.rfmt f).lane : Nat) : Int) < s.moved j + (128 / 128 : Nat)) := by omega
  have hs' : ¬ (True ∧ (s.core.rfmt f).scale ≠ 0 ∧ 480 * 8 < (s.core.rfmt f).lane * ((s.moved j).toNat + 1)) := by omega
  change execTrdc 1 f v j tr s = _
  simp only [execTrdc, Nat.one_ne_zero, if_false, if_neg h', if_neg hs']

end

/-! ## TGEN and TCHK (R187) -/

section
variable {sd v bo f tr : Nat}

/-- TGEN at an offset that the format does not have. -/
theorem tgen_raises (hb : boOk (s.core.rfmt f) bo = false) : raises (.tgen v bo f tr) s .illegal := by
  change execTgen v bo f tr s = _
  simp only [execTgen, hb, Bool.not_false, if_true, State.refuse]

theorem exec_tgen (hb : boOk (s.core.rfmt f) bo = true) :
    exec (.tgen v bo f tr) s =
      let t := (s.core.tileAt (s.core.rfmt f) tr bo).summed (s.core.rfmt f)
      .next (s.result 136 [laneRow v 32 (t.col.toList.map some), laneRow (v + 1) 32 (t.row.toList.map some)]) := by
  change execTgen v bo f tr s = _
  simp only [execTgen, hb, Bool.not_true, Bool.false_eq_true, if_false]

/-- A tile group refuses TCHK (R113). -/
theorem tchk_raises_inGroup (hg : s.inGroup = true) : raises (.tchk sd v bo f tr) s .groupViolation := by
  change execTchk sd v bo f tr s = _
  simp only [execTchk, hg, if_true, State.refuse]

/-- TCHK at an offset that the format does not have. -/
theorem tchk_raises_bo (hg : s.inGroup = false) (hb : boOk (s.core.rfmt f) bo = false) : raises (.tchk sd v bo f tr) s .illegal := by
  change execTchk sd v bo f tr s = _
  simp only [execTchk, hg, hb, Bool.not_false, Bool.false_eq_true, if_false, if_true, State.refuse]

/-- TCHK puts its code and its corrections in flight. -/
theorem exec_tchk (hg : s.inGroup = false) (hb : boOk (s.core.rfmt f) bo = true) {code : Nat} {ws : List RegWrite}
    (hc : s.core.tileCheck (s.core.rfmt f) tr bo v = (code, ws)) :
    exec (.tchk sd v bo f tr) s = .next (s.result 140 (.s sd (BitVec.ofNat 64 code) :: ws)) := by
  change execTchk sd v bo f tr s = _
  simp only [execTchk, hg, hb, hc, Bool.not_true, Bool.false_eq_true, if_false]

end

/-! ## The code of TCHK (Table 8-7) -/

/-- The tile that TCHK checks: the register's, with the sums of V[V] and V[V+1]. -/
def Core.checkedTile (c : Core) (fm : Fmt) (tr bo v : Nat) : Tile :=
  { c.tileAt fm tr bo with col := (lanesOf 32 128 (c.rv v)).toArray, row := (lanesOf 32 128 (c.rv (v + 1))).toArray }

/-- The rows and the columns that do not pass (R43). -/
def Tile.badRows (fm : Fmt) (t : Tile) : List Nat := (List.range 128).filter fun i => !t.rowPass fm i
def Tile.badCols (fm : Fmt) (t : Tile) : List Nat := (List.range 128).filter fun j => !t.colPass fm j

/-- The code and the writes of TCHK by the lines that do not pass. -/
def Core.checkCode (c : Core) (fm : Fmt) (tr bo v : Nat) (rows cols : List Nat) : Nat × List RegWrite :=
  match rows, cols with
  | [], [] => (0, [])
  | [i], [] => (1 + i * 2 ^ 16, [laneWrite (v + 1) 32 i [some (lineSum fm ((c.checkedTile fm tr bo v).rowValues fm i))]])
  | [], [j] => (1 + 2 ^ 15 + j * 2 ^ 16, [laneWrite v 32 j [some (lineSum fm ((c.checkedTile fm tr bo v).colValues fm j))]])
  | [i], [j] => match (c.checkedTile fm tr bo v).correct fm i j with
    | some u => (2 + i * 2 ^ 16 + j * 2 ^ 24, [.t tr i (BitVec.ofNat 4096 (u.elems.getD (128 * i + j) 0 * 2 ^ (256 * bo + fm.lane * j)))
        (BitVec.ofNat 4096 ((2 ^ fm.lane - 1) * 2 ^ (256 * bo + fm.lane * j)))])
    | none => (3, [])
  | _, _ => (3, [])

section
variable {c : Core} {fm : Fmt} {tr bo v : Nat}

theorem Core.tileCheck_of_lines {rows cols : List Nat} (hr : (c.checkedTile fm tr bo v).badRows fm = rows)
    (hc : (c.checkedTile fm tr bo v).badCols fm = cols) : c.tileCheck fm tr bo v = c.checkCode fm tr bo v rows cols := by
  subst hr hc; rfl

/-- One failing row and one failing column, and the element where they cross can be corrected. -/
theorem Core.tileCheck_of_corrected {i j : Nat} {u : Tile} (hr : (c.checkedTile fm tr bo v).badRows fm = [i])
    (hc : (c.checkedTile fm tr bo v).badCols fm = [j]) (hu : (c.checkedTile fm tr bo v).correct fm i j = some u) :
    c.tileCheck fm tr bo v = (2 + i * 2 ^ 16 + j * 2 ^ 24,
      [.t tr i (BitVec.ofNat 4096 (u.elems.getD (128 * i + j) 0 * 2 ^ (256 * bo + fm.lane * j)))
        (BitVec.ofNat 4096 ((2 ^ fm.lane - 1) * 2 ^ (256 * bo + fm.lane * j)))]) := by
  simp only [Core.tileCheck_of_lines hr hc, Core.checkCode, hu]

/-- One failing row and one failing column, and no correction there. -/
theorem Core.tileCheck_of_uncorrected {i j : Nat} (hr : (c.checkedTile fm tr bo v).badRows fm = [i])
    (hc : (c.checkedTile fm tr bo v).badCols fm = [j]) (hu : (c.checkedTile fm tr bo v).correct fm i j = none) :
    c.tileCheck fm tr bo v = (3, []) := by
  simp only [Core.tileCheck_of_lines hr hc, Core.checkCode, hu]

/-- With two lines of a kind that do not pass nothing is corrected. -/
theorem Core.tileCheck_of_many (h : 2 ≤ ((c.checkedTile fm tr bo v).badRows fm).length ∨ 2 ≤ ((c.checkedTile fm tr bo v).badCols fm).length) :
    c.tileCheck fm tr bo v = (3, []) := by
  match hr : (c.checkedTile fm tr bo v).badRows fm, hc : (c.checkedTile fm tr bo v).badCols fm with
  | [], [] | [], [_] | [_], [] | [_], [_] => simp [hr, hc] at h
  | _ :: _ :: _, [] | _ :: _ :: _, _ :: _ | [], _ :: _ :: _ | [_], _ :: _ :: _ => exact Core.tileCheck_of_lines hr hc

end

/-- Settles O46: each clause is one answer of TWR, TRDR, TRDC, TGEN or TCHK. -/
theorem tileRowAndColumnMoves : Obligations.TileRowAndColumnMoves := by
  intro s cv bq f v row tr j bo sd c fm l i col d
  have hrow (h0 : 0 ≤ i) (h1 : i ≤ 127) : ¬ (s.moved row < 0 ∨ 127 < s.moved row) := not_or.2 ⟨not_lt.2 h0, not_lt.2 h1⟩
  refine ⟨fun hg => ⟨twr_raises_inGroup hg, tchk_raises_inGroup hg⟩, twr_raises_row, trdr_raises_row,
    fun h0 h1 hb => ⟨trdr_raises_bq (hrow h0 h1) hb, fun hg hc => twr_raises_bq hg (hrow h0 h1) hc hb⟩,
    fun hg h0 h1 hc hs => twr_raises_format hg (hrow h0 h1) ⟨hc, hs⟩, fun h0 h1 hb => ⟨fun hg => ⟨?codes, ?blocks, ?elements⟩, ?row, ?values⟩,
    ?column, ?colCodes, ?colRead, ?colScales, ?colValues,
    fun hb => ⟨tgen_raises hb, fun hg => tchk_raises_bo hg hb⟩, fun hb => ⟨exec_tgen hb, fun hg => ?check⟩⟩
  case codes => rintro rfl; exact exec_twr_codes hg (hrow h0 h1) hb
  case blocks => rintro rfl hs; exact exec_twr_blocks hg (hrow h0 h1) hb hs
  case elements => rintro rfl hs1 hs2; exact exec_twr_elements hg (hrow h0 h1) hb hs1 hs2
  case row => rintro rfl; exact exec_trdr_codes (hrow h0 h1) hb
  case values => rintro rfl; exact exec_trdr_values (hrow h0 h1) hb
  case column => rintro h rfl; exact trdc_raises_column h
  case colCodes => rintro h rfl; exact trdc_raises_codes h
  case colRead => rintro h0 rfl h; exact exec_trdc_codes (not_or.2 ⟨not_lt.2 h0, not_lt.2 h⟩)
  case colScales => rintro h0 rfl h hs hl; exact trdc_raises_scales (not_or.2 ⟨not_lt.2 h0, not_le.2 h⟩) hs hl
  case colValues => rintro h0 rfl h hs; exact exec_trdc_values (not_or.2 ⟨not_lt.2 h0, not_le.2 h⟩) hs
  case check =>
    intro t rows cols code
    have hcode {n ws} (hc : s.core.tileCheck (s.core.rfmt f) tr bo v = (n, ws)) : code n ws := exec_tchk hg hb hc
    clear_value code
    exact ⟨fun hr hc => hcode (Core.tileCheck_of_lines hr hc), fun i hr hc => hcode (Core.tileCheck_of_lines hr hc),
      fun j hr hc => hcode (Core.tileCheck_of_lines hr hc), fun i j hr hc hu => hcode (Core.tileCheck_of_uncorrected hr hc hu),
      fun i j u hr hc hu => hcode (Core.tileCheck_of_corrected hr hc hu), fun h => hcode (Core.tileCheck_of_many h)⟩

end Sys2Proof.Machine
end

section
/-! A write that nobody watches: memory changes, and the controllers' books (R288–R290), and nothing else. -/

namespace Sys2Proof.Machine

variable {s t u : State}

/-- A read of memory without poison is no event. -/
theorem State.poisonRead_of_none (h : s.poisoned = []) (pa n : Nat) : s.poisonRead pa n = s := by
  simp only [State.poisonRead, h, List.filter_nil, List.foldl_nil]

/-- Without monitors a write is no event. -/
theorem State.evaluate_of_none (h : s.monitors = []) (pa n : Nat) : s.evaluate pa n = s := by
  cases s
  simp only at h
  subst h
  rfl

/-- Only the compression counts and the metadata of blocks have changed. -/
def onlyBooks (s t : State) : Prop := { t with blockMeta := s.blockMeta, compress := s.compress, fresh := s.fresh } = s

theorem onlyBooks.trans (h : onlyBooks s t) (k : onlyBooks t u) : onlyBooks s u := by
  have e : ({ ({ u with blockMeta := t.blockMeta, compress := t.compress, fresh := t.fresh } : State) with
      blockMeta := s.blockMeta, compress := s.compress, fresh := s.fresh } : State) = s := by rw [k]; exact h
  exact e

theorem onlyBooks.poisoned (h : onlyBooks s t) : t.poisoned = s.poisoned := (congrArg State.poisoned h :)
theorem onlyBooks.mem (h : onlyBooks s t) : t.mem = s.mem := (congrArg State.mem h :)
theorem onlyBooks.atoms (h : onlyBooks s t) : t.atoms = s.atoms := (congrArg State.atoms h :)
theorem onlyBooks.outbox (h : onlyBooks s t) : t.outbox = s.outbox := (congrArg State.outbox h :)
theorem onlyBooks.devId (h : onlyBooks s t) : t.devId = s.devId := (congrArg State.devId h :)
theorem onlyBooks.monitors (h : onlyBooks s t) : t.monitors = s.monitors := (congrArg State.monitors h :)

/-- The controller's work for a block without poison. -/
theorem State.touchBlock_onlyBooks (h : s.poisoned = []) (b k : Nat) : onlyBooks s (s.touchBlock b k) := by
  have hr : s.renew b k = s := by simp only [State.renew, h, List.contains_nil, Bool.not_false, if_true]
  unfold State.touchBlock
  rw [hr]
  cases stackOf (b * 256) <;> rfl

theorem State.touchBlocks_onlyBooks (h : s.poisoned = []) (pa n : Nat) (whole : Bool) : onlyBooks s (s.touchBlocks pa n whole) := by
  have fold (ks : List Nat) : ∀ t, onlyBooks s t → onlyBooks s (ks.foldl
      (fun t k => let b := pa / 256 + k; t.touchBlock b (unitsOf pa n b whole)) t) := by
    induction ks with
    | nil => exact fun t ht => ht
    | cons k r ih => exact fun t ht => ih _ (ht.trans (State.touchBlock_onlyBooks (ht.poisoned.trans h) ..))
  unfold State.touchBlocks
  split
  · rfl
  · exact fold _ s rfl

/-- A write that nobody watches. -/
theorem State.perform_onlyBooks (h : s.unwatched) (pa : Nat) (bs : List Byte) (whole : Bool) :
    onlyBooks { s with mem := s.mem.writeN pa bs } (s.perform pa bs whole) := by
  obtain ⟨hmon, hpoison⟩ := h
  have hput : onlyBooks { s with mem := s.mem.writeN pa bs } (s.put pa bs whole) := 
    State.touchBlocks_onlyBooks (s := { s with mem := s.mem.writeN pa bs }) hpoison pa bs.length whole
  rwa [State.perform, State.evaluate_of_none (hput.monitors.trans hmon)]

/-- Bytes of a number that fits are bytes of its word. -/
theorem leNat_lt (bs : List Byte) : leNat bs < 256 ^ bs.length := by
  induction bs with
  | nil => exact Nat.one_pos
  | cons b r ih =>
    have := b.isLt
    simp only [leNat, List.length_cons, pow_succ]
    omega

end Sys2Proof.Machine
end

section
/-! Atomics, READs and their replies (R112, R127, R129, R293, R305, R306, R311). -/

namespace Sys2Proof.Machine

variable {s : State}

/-! ## Messages -/

/-- A message of the event's kind whose header is accepted is acted on. -/
theorem State.arriving_of_accepted {m : FabricMsg} {kind : Nat} (hver : m.ver = 1) (hdst : m.dst = s.devId) (hrsv : m.rsv = false)
    (hpad : padded m = false) (hkind : m.kind = kind) (h9 : kind < 9) (g : State → State) : s.arriving m kind g = g s := by
  have hdrop : s.dropsHeader m = false := by simp [State.dropsHeader, hver, hdst, hrsv, hpad]; omega
  simp only [State.arriving, hdrop, hkind, Bool.false_eq_true, if_false, if_true]

/-! ## A peer's atomic at its home slice -/

/-- A peer's atomic at its home slice, where nobody watches: its word, its answer, and the request gone. -/
theorem State.performAtom_peer {a : Atom} {dev tag : Nat} (hown : a.owner = .peer dev tag) (hw : s.unwatched) (hinv : s.inv) :
    let n := if a.sz = 0 then 4 else 8
    let old := leNat (s.mem.readN a.loc.pa n)
    let c := a.c.toNat % 2 ^ (8 * n)
    let q := a.op.apply a.sz a.mode old (a.b.toNat % 2 ^ (8 * n)) c
    sameBytesBut s (s.performAtom a) a.loc.pa n ∧
      (s.performAtom a).mem.readN a.loc.pa n = (if a.op = .cas ∧ old ≠ c then s.mem.readN a.loc.pa n else leBytes n q.1) ∧
      (s.performAtom a).outbox = s.outbox ++ [{ blankMsg with kind := 5, dst := dev, src := s.devId, seq := tag
                                                              payload := leBytes 8 (if a.ret then old else 0) ++ leBytes 1 q.2.toNat ++ leBytes 7 0 }] ∧
      (s.performAtom a).atoms = s.atoms.filter (·.id != a.id) := by
  intro n old c q
  have hold : (BitVec.ofNat 64 old).toNat = old := by
    have hlt := leNat_lt (s.mem.readN a.loc.pa n)
    rw [Memory.readN_length] at hlt
    have hn : 256 ^ n ≤ 2 ^ 64 := by simp only [n]; split_ifs <;> norm_num
    exact (BitVec.toNat_ofNat ..).trans (Nat.mod_eq_of_lt (hlt.trans_le hn))
  have hatom : s.performAtom a =
      (if a.op = .cas ∧ old ≠ c then s else s.perform a.loc.pa (leBytes n q.1)).answerPeer a dev tag (BitVec.ofNat 64 old) q.2 := by
    simp only [State.performAtom, State.poisonRead_of_none hw.2, hown, n, old, c, q]
  rw [hatom]
  simp only [State.answerPeer, State.send, hold]
  by_cases hcas : a.op = .cas ∧ old ≠ c
  · simp only [if_pos hcas]
    exact ⟨fun _ _ => rfl, trivial, trivial, trivial⟩
  · have hbooks := State.perform_onlyBooks hw a.loc.pa (leBytes n q.1) false
    have hlen : (leBytes n q.1).length = n := leBytes_length ..
    have hread := Memory.readN_writeN_same a.loc.pa (leBytes n q.1) hinv
    rw [hlen] at hread
    simp only [if_neg hcas, hbooks.mem, hbooks.outbox, hbooks.atoms, hbooks.devId]
    refine ⟨fun x hx => ?_, hread, trivial, trivial⟩
    change (s.mem.writeN a.loc.pa (leBytes n q.1)).read x = _
    rw [Memory.read_writeN _ _ _ hinv, hlen, if_neg (by omega)]

/-- A request of this device's memory that may go, with nothing before it, is performed. -/
theorem exec_homeSliceAtomic {k : Nat} {a : Atom} (hk : s.atoms[k]? = some a) (hold : a.old = none) (hrec : a.inRecord = none) (hsent : a.sent = false) (hloc : a.loc.peer = none) (hbehind : s.behind a = false)
    (hgo : s.mayGo a = true) (hahead : s.aheadAtom a = []) : exec (.homeSliceAtomic k) s = .next (s.performAtom a) := by
  have halone : a.alone = true := by simp [Atom.alone, hold, hrec, hsent]
  change execHomeSliceAtomic k s = _
  simp only [execHomeSliceAtomic, hk, halone, hbehind, hgo, hloc, hahead, List.foldl_nil, Bool.not_true, Bool.or_self, Bool.false_eq_true, if_false]

/-! ## READs that are sent again (R305) -/

theorem exec_readRetry {k : Nat} {r : ReadReq} (hk : s.reads[k]? = some r) :
    exec (.readRetry k) s = .next (if r.data.isSome || decide (s.now - r.since < s.relTimeout) then s
      else ({ s with reads := s.reads.set k { r with since := s.now } }).send (readMsg s.devId r)) := by
  change execReadRetry k s = _
  simp only [execReadRetry, hk]

/-! ## Replies and timeouts of a running continuation (R129, R311) -/

/-- The core with a number in a bank of cores where it has just been put. -/
theorem find?_bankPut {α : Type} (b : Bank α) (n : Nat) (x : α) : (bankPut b n x).find? (·.1 == n) = some (n, x) := by
  induction b with
  | nil => simp [bankPut]
  | cons y r ih =>
    rw [bankPut]
    split_ifs with h1 h2
    · simp
    · simp
    · rw [List.find?_cons_of_neg (by simpa using h1), ih]

/-- A core that has been changed, where the change leaves its number. -/
theorem State.coreOf_onCoreN (s : State) (n : Nat) {g : Core → Core} (hg : ∀ c, (g c).phys = c.phys) :
    (s.onCoreN n g).coreOf n = g (s.coreOf n) := by
  by_cases h : s.core.phys = n
  · simp [State.onCoreN, State.coreOf, h, hg]
  · simp [State.onCoreN, State.coreOf, h, find?_bankPut]

theorem State.onCoreN_mem (s : State) (n : Nat) (g : Core → Core) : (s.onCoreN n g).mem = s.mem := by
  unfold State.onCoreN; split_ifs <;> rfl

theorem State.onCoreN_atoms (s : State) (n : Nat) (g : Core → Core) : (s.onCoreN n g).atoms = s.atoms := by
  unfold State.onCoreN; split_ifs <;> rfl

/-- What a core receives of a reply: its landing loads, and a freeze that waited for their data ends (R69). -/
def Core.replied (id : Nat) (v : Word) (c : Core) : Core :=
  if (c.answered id v).frozen = some .load ∧ (c.answered id v).dataReady then { c.answered id v with frozen := none } else c.answered id v

theorem Core.replied_phys (id : Nat) (v : Word) (c : Core) : (c.replied id v).phys = c.phys := by
  unfold Core.replied; split_ifs <;> rfl
theorem Core.replied_loads (id : Nat) (v : Word) (c : Core) : (c.replied id v).loads = c.loads.map (·.answered id v) := by
  unfold Core.replied; split_ifs <;> rfl
theorem Core.replied_group (id : Nat) (v : Word) (c : Core) : (c.replied id v).group = c.group.map fun g => (g.1, g.2.answered id v) := by
  unfold Core.replied; split_ifs <;> rfl

/-- What a core loses with an expired request: its landing load; X_ATOMIC_LOST is due at the boundary (R311, R359). -/
def Core.loseAtomic (id pc : Nat) (c : Core) : Core :=
  { c with
    atomLost := if c.atomLost.isSome then c.atomLost else some pc
    loads := c.loads.filter fun l => match l.dest with
      | .atomic _ j => j != id
      | _ => true }

section
variable {k part rec_ n : Nat} {a : Atom} (hk : s.atoms[k]? = some a) (hown : a.owner = .cont part rec_) (hrun : s.runner part rec_ = some n)
include hk hown hrun

/-- A reply from a home slice of this device reaches the core that runs its continuation. -/
theorem exec_atomicReply_running {v : Word} {f : Flags} (hold : a.old = some (v, f)) (hcut : ((s.part? part).map (·.cut)).getD false = false) :
    exec (.atomicReply k none) s = .next (({ s with atoms := s.atoms.filter (·.id != a.id) } : State).onCoreN n (Core.replied a.id v)) := by
  have hrun' : State.runner { s with atoms := s.atoms.filter (·.id != a.id) } part rec_ = some n := hrun
  change execAtomicReply k none s = _
  simp only [execAtomicReply, hk, hown, hold, hcut, Bool.false_eq_true, if_false, State.deliverReply, hrun']
  rfl

/-- A request that has expired is lost on the core that runs its continuation. -/
theorem exec_atomicTimeout_expired (hexp : s.atomicExpired a = true) :
    exec (.atomicTimeout k) s =
      .next (({ s with atoms := s.atoms.filter (·.id != a.id) } : State).onCoreN n (Core.loseAtomic a.id a.pc)) := by
  have hrun' : State.runner { s with atoms := s.atoms.filter (·.id != a.id) } part rec_ = some n := hrun
  change execAtomicTimeout k s = _
  simp only [execAtomicTimeout, hk, hown, hexp, Bool.not_true, Bool.false_eq_true, if_false, hrun']
  rfl

end

theorem exec_atomicTimeout_waiting {k : Nat} {a : Atom} (hk : s.atoms[k]? = some a) (hexp : s.atomicExpired a = false) :
    exec (.atomicTimeout k) s = .next s := by
  change execAtomicTimeout k s = _
  simp only [execAtomicTimeout, hk, hexp, Bool.not_false, if_true]

end Sys2Proof.Machine
end

section
/-! The combining tree (R307, R308, R309): requests that reach a stage port, and replies that are split. -/

namespace Sys2Proof.Machine

variable {s : State}

/-! ## A request reaches a port -/

/-- Without published stores nothing but atomics is ahead of an access. -/
theorem State.ahead_isLeft_of_no_pubs (h : s.pubs = []) (r : Path) (pa n : Nat) : ∀ x ∈ s.ahead r pa n, x.isLeft = false := by
  intro x hx
  simp only [State.ahead, h, List.filter_nil, List.map_nil, List.append_nil] at hx
  split at hx
  · obtain ⟨a, -, rfl⟩ := List.mem_map.1 hx; rfl
  · exact absurd hx List.not_mem_nil

/-- Without published stores only atomics are performed before a request. -/
theorem State.aheadAtom_isLeft_of_no_pubs (h : s.pubs = []) (m : Atom) : (s.aheadAtom m).filter (·.isLeft) = [] := by
  refine List.filter_eq_nil_iff.2 fun x hx => ?_
  rw [Bool.not_eq_true]
  rcases List.mem_append.1 hx with hx | hx
  · split at hx
    · obtain ⟨y, -, hy⟩ := List.mem_flatMap.1 hx
      exact State.ahead_isLeft_of_no_pubs h _ _ _ x hy
    · exact State.ahead_isLeft_of_no_pubs h _ _ _ x hx
  · obtain ⟨a, -, rfl⟩ := List.mem_map.1 hx; rfl

/-- A core's first request has nothing of that core before it. -/
theorem State.performOwn_of_first {a : Atom} (h : ∀ x ∈ s.atoms, x.core = a.core → a.seq ≤ x.seq) : s.performOwn a.core a.seq = s := by
  have hnone : (s.atoms.filter fun x => x.core == a.core && decide (x.seq < a.seq)) = [] := by
    simpa [List.filter_eq_nil_iff] using h
  simp only [State.performOwn, hnone, State.finishAtoms, List.foldl_nil]

/-- The premises of a request that acts at once at a stage port: it may go there, by its input port, no earlier than the entries of the
port's records, and nothing has to be performed before it. -/
structure State.Reaches (s : State) (stage port : Nat) (r : CombReq) (a : Atom) : Prop where
  request : s.combAtom r = some a
  first : ∀ x ∈ s.atoms, x.core = a.core → a.seq ≤ x.seq
  pubs : s.pubs = []
  go : s.mayGo a = true
  reach : s.mayReach a stage port = true
  order : a.loc.peer = none ∨ s.behind a = false
  input : r.inPort = s.inPort a stage
  late : (s.combs.any fun c => c.stage == stage && c.port == port && c.entries.any fun e => decide (r.cycle < e.cycle)) = false

/-- The record of a port that a request may join (R308). -/
def State.joinable (s : State) (stage port : Nat) (r : CombReq) : Option CombRecord :=
  (s.combs.filter fun c => c.stage == stage && c.port == port).find? fun c => r.aadd && c.opened && s.queued c && c.sz == r.sz && c.addr == r.addr
    && c.dev == r.dev && decide (c.entries.length < 16)

/-- The entry that a request makes. -/
def Atom.entry (a : Atom) (r : CombReq) : CombEntry := ⟨a.id, a.b, a.ret, r.inPort, r.cycle⟩

/-- An atomic is noted as an entry of a record. -/
def Atom.mark (a : Atom) (id : Nat) (x : Atom) : Atom := if x.id = a.id then { x with inRecord := some id } else x

section
variable {stage port : Nat} {r : CombReq} {a : Atom} (h : s.Reaches stage port r a)
include h

theorem State.Reaches.passes : (!s.mayGo a || !s.mayReach a stage port || (a.loc.peer.isSome && s.behind a) || r.inPort != s.inPort a stage
    || (s.combs.any fun c => c.stage == stage && c.port == port && c.entries.any fun e => decide (r.cycle < e.cycle))) = false := by
  have horder : (a.loc.peer.isSome && s.behind a) = false := by
    rcases h.order with ho | ho <;> simp [ho]
  simp only [h.go, h.reach, horder, h.input, h.late, Bool.not_true, bne_self_eq_false, Bool.or_self]

/-- A request that may join a record adds its operand to the merged request. -/
theorem exec_combiningRequest_join {c : CombRecord} (hj : s.joinable stage port r = some c) :
    exec (.combiningRequest stage port r) s = .next { s with
      combs := s.combs.map fun x => if x.id = c.id then { x with entries := insertEntry (a.entry r) x.entries } else x
      atoms := (s.atoms.map fun x => if x.owner = .comb c.id then
        { x with b := BitVec.ofNat 64 ((x.b.toNat + a.b.toNat) % 2 ^ (if r.sz = 0 then 32 else 64)), ret := x.ret || a.ret } else x).map (a.mark c.id) } := by
  unfold State.joinable at hj
  change execCombiningRequest stage port r s = _
  simp only [execCombiningRequest, h.request, h.passes, Bool.false_eq_true, if_false, State.performOwn_of_first h.first,
    State.aheadAtom_isLeft_of_no_pubs h.pubs, List.foldl_nil, ite_self, hj]
  rfl

/-- A request at a port without records that is no AADD stands in its queue. -/
theorem exec_combiningRequest_stand (hcombs : s.combs = []) (hr : r.aadd = false) :
    exec (.combiningRequest stage port r) s = .next { s with
      atoms := s.atoms.map fun x =>
        if x.id = a.id then { x with queue := some (stage, port), after := a.after ++ s.standing stage port a } else x } := by
  change execCombiningRequest stage port r s = _
  simp only [execCombiningRequest, h.request, h.passes, Bool.false_eq_true, if_false, State.performOwn_of_first h.first,
    State.aheadAtom_isLeft_of_no_pubs h.pubs, List.foldl_nil, ite_self]
  simp only [hr, hcombs, List.filter_nil, List.find?_nil, List.map_nil, Bool.false_and, Bool.false_eq_true, if_false]

/-- An AADD at a port without records opens one with a merged request. -/
theorem exec_combiningRequest_open (hcombs : s.combs = []) (hr : r.aadd = true) :
    exec (.combiningRequest stage port r) s = .next { s with
      nextAtom := (s.nextAtom + 1) % 2 ^ 32
      combs := [⟨s.nextAtom, stage, port, a.loc.pa, r.dev, a.sz, [a.entry r], true⟩]
      atoms := (s.atoms ++ [{ a with
        id := s.nextAtom, owner := .comb s.nextAtom, core := 65536, seq := 0
        b := BitVec.ofNat 64 (a.b.toNat % 2 ^ (if r.sz = 0 then 32 else 64)), queue := some (stage, port)
        after := a.after ++ s.standing stage port a, inRecord := none, old := none, sent := false }]).map (a.mark s.nextAtom) } := by
  change execCombiningRequest stage port r s = _
  simp only [execCombiningRequest, h.request, h.passes, Bool.false_eq_true, if_false, State.performOwn_of_first h.first,
    State.aheadAtom_isLeft_of_no_pubs h.pubs, List.foldl_nil, ite_self]
  simp only [hr, hcombs, List.filter_nil, List.find?_nil, List.map_nil, Bool.true_and,
    List.length_nil, List.nil_append]
  rfl

end

end Sys2Proof.Machine
end

section
/-! The reply of a merged request, split over the entries of its record in their order (R309). -/

namespace Sys2Proof.Machine

variable {s : State}

/-- An atomic that a record answers. -/
def Atom.answer (id : Nat) (v : Word) (x : Atom) : Atom := if x.id = id then { x with old := some (v, 0), inRecord := none } else x

section
variable (id : Nat) (v : Word) (x : Atom)

theorem Atom.answer_id : (x.answer id v).id = x.id := by unfold Atom.answer; split_ifs <;> rfl
theorem Atom.answer_ret : (x.answer id v).ret = x.ret := by unfold Atom.answer; split_ifs <;> rfl
theorem Atom.answer_owner : (x.answer id v).owner = x.owner := by unfold Atom.answer; split_ifs <;> rfl

end

/-- A returning request of a continuation, whose answer goes to its landing load. -/
def Atom.returnsToCont (a : Atom) : Prop := a.ret = true ∧ ∃ p r, a.owner = .cont p r

/-- What the split does with one entry: `acc` is the state and the value for this entry. -/
def State.splitEntry (fuel n : Nat) (acc : State × Nat) (e : CombEntry) : State × Nat :=
  (match acc.1.atoms.find? (·.id == e.atom) with
    | none => acc.1
    | some a => match a.owner with
      | .comb k => State.splitReply fuel { acc.1 with atoms := acc.1.atoms.filter (·.id != e.atom) } k (BitVec.ofNat 64 acc.2)
      | _ => acc.1.answerAtom a (BitVec.ofNat 64 acc.2),
    (acc.2 + e.b.toNat) % 2 ^ n)

/-- The record is freed and its entries are answered in order. -/
theorem State.splitReply_of_record {id fuel : Nat} {c : CombRecord} (h : s.combs.find? (·.id == id) = some c) (v : Word) :
    s.splitReply (fuel + 1) id v = (c.entries.foldl (State.splitEntry fuel (if c.sz = 0 then 32 else 64))
      ({ s with combs := s.combs.filter (·.id != id) }, v.toNat)).1 := by
  simp only [State.splitReply, h]
  rfl

/-- In a list without duplicate ids, the atomic with an id. -/
theorem find?_id_eq {l : List Atom} (hnodup : (l.map (·.id)).Nodup) {a : Atom} (ha : a ∈ l) : l.find? (·.id == a.id) = some a := by
  obtain ⟨b, hb⟩ := Option.isSome_iff_exists.1 (List.find?_isSome (p := (·.id == a.id)) |>.2 ⟨a, ha, by simp⟩)
  have hid : b.id = a.id := by simpa using List.find?_some hb
  rw [hb, List.inj_on_of_nodup_map hnodup (List.mem_of_find?_eq_some hb) ha hid]

/-- An entry of a continuation receives its value. -/
theorem State.splitEntry_of_cont {fuel n x : Nat} {e : CombEntry} {a : Atom} (hnodup : (s.atoms.map (·.id)).Nodup) (ha : a ∈ s.atoms)
    (hid : a.id = e.atom) (hcont : a.returnsToCont) :
    State.splitEntry fuel n (s, x) e =
      ({ s with atoms := s.atoms.map (Atom.answer e.atom (BitVec.ofNat 64 x)) }, (x + e.b.toNat) % 2 ^ n) := by
  obtain ⟨hret, p, r, hown⟩ := hcont
  have hfind : s.atoms.find? (·.id == e.atom) = some a := hid ▸ find?_id_eq hnodup ha
  simp only [State.splitEntry, hfind, hown, State.answerAtom, hret, if_true, hid]
  rfl

/-- The value for the i-th entry: the reply and the operands before it. -/
def splitValue (n x : Nat) (es : List CombEntry) (i : Nat) : Nat :=
  if i = 0 then x else (x + ((es.take i).map (·.b.toNat)).sum) % 2 ^ n

theorem splitValue_cons (n x : Nat) (e : CombEntry) (r : List CombEntry) (i : Nat) :
    splitValue n x (e :: r) (i + 1) = splitValue n ((x + e.b.toNat) % 2 ^ n) r i := by
  unfold splitValue
  cases i with
  | zero => simp
  | succ i => simp [Nat.mod_add_mod, Nat.add_assoc]

/-- What the split leaves: memory and records as they are, the other atomics as they are, and each entry with its value. -/
theorem State.foldl_splitEntry (fuel n : Nat) (es : List CombEntry) : ∀ (s : State) (x : Nat), (s.atoms.map (·.id)).Nodup →
    (es.map (·.atom)).Nodup → (∀ e ∈ es, ∃ a ∈ s.atoms, a.id = e.atom ∧ a.returnsToCont) →
    let t := (es.foldl (State.splitEntry fuel n) (s, x)).1
    t.mem = s.mem ∧ t.combs = s.combs ∧ (∀ a ∈ s.atoms, (∀ e ∈ es, e.atom ≠ a.id) → a ∈ t.atoms) ∧
      ∀ i e, es[i]? = some e → ∃ a ∈ t.atoms, a.id = e.atom ∧ a.inRecord = none ∧ a.old = some (BitVec.ofNat 64 (splitValue n x es i), 0) := by
  induction es with
  | nil => exact fun s x _ _ _ => ⟨rfl, rfl, fun a ha _ => ha, fun i e h => by simp at h⟩
  | cons e r ih =>
    intro s x hnodup hes hcont
    obtain ⟨a, ha, hid, hac⟩ := hcont e List.mem_cons_self
    rw [List.map_cons, List.nodup_cons] at hes
    have hids : (s.atoms.map (Atom.answer e.atom (BitVec.ofNat 64 x))).map (·.id) = s.atoms.map (·.id) := by
      rw [List.map_map]; exact List.map_congr_left fun y _ => y.answer_id ..
    have hother : ∀ f ∈ r, e.atom ≠ f.atom := fun f hf heq => hes.1 (heq ▸ List.mem_map_of_mem hf)
    obtain ⟨hmem, hcombs, hkept, hvalues⟩ := ih { s with atoms := s.atoms.map (Atom.answer e.atom (BitVec.ofNat 64 x)) } ((x + e.b.toNat) % 2 ^ n)
      (by rw [hids]; exact hnodup) hes.2 (fun f hf => by
        obtain ⟨b, hb, hbid, hret, hown⟩ := hcont f (List.mem_cons_of_mem _ hf)
        exact ⟨_, List.mem_map_of_mem hb, (b.answer_id ..).trans hbid, (b.answer_ret ..).trans hret, by rwa [b.answer_owner]⟩)
    simp only [List.foldl_cons, State.splitEntry_of_cont hnodup ha hid hac]
    refine ⟨hmem, hcombs, fun b hb hne => hkept b ?_ fun f hf => hne f (List.mem_cons_of_mem _ hf), fun i f hf => ?_⟩
    · have hb' : b.answer e.atom (BitVec.ofNat 64 x) = b := if_neg fun h => hne e List.mem_cons_self h.symm
      exact hb' ▸ List.mem_map_of_mem hb
    · cases i with
      | zero =>
        obtain rfl : e = f := by simpa using hf
        have ha' : a.answer e.atom (BitVec.ofNat 64 x) = { a with old := some (BitVec.ofNat 64 x, 0), inRecord := none } := if_pos hid
        have hmem' := hkept _ (List.mem_map_of_mem ha) fun f hf => by
          rw [a.answer_id, hid]; exact (hother f hf).symm
        rw [ha'] at hmem'
        exact ⟨_, hmem', hid, rfl, rfl⟩
      | succ i =>
        rw [splitValue_cons]
        exact hvalues i f (by simpa using hf)

/-- The reply of a merged request answers the entries of its record. -/
theorem exec_decombineReply {k : Nat} {c : CombRecord} {m : Atom} {v : Word} {f : Flags} (hk : s.combs[k]? = some c)
    (hm : s.merged c.id = some m) (hold : m.old = some (v, f)) :
    exec (.decombineReply k v) s = .next (({ s with atoms := s.atoms.filter (·.id != m.id) } : State).splitReply 3 c.id v) := by
  change execDecombineReply k v s = _
  simp only [execDecombineReply, hk, hm, hold, if_true]

end Sys2Proof.Machine
end

section
/-! The atomics of peers, replies, READs, link keys and combining together. -/

namespace Sys2Proof.Machine

/-- What a reply leaves on the core that runs its continuation, its landing loads and its group's snapshot answered. -/
theorem coreOf_replied (s : State) (n id : Nat) (v : Word) :
    ((s.onCoreN n (Core.replied id v)).coreOf n).loads = (s.coreOf n).loads.map (·.answered id v) ∧
      ((s.onCoreN n (Core.replied id v)).coreOf n).group = (s.coreOf n).group.map fun g => (g.1, g.2.answered id v) := by
  rw [s.coreOf_onCoreN n (Core.replied_phys id v)]
  exact ⟨Core.replied_loads .., Core.replied_group ..⟩

/-- The entries of a record whose merged request leaves the requests on their way still stand among them. -/
theorem entries_remain {s : State} {c : CombRecord} {m : Atom} (hm : s.merged c.id = some m) (hnodup : (s.atoms.map (·.id)).Nodup)
    (hentries : ∀ e ∈ c.entries, ∃ a ∈ s.atoms, a.id = e.atom ∧ a.ret = true ∧ ∃ p r, a.owner = .cont p r) :
    ∀ e ∈ c.entries, ∃ a ∈ s.atoms.filter (·.id != m.id), a.id = e.atom ∧ a.returnsToCont := by
  intro e he
  obtain ⟨a, ha, hid, hret, p, r, hown⟩ := hentries e he
  have hmown : m.owner = .comb c.id := by simpa using List.find?_some hm
  have hne : a.id ≠ m.id := fun h => by
    have ham : a = m := List.inj_on_of_nodup_map hnodup ha (List.mem_of_find?_eq_some hm) h
    rw [ham, hmown] at hown
    cases hown
  exact ⟨a, List.mem_filter.2 ⟨ha, by simpa using hne⟩, hid, hret, p, r, hown⟩

/-- Settles O51: arrivals and the home slice, READs, keys, replies and timeouts, stage ports, and the split of a merged reply. -/
theorem atomicRepliesReadsAndCombining : Obligations.AtomicRepliesReadsAndCombining := by
  refine ⟨fun s m hver hdst hrsv hpad hpoison => ⟨fun op hkind hop => ?atomic, fun hkind => ?read, fun hkind => ?readReply⟩,
    fun s k a dev tag hk hown hold hrec hsent hloc hbehind hgo hahead hw hinv => ?home,
    fun s k r hk => ⟨fun hdata hdue => ?again, fun hwait => ?wait⟩,
    fun s st key => ⟨fun hprev => ?previous, fun hprev => ?fresh⟩,
    fun s k a part rec_ n hk hown hrun => ⟨fun v f hold hcut => ?reply, exec_atomicTimeout_expired hk hown hrun, exec_atomicTimeout_waiting hk⟩,
    fun s stage port r a hreq hfirst hpubs hgo hreach horder hin => ?combining,
    fun s k c m v f hk hc hm hold hnodup hes hentries => ?decombine⟩
  case atomic =>
    change execAtomic m s = _
    rw [execAtomic, State.arriving_of_accepted hver hdst hrsv hpad hkind (by decide)]
    simp only [hop]
  case read =>
    change execRead m s = _
    rw [execRead, State.arriving_of_accepted hver hdst hrsv hpad hkind (by decide)]
    simp only [State.poisonRead_of_none hpoison]
  case readReply =>
    change ∃ t, execReadReply m s = .next t ∧ _
    rw [execReadReply, State.arriving_of_accepted hver hdst hrsv hpad hkind (by decide)]
    exact ⟨_, rfl, rfl, rfl⟩
  case home =>
    exact ⟨_, exec_homeSliceAtomic hk hold hrec hsent hloc hbehind hgo hahead, State.performAtom_peer hown hw hinv⟩
  case again =>
    rw [exec_readRetry hk, if_neg (by simp [hdata]; omega)]; rfl
  case wait =>
    rw [exec_readRetry hk, if_pos (by simpa using hwait)]
  case previous =>
    exact ⟨congrArg _ (if_pos hprev), congrArg _ (if_pos hprev)⟩
  case fresh =>
    have hnone : ¬ (bankGet LinkKeys.blank s.keys st).prev.isSome = true := by simpa using hprev
    exact ⟨congrArg _ (if_neg hnone), congrArg _ (if_neg hnone)⟩
  case reply =>
    exact ⟨_, exec_atomicReply_running hk hown hrun hold hcut, State.onCoreN_mem .., State.onCoreN_atoms .., coreOf_replied ..⟩
  case combining =>
    intro e n mark
    have hempty (h : s.combs = []) : s.Reaches stage port r a := ⟨hreq, hfirst, hpubs, hgo, hreach, horder, hin, by simp [h]⟩
    refine ⟨fun hcombs hr => exec_combiningRequest_stand (hempty hcombs) hcombs hr, fun hcombs hr => exec_combiningRequest_open (hempty hcombs) hcombs hr,
      fun c hcombs hstage hport hr hopen hqueued hsz haddr hdev hlen hlate => ?_⟩
    have hreaches : s.Reaches stage port r a := ⟨hreq, hfirst, hpubs, hgo, hreach, horder, hin, by simpa [hcombs] using fun _ _ => hlate⟩
    have hj : s.joinable stage port r = some c := by
      simp [State.joinable, hcombs, hstage, hport, hr, hopen, hqueued, hsz, haddr, hdev, hlen]
    rw [exec_combiningRequest_join hreaches hj, hcombs]
    simp only [List.map_cons, List.map_nil, if_true]
    rfl
  case decombine =>
    have hfind : ({ s with atoms := s.atoms.filter (·.id != m.id) } : State).combs.find? (·.id == c.id) = some c := hc
    have hsub : ((s.atoms.filter (·.id != m.id)).map (·.id)).Nodup := hnodup.sublist (List.filter_sublist.map _)
    obtain ⟨hmem, hcombs, -, hvalues⟩ := State.foldl_splitEntry 2 (if c.sz = 0 then 32 else 64) c.entries
      { s with atoms := s.atoms.filter (·.id != m.id), combs := s.combs.filter (·.id != c.id) } v.toNat hsub hes
      (entries_remain hm hnodup hentries)
    refine ⟨_, exec_decombineReply hk hm hold, ?_⟩
    rw [State.splitReply_of_record hfind]
    refine ⟨hmem, hcombs, fun i e he => ?_⟩
    obtain ⟨a, ha, hid, hrec, hval⟩ := hvalues i e he
    refine ⟨a, ha, hid, hrec, hval.trans ?_⟩
    unfold splitValue
    split_ifs <;> simp

end Sys2Proof.Machine
end

section
/-! Results in flight and their landing (R46, R68, R70): what a landing writes, and the lanes that a vector result writes. -/

namespace Sys2Proof.Machine

/-! ## The registers of two cores -/

section
variable {c d e : Core}

theorem sameRegisters.refl (c : Core) : sameRegisters c c :=
  ⟨rfl, rfl, rfl, rfl, rfl, rfl, rfl, rfl, rfl, rfl, rfl, rfl, rfl, rfl, rfl, rfl, rfl⟩

theorem sameRegisters.trans (h : sameRegisters c d) (k : sameRegisters d e) : sameRegisters c e := by
  simp only [sameRegisters] at h k ⊢
  simp only [h, k, and_self]

/-- Cores with the same registers have them still where one of the banks is replaced in both. -/
theorem sameRegisters.with_s (h : sameRegisters c d) (z : Bank Word) : sameRegisters { c with s := z } { d with s := z } := by
  obtain ⟨-, hrest⟩ := h
  exact ⟨rfl, hrest⟩

theorem sameRegisters.with_v (h : sameRegisters c d) (z : Bank VWord) : sameRegisters { c with v := z } { d with v := z } := by
  obtain ⟨hs, -, hrest⟩ := h
  exact ⟨hs, rfl, hrest⟩

theorem sameRegisters.with_p (h : sameRegisters c d) (z : Bank PWord) : sameRegisters { c with p := z } { d with p := z } := by
  obtain ⟨hs, hv, -, hrest⟩ := h
  exact ⟨hs, hv, rfl, hrest⟩

theorem sameRegisters.rs (h : sameRegisters c d) (r : Nat) : d.rs r = c.rs r := by
  obtain ⟨hs, -⟩ := h
  simp only [Core.rs, hs]

theorem sameRegisters.rv (h : sameRegisters c d) (r : Nat) : d.rv r = c.rv r := by
  obtain ⟨-, hv, -⟩ := h
  simp only [Core.rv, hv]

theorem sameRegisters.rp (h : sameRegisters c d) (r : Nat) : d.rp r = c.rp r := by
  obtain ⟨-, -, hp, -⟩ := h
  simp only [Core.rp, hp]

end

/-! ## One write -/

section
variable {c : Core} {d : Nat}

/-- S[r] after a write to S[d]. -/
theorem Core.rs_write (h : bankWf 0 c.s = true) (x : Word) (r : Nat) :
    (c.write (.s d x)).rs r = if r = d ∧ d ≠ 0 then x else c.rs r := by
  by_cases hd : d = 0
  · subst hd
    exact (if_neg fun h => h.2 rfl).symm
  · by_cases hr : r = 0
    · simp [Core.rs, hr, Ne.symm hd]
    · simp only [Core.write, hd, Core.rs, hr, if_false, bankGet_set d r x h, ne_eq, not_false_eq_true, and_true]

/-- V[r] after a write to V[d]. -/
theorem Core.rv_write (h : bankWf 0 c.v = true) (x m : VWord) (r : Nat) :
    (c.write (.v d x m)).rv r = if r = d then (c.rv d &&& ~~~m) ||| (x &&& m) else c.rv r :=
  bankGet_set d r _ h

/-- P[r] after a write of all bits of P[d]. -/
theorem Core.rp_write (h : bankWf 0 c.p = true) (x : PWord) (r : Nat) :
    (c.write (.p d x allOnesP)).rp r = if r = d ∧ d ≠ 0 then x else c.rp r := by
  have hall (y : PWord) : (y &&& ~~~allOnesP) ||| (x &&& allOnesP) = x := by
    simp only [allOnesP, BitVec.not_allOnes, BitVec.and_zero, BitVec.zero_or, BitVec.and_allOnes]
  by_cases hd : d = 0
  · subst hd
    exact (if_neg fun h => h.2 rfl).symm
  · by_cases hr : r = 0
    · simp [Core.rp, hr, Ne.symm hd]
    · simp only [Core.write, hd, Core.rp, hr, if_false, bankGet_set d r _ h, hall, ne_eq, not_false_eq_true, and_true]

/-- Besides the bank that it names, a write leaves the registers. -/
theorem Core.write_s_sameRegisters (x : Word) : sameRegisters c { c.write (.s d x) with s := c.s } := by
  unfold Core.write
  dsimp only
  split_ifs <;> exact .refl c

theorem Core.write_v_sameRegisters (x m : VWord) : sameRegisters c { c.write (.v d x m) with v := c.v } := .refl c

theorem Core.write_p_sameRegisters (x m : PWord) : sameRegisters c { c.write (.p d x m) with p := c.p } := by
  unfold Core.write
  dsimp only
  split_ifs <;> exact .refl c

end

/-! ## The landing (R68, R70) -/

section
variable {c : Core}

theorem Core.follow_sameRegisters (ws : List RegWrite) : sameRegisters c (c.follow ws) := .refl c

/-- A result in flight plays no part in a write. -/
theorem Core.result_write_sameRegisters (bound : Nat) (ws : List RegWrite) (w : RegWrite) :
    sameRegisters (c.write w) ((c.result bound ws).write w) := by
  cases w with
  | s r x => by_cases h : r = 0 <;> simp only [Core.write, h, if_true, if_false] <;> exact .refl _
  | p r x m => by_cases h : r = 0 <;> simp only [Core.write, h, if_true, if_false] <;> exact .refl _
  | _ => exact .refl _

/-- A result that lands with no result issued later written at the same boundary makes its write (R70). -/
theorem Core.land_sameRegisters {seq : Nat} (h : ∀ x ∈ c.here, x.1 ≤ seq) (w : RegWrite) :
    sameRegisters (c.write w) (c.land seq [w]) := by
  have hnone : c.here.filter (fun x => decide (seq < x.1)) = [] := by simpa [List.filter_eq_nil_iff] using h
  have hland : c.land seq [w] = match (c.write w).start with
      | some (n, _) => if seq < n then (c.write w).follow [w] else c.write w
      | none => c.write w := by
    simp only [Core.land, hnone, List.flatMap_nil, List.filter_nil, Core.writes, List.foldl_cons, List.foldl_nil, List.append_nil] <;> rfl
  rw [hland]
  split
  · split_ifs
    · exact Core.follow_sameRegisters _
    · exact .refl _
  · exact .refl _

/-- The newest result in flight lands. -/
theorem Core.landAt_result (h : ∀ x ∈ c.here, x.1 ≤ c.issued) (bound : Nat) (w : RegWrite) :
    sameRegisters (c.write w) ((c.result bound [w]).landAt c.lands.length) := by
  have hget : (c.result bound [w]).lands[c.lands.length]? = some ⟨[w], bound, c.issued, false⟩ := by
    simp
  unfold Core.landAt
  simp only [hget, Bool.false_eq_true, if_false]
  exact (Core.result_write_sameRegisters bound [w] w).trans (Core.land_sameRegisters (c := c.result bound [w]) h w)

/-- RESULT_LANDING of the newest result of the acting core. -/
theorem exec_resultLanding_result (s : State) (h : ∀ x ∈ s.core.here, x.1 ≤ s.core.issued) (bound : Nat) (w : RegWrite) :
    ∃ u, exec (.resultLanding s.core.lands.length) (s.result bound [w]) = .next u ∧ sameRegisters (s.core.write w) u.core ∧ u.mem = s.mem :=
  ⟨_, rfl, Core.landAt_result h bound w, rfl⟩

end

/-! ## Lanes placed in a register value (R46) -/

/-- A bit of a number given by its digits in base 2^w is a bit of one of the digits. -/
theorem testBit_ofDigits {w j : Nat} (hj : j < w) : ∀ (l : List Nat) (k : Nat), (∀ x ∈ l, x < 2 ^ w) →
    (Nat.ofDigits (2 ^ w) l).testBit (w * k + j) = (l.getD k 0).testBit j := by
  intro l
  induction l with
  | nil => intro k _; simp
  | cons x r ih =>
    intro k h
    have hx := h x List.mem_cons_self
    rw [Nat.ofDigits_cons, Nat.add_comm, Nat.testBit_two_pow_mul_add _ hx]
    cases k with
    | zero => rw [if_pos (by omega)]; simp
    | succ k =>
      rw [if_neg (by rw [Nat.mul_succ]; omega), show w * (k + 1) + j - w = w * k + j by rw [Nat.mul_succ]; omega,
        ih k fun y hy => h y (List.mem_cons_of_mem _ hy), List.getD_cons_succ]

/-- Two sums over a numbered list that place a digit of w bits at each number. -/
theorem foldl_zipIdx_ofDigits {α : Type} (w : Nat) (f g : α → Nat) {step : Nat × Nat → α × Nat → Nat × Nat}
    (hstep : ∀ acc x, step acc x = (acc.1 + f x.1 * 2 ^ (w * x.2), acc.2 + g x.1 * 2 ^ (w * x.2))) (l : List α) :
    ∀ k acc, (l.zipIdx k).foldl step acc =
      (acc.1 + 2 ^ (w * k) * Nat.ofDigits (2 ^ w) (l.map f), acc.2 + 2 ^ (w * k) * Nat.ofDigits (2 ^ w) (l.map g)) := by
  induction l with
  | nil => intro k acc; simp
  | cons x r ih =>
    intro k acc
    rw [List.zipIdx_cons, List.foldl_cons, hstep, ih]
    simp only [List.map_cons, Nat.ofDigits_cons, Nat.mul_succ, pow_add]
    exact Prod.ext (by ring) (by ring)

/-- The digit of a lane that is written, 0 for one that is left. -/
def laneDigit (w : Nat) (x : Option Nat) : Nat := x.elim 0 (· % 2 ^ w)
/-- The digit of the write mask. -/
def laneMask (w : Nat) (x : Option Nat) : Nat := x.elim 0 fun _ => 2 ^ w - 1

theorem laneDigit_lt (w : Nat) (x : Option Nat) : laneDigit w x < 2 ^ w := by
  cases x
  · exact Nat.two_pow_pos w
  · exact Nat.mod_lt _ (Nat.two_pow_pos w)

theorem laneMask_lt (w : Nat) (x : Option Nat) : laneMask w x < 2 ^ w := by
  have := Nat.two_pow_pos w
  cases x <;> simp only [laneMask, Option.elim] <;> omega

theorem packLanes_eq (w : Nat) (xs : List (Option Nat)) : packLanes w 0 xs =
    (BitVec.ofNat 4096 (Nat.ofDigits (2 ^ w) (xs.map (laneDigit w))), BitVec.ofNat 4096 (Nat.ofDigits (2 ^ w) (xs.map (laneMask w)))) := by
  unfold packLanes
  rw [foldl_zipIdx_ofDigits w (laneDigit w) (laneMask w) (fun acc x => ?_) xs 0 (0, 0)]
  · simp
  · obtain ⟨x, i⟩ := x
    cases x <;> simp [laneDigit, laneMask]

/-- A bit of lane k of the lanes placed and of their mask. -/
theorem packLanes_getLsbD {w k j : Nat} {xs : List (Option Nat)} (hj : j < w) (hbit : w * k + j < 4096) :
    (packLanes w 0 xs).1.getLsbD (w * k + j) = ((xs.map (laneDigit w)).getD k 0).testBit j ∧
      (packLanes w 0 xs).2.getLsbD (w * k + j) = ((xs.map (laneMask w)).getD k 0).testBit j := by
  have hd : ∀ x ∈ xs.map (laneDigit w), x < 2 ^ w := by simpa using fun x _ => laneDigit_lt w x
  have hm : ∀ x ∈ xs.map (laneMask w), x < 2 ^ w := by simpa using fun x _ => laneMask_lt w x
  simp only [packLanes_eq, BitVec.getLsbD_ofNat, hbit, decide_true, Bool.true_and, testBit_ofDigits hj _ _ hd, testBit_ofDigits hj _ _ hm,
    and_self]

/-- The bits of a lane are bits of its register. -/
theorem Core.testBit_lane (c : Core) (l r k j : Nat) : (c.lane l r k).testBit j = (decide (j < l) && (c.rv r).getLsbD (l * k + j)) := by
  rw [Core.lane, Nat.testBit_mod_two_pow, Nat.testBit_div_two_pow, BitVec.testBit_toNat, Nat.add_comm]

/-- Lane k of V[d] after a write of lanes to it: the lane written, or what it held. -/
theorem Core.lane_write_lanes {c : Core} (h : bankWf 0 c.v = true) (d : Nat) {l : Nat} (r : Nat → Option Nat) {k : Nat} (hk : k < 4096 / l) :
    (c.write (laneWrite d l 0 ((List.range (4096 / l)).map r))).lane l d k = match r k with
      | some v => v % 2 ^ l
      | none => c.lane l d k := by
  refine Nat.eq_of_testBit_eq fun j => ?_
  rw [Core.testBit_lane]
  have hl : 0 < l := Nat.pos_of_ne_zero fun h0 => by simp [h0] at hk
  by_cases hj : j < l
  · have hbit : l * k + j < 4096 := by
      have := Nat.mul_le_mul_left l (Nat.succ_le_of_lt hk)
      have := Nat.mul_div_le 4096 l
      rw [Nat.mul_succ] at *
      omega
    obtain ⟨hx, hm⟩ := packLanes_getLsbD (xs := (List.range (4096 / l)).map r) hj hbit
    have hwrite : laneWrite d l 0 ((List.range (4096 / l)).map r) = .v d (packLanes l 0 ((List.range (4096 / l)).map r)).1 (packLanes l 0 ((List.range (4096 / l)).map r)).2 := rfl
    rw [hwrite, Core.rv_write h, if_pos rfl]
    simp only [BitVec.getLsbD_or, BitVec.getLsbD_and, BitVec.getLsbD_not, hx, hm, hbit, hj, decide_true, Bool.true_and]
    cases hr : r k with
    | none => simp [hk, hr, laneDigit, laneMask, Core.testBit_lane, hj]
    | some v => simp [hk, hr, laneDigit, laneMask, hj]
  · cases r k <;> simp [hj, Core.testBit_lane, Nat.testBit_mod_two_pow]

/-- Settles O13: the newest result in flight makes its write, a scalar's or that of lanes. -/
theorem resultsLandAlone : Obligations.ResultsLandAlone := by
  refine ⟨fun s bound d x ⟨hs, _, _, _⟩ hhere => ?scalar, fun s bound d l r ⟨_, hv, _, _⟩ hhere _ _ => ?lanes⟩
  case scalar =>
    obtain ⟨u, hu, hsame, hmem⟩ := exec_resultLanding_result s hhere bound (.s d x)
    exact ⟨.refl s.core, rfl, u, hu, fun r => (hsame.rs r).trans (Core.rs_write hs x r), rfl,
      (Core.write_s_sameRegisters x).trans (hsame.with_s s.core.s), hmem⟩
  case lanes =>
    obtain ⟨u, hu, hsame, hmem⟩ := exec_resultLanding_result s hhere bound (laneWrite d l 0 ((List.range (4096 / l)).map r))
    refine ⟨u, hu, fun k hk => ?lane, fun n hn => ?other, (Core.write_v_sameRegisters _ _).trans (hsame.with_v s.core.v), hmem⟩
    case lane =>
      rw [Core.lane, hsame.rv]
      exact Core.lane_write_lanes hv d r hk
    case other => rw [hsame.rv, laneWrite, Core.rv_write hv, if_neg hn]

end Sys2Proof.Machine
end

section
/-! Predicate results (R46, R147, R162, R163): what a comparison writes and raises, lane by lane, and counts of one bits. -/

namespace Sys2Proof.Machine

variable {s : State}

/-! ## Bits of a predicate result (R46) -/

/-- A bit of a number given by its digits in base 2. -/
theorem testBit_ofDigits_two {l : List Nat} (h : ∀ x ∈ l, x < 2 ^ 1) (k : Nat) :
    (Nat.ofDigits (2 ^ 1) l).testBit k = (l.getD k 0).testBit 0 := by
  have hbit := testBit_ofDigits Nat.one_pos l k h
  rwa [Nat.one_mul, Nat.add_zero] at hbit

/-- Ones from bit n up to a width, over a number of n bits. -/
theorem testBit_ones_above {n width m k : Nat} (hm : m < 2 ^ n) (hk : k < width) :
    (2 ^ width - 2 ^ n + m).testBit k = if k < n then m.testBit k else true := by
  rcases Nat.lt_or_ge width n with h | h
  · have hzero : 2 ^ width - 2 ^ n = 0 := Nat.sub_eq_zero_of_le (Nat.pow_le_pow_right (by decide) h.le)
    rw [hzero, Nat.zero_add, if_pos (hk.trans h)]
  · have hones : 2 ^ width - 2 ^ n = 2 ^ n * (2 ^ (width - n) - 1) := by
      rw [Nat.mul_sub_one, ← pow_add, Nat.add_sub_cancel' h]
    rw [hones, Nat.testBit_two_pow_mul_add _ hm, Nat.testBit_two_pow_sub_one]
    split_ifs
    · rfl
    · simpa using by omega

/-- The bit of a lane that is written, 0 for one that is left. -/
def predDigit (x : Option (Bool × Flags)) : Nat := x.elim 0 (·.1.toNat)
/-- The bit of the write mask. -/
def predMask (x : Option (Bool × Flags)) : Nat := x.elim 0 fun _ => 1

theorem predDigit_lt (x : Option (Bool × Flags)) : predDigit x < 2 ^ 1 := by
  rcases x with _ | ⟨b, _⟩
  · decide
  · exact b.toNat_lt

theorem predMask_lt (x : Option (Bool × Flags)) : predMask x < 2 ^ 1 := by
  cases x
  · exact Nat.two_pos
  · exact Nat.one_lt_two

/-- The value and the write mask of a predicate result over the low n lanes. -/
def predValue (rs : List (Option (Bool × Flags))) : PWord := BitVec.ofNat 1024 (Nat.ofDigits (2 ^ 1) (rs.map predDigit))
def predWritten (n : Nat) (rs : List (Option (Bool × Flags))) : PWord :=
  BitVec.ofNat 1024 (2 ^ 1024 - 2 ^ n + Nat.ofDigits (2 ^ 1) (rs.map predMask))

theorem State.putPred_eq (s : State) (bound pd n : Nat) (rs : List (Option (Bool × Flags))) :
    s.putPred bound pd n rs = (s.raiseFlags (rs.foldl (fun g r => g ||| (r.map (·.2)).getD 0) 0)).result bound
      [.p pd (predValue rs) (predWritten n rs)] := by
  unfold State.putPred
  rw [foldl_zipIdx_ofDigits 1 predDigit predMask (fun acc x => ?_) rs 0 (0, 2 ^ 1024 - 2 ^ n)]
  · simp only [Nat.mul_zero, Nat.zero_add, pow_zero, Nat.one_mul]
    rfl
  · obtain ⟨x, i⟩ := x
    rcases x with _ | ⟨_ | _, _⟩ <;> simp [predDigit, predMask]

section
variable {n k : Nat} {rs : List (Option (Bool × Flags))} (hk : k < 1024)
include hk

theorem predValue_getLsbD : (predValue rs).getLsbD k = ((rs.map predDigit).getD k 0).testBit 0 := by
  rw [predValue, BitVec.getLsbD_ofNat, testBit_ofDigits_two (by simpa using fun x _ => predDigit_lt x)]
  simp only [hk, decide_true, Bool.true_and]

theorem predWritten_getLsbD (hlen : rs.length = n) :
    (predWritten n rs).getLsbD k = if k < n then ((rs.map predMask).getD k 0).testBit 0 else true := by
  have hdigit : ∀ x ∈ rs.map predMask, x < 2 ^ 1 := by simpa using fun x _ => predMask_lt x
  have hlt : Nat.ofDigits (2 ^ 1) (rs.map predMask) < 2 ^ n := by
    have := Nat.ofDigits_lt_base_pow_length (b := 2 ^ 1) (by decide) hdigit
    rwa [List.length_map, hlen, ← pow_mul, Nat.one_mul] at this
  rw [predWritten, BitVec.getLsbD_ofNat, testBit_ones_above hlt hk, testBit_ofDigits_two hdigit]
  simp only [hk, decide_true, Bool.true_and]

end

/-! ## Comparisons (R147) -/

/-- A comparison, lane by lane. -/
theorem State.compareLanes_eq_map (s : State) (x : VArgs) (l : Nat) (f : Nat → Nat → Bool × Flags) :
    s.compareLanes x l f = (List.range (4096 / l)).map fun k =>
      if s.core.act x.p k then some (f (s.core.lane l x.a k) (s.core.lane l x.b k)) else none := by
  simp only [State.compareLanes, State.active_eq_map, State.lanes_eq_map, map_zipIdx_map_range]
  refine List.map_congr_left fun k hk => ?_
  have hk := List.mem_range.1 hk
  simp only [toArray_getD_map_range _ _ hk]

/-- The flags of the active lanes raised on those that stand already. -/
theorem foldl_flags_map (act : Nat → Bool) (r : Nat → Bool × Flags) (l : List Nat) : ∀ a b : Flags,
    a ||| (l.map fun k => if act k then some (r k) else none).foldl (fun g r => g ||| (r.map (·.2)).getD 0) b =
      l.foldl (fun g k => if act k then g ||| (r k).2 else g) (a ||| b) := by
  induction l with
  | nil => intro a b; rfl
  | cons k l ih =>
    intro a b
    simp only [List.map_cons, List.foldl_cons]
    rw [ih]
    cases act k <;> simp [BitVec.or_assoc]

/-- What a comparison leaves: in flight a predicate that has the outcome at active lanes and 0 beyond the lanes, the flags of the
active lanes raised, nothing else changed. -/
theorem State.putPred_compares (s : State) (pd px n : Nat) (r : Nat → Bool × Flags) :
    ∃ z m : PWord, (∃ t : State, s.putPred 2 pd n ((List.range n).map fun k => if s.core.act px k then some (r k) else none) = t.result 2 [.p pd z m] ∧
        { t with core := { t.core with fstat := s.core.fstat } } = s ∧
        t.core.fstat = (List.range n).foldl (fun g k => if s.core.act px k then g ||| (r k).2 else g) s.core.fstat) ∧
      (∀ k, n ≤ k → k < 1024 → m.getLsbD k = true ∧ z.getLsbD k = false) ∧
      ∀ k < n, m.getLsbD k = s.core.act px k ∧ (s.core.act px k = true → z.getLsbD k = (r k).1) := by
  refine ⟨_, _, ⟨_, State.putPred_eq .., rfl, ?flags⟩, fun k hn hk => ?beyond, fun k hn => ?lane⟩
  case flags =>
    refine (foldl_flags_map _ _ _ _ _).trans ?_
    rw [show s.core.fstat ||| 0 = s.core.fstat from BitVec.or_zero]
  case beyond =>
    rw [predWritten_getLsbD hk (by simp), predValue_getLsbD hk, if_neg (by omega)]
    simp [List.getD_eq_getElem?_getD, hn]
  case lane =>
    by_cases hk : k < 1024
    · rw [predWritten_getLsbD hk (by simp), predValue_getLsbD hk, if_pos hn]
      have hget : ((List.range n).map fun k => if s.core.act px k then some (r k) else none)[k]? =
          some (if s.core.act px k then some (r k) else none) := by simp [hn]
      cases hact : s.core.act px k
      · simp [List.getD_eq_getElem?_getD, hn, hact, predMask]
      · cases hr : (r k).1 <;> simp [List.getD_eq_getElem?_getD, hn, hact, hr, predMask, predDigit]
    · have hact : s.core.act px k = false := BitVec.getLsbD_of_ge _ _ (by omega)
      rw [hact]
      exact ⟨BitVec.getLsbD_of_ge _ _ (by omega), fun h => absurd h (by decide)⟩

/-- The two's-complement reading of a code (R19). -/
theorem toSigned_eq_bmod (w v : Nat) : toSigned w v = (v : Int).bmod (2 ^ w) := by
  have hcast : ((v % 2 ^ w : Nat) : Int) = (v : Int) % ((2 ^ w : Nat) : Int) := Int.natCast_mod ..
  rcases w with _ | w
  · simp [toSigned, Int.bmod, Nat.mod_one]
  · have hhalf : 2 ^ (w + 1) = 2 * 2 ^ w := pow_succ' ..
    simp only [toSigned, Int.bmod, Nat.add_sub_cancel, ← hcast]
    generalize 2 ^ w = h at *
    split_ifs <;> omega

/-! ## Counts of one bits (R163) -/

theorem hasBit_toNat_eq {n : Nat} (x : BitVec n) : hasBit x.toNat = fun k => x.getLsbD k := funext (hasBit_toNat x)

/-- The number of one bits among the low n, as a 64-bit number. -/
theorem ofNat_ones {n : Nat} (hn : n ≤ 1024) (x : PWord) :
    (BitVec.ofNat 64 (ones n x.toNat)).toNat = ((List.range n).filter fun k => x.getLsbD k).length := by
  have hle : ((List.range n).filter fun k => x.getLsbD k).length ≤ n := by
    simpa using List.length_filter_le (fun k => x.getLsbD k) (List.range n)
  rw [ones, hasBit_toNat_eq, BitVec.toNat_ofNat]
  exact Nat.mod_eq_of_lt (by omega)

/-- The lowest index of a one bit among the low n, or n. -/
theorem lowest_spec (n : Nat) (x : PWord) :
    lowest n x.toNat ≤ n ∧ (∀ k < lowest n x.toNat, x.getLsbD k = false) ∧
      (lowest n x.toNat < n → x.getLsbD (lowest n x.toNat) = true) := by
  rw [lowest, hasBit_toNat_eq]
  cases h : (List.range n).find? fun k => x.getLsbD k with
  | none =>
    rw [List.find?_eq_none] at h
    exact ⟨le_rfl, fun k hk => by simpa using h k (List.mem_range.2 hk), fun hlt => absurd hlt (lt_irrefl n)⟩
  | some i =>
    obtain ⟨hi, hmem, hbelow⟩ := List.find?_range_eq_some.1 h
    have hlt := List.mem_range.1 hmem
    exact ⟨hlt.le, fun k hk => by simpa using hbelow k hk, fun _ => hi⟩

/-! ## The instructions -/

/-- VSEL copies of each active lane the code that the selecting predicate names (R148). -/
theorem vsel_copies (s : State) (o : VL) :
    copiesLanes (.vsel o) s (s.longArgs o) 1 (s.anyElt (s.longArgs o)).1 (s.anyElt (s.longArgs o)).2 fun k =>
      if s.core.act o.pd k then s.core.lane (s.anyElt (s.longArgs o)).2 (s.longArgs o).a k
      else s.core.lane (s.anyElt (s.longArgs o)).2 (s.longArgs o).b k := by
  have hexec : exec (.vsel o) s = .next (s.copyLanes (s.longArgs o) 1 (s.anyElt (s.longArgs o)).1 (s.anyElt (s.longArgs o)).2 fun i =>
      if hasBit (s.core.rp o.pd).toNat i then (s.lanes (s.anyElt (s.longArgs o)).2 (s.longArgs o).a).toArray.getD i 0
      else (s.lanes (s.anyElt (s.longArgs o)).2 (s.longArgs o).b).toArray.getD i 0) := rfl
  unfold copiesLanes writesLanes
  rw [hexec, State.copyLanes, State.active_eq_map, map_zipIdx_map_range]
  refine congrArg (fun rs => Host.Outcome.next (s.putLanes _ _ _ rs)) (List.map_congr_left fun k hk => ?_)
  have hk := List.mem_range.1 hk
  simp only [State.lanes_eq_map, toArray_getD_map_range _ _ hk, hasBit_toNat]
  rfl

/-- Settles O38: a comparison by `State.putPred_compares`, the rest bit by bit. -/
theorem comparisonsSelectionAndPredicates : Obligations.ComparisonsSelectionAndPredicates := by
  refine ⟨fun s o => ?lanes, fun s d a b lc r => ?bits⟩
  case lanes =>
    intro x cond compares
    have hcond : ∀ cc w a b, intCond cc w a b = cond w a b cc := by
      intro cc w a b
      unfold intCond
      simp only [toSigned_eq_bmod]
      rcases cc with _ | _ | _ | _ | _ | _ | _ | _ | _ | cc
      case succ.zero => exact Bool.eq_iff_iff.2 (by simp [cond])
      all_goals rfl
    have hcompares {i l} (f : Nat → Nat → Bool × Flags) (hi : exec i s = .next (s.putPred 2 o.pd (4096 / l) (s.compareLanes x l f))) :
        compares i (4096 / l) fun k => f (s.core.lane l x.a k) (s.core.lane l x.b k) := by
      have hlanes : s.compareLanes x l f = (List.range (4096 / l)).map fun k =>
          if s.core.act o.px k then some (f (s.core.lane l x.a k) (s.core.lane l x.b k)) else none := State.compareLanes_eq_map s x l f
      obtain ⟨z, m, ⟨t, ht, hframe⟩, hbits⟩ :=
        State.putPred_compares s o.pd o.px (4096 / l) fun k => f (s.core.lane l x.a k) (s.core.lane l x.b k)
      rw [← hlanes] at ht
      exact ⟨z, m, ⟨t, by rw [hi, ht], hframe⟩, hbits⟩
    clear_value cond compares
    refine ⟨fun h => ?vcmpFormat, fun e h => ?vcmp, fun h => ?vfcmpFormat, fun f h => ?vfcmp, vsel_copies s o⟩
    case vcmpFormat =>
      change execVcmp o s = _
      simp only [execVcmp, x, h]
      rfl
    case vcmp =>
      simp only [← hcond]
      refine hcompares (fun a b => (intCond o.sel e.w (e.code a).1 (e.code b).1, (e.code a).2 ||| (e.code b).2)) ?_
      change execVcmp o s = _
      simp only [execVcmp, x, h]
      rfl
    case vfcmpFormat =>
      change execVfcmp o s = _
      simp only [execVfcmp, h, State.refuse]
    case vfcmp =>
      refine hcompares (fun a b => ((floatCond o.sel (f.operand a).1 (f.operand b).1).1,
        (f.operand a).2 ||| (f.operand b).2 ||| (floatCond o.sel (f.operand a).1 (f.operand b).1).2)) ?_
      change execVfcmp o s = _
      simp only [execVfcmp, h]
      rfl
  case bits =>
    intro x y n
    have hn : n ≤ 1024 := Nat.div_le_self ..
    have hn64 {k : Nat} (hk : k ≤ n) : (BitVec.ofNat 64 k).toNat = k := by
      rw [BitVec.toNat_ofNat]
      exact Nat.mod_eq_of_lt (by omega)
    refine ⟨⟨_, rfl, fun k hk => ?_⟩, ⟨_, rfl, fun k hk => ?_⟩, ⟨_, rfl, fun k hk => ?_⟩, ⟨_, rfl, fun k hk => ?_⟩, ⟨_, rfl, fun k hk => ?_⟩, ⟨_, rfl, rfl⟩,
      ⟨_, rfl, fun k hk => ?setn⟩, ⟨_, rfl, ofNat_ones hn x⟩, ⟨_, rfl, ?first⟩, fun hbanks hhere bound z => ?landing⟩
    case setn =>
      rw [BitVec.getLsbD_ofNat, Nat.testBit_two_pow_sub_one]
      simp only [hk, decide_true, Bool.true_and]
      rfl
    case first =>
      have hlow := lowest_spec n x
      rw [← hn64 hlow.1] at hlow
      exact hlow
    case landing =>
      obtain ⟨u, hu, hsame, hmem⟩ := exec_resultLanding_result s hhere bound (.p d z allOnesP)
      obtain ⟨-, -, hp, -⟩ := hbanks
      exact ⟨u, hu, fun k => (hsame.rp k).trans (Core.rp_write hp z k), rfl, (Core.write_p_sameRegisters _ _).trans (hsame.with_p s.core.p), hmem⟩
    all_goals simp [x, y, hk]

end Sys2Proof.Machine
end

section
/-! Engine writes to windows (R54, R55, R229, R245): when they land, are held, or are refused. -/

namespace Sys2Proof.Machine

/-- The event that takes up a window write: that of a held one, or that of a new one. -/
noncomputable def windowEvent (k : Nat) (w : WinWrite) : Instr := if w.held then .heldWindowWrite k else .windowWrite k

variable {s : State} {k : Nat} {w : WinWrite} {n : Nat}

section
variable (hk : s.windows[k]? = some w) (hfailed : w.failed = 0)
include hk

/-- Each event passes by the writes of the other. -/
theorem exec_windowWrite_of_held (hheld : w.held = true) : exec (.windowWrite k) s = .next s := by
  change execWindowWrite k s = _
  simp only [execWindowWrite, hk, hheld, Bool.true_or, if_true]

theorem exec_heldWindowWrite_of_new (hheld : w.held = false) : exec (.heldWindowWrite k) s = .next s := by
  change execHeldWindowWrite k s = _
  simp only [execHeldWindowWrite, hk, hheld, Bool.not_false, Bool.true_or, if_true]

include hfailed

/-- A write whose task no longer holds the core is refused (R52). -/
theorem exec_windowEvent_of_refused (h : s.windowRefusal w ≠ stOk) : exec (windowEvent k w) s = .next (s.refuseWindow k w) := by
  cases hheld : w.held
  · rw [windowEvent, hheld]
    change execWindowWrite k s = _
    simp [execWindowWrite, hk, hheld, hfailed, h]
  · rw [windowEvent, hheld]
    change execHeldWindowWrite k s = _
    simp [execHeldWindowWrite, hk, hheld, hfailed, h]

variable (hok : s.windowRefusal w = stOk)
include hok

/-- A write that may land now lands (R54). -/
theorem exec_windowEvent_of_open (hopen : s.windowOpen w = some n) (hpage : s.windowPage w n = none) :
    exec (windowEvent k w) s = .next (s.landWindow w n) := by
  cases hheld : w.held
  · rw [windowEvent, hheld]
    change execWindowWrite k s = _
    simp [execWindowWrite, hk, hheld, hfailed, hok, hopen, hpage]
  · rw [windowEvent, hheld]
    change execHeldWindowWrite k s = _
    simp [execHeldWindowWrite, hk, hheld, hfailed, hok, hopen, hpage]

/-- A new write that may not land yet is held (R55). -/
theorem exec_windowWrite_holds (hheld : w.held = false) (h : ∀ n, s.windowOpen w = some n → (s.windowPage w n).isSome = true) :
    exec (.windowWrite k) s = .next { s with windows := s.windows.set k { w with held := true } } := by
  change execWindowWrite k s = _
  cases hopen : s.windowOpen w with
  | none => simp [execWindowWrite, hk, hheld, hfailed, hok, hopen]
  | some n => simp [execWindowWrite, hk, hheld, hfailed, hok, hopen, h n hopen]

/-- A held write goes on waiting for its core. -/
theorem exec_heldWindowWrite_waits (hheld : w.held = true) (hopen : s.windowOpen w = none) : exec (.heldWindowWrite k) s = .next s := by
  change execHeldWindowWrite k s = _
  simp [execHeldWindowWrite, hk, hheld, hfailed, hok, hopen]

/-- The scratch page of a held write is refilled before it lands (R245). -/
theorem exec_heldWindowWrite_refills {page : Nat} (hheld : w.held = true) (hopen : s.windowOpen w = some n) (hpage : s.windowPage w n = some page) :
    exec (.heldWindowWrite k) s = .next ((s.pageArrives n page).landWindow w n) := by
  change execHeldWindowWrite k s = _
  simp [execHeldWindowWrite, hk, hheld, hfailed, hok, hopen, hpage]

end

/-! ## The landing -/

theorem State.windowPage_of_registers (h : 0x200000 ≤ w.off) : s.windowPage w n = none := if_pos h

theorem State.landWindow_registers (h : 0x200000 ≤ w.off) :
    s.landWindow w n = ({ s with windows := s.windows.erase w } : State).onCoreN n fun c => c.winPut w.off w.bytes :=
  if_neg (by omega)

section
variable (h : w.off < 0x200000)
include h

theorem State.landWindow_scratch {l : Loc} {cached : Bool} (hx : s.scratchAt n w.off .write = .ok l cached) : s.landWindow w n =
    ({ s with windows := s.windows.erase w } : State).perform l.pa (blend (s.mem.readN l.pa w.bytes.length) w.bytes) := by
  simp only [State.landWindow, h, if_true, hx]

theorem State.landWindow_dropped {t : TrapNo} (hx : s.scratchAt n w.off .write = .trap t) :
    s.landWindow w n = { s with windows := s.windows.erase w } := by
  simp only [State.landWindow, h, if_true, hx]

theorem State.landWindow_transit (hx : s.scratchAt n w.off .write = .transit) : s.landWindow w n = s := by
  simp only [State.landWindow, h, if_true, hx]

end

/-- Settles O48: each clause is one case of the events, and of the landing. -/
theorem windowWritesLand : Obligations.WindowWritesLand := by
  intro s k w hk hfailed rest i
  have hi : i = windowEvent k w := rfl
  refine ⟨exec_windowWrite_of_held hk, exec_heldWindowWrite_of_new hk, fun hrefused => ⟨fun hjob => ?dropped, fun hjob => ?told⟩, fun hok =>
    ⟨fun hheld hopen => exec_windowWrite_holds hk hfailed hok hheld (by simp [hopen]),
      fun hheld hopen => exec_heldWindowWrite_waits hk hfailed hok hheld hopen, fun n hopen hoff => ?registers,
      fun n hopen hoff hpage => ?scratch, fun n page hopen hoff hpage => ?page⟩⟩
  case dropped => rw [hi, exec_windowEvent_of_refused hk hfailed hrefused, State.refuseWindow, if_pos hjob]
  case told => rw [hi, exec_windowEvent_of_refused hk hfailed hrefused, State.refuseWindow, if_neg (by omega)]
  case registers => rw [hi, exec_windowEvent_of_open hk hfailed hok hopen (State.windowPage_of_registers hoff), State.landWindow_registers hoff]
  case scratch =>
    rw [hi, exec_windowEvent_of_open hk hfailed hok hopen hpage]
    exact ⟨fun l cached hx => congrArg _ (State.landWindow_scratch hoff hx), fun t hx => congrArg _ (State.landWindow_dropped hoff hx),
      fun hx => congrArg _ (State.landWindow_transit hoff hx)⟩
  case page =>
    exact ⟨fun hheld => exec_windowWrite_holds hk hfailed hok hheld fun m hm => by
        obtain rfl := Option.some.inj (hopen.symm.trans hm)
        simp only [hpage, Option.isSome_some],
      fun hheld => exec_heldWindowWrite_refills hk hfailed hok hheld hopen hpage⟩

end Sys2Proof.Machine
end

section
/-! Tile groups and matrix work (R167, R168, R172–R175, R183): TZERO opens a set, TMMA and TMSR join the array's queue. -/

namespace Sys2Proof.Machine

/-! ## Accumulator sets of a core -/

/-- Besides the accumulator sets, two cores are the same. -/
def onlySets (c d : Core) : Prop := { d with acc0 := c.acc0, acc1 := c.acc1 } = c

section
variable {c d e : Core}

theorem onlySets.trans (h : onlySets c d) (k : onlySets d e) : onlySets c e := by
  have hsame : ({ ({ e with acc0 := d.acc0, acc1 := d.acc1 } : Core) with acc0 := c.acc0, acc1 := c.acc1 } : Core) = c := by rw [k]; exact h
  exact hsame

theorem Core.setAcc_onlySets (c : Core) (n : Nat) (a : AccSet) : onlySets c (c.setAcc n a) := by
  unfold Core.setAcc; split_ifs <;> rfl

/-- The other set, where only one is written. -/
theorem Core.acc_setAcc_other (c : Core) {n : Nat} (hn : n ≤ 1) (a : AccSet) : (c.setAcc n a).acc (1 - n) = c.acc (1 - n) := by
  interval_cases n <;> rfl

/-- The other set becomes idle where it is open (R167). -/
def Core.idleSet (c : Core) (n : Nat) : Core :=
  if (c.acc n).status = .opened then c.setAcc n { c.acc n with status := .idle, pending := false } else c

theorem Core.idleSet_onlySets (c : Core) (n : Nat) : onlySets c (c.idleSet n) := by
  unfold Core.idleSet
  split_ifs
  · exact c.setAcc_onlySets ..
  · rfl

theorem Core.idleSet_acc (c : Core) (n : Nat) : ((c.idleSet n).acc n).data = (c.acc n).data ∧
    ((c.idleSet n).acc n).status = if (c.acc n).status = .opened then .idle else (c.acc n).status := by
  unfold Core.idleSet
  split_ifs
  · rw [Core.acc_setAcc]; exact ⟨rfl, rfl⟩
  · exact ⟨rfl, rfl⟩

end

/-- Every cell of a set that TZERO opens holds the identity of its kind (R167). -/
theorem AccSet.opening_data (fa fb : W32) (kind : GroupKind) (replays : Nat) {i : Nat} (hi : i < 16384) :
    bankGet 0 (AccSet.opening fa fb kind replays).data i = kind.identity := by
  rw [AccSet.opening, bankGet_sparse]
  simp [Array.getD, hi]

/-! ## TZERO (R167, R168) -/

/-- A load to a tile register. -/
def LoadLanding.toTile (l : LoadLanding) : Bool := match l.dest with
  | .tile .. => true
  | _ => false

/-- The count of replays goes on where a TZERO restarts its own group (R179). -/
def Core.restartReplays (c : Core) (set : Nat) : Nat :=
  if (c.acc set).pending && c.group.map (fun g => (g.1, g.2.pc)) == some (set, c.pc) then (c.acc set).replays else 0

/-- The core with a group opened over a set: `c` is the core before the retirements, `c'` after them. -/
def Core.openGroup (c c' : Core) (kind : GroupKind) (fa fb set : Nat) : Core :=
  ({ (c'.idleSet (1 - set)).setAcc set (AccSet.opening (c.rf fa) (c.rf fb) kind (c.restartReplays set)) with
    group := some (set, c.atTzero), drained := false }).markAcc set

section
variable (c c' : Core) (kind : GroupKind) (fa fb : Nat) {set : Nat}

theorem Core.openGroup_acc : (c.openGroup c' kind fa fb set).acc set = AccSet.opening (c.rf fa) (c.rf fb) kind (c.restartReplays set) :=
  Core.acc_setAcc ..

theorem Core.openGroup_acc_other (hset : set ≤ 1) : (c.openGroup c' kind fa fb set).acc (1 - set) = (c'.idleSet (1 - set)).acc (1 - set) :=
  Core.acc_setAcc_other _ hset _

/-- The registers that are no accumulator sets stay, and so do the results and loads in flight. -/
theorem Core.openGroup_kept (d : Core) (hd : d = c.openGroup c' kind fa fb set) : d.s = c'.s ∧ d.v = c'.v ∧ d.p = c'.p ∧ d.t = c'.t ∧
    d.fl = c'.fl ∧ d.fmt = c'.fmt ∧ d.pat = c'.pat ∧ d.fstat = c'.fstat ∧ d.lands = c'.lands ∧ d.loads = c'.loads := by
  have hsets : onlySets c' ((c'.idleSet (1 - set)).setAcc set (AccSet.opening (c.rf fa) (c.rf fb) kind (c.restartReplays set))) :=
    (c'.idleSet_onlySets _).trans (Core.setAcc_onlySets ..)
  unfold Core.openGroup at hd
  generalize (c'.idleSet (1 - set)).setAcc set (AccSet.opening (c.rf fa) (c.rf fb) kind (c.restartReplays set)) = x at hsets hd
  subst hd
  rw [onlySets] at hsets
  rw [← hsets]
  exact ⟨rfl, rfl, rfl, rfl, rfl, rfl, rfl, rfl, rfl, rfl⟩

end

section
variable {s u : State} {c : Core} {mk fb fa set : Nat} (hu : s.settle = u) (hc : u.core.arrayDrain = c)
include hu hc

theorem exec_tzero_format (h : arrayAccepts (.ofMk mk) (c.rfmt fa) (c.rfmt fb) = false) :
    exec (.tzero mk fb fa set) s = .next (u.takeTrap { no := .format }) := by
  subst hu hc
  exact congrArg Host.Outcome.next (if_pos (by simp [h]))

variable (hformats : arrayAccepts (.ofMk mk) (c.rfmt fa) (c.rfmt fb) = true)
include hformats

theorem exec_tzero_repeated (h : c.ctx.rep ≠ 0) : exec (.tzero mk fb fa set) s = .next (u.takeTrap { no := .illegal }) := by
  subst hu hc
  exact congrArg Host.Outcome.next ((if_neg (by simp [hformats])).trans (if_pos h))

variable (hrep : c.ctx.rep = 0)
include hrep

theorem exec_tzero_tileLoad (h : c.loads.any LoadLanding.toTile = true) :
    exec (.tzero mk fb fa set) s = .next (u.takeTrap { no := .groupViolation }) := by
  subst hu hc
  exact congrArg Host.Outcome.next ((if_neg (by simp [hformats])).trans ((if_neg (not_not.2 hrep)).trans (if_pos h)))

variable (hloads : c.loads.any LoadLanding.toTile = false)
include hloads

theorem exec_tzero_noSpare (h : c.applyRetirements = none) :
    exec (.tzero mk fb fa set) s = .next { u with core := { u.core with frozen := some .retire } } := by
  subst hu hc
  refine congrArg Host.Outcome.next ((if_neg (by simp [hformats])).trans ((if_neg (not_not.2 hrep)).trans
    ((if_neg (Bool.eq_false_iff.1 hloads)).trans ?_)))
  simp only [h]
  rfl

theorem exec_tzero_opens {c' : Core} (h : c.applyRetirements = some c') :
    exec (.tzero mk fb fa set) s = .next { u with core := c.openGroup c' (.ofMk mk) fa fb set } := by
  subst hu hc
  refine congrArg Host.Outcome.next ((if_neg (by simp [hformats])).trans ((if_neg (not_not.2 hrep)).trans
    ((if_neg (Bool.eq_false_iff.1 hloads)).trans ?_)))
  simp only [h]
  rfl

end

/-! ## TMMA and TMSR (R172–R175) -/

section
variable {s : State} {tmsr : Bool} {nv seg tb ta set : Nat}

/-- What refuses a matrix instruction: the segment, NV, or a set that is not open or not of its kind. -/
def State.matrixRefused (s : State) (tmsr : Bool) (nv seg set : Nat) : Prop :=
  let k : Int := (seg : Int) + s.core.ctx.off
  k < 0 ∨ 9 < k ∨ (segOf (s.core.acc set).fmtA.lane).1 < nv ∨ (s.core.acc set).status ≠ .opened ∨ ((s.core.acc set).kind = .ring) = tmsr

theorem State.queueMatrix_of_refused (h : s.matrixRefused tmsr nv seg set) :
    s.queueMatrix tmsr nv seg tb ta set = s.takeTrap { no := .illegal } := if_pos h

variable (h : ¬ s.matrixRefused tmsr nv seg set)
include h

theorem State.queueMatrix_of_full (hfull : 2 ≤ s.core.array.length) :
    s.queueMatrix tmsr nv seg tb ta set = { s with core := { s.core with frozen := some .array } } :=
  (if_neg h).trans (if_pos hfull)

theorem State.queueMatrix_of_room (hroom : s.core.array.length < 2) : s.queueMatrix tmsr nv seg tb ta set =
    let due := injectDue s.core.inject set && s.core.array.all fun m => !m.disarms
    { s with core := { s.core with
      array := s.core.array ++ [⟨tmsr, nv, ((seg : Int) + s.core.ctx.off).toNat, tb, ta, set, s.core.ctx.rnd,
        if due then some s.core.inject else none, due⟩]
      written := { s.core.written with acc := s.core.written.acc ||| 2 ^ set } } } := by
  rw [← List.not_any_eq_all_not]
  exact (if_neg h).trans (if_neg (by omega))

end

/-- Settles O43: each clause is one answer of TZERO, or of the array's queue. -/
theorem tileGroupsAndMatrixWork : Obligations.TileGroupsAndMatrixWork := by
  refine ⟨fun s mk fb fa set hset => ?tzero, fun s nv seg tb ta set tmsr => ?matrix⟩
  case tzero =>
    intro u c traps kind formats tile
    have htile : tile = LoadLanding.toTile := rfl
    clear_value tile
    subst htile
    refine ⟨fun hf => exec_tzero_format rfl rfl hf, fun hf hrep => exec_tzero_repeated rfl rfl hf hrep,
      fun hf hrep hl => exec_tzero_tileLoad rfl rfl hf hrep hl,
      fun hf hrep hl => ⟨fun hnone => exec_tzero_noSpare rfl rfl hf hrep hl hnone, fun c' hsome =>
        ⟨_, exec_tzero_opens rfl rfl hf hrep hl hsome, rfl, rfl, fun hstart => ?snapshot, rfl, ?sets⟩⟩⟩
    case snapshot => rw [Core.atTzero, hstart]
    case sets =>
      obtain ⟨hdata, hstatus⟩ := c'.idleSet_acc (1 - set)
      have hother := Core.openGroup_acc_other c c' kind fa fb hset
      simp only [Core.openGroup_acc]
      exact ⟨rfl, rfl, rfl, rfl, fun i hi => AccSet.opening_data _ _ _ _ hi, rfl, rfl, rfl, rfl, rfl, rfl,
        (congrArg AccSet.data hother).trans hdata, (congrArg AccSet.status hother).trans hstatus, Core.openGroup_kept c c' kind fa fb _ rfl⟩
  case matrix =>
    intro i c a k due admitted
    have hexec : exec i s = .next (s.queueMatrix tmsr nv seg tb ta set) := by cases tmsr <;> rfl
    have hadmitted : admitted ↔ ¬ s.matrixRefused tmsr nv seg set := by
      cases tmsr <;> simp [admitted, State.matrixRefused, k, a, c, not_or]
    refine ⟨fun h => ?_, fun h hfull => ?_, fun h hroom => ?_⟩
    · exact hexec.trans (congrArg _ (State.queueMatrix_of_refused (by rwa [hadmitted, not_not] at h)))
    · exact hexec.trans (congrArg _ (State.queueMatrix_of_full (hadmitted.1 h) hfull))
    · exact hexec.trans (congrArg _ (State.queueMatrix_of_room (hadmitted.1 h) hroom))

end Sys2Proof.Machine
end

section
/-! SPAWN (R94, R214): its checks, and the child's record that it publishes. -/

namespace Sys2Proof.Machine

variable {s : State} {a b : Nat}

/-- In a tile group SPAWN is refused (R113). -/
theorem spawn_raises_inGroup (hg : s.inGroup = true) : raises (.spawn a b) s .groupViolation :=
  congrArg Host.Outcome.next (if_pos hg)

section
variable (hg : s.inGroup = false)
include hg

theorem exec_spawn_of_inGroup_false : exec (.spawn a b) s = .next (s.checked (s.check .record 3 (s.rs a).toNat 64 64) fun _ =>
    s.checked (s.parentCheck (s.rs b).toNat) fun _ => s.inFull fun s' =>
      if 1 ≤ s'.recSt s'.core.part (va52 (s.rs a).toNat) ∧ s'.recSt s'.core.part (va52 (s.rs a).toNat) ≤ 4 then s'.refuse .illegal
      else ((s'.publishNow 3).settle).publishRecord (s.rs a).toNat (s.rs b).toNat) :=
  congrArg Host.Outcome.next (if_neg (Bool.eq_false_iff.1 hg))

/-- A record that the checks turn away. -/
theorem exec_spawn_recordTrap {t : Trap} (h : s.check .record 3 (s.rs a).toNat 64 64 = .trap t) :
    exec (.spawn a b) s = .next (s.takeTrap t) := by
  rw [exec_spawn_of_inGroup_false hg, h]; rfl

theorem exec_spawn_recordFreeze {f : Freeze} (h : s.check .record 3 (s.rs a).toNat 64 64 = .freeze f) :
    exec (.spawn a b) s = .next { s with core := { s.core with frozen := some f } } := by
  rw [exec_spawn_of_inGroup_false hg, h]; rfl

variable {ps : List Piece} (hrecord : s.check .record 3 (s.rs a).toNat 64 64 = .ok ps)
include hrecord

/-- A counter word that the checks turn away. -/
theorem exec_spawn_counterTrap {t : Trap} (h : s.parentCheck (s.rs b).toNat = .trap t) : exec (.spawn a b) s = .next (s.takeTrap t) := by
  rw [exec_spawn_of_inGroup_false hg, hrecord, h]; rfl

theorem exec_spawn_counterFreeze {f : Freeze} (h : s.parentCheck (s.rs b).toNat = .freeze f) :
    exec (.spawn a b) s = .next { s with core := { s.core with frozen := some f } } := by
  rw [exec_spawn_of_inGroup_false hg, hrecord, h]; rfl

variable {qs : List Piece} (hcounter : s.parentCheck (s.rs b).toNat = .ok qs)
include hcounter

/-- While the core owes something that it has issued, SPAWN freezes it (R133). -/
theorem exec_spawn_owing (h : s.finishOwn.owing = true) :
    exec (.spawn a b) s = .next (s.finishOwn.freeze .publish) := by
  rw [exec_spawn_of_inGroup_false hg, hrecord, hcounter]
  exact congrArg Host.Outcome.next (if_pos h)

variable (howing : s.finishOwn.owing = false)
include howing

/-- A record that is ready, running, suspended or faulted. -/
theorem exec_spawn_live (h : 1 ≤ s.finishOwn.recSt s.finishOwn.core.part (va52 (s.rs a).toNat) ∧
      s.finishOwn.recSt s.finishOwn.core.part (va52 (s.rs a).toNat) ≤ 4) :
    exec (.spawn a b) s = .next (s.finishOwn.takeTrap { no := .illegal }) := by
  rw [exec_spawn_of_inGroup_false hg, hrecord, hcounter]
  exact congrArg Host.Outcome.next ((if_neg (Bool.eq_false_iff.1 howing)).trans (if_pos h))

/-- The stores are published and the record is. -/
theorem exec_spawn_publishes (h : ¬ (1 ≤ s.finishOwn.recSt s.finishOwn.core.part (va52 (s.rs a).toNat) ∧
      s.finishOwn.recSt s.finishOwn.core.part (va52 (s.rs a).toNat) ≤ 4)) :
    exec (.spawn a b) s = .next (((s.finishOwn.publishNow 3).settle).publishRecord (s.rs a).toNat (s.rs b).toNat) := by
  rw [exec_spawn_of_inGroup_false hg, hrecord, hcounter]
  exact congrArg Host.Outcome.next ((if_neg (Bool.eq_false_iff.1 howing)).trans (if_neg h))

end

/-- A misaligned record address (R94, R109). -/
theorem State.check_of_misaligned {x : Access} {scope ea n align : Nat} (h : ea % align ≠ 0) :
    s.check x scope ea n align = .trap { no := .align, addr := ea } := if_pos h

/-- The fields that SPAWN writes to the child's record, with their offsets and sizes (R94). -/
def Core.childFields (c : Core) (parent : Nat) : List (Nat × Nat × Nat) :=
  [(16, 4, 0), (20, 4, c.task), (24, 8, c.deadline), (32, 4, 0), (36, 2, 0xFFFF), (40, 8, parent), (48, 8, c.scratch), (56, 8, 0)]

/-- A record is published: its fields in order, the parent's counter, its entry among the published records, and it becomes ready. -/
theorem State.publishRecord_eq (u : State) (r parent : Nat) : u.publishRecord r parent =
    let v := (u.core.childFields parent).foldl (fun v f => v.hubWrite u.core.part r f.1 f.2.1 f.2.2) u
    let w := if parent = 0 then v else v.hubWrite u.core.part parent 16 4 ((v.readRec u.core.part parent 16 4 + 1) % 2 ^ 32)
    (((w.dropSaved u.core.part r).orphanChans u.core.part r).onPart u.core.part fun p =>
      { p with recs := p.recs.filter (·.1 != r) ++ [(r, u.core.task)] }).readyRec u.core.part r := rfl

/-- Settles O27: each clause is one answer of SPAWN, and the last the fields that it writes in order. -/
theorem spawnPublishesAChild : Obligations.SpawnPublishesAChild := by
  intro s a b r parent v u c
  refine ⟨spawn_raises_inGroup, fun hg halign => exec_spawn_recordTrap hg (State.check_of_misaligned halign),
    fun hg t h => exec_spawn_recordTrap hg h, fun hg f h => exec_spawn_recordFreeze hg h, fun ps hg hrecord =>
    ⟨fun t h => exec_spawn_counterTrap hg hrecord h, fun f h => exec_spawn_counterFreeze hg hrecord h, fun qs hcounter => ?_⟩⟩
  have howing : v.owing = true → exec (.spawn a b) s = .next (v.freeze .publish) := exec_spawn_owing hg hrecord hcounter
  have hlive : v.owing = false → 1 ≤ v.recSt v.core.part (va52 r) ∧ v.recSt v.core.part (va52 r) ≤ 4 →
      exec (.spawn a b) s = .next (v.takeTrap { no := .illegal }) := exec_spawn_live hg hrecord hcounter
  have hpub : v.owing = false → ¬ (1 ≤ v.recSt v.core.part (va52 r) ∧ v.recSt v.core.part (va52 r) ≤ 4) →
      exec (.spawn a b) s = .next (u.publishRecord r parent) := exec_spawn_publishes hg hrecord hcounter
  clear_value u v
  exact ⟨howing, hlive, fun h h' => ⟨_, hpub h h', State.publishRecord_eq u r parent⟩⟩

end Sys2Proof.Machine
end

section
/-! Stream-buffer descriptors (R50, Table 3-4): the fields of a word after a count of it was replaced. -/

namespace Sys2Proof.Machine

theorem field_testBit (v lo n i : Nat) : (field v lo n).testBit i = (decide (i < n) && v.testBit (lo + i)) := by
  rw [Nat.testBit_mod_two_pow, Nat.testBit_div_two_pow, Nat.add_comm]

/-- Replacing a field keeps what stands above it and below it. -/
theorem setField_eq (v lo n x : Nat) : setField v lo n x = 2 ^ lo * (2 ^ n * (v / 2 ^ lo / 2 ^ n) + x % 2 ^ n) + v % 2 ^ lo := by
  have hv : 2 ^ lo * (2 ^ n * (v / 2 ^ lo / 2 ^ n)) + 2 ^ lo * (v / 2 ^ lo % 2 ^ n) + v % 2 ^ lo = v := by
    rw [← Nat.mul_add, Nat.div_add_mod, Nat.div_add_mod]
  rw [setField, Nat.mul_add, Nat.mul_comm (field v lo n), Nat.mul_comm (x % 2 ^ n)]
  simp only [field]
  omega

theorem setField_testBit (v lo n x i : Nat) :
    (setField v lo n x).testBit i = if lo ≤ i ∧ i < lo + n then x.testBit (i - lo) else v.testBit i := by
  rw [setField_eq, Nat.testBit_two_pow_mul_add _ (Nat.mod_lt _ (Nat.two_pow_pos lo)),
    Nat.testBit_two_pow_mul_add _ (Nat.mod_lt _ (Nat.two_pow_pos n)), Nat.testBit_mod_two_pow, Nat.testBit_mod_two_pow,
    Nat.testBit_div_two_pow, Nat.testBit_div_two_pow]
  by_cases hlo : i < lo
  · simp [hlo, Nat.not_le.2 hlo]
  · by_cases hn : i < lo + n
    · have : i - lo < n := by omega
      simp [hlo, hn, this, Nat.le_of_not_lt hlo]
    · have h : ¬ i - lo < n := by omega
      have hi : i - lo - n + n + lo = i := by omega
      simp [hlo, hn, h, hi]

theorem field_setField_same (v lo n x : Nat) : field (setField v lo n x) lo n = x % 2 ^ n := by
  refine Nat.eq_of_testBit_eq fun i => ?_
  rw [field_testBit, setField_testBit, Nat.testBit_mod_two_pow]
  by_cases hi : i < n <;> simp [hi]

theorem field_setField_other {lo n lo' n' : Nat} (v x : Nat) (h : lo' + n' ≤ lo ∨ lo + n ≤ lo') :
    field (setField v lo n x) lo' n' = field v lo' n' := by
  refine Nat.eq_of_testBit_eq fun i => ?_
  rw [field_testBit, field_testBit, setField_testBit]
  by_cases hi : i < n'
  · rw [if_neg (by omega)]
  · simp [hi]

/-- A field within a register's width does not see the truncation to it. -/
theorem field_toNat_ofNat {w lo n : Nat} (v : Nat) (h : lo + n ≤ w) : field (BitVec.ofNat w v).toNat lo n = field v lo n := by
  refine Nat.eq_of_testBit_eq fun i => ?_
  rw [field_testBit, field_testBit, BitVec.toNat_ofNat, Nat.testBit_mod_two_pow]
  by_cases hi : i < n
  · rw [decide_eq_true (show lo + i < w by omega), Bool.true_and]
  · simp [hi]

/-- A mask that is all ones at a field keeps it. -/
theorem field_and {v m lo n : Nat} (h : field m lo n = 2 ^ n - 1) : field (v &&& m) lo n = field v lo n := by
  refine Nat.eq_of_testBit_eq fun i => ?_
  have hm : (field m lo n).testBit i = decide (i < n) := by rw [h, Nat.testBit_two_pow_sub_one]
  rw [field_testBit] at hm
  rw [field_testBit, field_testBit, Nat.testBit_and]
  by_cases hi : i < n
  · rw [decide_eq_true hi, Bool.true_and] at hm
    rw [hm, Bool.and_true]
  · simp [hi]

/-- What a change of the counts writes. -/
theorem SbWord.of_sbCounts (w : Word) (filled free : Nat) : SbWord.of (sbCounts w filled free) =
    { SbWord.of w with filled := filled % 2 ^ 9, free := free % 2 ^ 9 } := by
  simp only [SbWord.of, sbCounts, SbWord.mk.injEq]
  refine ⟨?_, ?_, ?_, ?_, ?_⟩ <;> rw [field_toNat_ofNat _ (by decide)]
  · rw [field_setField_other _ _ (by decide), field_setField_same]
  · exact field_setField_same ..
  · rw [field_setField_other _ _ (by decide), field_setField_other _ _ (by decide)]
  · rw [field_setField_other _ _ (by decide), field_setField_other _ _ (by decide)]
  · rw [field_setField_other _ _ (by decide), field_setField_other _ _ (by decide)]

/-- The counts of a descriptor are numbers of nine bits, its number of slots one of eight. -/
theorem SbWord.of_lt (w : Word) : (SbWord.of w).filled < 2 ^ 9 ∧ (SbWord.of w).free < 2 ^ 9 ∧ (SbWord.of w).slots < 2 ^ 8 :=
  ⟨Nat.mod_lt _ (Nat.two_pow_pos 9), Nat.mod_lt _ (Nat.two_pow_pos 9), Nat.mod_lt _ (Nat.two_pow_pos 8)⟩

end Sys2Proof.Machine
end

section
/-! Control-register writes, heartbeats and format registers (R47–R50, R104–R106). -/

namespace Sys2Proof.Machine

variable {s : State} {a n : Nat}

/-! ## Partitions and tasks found after a change -/

/-- An element changed in place is found by the test that found it, where the test sees no change. -/
theorem find?_changeFirst {α : Type} {p q : α → Bool} {f : α → α} (hq : ∀ x, q x = p x) (hf : ∀ x, q (f x) = p x) (l : List α) :
    (changeFirst p f l).find? q = (l.find? p).map f := by
  induction l with
  | nil => rfl
  | cons x r ih =>
    cases h : p x with
    | false => rw [changeFirst, if_neg (by simp [h]), List.find?_cons_of_neg (by simp [hq, h]), List.find?_cons_of_neg (by simp [h]), ih]
    | true => rw [changeFirst, if_pos h, List.find?_cons_of_pos (by rw [hf, h]), List.find?_cons_of_pos h]; rfl

theorem all_changeFirst {α : Type} {p q : α → Bool} {f : α → α} (hf : ∀ x, q (f x) = q x) (l : List α) :
    (changeFirst p f l).all q = l.all q := by
  induction l with
  | nil => rfl
  | cons x r ih => cases h : p x <;> simp [changeFirst, h, hf, ih]

/-- A change that keeps the index of a task and whether it has finished keeps what an index names (R336). -/
theorem Partition.task?_changeFirst {p : Partition} {i : Nat} {f : Task → Task} (hidx : ∀ t, (f t).idx = t.idx)
    (hfin : ∀ t, (f t).finished = t.finished) :
    ({ p with tasks := changeFirst (p.named i) f p.tasks } : Partition).task? i = (p.task? i).map f := by
  have hall : (changeFirst (p.named i) f p.tasks).all (fun u => u.idx != i || u.finished) = p.tasks.all fun u => u.idx != i || u.finished :=
    all_changeFirst (fun u => by rw [hidx, hfin]) _
  refine find?_changeFirst (fun t => ?_) (fun t => ?_) _
  · simp only [Partition.named, hall]
  · simp only [Partition.named, hall, hidx, hfin]

theorem State.part?_onPart_same {f : Partition → Partition} (hno : ∀ p, (f p).no = p.no) :
    (s.onPart n f).part? n = (s.part? n).map f := by
  change (s.parts.map _).find? _ = (s.parts.find? _).map f
  induction s.parts with
  | nil => rfl
  | cons p r ih =>
    by_cases h : p.no = n
    · simp [h, hno]
    · simpa [h] using ih

theorem State.task?_onTask {i : Nat} {f : Task → Task} (hidx : ∀ t, (f t).idx = t.idx) (hfin : ∀ t, (f t).finished = t.finished) :
    (s.onTask n i f).task? n i = (s.task? n i).map f := by
  have hpart := State.part?_onPart_same (s := s) (n := n) (f := fun p => { p with tasks := changeFirst (p.named i) f p.tasks }) fun _ => rfl
  rw [State.task?, State.onTask, hpart, State.task?]
  cases s.part? n with
  | none => rfl
  | some p => exact Partition.task?_changeFirst hidx hfin

/-! ## CTLW by index (Tables 3-2 to 3-4) -/

/-- CTLW of any register but CTL.FSTAT settles nothing. -/
theorem exec_ctlw_of_pos {i : Nat} (hi : i ≠ 0) : exec (.ctlw i a) s = .next (s.ctlWrite i (s.rs a)) :=
  congrArg (fun u : State => Host.Outcome.next (u.ctlWrite i (s.rs a))) (if_neg hi)

theorem exec_ctlw_readOnly {i : Nat} (hi : i ∈ [3, 4, 5, 0x10]) : exec (.ctlw i a) s = .next s := by
  simp only [List.mem_cons, List.not_mem_nil, or_false] at hi
  obtain rfl | rfl | rfl | rfl := hi <;> rfl

theorem exec_ctlw_qstall {k : Nat} (hk : k < 8) :
    exec (.ctlw (8 + k) a) s = .next { s with core := { s.core with qstall := bankSet 0 s.core.qstall k (s.rs a) } } := by
  interval_cases k <;> rfl

theorem State.ctlWrite_partReg {i : Nat} (v : Word) (hi : 0x20 ≤ i ∧ i ≤ 0x26) : s.ctlWrite i v = s.refuse .perm := by
  simp only [State.ctlWrite]
  iterate 6 rw [if_neg (by omega)]
  exact if_pos hi

theorem ctlw_raises_partReg {k : Nat} (hk : k < 7) : raises (.ctlw (0x20 + k) a) s .perm :=
  (exec_ctlw_of_pos (by omega)).trans (congrArg Host.Outcome.next (State.ctlWrite_partReg _ (by omega)))

theorem State.ctlWrite_unlisted {i : Nat} (v : Word) (hi : i ∈ [6, 7] ∨ (0x12 ≤ i ∧ i < 0x20) ∨ (0x27 ≤ i ∧ i < 0x40) ∨ 0x50 ≤ i) :
    s.ctlWrite i v = s.refuse .illegal := by
  simp only [List.mem_cons, List.not_mem_nil, or_false] at hi
  simp only [State.ctlWrite]
  repeat rw [if_neg (by omega)]

theorem ctlw_raises_unlisted {i : Nat} (hi : i ∈ [6, 7] ∨ (0x12 ≤ i ∧ i < 0x20) ∨ (0x27 ≤ i ∧ i < 0x40) ∨ 0x50 ≤ i) :
    raises (.ctlw i a) s .illegal := by
  have hpos : i ≠ 0 := by rintro rfl; simp at hi
  exact (exec_ctlw_of_pos hpos).trans (congrArg Host.Outcome.next (State.ctlWrite_unlisted _ hi))

/-- CTLW names the descriptors at 0x040 to 0x04F. -/
theorem exec_ctlw_sb (hn : n < 16) : exec (.ctlw (0x40 + n) a) s = exec (.sbDescriptorWrite n a) s := by
  interval_cases n <;> rfl

/-! ## CTL.INJECT (R48, R49) -/

theorem State.writeInject_perm {v : Word} (harm : v.getLsbD 31 = true)
    (hdebug : ∀ p, s.part? s.core.part = some p → p.quotas.debug = false) : s.writeInject v = s.refuse .perm := by
  refine if_pos ?_
  rw [harm, Bool.true_and, State.myPart]
  cases h : s.part? s.core.part with
  | none => rfl
  | some p => simp [hdebug p h]

theorem State.writeInject_sets {v : Word}
    (h : v.getLsbD 31 = false ∨ ∃ p, s.part? s.core.part = some p ∧ p.quotas.debug = true) :
    s.writeInject v = { s with core := { s.core with
      inject := v &&& 0xFFFF001F#64, array := s.core.array.map fun m => { m with disarms := false } } } := by
  refine if_neg ?_
  obtain harm | ⟨p, hp, hdebug⟩ := h
  · rw [harm, Bool.false_and]; exact Bool.false_ne_true
  · simp [State.myPart, hp, hdebug]

/-! ## Descriptor writes (R50) -/

theorem State.writeSb_refused {v : Word}
    (h : s.ringBusy n = true ∨ 0x1000000 < (SbWord.of v).base * 64 + (SbWord.of v).slots * (SbWord.of v).size) :
    s.writeSb n v = s.refuse .illegal :=
  if_pos (by simpa using h)

/-- The mask of a descriptor write keeps BASE, SIZE and SLOTS. -/
theorem SbWord.of_masked (v : Word) : (SbWord.of (BitVec.ofNat 64 (v &&& 0x3FFF00FFFFC0#64).toNat)).slots = (SbWord.of v).slots ∧
    (SbWord.of (BitVec.ofNat 64 (v &&& 0x3FFF00FFFFC0#64).toNat)).size = (SbWord.of v).size ∧
    (SbWord.of (BitVec.ofNat 64 (v &&& 0x3FFF00FFFFC0#64).toNat)).base = (SbWord.of v).base := by
  rw [BitVec.ofNat_toNat, BitVec.setWidth_eq]
  simp only [SbWord.of, BitVec.toNat_and]
  refine ⟨field_and (by decide), ?_, field_and (by decide)⟩
  rw [field_and (by decide)]

theorem State.writeSb_restarts {v : Word} (hbusy : s.ringBusy n = false)
    (hseg : (SbWord.of v).base * 64 + (SbWord.of v).slots * (SbWord.of v).size ≤ 0x1000000) :
    ∃ w, s.writeSb n v = { s with core := s.core.setRing n w 0 0 } ∧ (SbWord.of w).filled = 0 ∧ (SbWord.of w).free = (SbWord.of v).slots ∧
      (SbWord.of w).slots = (SbWord.of v).slots ∧ (SbWord.of w).size = (SbWord.of v).size ∧ (SbWord.of w).base = (SbWord.of v).base := by
  obtain ⟨hslots, hsize, hbase⟩ := SbWord.of_masked v
  obtain ⟨-, -, hlt⟩ := SbWord.of_lt v
  refine ⟨_, if_neg (by simpa [hbusy] using hseg), ?_⟩
  rw [SbWord.of_sbCounts]
  exact ⟨rfl, Nat.mod_eq_of_lt (by omega), hslots, hsize, hbase⟩

/-! ## HBEAT (R105) and FMTSET (R106) -/

theorem exec_hbeat_records {t : Task} (ht : s.task? s.core.part s.core.task = some t) (h : t.hbeat < (s.rs a).toNat) :
    exec (.hbeat a) s = .next ((s.onTask s.core.part s.core.task fun t => { t with hbeat := (s.rs a).toNat, hbTimer := s.now }).onCore
      fun c => { c with coreTimer := s.now }) :=
  congrArg Host.Outcome.next (if_pos (by rw [ht]; exact h))

theorem exec_hbeat_keeps {t : Task} (ht : s.task? s.core.part s.core.task = some t) (h : (s.rs a).toNat ≤ t.hbeat) :
    exec (.hbeat a) s = .next s :=
  congrArg Host.Outcome.next (if_neg (by rw [ht]; exact Nat.not_lt.2 h))

/-- What leaves the core at a bundle's end keeps the format registers and the late writes. -/
theorem State.leaveAtRetire_late (u : State) : u.leaveAtRetire.core.fmt = u.core.fmt ∧ u.leaveAtRetire.core.late = u.core.late := by
  unfold State.leaveAtRetire
  split
  · split <;> exact ⟨rfl, rfl⟩
  · exact ⟨rfl, rfl⟩
  · exact ⟨rfl, rfl⟩

theorem Core.pointed_late (c : Core) : c.pointed.fmt = c.fmt ∧ c.pointed.late = c.late := by
  unfold Core.pointed
  split <;> exact ⟨rfl, rfl⟩

section
variable {b : Bundle} {f : Nat} {z : W32} (hlate : s.core.late = [.fmt f z])
include hlate

/-- The last repetition of a bundle that ends no phase writes the format register. -/
theorem State.endRepetition_last_fmt (hph : b.header.ph = false) (hops : b.ops.any (fun o => endsPhase o.instr) = false)
    (hrep : s.core.rep = b.header.rep) : (State.endRepetition b none s).core.fmt = (s.core.write (.fmt f z)).fmt ∧
      (State.endRepetition b none s).core.late = [] := by
  have hwrites : (s.core.lateWrites true).fmt = (s.core.write (.fmt f z)).fmt ∧ (s.core.lateWrites true).late = [] := by
    simp only [Core.lateWrites, hlate]; exact ⟨rfl, rfl⟩
  simp only [State.endRepetition, hrep, Option.isSome_none, BEq.rfl, Bool.or_true, if_true, hph, hops, Bool.or_self, Bool.false_eq_true, if_false]
  rw [(State.leaveAtRetire_late _).1, (State.leaveAtRetire_late _).2]
  simp only [State.onCore, (Core.pointed_late _).1, (Core.pointed_late _).2]
  exact hwrites

/-- An earlier repetition leaves it. -/
theorem State.endRepetition_early_fmt (hrep : s.core.rep ≠ b.header.rep) : (State.endRepetition b none s).core.fmt = s.core.fmt ∧
    (State.endRepetition b none s).core.late = s.core.late := by
  have hlast : (s.core.rep == b.header.rep) = false := beq_eq_false_iff_ne.2 hrep
  have hwrites : (s.core.lateWrites false).fmt = s.core.fmt ∧ (s.core.lateWrites false).late = s.core.late := by
    simp only [Core.lateWrites, hlate]; exact ⟨rfl, rfl⟩
  simp only [State.endRepetition, hlast, Option.isSome_none, Bool.or_self, Bool.false_eq_true, if_false]
  exact hwrites

end

/-- Settles O32: CTLW by index, the descriptor's counts by its fields, HBEAT through the task that the index still names, and
FMTSET through the late writes of a repetition's end. -/
theorem controlRegisterWrites : Obligations.ControlRegisterWrites := by
  unfold Obligations.ControlRegisterWrites
  refine ⟨fun s a => ⟨rfl, rfl, rfl, fun i hi => exec_ctlw_readOnly hi, fun k hk => exec_ctlw_qstall hk,
    fun k hk => ctlw_raises_partReg hk, fun i hi => ctlw_raises_unlisted hi, fun i hi => ?_, fun n hn i hi => ?_⟩,
    fun s a f => ⟨fun t ht => ⟨fun hless => ?_, exec_hbeat_keeps ht⟩, fun hwf => ?_, fun b z hlate hph hops => ?_, fun hwf => ?_⟩⟩
  · have hexec : exec i s = .next (s.writeInject (s.rs a)) := by
      obtain rfl | rfl := List.mem_pair.1 hi <;> rfl
    exact ⟨fun harm hdebug => hexec.trans (congrArg _ (State.writeInject_perm harm hdebug)),
      fun h => hexec.trans (congrArg _ (State.writeInject_sets h))⟩
  · have hexec : exec i s = .next (s.writeSb n (s.rs a)) := by
      obtain rfl | rfl := List.mem_pair.1 hi
      · rfl
      · exact exec_ctlw_sb hn
    refine ⟨fun h => hexec.trans (congrArg _ (State.writeSb_refused h)), fun hbusy hseg => ?_⟩
    obtain ⟨w, hw, hfields⟩ := State.writeSb_restarts hbusy hseg
    exact ⟨w, hexec.trans (congrArg _ hw), hfields⟩
  · have hfound := State.task?_onTask (s := s) (n := s.core.part) (i := s.core.task)
      (f := fun t => { t with hbeat := (s.rs a).toNat, hbTimer := s.now }) (fun _ => rfl) (fun _ => rfl)
    rw [ht] at hfound
    exact ⟨_, _, exec_hbeat_records ht hless, hfound, rfl, rfl, rfl⟩
  · refine ⟨(s.rs a).setWidth 32, BitVec.toNat_setWidth .., congrArg Host.Outcome.next (if_pos ?_)⟩
    rw [BitVec.toNat_setWidth]; exact hwf
  · exact ⟨State.endRepetition_last_fmt hlate hph hops, State.endRepetition_early_fmt hlate⟩
  · refine congrArg Host.Outcome.next (if_neg ?_)
    rw [BitVec.toNat_setWidth, hwf]; exact Bool.false_ne_true

end Sys2Proof.Machine
end

section
/-! FENCE, the flag instructions, BAR and the stream-buffer rings (R135–R138, R225). -/

namespace Sys2Proof.Machine

variable {s : State}

/-! ## A core that owes nothing -/

theorem State.coreOf_acting (s : State) : s.coreOf s.core.phys = s.core := if_pos rfl

/-- Without loads there is nothing to fix. -/
theorem State.fixLoads_of_nil (h : s.core.loads = []) : s.fixLoads s.core.phys = s := by
  rw [State.fixLoads, State.coreOf_acting, h]; rfl

/-- What a phase start changes of a core without loads and stores (R236). -/
def Core.phased (c : Core) : Core :=
  { c with issued := c.issued + 1, stores := [], snap := [], filled := [], phase := c.phase + 1, unsettled := true }

theorem State.phaseStart_of_empty (hloads : s.core.loads = []) (hstores : s.core.stores = []) (hatoms : s.atoms = []) (widen : Nat) :
    s.phaseStart widen = s.onCore Core.phased := by
  rw [State.phaseStart, State.phaseStartOf]
  simp only [State.fixLoads_of_nil hloads, State.coreOf_acting, hstores, List.foldl_nil, hatoms, List.map_nil, State.onCoreN, if_true,
    hloads, List.isEmpty_nil, State.onCore, Core.phased]

/-- With nothing on its way a core is settled. -/
theorem State.settle_of_empty (hatoms : s.atoms = []) (hpubs : s.pubs = []) (hegress : s.egress = []) :
    s.settle = s.onCore fun c => { c with unsettled := false } := by
  have howed (n : Nat) : s.owed n = [] := by rw [State.owed, hatoms, hpubs]; rfl
  have hpass (n : Nat) : s.passOwn n = s := by rw [State.passOwn, hegress]; rfl
  have hsettled : s.settleOf s.core.phys = s.onCore fun c => { c with unsettled := false } := by
    simp only [State.settleOf, howed, List.foldl_nil, hpass, hegress, List.any_nil, List.isEmpty_nil, State.onCoreN, if_true,
      Bool.not_true, Bool.or_self, State.onCore]
  rw [State.settle]
  split_ifs with h
  · exact hsettled
  · rw [State.onCore, ← Bool.eq_false_iff.2 h]

/-- A publication with nothing to publish. -/
theorem State.publish_of_empty (hloads : s.core.loads = []) (hstores : s.core.stores = []) (hatoms : s.atoms = []) (hpubs : s.pubs = [])
    (hegress : s.egress = []) : (s.phaseStart 3).settle = s.onCore fun c => { c.phased with unsettled := false } := by
  rw [State.phaseStart_of_empty hloads hstores hatoms]
  exact State.settle_of_empty hatoms hpubs hegress

/-! ## Barrier groups (R225) -/

theorem hasBit_eq_testBit (m k : Nat) : hasBit m k = m.testBit k := by
  rw [hasBit, Nat.testBit_eq_decide_div_mod_eq]; rfl

theorem hasBit_or_two_pow (m l k : Nat) : hasBit (m ||| 2 ^ l) k = (hasBit m k || decide (l = k)) := by
  rw [hasBit_eq_testBit, hasBit_eq_testBit, Nat.testBit_or, Nat.testBit_two_pow]

/-- The members of a barrier group that are not vacant. -/
def Partition.present (p : Partition) (g : Nat) : List Nat :=
  (List.range 256).filter fun l => hasBit (p.group g).members l && !p.vacant l

theorem Partition.mem_present {p : Partition} {g l : Nat} :
    l ∈ p.present g ↔ l < 256 ∧ hasBit (p.group g).members l = true ∧ p.vacant l = false := by
  simp [Partition.present]

/-- A group whose generation has completed: the marks for the next one become its arrivals. -/
def Group.turned (e : Group) : Group := { e with gen := (e.gen + 1) % 2 ^ 30, arr := e.next, next := 0 }

/-- Complete one generation of a barrier group, where all its members have arrived. -/
def Partition.completeOne (p : Partition) (g : Nat) : Partition :=
  if (p.group g).kind = 2 ∧ !(p.present g).isEmpty ∧ (p.present g).all (hasBit (p.group g).arr) then
    { p with groups := bankSet Group.unused p.groups g (p.group g).turned }
  else p

theorem Partition.advance_eq (p : Partition) (g : Nat) : p.advance g = (p.completeOne g).completeOne g := rfl

theorem Partition.completeOne_no (p : Partition) (g : Nat) : (p.completeOne g).no = p.no := by
  unfold Partition.completeOne; split_ifs <;> rfl

section
variable {p : Partition} {g l : Nat} (hl : l ∈ p.present g)
include hl

theorem Partition.completeOne_of_arrived (hkind : (p.group g).kind = 2) (hall : ∀ k ∈ p.present g, hasBit (p.group g).arr k = true) :
    p.completeOne g = { p with groups := bankSet Group.unused p.groups g (p.group g).turned } :=
  if_pos ⟨hkind, by simpa using List.ne_nil_of_mem hl, List.all_eq_true.2 hall⟩

theorem Partition.completeOne_of_missing (harr : hasBit (p.group g).arr l = false) : p.completeOne g = p :=
  if_neg fun ⟨_, _, hall⟩ => by simpa [harr] using List.all_eq_true.1 hall l hl

end

theorem Partition.group_set {p : Partition} (hwf : bankWf Group.unused p.groups = true) (g : Nat) (e : Group) :
    ({ p with groups := bankSet Group.unused p.groups g e } : Partition).group g = e := by
  rw [Partition.group, bankGet_set _ _ _ hwf, if_pos rfl]

/-- The last arrival completes the generation; with no mark for the next one, that one stays open. -/
theorem Partition.group_advance {p : Partition} {g l : Nat} (hwf : bankWf Group.unused p.groups = true) (hl : l ∈ p.present g)
    (hkind : (p.group g).kind = 2) (hnext : (p.group g).next = 0) (hall : ∀ k ∈ p.present g, hasBit (p.group g).arr k = true) :
    (p.advance g).group g = (p.group g).turned := by
  rw [Partition.advance_eq, Partition.completeOne_of_arrived hl hkind hall]
  have hgroup := Partition.group_set hwf g (p.group g).turned
  rw [Partition.completeOne_of_missing (l := l), hgroup]
  · rw [Partition.mem_present, hgroup]; exact Partition.mem_present.1 hl
  · rw [hgroup, Group.turned, hnext]; exact (hasBit_eq_testBit 0 l).trans (Nat.zero_testBit l)

theorem Group.turned_completed {e : Group} (_ : e.gen < 2 ^ 30) : e.turned.completed e.gen = true := by
  have hne : e.turned.gen ≠ e.gen := by change (e.gen + 1) % 2 ^ 30 ≠ e.gen; omega
  have hnear : (e.turned.gen + 2 ^ 30 - e.gen) % 2 ^ 30 < 2 ^ 29 := by
    change ((e.gen + 1) % 2 ^ 30 + 2 ^ 30 - e.gen) % 2 ^ 30 < 2 ^ 29; omega
  rw [Group.completed, bne_iff_ne.2 hne, decide_eq_true hnear]; rfl

/-- A barrier group replaced, and the generations that this completes. -/
def Partition.regroup (p : Partition) (g : Nat) (e : Group) : Partition :=
  { p with groups := bankSet Group.unused p.groups g e }.advance g

theorem Partition.regroup_no (p : Partition) (g : Nat) (e : Group) : (p.regroup g e).no = p.no := by
  rw [Partition.regroup, Partition.advance_eq, Partition.completeOne_no, Partition.completeOne_no]

/-- A barrier group in which a member has arrived. -/
def Group.arrived (e : Group) (l : Nat) : Group := { e with arr := e.arr ||| 2 ^ l }

theorem Group.arrive_of_first {e : Group} {l : Nat} (h : hasBit e.arr l = false) : e.arrive l = some (e.arrived l, e.gen) :=
  if_pos (by simp [h])

/-- The arrival of the last member that is not vacant. -/
theorem Partition.group_regroup_arrived {p : Partition} {g l : Nat} (hwf : bankWf Group.unused p.groups = true) (hl : l ∈ p.present g)
    (hkind : (p.group g).kind = 2) (hnext : (p.group g).next = 0)
    (hall : ∀ k ∈ p.present g, k = l ∨ hasBit (p.group g).arr k = true) :
    (p.regroup g ((p.group g).arrived l)).group g = ((p.group g).arrived l).turned := by
  have hset := Partition.group_set hwf g ((p.group g).arrived l)
  have hadvance := Partition.group_advance (p := { p with groups := bankSet Group.unused p.groups g ((p.group g).arrived l) })
    (g := g) (l := l) (bankSet_wf g _ hwf)
  simp only [Partition.mem_present, hset] at hadvance hl hall
  refine hadvance hl hkind hnext fun k hk => ?_
  rw [Group.arrived, hasBit_or_two_pow]
  obtain rfl | h := hall k hk
  · simp
  · simp [h]

/-! ## BAR (R136) -/

section
variable {p : Partition} {g l : Nat} (hp : s.part? s.core.part = some p) (hl : p.logical s.core.phys = some l) (hwait : s.core.barWait = none)
include hp hl hwait

theorem exec_bar_of_first : exec (.bar g) s = .next (
    if (p.group g).kind ≠ 2 ∨ !hasBit (p.group g).members l then s.refuse .perm
    else
      let s := if s.begun then s.settle else (s.phaseStart 3).settle
      if s.core.unsettled then s.wait
      else match (p.group g).arrive l with
      | none => s.wait
      | some (e, gen) =>
        let s := s.onPart p.no fun q => q.regroup g e
        (s.onCore fun c => { c with barWait := some (g, gen) }).awaitGen g gen) := by
  change Host.Outcome.next (match s.core.barWait with | some (g', gen) => s.awaitGen g' gen | none => _) = _
  rw [hwait, hp]
  change Host.Outcome.next (match p.logical s.core.phys with | none => _ | some l => _) = _
  rw [hl]
  rfl

theorem bar_raises_perm (h : (p.group g).kind ≠ 2 ∨ hasBit (p.group g).members l = false) : raises (.bar g) s .perm :=
  (exec_bar_of_first hp hl hwait).trans (congrArg _ (if_pos (by simpa using h)))

/-- The first issue of BAR by a member: it publishes, and once settled it arrives and waits for its generation. -/
theorem exec_bar_arrives {e : Group} {gen : Nat} {v : State} (hkind : (p.group g).kind = 2) (hmember : hasBit (p.group g).members l = true)
    (hbegun : s.begun = false) (hv : (s.phaseStart 3).settle = v) (hsettled : v.core.unsettled = false)
    (harrive : (p.group g).arrive l = some (e, gen)) : exec (.bar g) s = .next
      (((v.onPart p.no fun q => q.regroup g e).onCore fun c => { c with barWait := some (g, gen) }).awaitGen g gen) := by
  rw [exec_bar_of_first hp hl hwait, if_neg (by simp [hkind, hmember]), hbegun, harrive, ← hv]
  refine congrArg Host.Outcome.next (if_neg ?_)
  rw [hv]
  simpa using hsettled

end

/-- BAR with a recorded generation that has completed: a new phase, and the wait is over. -/
theorem State.awaitGen_of_completed {g gen : Nat} {q : Partition} (hq : s.part? s.core.part = some q) (h : (q.group g).completed gen = true)
    (hloads : s.core.loads = []) (hstores : s.core.stores = []) (hatoms : s.atoms = []) :
    s.awaitGen g gen = s.onCore fun c => { c.phased with barWait := none } := by
  refine (if_pos (by rw [hq]; exact h)).trans ?_
  rw [State.phaseStart_of_empty hloads hstores hatoms]
  rfl

theorem State.awaitGen_after_arrival {g gen : Nat} {q : Partition} {w : Option (Nat × Nat)} (hq : s.part? s.core.part = some q)
    (h : (q.group g).completed gen = true) (hloads : s.core.loads = []) (hstores : s.core.stores = []) (hatoms : s.atoms = []) :
    (s.onCore fun c => { c with barWait := w }).awaitGen g gen = s.onCore fun c => { c.phased with barWait := none } :=
  State.awaitGen_of_completed (s := s.onCore fun c => { c with barWait := w }) hq h hloads hstores hatoms

/-- An arrival that completes its own generation, from the state that the publication leaves. -/
theorem exec_bar_completes {p : Partition} {g l : Nat} {v : State} (hp : s.part? s.core.part = some p) (hl : p.logical s.core.phys = some l)
    (hwait : s.core.barWait = none) (hkind : (p.group g).kind = 2) (hmember : hasBit (p.group g).members l = true)
    (harr : hasBit (p.group g).arr l = false) (hbegun : s.begun = false) (hv : (s.phaseStart 3).settle = v)
    (hsettled : v.core.unsettled = false) (hloads : v.core.loads = []) (hstores : v.core.stores = []) (hatoms : v.atoms = [])
    (hpart : (v.onPart p.no fun q => q.regroup g ((p.group g).arrived l)).part? v.core.part = some (p.regroup g ((p.group g).arrived l)))
    (hcompletes : ((p.regroup g ((p.group g).arrived l)).group g).completed (p.group g).gen = true) :
    ∃ t, exec (.bar g) s = .next t ∧ t.core = { v.core.phased with barWait := none } ∧
      t.part? v.core.part = some (p.regroup g ((p.group g).arrived l)) ∧ t.mem = v.mem := by
  have hexec := exec_bar_arrives hp hl hwait hkind hmember hbegun hv hsettled (Group.arrive_of_first harr)
  have hcore : (v.onPart p.no fun q => q.regroup g ((p.group g).arrived l)).core = v.core := rfl
  have hmem : (v.onPart p.no fun q => q.regroup g ((p.group g).arrived l)).mem = v.mem := rfl
  have hatoms' : (v.onPart p.no fun q => q.regroup g ((p.group g).arrived l)).atoms = [] := hatoms
  generalize v.onPart p.no (fun q => q.regroup g ((p.group g).arrived l)) = u at hexec hpart hcore hmem hatoms'
  rw [← hcore] at hpart hloads hstores ⊢
  rw [State.awaitGen_after_arrival hpart hcompletes hloads hstores hatoms'] at hexec
  exact ⟨_, hexec, rfl, hpart, hmem⟩

/-- Settles O25: a core that owes nothing settles and starts phases in closed form, a generation completes by the last arrival, and a
ring's counts are the fields of its descriptor. -/
theorem fencesFlagsBarriersAndRings : Obligations.FencesFlagsBarriersAndRings := by
  unfold Obligations.FencesFlagsBarriersAndRings
  refine ⟨fun s sc f v g => ⟨rfl, fun hsc hloads => ?_, rfl, rfl, fun h => ?_, fun h => ?_, fun g' gen hb h => ?_, fun p l hp hl hwait => ?_⟩,
    fun s d n => ⟨fun h => ?_, fun h hf => ?_, fun h hf => ?_, fun h => ?_, fun h hfree => ?_⟩⟩
  · have hexec : exec (.fence sc) s = .next (if s.fenced sc then s else s.wait) := by
      refine (if_neg hsc).trans ?_
      rw [State.fixLoads_of_nil hloads]
    exact ⟨fun h => hexec.trans (congrArg _ (if_pos h)), fun h => hexec.trans (congrArg _ (if_neg (Bool.eq_false_iff.1 h)))⟩
  · exact congrArg Host.Outcome.next (if_pos (by rw [Core.flag, h, beq_iff_eq]; exact (beq_eq_decide ..).symm))
  · exact congrArg Host.Outcome.next (if_neg fun hflag => h ((beq_iff_eq.1 hflag).trans rfl))
  · refine congrArg Host.Outcome.next ?_
    rw [hb]
    exact if_neg (Bool.eq_false_iff.1 h)
  · refine ⟨bar_raises_perm hp hl hwait, fun hkind hmember harr hnext hgen hall hvacant hlt hbegun hloads hstores hpubs hatoms hegress hwf => ?_⟩
    have hpresent : l ∈ p.present g := Partition.mem_present.2 ⟨hlt, hmember, hvacant⟩
    have hothers : ∀ k ∈ p.present g, k = l ∨ hasBit (p.group g).arr k = true := fun k hk =>
      have ⟨hk, hm, hv⟩ := Partition.mem_present.1 hk
      hall k hk hm hv
    have hturned := Partition.group_regroup_arrived hwf hpresent hkind hnext hothers
    have hno : p.no = s.core.part := by simpa using List.find?_some hp
    have hpart : (s.onPart p.no fun q => q.regroup g ((p.group g).arrived l)).part? s.core.part = some (p.regroup g ((p.group g).arrived l)) := by
      rw [hno, State.part?_onPart_same fun q => Partition.regroup_no .., hp]; rfl
    obtain ⟨t, hexec, hcore, hfound, hmem⟩ := exec_bar_completes hp hl hwait hkind hmember harr hbegun
      (State.publish_of_empty hloads hstores hatoms hpubs hegress) rfl hloads rfl hatoms hpart (hturned ▸ Group.turned_completed hgen)
    refine ⟨t, _, hexec, ?_, ?_, ?_, hfound, ?_, hmem⟩
    · rw [hcore]; rfl
    · rw [hcore]
    · rw [hcore]; rfl
    rw [hturned, Group.turned, Group.arrived, hnext]
  · exact congrArg Host.Outcome.next (if_pos h)
  · exact congrArg Host.Outcome.next ((if_neg h).trans (if_pos hf))
  · obtain ⟨hfilled, hfree, -⟩ := SbWord.of_lt (bankGet 0 s.core.sb n)
    refine ⟨_, congrArg Host.Outcome.next ((if_neg h).trans (if_neg hf)), ?_⟩
    rw [SbWord.of_sbCounts]
    exact ⟨Nat.mod_eq_of_lt (by omega), Nat.mod_eq_of_lt hfree, rfl⟩
  · exact congrArg Host.Outcome.next (if_pos h)
  · obtain ⟨hfilled, -, -⟩ := SbWord.of_lt (bankGet 0 s.core.sb n)
    refine ⟨_, congrArg Host.Outcome.next (if_neg h), ?_⟩
    rw [SbWord.of_sbCounts]
    exact ⟨Nat.mod_eq_of_lt (by omega), Nat.mod_eq_of_lt hfilled, rfl⟩

end Sys2Proof.Machine
end

section
/-! What the end of tasks leaves of a queue (R345, R349): its state, its close mark, its TAIL and its HEAD. -/

namespace Sys2Proof.Machine

variable {s t u : State} {n q : Nat}

/-- The partition of a number after a change of one partition. -/
theorem State.part?_onPart {f : Partition → Partition} (hno : ∀ p, (f p).no = p.no) (m : Nat) :
    (s.onPart m f).part? n = (s.part? n).map fun p => if p.no = m then f p else p := by
  change (s.parts.map _).find? _ = (s.parts.find? _).map _
  rw [List.find?_map]
  congr 2
  funext p
  by_cases h : p.no = m <;> simp [h, hno]

/-- The fields of a queue that its control block shows besides its attributes, and its close mark. -/
def Queue.control (x : Queue) : QState × Option Nat × Nat × Nat := (x.state, x.mark, x.tail, x.head)

def Partition.control? (p : Partition) (q : Nat) : Option (QState × Option Nat × Nat × Nat) := (p.queues.find? (·.q == q)).map Queue.control

/-- With no waits and no poison in the state before, there are none after, and a queue's control is as it was. -/
structure keepsControl (n q : Nat) (s t : State) : Prop where
  unwatched : s.unwatched → t.unwatched
  control : s.unwatched → (t.queue? n q).map Queue.control = (s.queue? n q).map Queue.control

theorem keepsControl.refl (s : State) : keepsControl n q s s := ⟨id, fun _ => rfl⟩

theorem keepsControl.trans (h : keepsControl n q s t) (k : keepsControl n q t u) : keepsControl n q s u :=
  ⟨fun hs => k.unwatched (h.unwatched hs), fun hs => (k.control (h.unwatched hs)).trans (h.control hs)⟩

theorem keepsControl.foldl {α : Type} {f : State → α → State} (h : ∀ s x, keepsControl n q s (f s x)) (l : List α) :
    ∀ s, keepsControl n q s (l.foldl f s) := by
  induction l with
  | nil => exact .refl
  | cons x r ih => exact fun s => (h s x).trans (ih _)

/-- Changes apart from the partitions, the waits and the poison. -/
theorem keepsControl.of_same (hparts : t.parts = s.parts) (hmon : t.monitors = s.monitors) (hpoison : t.poisoned = s.poisoned) :
    keepsControl n q s t :=
  ⟨fun ⟨hm, hp⟩ => ⟨hmon.trans hm, hpoison.trans hp⟩, fun _ => by rw [State.queue?, State.queue?, State.part?, State.part?, hparts]⟩

theorem State.queue?_control (s : State) : (s.queue? n q).map Queue.control = (s.part? n).bind (·.control? q) := by
  rw [State.queue?]
  cases s.part? n <;> rfl

theorem keepsControl.onPart {m : Nat} {f : Partition → Partition} (hno : ∀ p, (f p).no = p.no) (hq : ∀ p, (f p).control? q = p.control? q) :
    keepsControl n q s (s.onPart m f) := by
  refine ⟨id, fun _ => ?_⟩
  rw [State.queue?_control, State.queue?_control, State.part?_onPart hno]
  cases s.part? n with
  | none => rfl
  | some p =>
    change (if p.no = m then f p else p).control? q = p.control? q
    split_ifs <;> simp only [hq]

theorem keepsControl.onTask (m i : Nat) (f : Task → Task) : keepsControl n q s (s.onTask m i f) :=
  .onPart (fun _ => rfl) fun _ => rfl

/-- A change of a queue that leaves its number finds the changed queue. -/
theorem Partition.find?_mapQueue (p : Partition) (m : Nat) {f : Queue → Queue} (hq : ∀ x, (f x).q = x.q) :
    (p.queues.map fun x => if x.q = m then f x else x).find? (·.q == q) =
      (p.queues.find? (·.q == q)).map fun x => if x.q = m then f x else x := by
  rw [List.find?_map]
  congr 2
  funext x
  by_cases h : x.q = m <;> simp [h, hq]

theorem keepsControl.onQueue {m k : Nat} {f : Queue → Queue} (hq : ∀ x, (f x).q = x.q) (hc : ∀ x, (f x).control = x.control) :
    keepsControl n q s (s.onQueue m k f) := by
  refine .onPart (fun _ => rfl) fun p => ?_
  change ((p.queues.map _).find? _).map _ = (p.queues.find? _).map _
  rw [Partition.find?_mapQueue p k hq]
  cases p.queues.find? (·.q == q) with
  | none => rfl
  | some x =>
    change some (if x.q = k then f x else x).control = some x.control
    split_ifs <;> simp only [hc]

/-- A write performed at its home slice. -/
theorem keepsControl.perform (pa : Nat) (bs : List Byte) (whole : Bool) : keepsControl n q s (s.perform pa bs whole) := by
  have hsame (h : s.unwatched) : keepsControl n q s (s.perform pa bs whole) :=
    have hbooks := State.perform_onlyBooks h pa bs whole
    .of_same (congrArg State.parts hbooks :) hbooks.monitors hbooks.poisoned
  exact ⟨fun h => (hsame h).unwatched h, fun h => (hsame h).control h⟩

theorem keepsControl.showQueue (m k : Nat) : keepsControl n q s (s.showQueue m k) := by
  unfold State.showQueue
  split
  · exact .refl s
  · exact (keepsControl.perform ..).trans (.perform ..)

theorem keepsControl.indexEntries (m : Nat) (x : Queue) (at_ k : Nat) : keepsControl n q s (s.indexEntries m x at_ k) := by
  refine .foldl (fun t j => ?_) _ s
  dsimp only
  split
  · exact .refl t
  · next p _ =>
    exact (keepsControl.onPart (f := fun p => p.enter x.q ((at_ + j) % x.attr.depth) none) (fun _ => rfl) fun _ => rfl).trans
      (.onQueue (f := fun x => { x with idx := x.idx ++ [p.nextIdx] }) (fun _ => rfl) fun _ => rfl)

theorem keepsControl.setRecBits (m rec lo k x : Nat) : keepsControl n q s (s.setRecBits m rec lo k x) := by
  unfold State.setRecBits State.hubWrite
  split
  · exact .perform ..
  · exact .refl s

theorem keepsControl.onCoreN (m : Nat) (f : Core → Core) : keepsControl n q s (s.onCoreN m f) := by
  unfold State.onCoreN
  split <;> exact .of_same rfl rfl rfl

theorem keepsControl.headsIn (m rec cluster : Nat) (qs : List (Nat × List Head)) : keepsControl n q s (s.headsIn m rec cluster qs) := by
  refine .foldl (fun t x => ?_) _ s
  split <;> exact .of_same rfl rfl rfl

theorem keepsControl.settleTask (m task : Nat) : keepsControl n q s (s.settleTask m task) := by
  unfold State.settleTask
  split
  · exact .refl s
  · split
    · exact .refl s
    · exact .onTask ..

/-- What a record held goes with it, its waits among them. -/
theorem keepsControl.forget (m rec : Nat) : keepsControl n q s (s.forget m rec) := by
  have hheads : keepsControl n q s (match s.savedOf m rec with
      | some x => s.headsIn m rec 0 x.queued
      | none => s) := by
    split
    · exact .headsIn ..
    · exact .refl s
  have hdrop (u : State) : keepsControl n q u (u.dropSaved m rec) := .of_same rfl rfl rfl
  have hpart (u : State) : keepsControl n q u (u.onPart m fun p => { p with
      recs := p.recs.filter (·.1 != rec)
      ready := p.ready.filter (·.cont != rec)
      handlers := p.handlers.filter (·.1 != rec)
      holds := p.holds.filter (·.cont != rec) }) := .onPart (fun _ => rfl) fun _ => rfl
  have hwaits (u : State) : keepsControl n q u { u with
      monitors := u.monitors.filter fun x => x.who != .record m rec
      rings := u.rings.filter fun x => x.attached || !x.of m rec } :=
    ⟨fun ⟨hm, hp⟩ => ⟨by change u.monitors.filter _ = []; rw [hm]; rfl, hp⟩, fun _ => rfl⟩
  exact ((hheads.trans (hdrop _)).trans (hpart _)).trans (hwaits _)

theorem keepsControl.endRec (m rec st : Nat) : keepsControl n q s (s.endRec m rec st) :=
  ((keepsControl.setRecBits ..).trans (.forget ..)).trans (.settleTask ..)

theorem keepsControl.cancelRecords (m task : Nat) : keepsControl n q s (s.cancelRecords m task) := by
  unfold State.cancelRecords
  split
  · exact .refl s
  · refine .foldl (fun t r => ?_) _ s
    split
    · exact (keepsControl.setRecBits ..).trans (.onCoreN ..)
    · exact .endRec ..

theorem keepsControl.cancelCopies (m task : Nat) : keepsControl n q s (s.cancelCopies m task) := .of_same rfl rfl rfl

theorem keepsControl.freeDeps {cancel : State → Nat → State} (h : ∀ t d, keepsControl n q t (cancel t d)) (m idx k code : Nat) :
    keepsControl n q s (s.freeDeps cancel m idx k code) := by
  refine .foldl (fun t d => ?_) _ s
  dsimp only
  split
  · exact .onTask ..
  · exact (keepsControl.onTask ..).trans (h _ d)

/-- ENDING of a task and of its dependants, by the depth of the edges. -/
theorem keepsControl.endTask (fuel : Nat) : ∀ (s : State) (m idx code : Nat), keepsControl n q s (State.endTask fuel s m idx code) := by
  induction fuel with
  | zero => exact fun s m idx code => .refl s
  | succ fuel ih =>
    intro s m idx code
    unfold State.endTask
    split
    · exact .refl s
    · dsimp only
      split
      · exact .refl s
      · have hdeps (u : State) (k : Nat) : keepsControl n q u (u.freeDeps (fun v d => State.endTask fuel v m d 0x21) m idx k code) :=
          .freeDeps (fun v d => ih v m d 0x21) ..
        exact ((((keepsControl.onTask ..).trans (hdeps _ _)).trans (.cancelCopies ..)).trans (.cancelRecords ..)).trans (.settleTask ..)

theorem keepsControl.ending (m idx code : Nat) : keepsControl n q s (s.ending m idx code) := .endTask ..

end Sys2Proof.Machine
end

section
/-! Management commands on partitions, groups, queues, swaps and control registers (R334, R349, R354, R386, R387, R416). -/

namespace Sys2Proof.Machine

variable {s : State} {n q : Nat} {p : Partition}

/-- A command once the module runs is what it does. -/
theorem exec_command {i : Instr} {k : State → State} {t : State} (hboot : s.boot = 1) (hexec : exec i s = .next (s.command k)) (hk : k s = t) :
    exec i s = .next t := by
  rw [hexec, State.command, if_pos hboot, hk]

theorem exec_command_off {i : Instr} {k : State → State} (hboot : s.boot ≠ 1) (hexec : exec i s = .next (s.command k)) : exec i s = .next s := by
  rw [hexec, State.command, if_neg hboot]

theorem State.queue?_of_part (hp : s.part? n = some p) : s.queue? n q = p.queues.find? (·.q == q) := by
  rw [State.queue?, hp]; rfl

theorem State.asked_of_part {r : Nat} (hp : s.part? n = some p) : s.asked n r = p.holds.find? fun h => h.cont == r && h.asked := by
  rw [State.asked, hp]; rfl

/-! ## CREATE_PARTITION (R387) -/

theorem exec_createPartition_refused {a : Quotas} (hboot : s.boot = 1)
    (h : 16 ≤ n ∨ (s.part? n).isSome = true ∨ quotasFit a = false ∨ (∃ p ∈ s.parts, p.quotas.tag = a.tag) ∨ s.freeClusters.length < a.clusters
      ∨ s.healthyClusters < (s.parts.map (·.quotas.clusters)).foldl (· + ·) a.clusters) :
    exec (.createPartition n a) s = .next (s.notify .refused) := by
  refine exec_command hboot rfl (if_pos ?_)
  simp only [State.clustersFit, List.any_eq_true, beq_iff_eq, Bool.not_eq_true', Bool.and_eq_false_iff, decide_eq_false_iff_not, Nat.not_le]
  exact h

theorem exec_createPartition_adds {a : Quotas} {lo hi : Nat} (hboot : s.boot = 1) (hn : n < 16) (hnew : s.part? n = none)
    (hquotas : quotasFit a = true) (htag : ∀ p ∈ s.parts, p.quotas.tag ≠ a.tag) (hfree : a.clusters ≤ s.freeClusters.length)
    (hhealthy : (s.parts.map (·.quotas.clusters)).foldl (· + ·) a.clusters ≤ s.healthyClusters) (hlo : s.freeHbm a.hbm = some lo)
    (hhi : s.freeLpddr a.lpddr = some hi) : exec (.createPartition n a) s =
      .next ({ s with parts := s.parts ++ [Partition.new n a (s.freeClusters.take a.clusters) lo hi] }.notify .ok) := by
  refine exec_command hboot rfl ((if_neg ?_).trans ?_)
  · have htags : s.parts.any (·.quotas.tag == a.tag) = false := by simpa using htag
    simp [hn, hnew, hquotas, htags, State.clustersFit, hfree, hhealthy]
  · rw [hlo, hhi]

/-- Four cores a cluster. -/
theorem Partition.new_cores_length (a : Quotas) (clusters : List Nat) (lo hi : Nat) :
    (Partition.new n a clusters lo hi).cores.length = 4 * clusters.length := by
  change (clusters.flatMap fun c => (List.range 4).map fun k => some (4 * c + k)).length = _
  induction clusters with
  | nil => rfl
  | cons c r ih => rw [List.flatMap_cons, List.length_append, ih, List.length_map, List.length_range, List.length_cons]; omega

/-! ## DESTROY_PARTITION (R386) -/

/-- A partition has ended: its queues are closed, and it is fatal or its tasks have finished. -/
def Partition.ended (p : Partition) : Prop :=
  (∀ x ∈ p.queues, x.state = .closed) ∧ (p.fatal = true ∨ ∀ t ∈ p.tasks, t.finished = true)

theorem Partition.not_ended_iff : ¬ p.ended ↔ (p.queues.any (·.state != .closed) || (!p.fatal && p.tasks.any fun t => !t.finished)) = true := by
  simp only [Partition.ended, Bool.or_eq_true, Bool.and_eq_true, List.any_eq_true, bne_iff_ne, Bool.not_eq_true', ne_eq, Decidable.not_and_iff_or_not,
    not_forall, not_or, Bool.not_eq_true, exists_prop]

theorem exec_destroyPartition (hboot : s.boot = 1) (hp : s.part? n = some p) : exec (.destroyPartition n) s = .next (
    if p.queues.any (·.state != .closed) || (!p.fatal && p.tasks.any fun t => !t.finished) then s.notify .busy else (s.freePartition n).notify .ok) :=
  exec_command hboot rfl (by rw [hp])

/-- What a list keeps when the elements of a partition go. -/
theorem part_ne_of_mem_filter {α : Type} {f : α → Nat} {l : List α} {w : α} (h : w ∈ l.filter (f · != n)) : f w ≠ n :=
  bne_iff_ne.1 (List.mem_filter.1 h).2

/-! ## SET_GROUP (R223, R224) -/

theorem exec_setGroup {g kind members : Nat} (hboot : s.boot = 1) (hp : s.part? n = some p) : exec (.setGroup n g kind members) s = .next (
    if 256 ≤ g ∨ 4 ≤ kind then s.notify .refused
    else if p.groupRefused g kind members then s.notify .admGroup
    else if (p.group g).arr ≠ 0 ∨ (p.group g).next ≠ 0 ∨ p.tasks.any (fun t => !t.finished && ((s.describe n t).desc.any fun d => d.pgroup == g))
      then s.notify .busy
    else (s.onPart n fun q => { q with groups := bankSet Group.unused q.groups g { p.group g with kind := kind, members := members } }).notify .ok) :=
  exec_command hboot rfl (by simp only [hp])

theorem any_describe_iff {g : Nat} {l : List Task} : l.any (fun t => !t.finished && ((s.describe n t).desc.any fun d => d.pgroup == g)) = true ↔
    ∃ t ∈ l, t.finished = false ∧ ∃ d, (s.describe n t).desc = some d ∧ d.pgroup = g := by
  simp only [List.any_eq_true, Bool.and_eq_true, Bool.not_eq_true', Option.any_eq_true, beq_iff_eq]

/-! ## Queues (R334, R349, R416) -/

/-- A queue as CREATE_QUEUE makes it. -/
def Partition.newQueue (p : Partition) (q : Nat) (a : QueueAttr) : Queue := ⟨q, a, p.ctlAt q, .opened, none, 0, 0, [], 0⟩

theorem Queue.block_length (x : Queue) : x.block.length = 64 := by
  simp [Queue.block, zeroBytes]

/-- A partition with a queue more. -/
def Partition.withQueue (x : Queue) (p : Partition) : Partition := { p with queues := p.queues ++ [x] }

theorem exec_createQueue {a : QueueAttr} (hboot : s.boot = 1) (hp : s.part? n = some p) : exec (.createQueue n q a) s = .next (
    if 64 ≤ q ∨ p.queues.any (·.q == q) ∨ !s.queueFits n a then s.notify .refused
    else ((s.onPart n (.withQueue (p.newQueue q a))).perform (p.ctlAt q) (p.newQueue q a).block).notify .ok) :=
  exec_command hboot rfl (by simp only [hp]; rfl)

/-- A write performed at its home slice, with no waits and no poison: its bytes, and nothing of the partitions or the answers. -/
theorem State.perform_writes (hquiet : s.unwatched) (hinv : s.inv) (pa : Nat) (bs : List Byte) :
    (s.perform pa bs).notices = s.notices ∧ (s.perform pa bs).parts = s.parts ∧ (s.perform pa bs).mem.readN pa bs.length = bs ∧
      sameBytesBut s (s.perform pa bs) pa bs.length := by
  have hbooks := State.perform_onlyBooks hquiet pa bs false
  refine ⟨(congrArg State.notices hbooks :), (congrArg State.parts hbooks :), ?_, fun x hx => ?_⟩
  · rw [hbooks.mem]
    exact Memory.readN_writeN_same pa bs hinv
  · rw [hbooks.mem]
    exact (Memory.read_writeN pa x bs hinv).trans (if_neg (by omega))

/-- A new queue's control block stands in memory, and the queue in its partition. -/
theorem exec_createQueue_adds {a : QueueAttr} (hboot : s.boot = 1) (hp : s.part? n = some p) (hq : q < 64) (hnew : ∀ x ∈ p.queues, x.q ≠ q)
    (hfits : s.queueFits n a = true) (hquiet : s.unwatched) (hinv : s.inv) : ∃ t, exec (.createQueue n q a) s = .next t ∧
      t.notices = s.notices ++ [.ok] ∧ t.part? n = some (p.withQueue (p.newQueue q a)) ∧
      t.mem.readN (p.ctlAt q) 64 = (p.newQueue q a).block ∧ sameBytesBut s t (p.ctlAt q) 64 := by
  have hadded : (s.onPart n (.withQueue (p.newQueue q a))).part? n = some (p.withQueue (p.newQueue q a)) := by
    rw [State.part?_onPart_same (f := .withQueue (p.newQueue q a)) fun _ => rfl, hp]; rfl
  obtain ⟨hnotices, hparts, hblock, hrest⟩ := State.perform_writes (s := s.onPart n (.withQueue (p.newQueue q a))) hquiet hinv
    (p.ctlAt q) (p.newQueue q a).block
  rw [Queue.block_length] at hblock hrest
  have hnone : p.queues.any (·.q == q) = false := by simpa using hnew
  have hexec := (exec_createQueue (q := q) (a := a) hboot hp).trans (congrArg _ (if_neg (by simp [hq, hnone, hfits])))
  have hfound : ((s.onPart n (.withQueue (p.newQueue q a))).perform (p.ctlAt q) (p.newQueue q a).block).part? n =
      some (p.withQueue (p.newQueue q a)) := by
    rw [State.part?, hparts]; exact hadded
  generalize (s.onPart n (.withQueue (p.newQueue q a))).perform (p.ctlAt q) (p.newQueue q a).block = u at *
  exact ⟨_, hexec, congrArg (· ++ [Notice.ok]) hnotices, hfound, hblock, fun x hx => hrest x hx⟩

section
variable {x : Queue}

theorem State.queue?_onQueue_same {f : Queue → Queue} (hf : ∀ x, (f x).q = x.q) (hx : s.queue? n q = some x) :
    (s.onQueue n q f).queue? n q = some (f x) := by
  cases hp : s.part? n with
  | none => rw [State.queue?, hp] at hx; cases hx
  | some p =>
    rw [State.queue?_of_part hp] at hx
    have hq : x.q = q := by simpa using List.find?_some hx
    rw [State.onQueue, State.queue?, State.part?_onPart_same (fun _ => by rfl), hp]
    change (p.queues.map _).find? _ = _
    rw [Partition.find?_mapQueue p q hf, hx]
    exact congrArg some (if_pos hq)

/-- A queue in reset, its close mark gone. -/
def Queue.reset (x : Queue) : Queue := { x with state := .resetting, mark := none }

/-- What QUEUE_RESET does: the entries above the close mark take their indices, the control block is shown, and the queue's tasks end. -/
def State.resetQueue (s : State) (n q : Nat) (p : Partition) (x : Queue) : State :=
  (p.tasks.filter fun t => t.q == q && (t.state == .waiting || t.state == .running)).foldl (fun s t => s.ending n t.idx 0x21)
    (((s.onQueue n q Queue.reset).indexEntries n x (x.head + x.idx.length) (x.held - x.idx.length)).showQueue n q)

theorem exec_queueReset (hboot : s.boot = 1) (hp : s.part? n = some p) (hx : s.queue? n q = some x) : exec (.queueReset n q) s = .next (
    if x.state = .resetting then s.notify .busy else (s.resetQueue n q p x).notify .ok) :=
  exec_command hboot rfl (by simp only [hp, hx]; rfl)

/-- Through the end of its tasks a queue in reset stays so, with its TAIL and its HEAD. -/
theorem State.resetQueue_control (hquiet : s.unwatched) (hx : s.queue? n q = some x) :
    ∃ y, (s.resetQueue n q p x).queue? n q = some y ∧ y.state = .resetting ∧ y.mark = none ∧ y.tail = x.tail ∧ y.head = x.head := by
  have hstart : (s.onQueue n q Queue.reset).queue? n q = some x.reset := State.queue?_onQueue_same (fun _ => rfl) hx
  have hkeeps : keepsControl n q (s.onQueue n q Queue.reset) (s.resetQueue n q p x) :=
    ((keepsControl.indexEntries ..).trans (.showQueue ..)).trans (.foldl (fun u (t : Task) => .ending n t.idx 0x21) _ _)
  have hcontrol := hkeeps.control hquiet
  rw [hstart, Option.map_some, Option.map_eq_some_iff] at hcontrol
  obtain ⟨y, hy, hsame⟩ := hcontrol
  simp only [Queue.control, Prod.mk.injEq] at hsame
  exact ⟨y, hy, hsame⟩

theorem exec_closeQueue (hboot : s.boot = 1) (hx : s.queue? n q = some x) : exec (.closeQueue n q) s = .next (
    if x.state ≠ .opened ∨ x.mark.isSome then s.notify .refused
    else (s.onQueue n q fun x => { x with mark := some x.tail }).notify .ok) :=
  exec_command hboot rfl (by simp only [hx])

end

/-! ## Swaps, control registers, and faults passed to the host (R354, R371, R386) -/

theorem exec_swapOut (hboot : s.boot = 1) (hp : s.part? n = some p) : exec (.swapOut n) s = .next (
    if p.swapped then s.notify .refused else ((s.onPart n fun p => { p with swapped := true }).askAll n).notify .ok) :=
  exec_command hboot rfl (by simp only [hp])

theorem exec_swapIn (hboot : s.boot = 1) (hp : s.part? n = some p) : exec (.swapIn n) s = .next (
    if p.swapped then (s.onPart n fun p => { p with swapped := false }).notify .ok else s.notify .refused) :=
  exec_command hboot rfl (by simp only [hp])

theorem exec_setCtl_writes {c : Nat} {v : Word} {r : Partition} (hboot : s.boot = 1) (hp : s.part? n = some p) (hr : p.setCtl c v = some r) :
    exec (.setCtl n c v) s = .next ((s.onPart n fun _ => r).notify .ok) :=
  exec_command hboot rfl (by simp only [hp, Option.bind_some, hr])

theorem exec_setCtl_refused {c : Nat} {v : Word} (hboot : s.boot = 1) (hp : s.part? n = some p) (hr : p.setCtl c v = none) :
    exec (.setCtl n c v) s = .next (s.notify .refused) :=
  exec_command hboot rfl (by simp only [hp, Option.bind_some, hr])

theorem Partition.setCtl_unlisted {c : Nat} (v : Word) (hc : c < 0x20 ∨ 0x27 ≤ c) : p.setCtl c v = none := by
  unfold Partition.setCtl
  split
  case h_8 => rfl
  all_goals omega

/-- RESUME and DELIVER of a record whose fault was not passed to the host. -/
theorem exec_served_refused {r : Nat} (hboot : s.boot = 1) (h : s.asked n r = none) :
    exec (.resume n r) s = .next (s.notify .refused) ∧ exec (.deliver n r) s = .next (s.notify .refused) :=
  ⟨exec_command hboot rfl (by simp only [h]), exec_command hboot rfl (by simp only [h])⟩

theorem exec_served {r : Nat} {h : AgentHold} (hboot : s.boot = 1) (hasked : s.asked n r = some h) :
    exec (.resume n r) s = .next ((s.releaseFaulted n r).notify .ok) ∧ exec (.deliver n r) s = .next ((s.decline n h).notify .ok) :=
  ⟨exec_command hboot rfl (by simp only [hasked]), exec_command hboot rfl (by simp only [hasked])⟩

/-! ## Commands before bring-up and commands of an absent partition -/

/-- Before bring-up a command does nothing (R412). -/
theorem exec_off (hboot : s.boot ≠ 1) (h : HostAccess) (m k l : Nat) (v : Word) (b : Bool) (bs : List Byte) (a : Quotas) (x : QueueAttr)
    (o : PairOpen) : ∀ i ∈ ([.rdmaWrite h l bs, .rdmaRead h l k, .fetchAndAdd h l v, .invalidRequest n, .createPartition n a,
      .destroyPartition n, .setGroup n m k l, .createQueue n m x, .queueReset n m, .closeQueue n m, .swapOut n, .swapIn n, .setCtl n m v,
      .resume n m, .deliver n m, .openPair n o, .closePair n b m k, .openComm n m, .closeComm m, .setReach n b, .quiesce n m k, .thaw n,
      .restore n m k b b, .setPowerLimit n, .attest bs, .setTrust b bs] : List Instr), exec i s = .next s := by
  simp only [List.forall_mem_cons, List.not_mem_nil, false_imp_iff, implies_true, and_true]
  refine ⟨?_, ?_, ?_, ?_, ?_, ?_, ?_, ?_, ?_, ?_, ?_, ?_, ?_, ?_, ?_, ?_, ?_, ?_, ?_, ?_, ?_, ?_, ?_, ?_, ?_, ?_⟩
  all_goals exact exec_command_off hboot rfl

/-- A partition that is not there refuses. -/
theorem exec_absent (hboot : s.boot = 1) (hnone : s.part? n = none) (m k l : Nat) (v : Word) (b c : Bool) (a : QueueAttr) :
    ∀ i ∈ ([.destroyPartition n, .setGroup n m k l, .createQueue n m a, .queueReset n m, .closeQueue n m, .swapOut n, .swapIn n,
      .setCtl n m v, .resume n m, .deliver n m, .openPair n ⟨b, m, k, l, l⟩, .openComm n m, .thaw n, .restore n m k b c] : List Instr),
      exec i s = .next (s.notify .refused) := by
  have hqueue : s.queue? n m = none := by rw [State.queue?, hnone]; rfl
  have hasked : s.asked n m = none := by rw [State.asked, hnone]; rfl
  simp only [List.forall_mem_cons, List.not_mem_nil, false_imp_iff, implies_true, and_true]
  refine ⟨?_, ?_, ?_, ?_, exec_command hboot rfl (by simp only [hqueue]), ?_, ?_, ?_, (exec_served_refused hboot hasked).1,
    (exec_served_refused hboot hasked).2, ?_, exec_command hboot rfl (by simp [hnone]), ?_, ?_⟩
  all_goals exact exec_command hboot rfl (by simp only [hnone, Option.bind_none])

/-- Settles O58: each command's effect by cases, the control block of a new queue by one performed write, and a queue in reset through the
end of its tasks. -/
theorem partitionCommandsActOrRefuse : Obligations.PartitionCommandsActOrRefuse := by
  unfold Obligations.PartitionCommandsActOrRefuse
  refine ⟨fun s h n m k l v b bs a x o hboot => exec_off hboot h m k l v b bs a x o, fun s n a hboot => ⟨exec_createPartition_refused hboot,
    fun lo hi hn hnew hquotas htag hfree hhealthy hlo hhi => ?_⟩, fun s n m k l v b c a hboot hnone => exec_absent hboot hnone m k l v b c a,
    fun s n p hboot hp => ?_⟩
  · refine ⟨_, _, exec_createPartition_adds hboot hn hnew hquotas htag hfree hhealthy hlo hhi, rfl, rfl, rfl, rfl, rfl, rfl, ?_, rfl, rfl, rfl, rfl,
      rfl, rfl, rfl, rfl, rfl, rfl, rfl, rfl, rfl, rfl⟩
    rw [Partition.new_cores_length, List.length_take, Nat.min_eq_left hfree]
  · intro ended
    refine ⟨fun h => ?_, fun h => ?_, fun g kind members => ⟨fun h => ?_, fun hg hk h => ?_, fun hg hk hok => ⟨fun h => ?_, fun h => ?_⟩⟩,
      fun q a => ⟨fun h => ?_, fun hq hnew hfits hquiet hinv => exec_createQueue_adds hboot hp hq hnew hfits hquiet hinv⟩,
      fun q x hx => ⟨fun h => ?_, fun h hquiet => ?_, fun h => ?_, fun hopen hmark => ?_⟩,
      ⟨fun h => ?_, fun h => ?_, fun h => ?_, fun h => ?_⟩, fun v r hr => ?_,
      fun c v hc => exec_setCtl_refused hboot hp (Partition.setCtl_unlisted v hc),
      fun r h => exec_served_refused hboot ((State.asked_of_part hp).trans h),
      fun r a h => exec_served hboot ((State.asked_of_part hp).trans h)⟩
    · have hexec := (exec_destroyPartition hboot hp).trans (congrArg _ (if_neg fun k => Partition.not_ended_iff.2 k h))
      exact ⟨_, hexec, rfl, rfl, rfl, fun w => part_ne_of_mem_filter, fun w => part_ne_of_mem_filter, fun w => part_ne_of_mem_filter,
        fun w => part_ne_of_mem_filter⟩
    · exact (exec_destroyPartition hboot hp).trans (congrArg _ (if_pos (Partition.not_ended_iff.1 h)))
    · exact (exec_setGroup hboot hp).trans (congrArg _ (if_pos h))
    · exact (exec_setGroup hboot hp).trans (congrArg _ ((if_neg (by omega)).trans (if_pos h)))
    · rw [← any_describe_iff] at h
      exact (exec_setGroup hboot hp).trans (congrArg _ ((if_neg (by omega)).trans ((if_neg (Bool.eq_false_iff.1 hok)).trans (if_pos h))))
    · rw [← any_describe_iff] at h
      exact (exec_setGroup hboot hp).trans (congrArg _ ((if_neg (by omega)).trans ((if_neg (Bool.eq_false_iff.1 hok)).trans (if_neg h))))
    · exact (exec_createQueue hboot hp).trans (congrArg _ (if_pos (by simpa using h)))
    · exact (exec_queueReset hboot hp hx).trans (congrArg _ (if_pos h))
    · obtain ⟨y, hy, hsame⟩ := State.resetQueue_control (p := p) hquiet hx
      exact ⟨_, y, (exec_queueReset hboot hp hx).trans (congrArg _ (if_neg h)), hy, hsame⟩
    · exact (exec_closeQueue hboot hx).trans (congrArg _ (if_pos h))
    · exact (exec_closeQueue hboot hx).trans (congrArg _ (if_neg (by simp [hopen, hmark])))
    · exact (exec_swapOut hboot hp).trans (congrArg _ (if_pos h))
    · exact (exec_swapOut hboot hp).trans (congrArg _ (if_neg (Bool.eq_false_iff.1 h)))
    · exact (exec_swapIn hboot hp).trans (congrArg _ (if_pos h))
    · exact (exec_swapIn hboot hp).trans (congrArg _ (if_neg (Bool.eq_false_iff.1 h)))
    · refine exec_setCtl_writes hboot hp ?_
      simp only [List.mem_cons, List.not_mem_nil, or_false] at hr
      obtain rfl | rfl | rfl | rfl | rfl | rfl := hr <;> rfl

end Sys2Proof.Machine
end

section
/-! The fields of words: what `unpack` reads of a packed word, and that a word is the packing of its fields (R56, R60). -/

namespace Sys2Proof

/-! ### Fields of a packed word -/

/-- Every value fits its field. -/
def Fit (fs : List (Nat × Nat)) : Prop := ∀ f ∈ fs, f.2 < 2 ^ f.1

theorem fit_nil : Fit [] := fun _ h => absurd h List.not_mem_nil

theorem fit_cons {w v : Nat} {fs : List (Nat × Nat)} : Fit ((w, v) :: fs) ↔ v < 2 ^ w ∧ Fit fs := List.forall_mem_cons

/-- Fields are read back as they were packed. -/
theorem unpack_pack {fs : List (Nat × Nat)} (h : Fit fs) : unpack (fs.map (·.1)) (pack fs) = fs.map (·.2) := by
  induction fs with
  | nil => rfl
  | cons f r ih =>
    obtain ⟨hv, hr⟩ := fit_cons.1 h
    simp only [List.map_cons, unpack, pack, Nat.mod_eq_of_lt hv, Nat.add_mul_mod_self_left, Nat.add_mul_div_left _ _ (Nat.two_pow_pos _),
      Nat.div_eq_of_lt hv, Nat.zero_add, ih hr]

/-- A number is the packing of its fields, as far as they reach. -/
theorem pack_unpack : ∀ (ws : List Nat) (n : Nat), pack (ws.zip (unpack ws n)) = n % 2 ^ ws.sum
  | [], n => by simp [pack, Nat.mod_one]
  | w :: r, n => by simp [pack, unpack, pack_unpack r, pow_add, Nat.mod_mul]

theorem fit_unpack : ∀ (ws : List Nat) (n : Nat), Fit (ws.zip (unpack ws n))
  | [], _ => fit_nil
  | _ :: r, _ => fit_cons.2 ⟨Nat.mod_lt _ (Nat.two_pow_pos _), fit_unpack r _⟩

/-- A 32-bit word of a kind and a major opcode. -/
structure HasOp (w k op : Nat) : Prop where
  lt : w < 2 ^ 32
  kind : kindOf w = k
  op : opOf w = op

theorem HasOp.op_lt {w k op : Nat} (h : HasOp w k op) : op < 128 := h.op ▸ Nat.mod_lt _ (by decide)

theorem opOf_pack {op : Nat} (hop : op < 128) (k : Nat) (fs : List (Nat × Nat)) : opOf (pack ((2, k) :: (7, op) :: fs)) = op := by
  simp only [opOf, pack]; omega

/-- The fields above the opcode of a packed word. -/
theorem unpack_word {fs : List (Nat × Nat)} (h : Fit fs) (k op : Nat) :
    unpack (9 :: fs.map (·.1)) (pack ((2, k) :: (7, op) :: fs)) = (k % 4 + 4 * (op % 128)) :: fs.map (·.2) := by
  have hlow : k % 2 ^ 2 + 2 ^ 2 * (op % 2 ^ 7) < 2 ^ 9 := by omega
  have hnine : pack ((2, k) :: (7, op) :: fs) = pack ((9, k % 2 ^ 2 + 2 ^ 2 * (op % 2 ^ 7)) :: fs) := by
    simp only [pack]; omega
  rw [hnine]
  exact unpack_pack (fit_cons.2 ⟨hlow, h⟩)

/-- A word is the packing of its kind, its opcode and the fields above, where the bits above those are zero. -/
theorem pack_fields {w k op : Nat} (hk : kindOf w = k) (hop : opOf w = op) (ws : List Nat) (hw : w < 2 ^ (9 + ws.sum)) :
    pack ((2, k) :: (7, op) :: ws.zip (unpack ws (w / 2 ^ 9))) = w := by
  have hlt : w / 2 ^ 9 < 2 ^ ws.sum := Nat.div_lt_of_lt_mul (by rwa [← pow_add])
  simp only [kindOf] at hk
  simp only [opOf] at hop
  simp only [pack, pack_unpack, Nat.mod_eq_of_lt hlt]
  omega

/-- The fields of an op word of a layout whose fields fill the 23 bits above the opcode. -/
theorem HasOp.pack_fields {w k op : Nat} (h : HasOp w k op) (ws : List Nat) (hs : ws.sum = 23) :
    pack ((2, k) :: (7, op) :: ws.zip (unpack ws (w / 2 ^ 9))) = w :=
  Sys2Proof.pack_fields h.kind h.op ws (by rw [hs]; exact h.lt)

/-- An operand word is the packing of its fields. -/
theorem pack_operand {v : Nat} (hv : v < 2 ^ 32) (ws : List Nat) (hs : ws.sum = 32) : pack (ws.zip (unpack ws v)) = v := by
  rw [pack_unpack, hs, Nat.mod_eq_of_lt hv]

/-! ### Signed fields (R60) -/

theorem usg_lt (n : Nat) (v : Int) : usg n v < 2 ^ n := by
  have hp : (0 : Int) < ((2 ^ n : Nat) : Int) := by positivity
  have := Int.emod_lt_of_pos v hp
  have := Int.emod_nonneg v hp.ne'
  unfold usg; omega

/-- A field reads back as the signed value that it was made of. -/
theorem sgn_usg {n : Nat} {v : Int} (hn : 0 < n) (h : fitsS n v = true) : sgn n (usg n v) = v := by
  obtain ⟨m, rfl⟩ := Nat.exists_eq_add_of_le' hn
  simp only [fitsS, Nat.add_sub_cancel, Bool.and_eq_true, decide_eq_true_eq] at h
  have hp : (2 ^ (m + 1) : Nat) = 2 * 2 ^ m := pow_succ' 2 m
  simp only [sgn, usg, Nat.add_sub_cancel, hp]
  generalize 2 ^ m = p at h
  obtain hv | hv := le_or_gt 0 v
  · rw [Int.emod_eq_of_lt hv (by omega)]
    rw [if_pos (by omega)]; omega
  · have : v % ((2 * p : Nat) : Int) = v + (2 * p : Nat) := by
      rw [← Int.add_emod_right, Int.emod_eq_of_lt (by omega) (by omega)]
    rw [this, if_neg (by omega)]; omega

/-- The field of the signed reading of a field is that field. -/
theorem usg_sgn {n u : Nat} (h : u < 2 ^ n) : usg n (sgn n u) = u := by
  have hu : (u : Int) % ((2 ^ n : Nat) : Int) = u := Int.emod_eq_of_lt (by omega) (by exact_mod_cast h)
  simp only [usg, sgn]
  split
  · rw [hu, Int.toNat_natCast]
  · rw [Int.sub_emod_right, hu, Int.toNat_natCast]

/-! ### What a decoder accepts -/

theorem checked_of_wellFormed {i : Instr} (h : i.wellFormed = true) : checked i = .ok i := if_pos h

theorem zeros_of_wellFormed {zs : List Nat} {i : Instr} (hz : zs.all (· == 0) = true) (h : i.wellFormed = true) : zeros zs i = .ok i :=
  (if_pos hz).trans (checked_of_wellFormed h)

/-- Whatever is accepted is well-formed and encodes as these very words. -/
def Reencodes (c : Cls) (w : Nat) (w2 : Option Nat) (r : DecResult) : Prop :=
  ∀ i, r = .ok i → i.wellFormed = true ∧ encode i = some ⟨c, w, w2⟩

section
variable {c : Cls} {w : Nat} {w2 : Option Nat}

theorem reencodes_error (e : DecErr) : Reencodes c w w2 (.error e) := fun _ h => nomatch h

theorem reencodes_checked {i : Instr} (h : encode i = some ⟨c, w, w2⟩) : Reencodes c w w2 (checked i) := by
  intro j hj
  unfold checked at hj
  split at hj
  · next hwf => cases hj; exact ⟨hwf, h⟩
  · cases hj

theorem reencodes_zeros {zs : List Nat} {i : Instr} (h : (∀ z ∈ zs, z = 0) → encode i = some ⟨c, w, w2⟩) :
    Reencodes c w w2 (zeros zs i) := by
  intro j hj
  unfold zeros at hj
  split at hj
  · next hz => exact reencodes_checked (h fun z hmem => by simpa using List.all_eq_true.1 hz z hmem) j hj
  · cases hj

theorem enc_word {p : Nat} (h : p = w) : some (⟨c, p, w2⟩ : Enc) = some ⟨c, w, w2⟩ := by rw [h]

theorem reencodes_ite {p : Prop} [Decidable p] {r t : DecResult} (h : p → Reencodes c w w2 r) (h' : ¬ p → Reencodes c w w2 t) :
    Reencodes c w w2 (if p then r else t) := by
  split
  · next hp => exact h hp
  · next hp => exact h' hp

end
end Sys2Proof
end

section
/-! I-class words (Tables 4-3 and 4-7): what each layout reads of a packed word, and that decoding and encoding agree. -/

namespace Sys2Proof
open Laws

/-! ### Layouts -/

section
variable {w k op : Nat}

theorem decIR_pack {d a b f : Nat} (h : Fit [(6, d), (6, a), (6, b), (5, f)]) (K : Nat → Nat → Nat → Nat → DecResult) :
    decIR (pack [(2, k), (7, op), (6, d), (6, a), (6, b), (5, f)]) K = K d a b f := by
  have hu : unpack [9, 6, 6, 6, 5] _ = [_, d, a, b, f] := unpack_word h k op
  rw [decIR, hu]

theorem decImm_pack_short {d a i : Nat} (h : Fit [(6, d), (6, a), (11, i)]) (K L : Nat → Nat → Int → Instr) :
    decImm (pack [(2, k), (7, op), (6, d), (6, a), (11, i)]) none K L = checked (K d a (sgn 11 i)) := by
  have hu : unpack [9, 6, 6, 11] _ = [_, d, a, i] := unpack_word h k op
  unfold decImm
  rw [hu]

theorem decImm_pack_long {d a z v : Nat} (h : Fit [(6, d), (6, a), (11, z)]) (K L : Nat → Nat → Int → Instr) :
    decImm (pack [(2, k), (7, op), (6, d), (6, a), (11, z)]) (some v) K L = zeros [z] (L d a (sgn 32 v)) := by
  have hu : unpack [9, 6, 6, 11] _ = [_, d, a, z] := unpack_word h k op
  unfold decImm
  rw [hu]

theorem decB_pack_short {a b o : Nat} (h : Fit [(6, a), (6, b), (11, o)]) (K L : Nat → Nat → Int → DecResult) :
    decB (pack [(2, k), (7, op), (6, a), (6, b), (11, o)]) none K L = K a b (sgn 11 o) := by
  have hu : unpack [9, 6, 6, 11] _ = [_, a, b, o] := unpack_word h k op
  unfold decB
  rw [hu]

theorem decB_pack_long {a b z v : Nat} (h : Fit [(6, a), (6, b), (11, z)]) (K L : Nat → Nat → Int → DecResult) :
    decB (pack [(2, k), (7, op), (6, a), (6, b), (11, z)]) (some v) K L = if z = 0 then L a b (sgn 32 v) else .error .nonZeroField := by
  have hu : unpack [9, 6, 6, 11] _ = [_, a, b, z] := unpack_word h k op
  unfold decB
  rw [hu]

/-- The fields of an I-class word of three registers. -/
theorem HasOp.fieldsIR (h : HasOp w k op) : ∃ d a b f, Fit [(6, d), (6, a), (6, b), (5, f)] ∧
    pack [(2, k), (7, op), (6, d), (6, a), (6, b), (5, f)] = w :=
  ⟨_, _, _, _, fit_unpack [6, 6, 6, 5] _, h.pack_fields [6, 6, 6, 5] rfl⟩

/-- The fields of an I-class word of two registers and an immediate. -/
theorem HasOp.fieldsII (h : HasOp w k op) : ∃ d a i, Fit [(6, d), (6, a), (11, i)] ∧
    pack [(2, k), (7, op), (6, d), (6, a), (11, i)] = w :=
  ⟨_, _, _, fit_unpack [6, 6, 11] _, h.pack_fields [6, 6, 11] rfl⟩

end

theorem fit_ii {a b : Nat} {o : Int} (ha : a < 64) (hb : b < 64) : Fit [(6, a), (6, b), (11, usg 11 o)] :=
  fit_cons.2 ⟨ha, fit_cons.2 ⟨hb, fit_cons.2 ⟨usg_lt .., fit_nil⟩⟩⟩

theorem fit_il {a b : Nat} (ha : a < 64) (hb : b < 64) : Fit [(6, a), (6, b), (11, 0)] :=
  fit_cons.2 ⟨ha, fit_cons.2 ⟨hb, fit_cons.2 ⟨by decide, fit_nil⟩⟩⟩

/-- The encoding of an immediate that was read from a short word. -/
theorem encII_sgn {op d a i : Nat} (h : Fit [(6, d), (6, a), (11, i)]) :
    encII op d a (sgn 11 i) = some ⟨.I, pack [(2, 0), (7, op), (6, d), (6, a), (11, i)], none⟩ := by
  simp only [fit_cons] at h
  simp only [encII, usg_sgn h.2.2.1]; rfl

theorem pack_word {v : Nat} (h : v < 2 ^ 32) : pack [(32, v)] = v := by
  simp only [pack, Nat.mod_eq_of_lt h, Nat.mul_zero, Nat.add_zero]

/-- The encoding of an immediate that was read from an operand word. -/
theorem encIL_sgn {op d a v : Nat} (hv : v < 2 ^ 32) :
    encIL op d a (sgn 32 v) = some ⟨.I, pack [(2, 1), (7, op), (6, d), (6, a), (11, 0)], some v⟩ := by
  simp only [encIL, usg_sgn hv, e64, pack_word hv]

/-! ### Accepted words re-encode -/

section
variable {w op : Nat}

theorem decRRR_reencodes {K : Nat → Nat → Nat → Instr} (h : HasOp w 0 op) (henc : ∀ d a b, encode (K d a b) = encRRR op d a b) :
    Reencodes .I w none (decRRR w K) := by
  obtain ⟨d, a, b, f, hfit, rfl⟩ := h.fieldsIR
  rw [decRRR, decIR_pack hfit]
  refine reencodes_zeros fun hz => ?_
  obtain rfl : f = 0 := by simpa using hz
  exact henc d a b

theorem decRR_reencodes {K : Nat → Nat → Instr} (h : HasOp w 0 op) (henc : ∀ d a, encode (K d a) = encRRR op d a 0) :
    Reencodes .I w none (decRR w K) := by
  obtain ⟨d, a, b, f, hfit, rfl⟩ := h.fieldsIR
  rw [decRR, decIR_pack hfit]
  refine reencodes_zeros fun hz => ?_
  obtain ⟨rfl, rfl⟩ : b = 0 ∧ f = 0 := by simpa using hz
  exact henc d a

theorem decImm_reencodes_short {K L : Nat → Nat → Int → Instr} (h : HasOp w 0 op) (henc : ∀ d a i, encode (K d a i) = encII op d a i) :
    Reencodes .I w none (decImm w none K L) := by
  obtain ⟨d, a, i, hfit, rfl⟩ := h.fieldsII
  rw [decImm_pack_short hfit]
  exact reencodes_checked ((henc ..).trans (encII_sgn hfit))

theorem decImm_reencodes_long {v : Nat} {K L : Nat → Nat → Int → Instr} (h : HasOp w 1 op) (hv : v < 2 ^ 32)
    (henc : ∀ d a i, encode (L d a i) = encIL op d a i) : Reencodes .I w (some v) (decImm w (some v) K L) := by
  obtain ⟨d, a, z, hfit, rfl⟩ := h.fieldsII
  rw [decImm_pack_long hfit]
  refine reencodes_zeros fun hz => ?_
  obtain rfl : z = 0 := by simpa using hz
  exact (henc ..).trans (encIL_sgn hv)

/-- A short branch: what is left to show is the encoding by the fields A and B, of which some must be zero. -/
theorem decB_reencodes_short {K L : Nat → Nat → Int → DecResult} (h : HasOp w 0 op)
    (hK : ∀ a b o, b < 64 → encII op a b o = some ⟨.I, w, none⟩ → Reencodes .I w none (K a b o)) :
    Reencodes .I w none (decB w none K L) := by
  obtain ⟨a, b, o, hfit, rfl⟩ := h.fieldsII
  rw [decB_pack_short hfit]
  simp only [fit_cons] at hfit
  exact hK a b _ hfit.2.1 (encII_sgn (by simpa only [fit_cons] using hfit))

theorem decB_reencodes_long {v : Nat} {K L : Nat → Nat → Int → DecResult} (h : HasOp w 1 op) (hv : v < 2 ^ 32)
    (hL : ∀ a b o, b < 64 → encIL op a b o = some ⟨.I, w, some v⟩ → Reencodes .I w (some v) (L a b o)) :
    Reencodes .I w (some v) (decB w (some v) K L) := by
  obtain ⟨a, b, z, hfit, rfl⟩ := h.fieldsII
  rw [decB_pack_long hfit]
  refine reencodes_ite (fun hz => ?_) fun _ => reencodes_error _
  subst hz
  simp only [fit_cons] at hfit
  exact hL a b _ hfit.2.1 (encIL_sgn hv)

/-- BPANY and BPNONE: the field B holds LC in its low three bits and zeros above. -/
theorem bp_reencodes {c : Cls} {w2 : Option Nat} {b : Nat} {i : Nat → Instr} {e : Option Enc} (hb : b < 64) (he : e = some ⟨c, w, w2⟩)
    (henc : encode (i b) = e) : Reencodes c w w2 (zeros [b / 8] (i (b % 8))) :=
  reencodes_zeros fun hz => by
    have hlc : b % 8 = b := by simp at hz; omega
    rw [hlc]; exact henc.trans he

/-- CALL and LOOP: the field B is zero. -/
theorem linked_reencodes {c : Cls} {w2 : Option Nat} {b : Nat} {i : Instr} {e : Nat → Option Enc} (he : e b = some ⟨c, w, w2⟩)
    (henc : encode i = e 0) : Reencodes c w w2 (zeros [b] i) :=
  reencodes_zeros fun hz => by
    obtain rfl : b = 0 := by simpa using hz
    exact henc.trans he

theorem sel_reencodes {v : Nat} (h : HasOp w 1 0x1E) (hv : v < 2 ^ 32) : Reencodes .I w (some v) (decI w (some v)) := by
  unfold decI
  rw [h.op]
  change Reencodes _ _ _ (decIR w _)
  obtain ⟨d, a, b, f, hfit, rfl⟩ := h.fieldsIR
  obtain ⟨c, z, hu, rfl⟩ : ∃ c z, unpack [6, 26] v = [c, z] ∧ pack [(6, c), (26, z)] = v := ⟨_, _, rfl, pack_operand hv [6, 26] rfl⟩
  rw [decIR_pack hfit, hu]
  refine reencodes_zeros fun hz => ?_
  obtain ⟨rfl, rfl⟩ : f = 0 ∧ z = 0 := by simpa using hz
  rfl

theorem bfx_reencodes {v : Nat} (h : HasOp w 1 0x1F) (hv : v < 2 ^ 32) : Reencodes .I w (some v) (decI w (some v)) := by
  unfold decI
  rw [h.op]
  change Reencodes _ _ _ (decIR w _)
  obtain ⟨d, a, b, f, hfit, rfl⟩ := h.fieldsIR
  obtain ⟨pos, len, sx, z, hu, rfl⟩ : ∃ pos len sx z, unpack [6, 7, 1, 18] v = [pos, len, sx, z] ∧ pack [(6, pos), (7, len), (1, sx), (18, z)] = v :=
    ⟨_, _, _, _, rfl, pack_operand hv [6, 7, 1, 18] rfl⟩
  rw [decIR_pack hfit, hu]
  refine reencodes_zeros fun hz => ?_
  obtain ⟨rfl, rfl, rfl⟩ : f = 0 ∧ b = 0 ∧ z = 0 := by simpa using hz
  rfl

theorem bfi_reencodes {v : Nat} (h : HasOp w 1 0x20) (hv : v < 2 ^ 32) : Reencodes .I w (some v) (decI w (some v)) := by
  unfold decI
  rw [h.op]
  change Reencodes _ _ _ (decIR w _)
  obtain ⟨d, a, b, f, hfit, rfl⟩ := h.fieldsIR
  obtain ⟨pos, len, z, hu, rfl⟩ : ∃ pos len z, unpack [6, 7, 19] v = [pos, len, z] ∧ pack [(6, pos), (7, len), (19, z)] = v :=
    ⟨_, _, _, rfl, pack_operand hv [6, 7, 19] rfl⟩
  rw [decIR_pack hfit, hu]
  refine reencodes_zeros fun hz => ?_
  obtain ⟨rfl, rfl⟩ : f = 0 ∧ z = 0 := by simpa using hz
  rfl

/-- The value of MD tells MOVI from MOVI with the high half. -/
theorem movi_reencodes {v : Nat} (h : HasOp w 1 0x28) (hv : v < 2 ^ 32) : Reencodes .I w (some v) (decI w (some v)) := by
  unfold decI
  rw [h.op]
  obtain ⟨d, z, md, z', hu, rfl⟩ : ∃ d z md z', unpack [9, 6, 6, 2, 9] w = [w % 2 ^ 9, d, z, md, z'] ∧
      pack [(2, 1), (7, 0x28), (6, d), (6, z), (2, md), (9, z')] = w := ⟨_, _, _, _, rfl, h.pack_fields [6, 6, 2, 9] rfl⟩
  rw [hu]
  change Reencodes _ _ _ (zeros [z, z'] (if md = 2 then .moviHi d v else .movi d md v))
  refine reencodes_zeros fun hz => ?_
  obtain ⟨rfl, rfl⟩ : z = 0 ∧ z' = 0 := by simpa using hz
  split
  · next hmd => subst hmd; change some _ = _; rw [pack_word hv]
  · change some _ = _; rw [pack_word hv]

theorem step_reencodes (h : HasOp w 0 0x29) : Reencodes .I w none (decI w none) := by
  unfold decI
  rw [h.op]
  obtain ⟨z, a, src, slot, i, hi, hu, rfl⟩ : ∃ z a src slot i, i < 2 ^ 12 ∧ unpack [9, 1, 6, 1, 3, 12] w = [w % 2 ^ 9, z, a, src, slot, i] ∧
      pack [(2, 0), (7, 0x29), (1, z), (6, a), (1, src), (3, slot), (12, i)] = w :=
    ⟨_, _, _, _, _, Nat.mod_lt _ (by decide), rfl, h.pack_fields [1, 6, 1, 3, 12] rfl⟩
  rw [hu]
  change Reencodes _ _ _ (zeros [z] (.step slot src a (sgn 12 i)))
  refine reencodes_zeros fun hz => ?_
  obtain rfl : z = 0 := by simpa using hz
  change e32 .I 0x29 [_, _, _, _, (12, usg 12 (sgn 12 i))] = _
  rw [usg_sgn hi]; rfl

/-- SEXT and ZEXT. -/
theorem ext_reencodes {K : Nat → Nat → Nat → Instr} (h : HasOp w 0 op)
    (henc : ∀ d a f, encode (K d a f) = e32 .I op [(6, d), (6, a), (6, 0), (5, f)]) :
    Reencodes .I w none (decIR w fun d a b f => zeros [b] (K d a f)) := by
  obtain ⟨d, a, b, f, hfit, rfl⟩ := h.fieldsIR
  rw [decIR_pack hfit]
  refine reencodes_zeros fun hz => ?_
  obtain rfl : b = 0 := by simpa using hz
  exact henc d a f

/-- An accepted 32-bit I-class word is the encoding of what it decodes to: the rows of Table 4-7 by their opcodes. -/
theorem decI_reencodes_short (h : HasOp w 0 op) : Reencodes .I w none (decI w none) := by
  obtain rfl | hstep := eq_or_ne op 0x29
  · exact step_reencodes h
  have hop := h.op_lt
  unfold decI
  rw [h.op]
  interval_cases op
  · exact reencodes_error _
  iterate 17 exact decRRR_reencodes h fun _ _ _ => rfl
  iterate 3 exact decRR_reencodes h fun _ _ => rfl
  iterate 7 exact decRRR_reencodes h fun _ _ _ => rfl
  iterate 2 exact ext_reencodes h fun _ _ _ => rfl
  iterate 3 exact reencodes_error _
  iterate 7 exact decImm_reencodes_short h fun _ _ _ => rfl
  · exact reencodes_error _
  · contradiction
  iterate 22 exact reencodes_error _
  iterate 6 exact decB_reencodes_short h fun a b o _ he => reencodes_checked he
  · exact decB_reencodes_short h fun a b o hb he => bp_reencodes (i := fun b => .bpany a b o) hb he rfl
  · exact decB_reencodes_short h fun a b o hb he => bp_reencodes (i := fun b => .bpnone a b o) hb he rfl
  · exact decB_reencodes_short h fun a b o _ he => reencodes_zeros fun hz => by
      obtain ⟨rfl, rfl⟩ : a = 0 ∧ b = 0 := by simpa using hz
      exact he
  · exact decB_reencodes_short h fun a b o _ he => reencodes_zeros fun hz => by
      obtain ⟨rfl, rfl⟩ : b = 0 ∧ o = 0 := by simpa using hz
      exact he
  · exact decB_reencodes_short h fun a b o _ he => linked_reencodes (e := (encII 0x4A a · o)) he rfl
  · exact decB_reencodes_short h fun a b o _ he => reencodes_zeros fun hz => by
      obtain rfl : o = 0 := by simpa using hz
      exact he
  · exact decB_reencodes_short h fun a b o _ he => reencodes_zeros fun hz => by
      obtain ⟨rfl, rfl⟩ : b = 0 ∧ o = 0 := by simpa using hz
      exact he
  · exact decB_reencodes_short h fun a b o _ he => linked_reencodes (e := (encII 0x4D a · o)) he rfl
  all_goals exact reencodes_error _

/-- An accepted 64-bit I-class word is the encoding of what it decodes to. -/
theorem decI_reencodes_long {v : Nat} (h : HasOp w 1 op) (hv : v < 2 ^ 32) : Reencodes .I w (some v) (decI w (some v)) := by
  obtain rfl | hsel := eq_or_ne op 0x1E
  · exact sel_reencodes h hv
  obtain rfl | hbfx := eq_or_ne op 0x1F
  · exact bfx_reencodes h hv
  obtain rfl | hbfi := eq_or_ne op 0x20
  · exact bfi_reencodes h hv
  obtain rfl | hmovi := eq_or_ne op 0x28
  · exact movi_reencodes h hv
  have hop := h.op_lt
  unfold decI
  rw [h.op]
  interval_cases op
  iterate 30 exact reencodes_error _
  iterate 3 contradiction
  iterate 7 exact decImm_reencodes_long h hv fun _ _ _ => rfl
  · contradiction
  iterate 23 exact reencodes_error _
  iterate 6 exact decB_reencodes_long h hv fun a b o _ he => reencodes_checked he
  · exact decB_reencodes_long h hv fun a b o hb he => bp_reencodes (i := fun b => .bpanyLong a b o) hb he rfl
  · exact decB_reencodes_long h hv fun a b o hb he => bp_reencodes (i := fun b => .bpnoneLong a b o) hb he rfl
  · exact decB_reencodes_long h hv fun a b o _ he => reencodes_zeros fun hz => by
      obtain ⟨rfl, rfl⟩ : a = 0 ∧ b = 0 := by simpa using hz
      exact he
  · exact reencodes_error _
  · exact decB_reencodes_long h hv fun a b o _ he => linked_reencodes (e := (encIL 0x4A a · o)) he rfl
  iterate 2 exact reencodes_error _
  · exact decB_reencodes_long h hv fun a b o _ he => linked_reencodes (e := (encIL 0x4D a · o)) he rfl
  all_goals exact reencodes_error _
end
end Sys2Proof
end

section
/-! M-class words (Tables 4-3, 4-8 and the layouts of R117 to R131): what each layout reads of a packed word, and that accepted words
re-encode. -/

namespace Sys2Proof
open Laws

/-! ### Layouts -/

section
variable {w k op v : Nat}

theorem decML_pack {d a land fn : Nat} (h : Fit [(6, d), (6, a), (7, land), (4, fn)]) (K : Nat → Nat → Nat → Nat → Int → DecResult) :
    decML (pack [(2, k), (7, op), (6, d), (6, a), (7, land), (4, fn)]) v K = K d a land fn (sgn 32 v) := by
  have hu : unpack [9, 6, 6, 7, 4] _ = [_, d, a, land, fn] := unpack_word h k op
  rw [decML, hu]

theorem decAT_pack {d a land z sz nr off c b : Nat} (h : Fit [(6, d), (6, a), (7, land), (2, z), (1, sz), (1, nr)])
    (h' : Fit [(20, off), (6, c), (6, b)]) (K : AT → DecResult) :
    decAT (pack [(2, k), (7, op), (6, d), (6, a), (7, land), (2, z), (1, sz), (1, nr)]) (pack [(20, off), (6, c), (6, b)]) K =
      if z = 0 then K ⟨nr, sz, land, a, d, b, c, sgn 20 off⟩ else .error .nonZeroField := by
  have hu : unpack [9, 6, 6, 7, 2, 1, 1] _ = [_, d, a, land, z, sz, nr] := unpack_word h k op
  have hv : unpack [20, 6, 6] _ = [off, c, b] := unpack_pack h'
  unfold decAT
  rw [hu, hv]

theorem HasOp.fieldsML (h : HasOp w k op) : ∃ d a land fn, Fit [(6, d), (6, a), (7, land), (4, fn)] ∧
    pack [(2, k), (7, op), (6, d), (6, a), (7, land), (4, fn)] = w :=
  ⟨_, _, _, _, fit_unpack [6, 6, 7, 4] _, h.pack_fields [6, 6, 7, 4] rfl⟩

theorem HasOp.fieldsAT (h : HasOp w k op) : ∃ d a land z sz nr, Fit [(6, d), (6, a), (7, land), (2, z), (1, sz), (1, nr)] ∧
    pack [(2, k), (7, op), (6, d), (6, a), (7, land), (2, z), (1, sz), (1, nr)] = w :=
  ⟨_, _, _, _, _, _, fit_unpack [6, 6, 7, 2, 1, 1] _, h.pack_fields [6, 6, 7, 2, 1, 1] rfl⟩

end

/-! ### Accepted words re-encode -/

section
variable {w op v : Nat}

/-- The encoding of an offset that was read from an operand word. -/
theorem encML_sgn {d a land fn : Nat} (hv : v < 2 ^ 32) :
    encML op d a land fn (sgn 32 v) = some ⟨.M, pack [(2, 1), (7, op), (6, d), (6, a), (7, land), (4, fn)], some v⟩ := by
  simp only [encML, usg_sgn hv, e64, pack_word hv]

theorem decLoad_reencodes {K : Nat → Nat → Nat → Int → Instr} (h : HasOp w 1 op) (hv : v < 2 ^ 32)
    (henc : ∀ d a l o, encode (K d a l o) = encML op d a l 0 o) : Reencodes .M w (some v) (decLoad w v K) := by
  obtain ⟨d, a, land, fn, hfit, rfl⟩ := h.fieldsML
  rw [decLoad, decML_pack hfit]
  refine reencodes_zeros fun hz => ?_
  obtain rfl : fn = 0 := by simpa using hz
  exact (henc ..).trans (encML_sgn hv)

theorem decStore_reencodes {K : Nat → Nat → Nat → Int → Instr} (h : HasOp w 1 op) (hv : v < 2 ^ 32)
    (henc : ∀ d a c o, encode (K d a c o) = encML op d a 0 c o) : Reencodes .M w (some v) (decStore w v K) := by
  obtain ⟨d, a, land, fn, hfit, rfl⟩ := h.fieldsML
  rw [decStore, decML_pack hfit]
  refine reencodes_zeros fun hz => ?_
  obtain rfl : land = 0 := by simpa using hz
  exact (henc ..).trans (encML_sgn hv)

theorem decAT_reencodes {K : AT → DecResult} (h : HasOp w 1 op) (hv : v < 2 ^ 32)
    (hK : ∀ o, encAT op o = some ⟨.M, w, some v⟩ → Reencodes .M w (some v) (K o)) : Reencodes .M w (some v) (decAT w v K) := by
  obtain ⟨d, a, land, z, sz, nr, hfit, rfl⟩ := h.fieldsAT
  obtain ⟨off, c, b, hfit', rfl⟩ : ∃ off c b, Fit [(20, off), (6, c), (6, b)] ∧ pack [(20, off), (6, c), (6, b)] = v :=
    ⟨_, _, _, fit_unpack [20, 6, 6] _, pack_operand hv [20, 6, 6] rfl⟩
  rw [decAT_pack hfit hfit']
  refine reencodes_ite (fun hz => ?_) fun _ => reencodes_error _
  subst hz
  refine hK _ ?_
  simp only [encAT, usg_sgn (fit_cons.1 hfit').1]; rfl

/-- VLDP and VLDP_SET, by MD. -/
theorem vldp_reencodes (h : HasOp w 0 0x12) : Reencodes .M w none (decM w none) := by
  unfold decM
  rw [h.op]
  obtain ⟨d, a, pt, md, land, hu, rfl⟩ : ∃ d a pt md land, unpack [9, 5, 6, 3, 2, 7] w = [w % 2 ^ 9, d, a, pt, md, land] ∧
      pack [(2, 0), (7, 0x12), (5, d), (6, a), (3, pt), (2, md), (7, land)] = w :=
    ⟨_, _, _, _, _, rfl, h.pack_fields [5, 6, 3, 2, 7] rfl⟩
  rw [hu]
  refine reencodes_ite (fun hmd => reencodes_zeros fun hz => ?_) fun _ => reencodes_ite (fun hmd => reencodes_zeros fun hz => ?_) fun _ => reencodes_error _
  all_goals obtain rfl := by simpa using hz
  all_goals subst hmd; rfl

/-- VSTP and VSTP_SAVE, by MD. -/
theorem vstp_reencodes (h : HasOp w 0 0x13) : Reencodes .M w none (decM w none) := by
  unfold decM
  rw [h.op]
  obtain ⟨d, a, pt, md, z, chn, hu, rfl⟩ : ∃ d a pt md z chn, unpack [9, 5, 6, 3, 2, 3, 4] w = [w % 2 ^ 9, d, a, pt, md, z, chn] ∧
      pack [(2, 0), (7, 0x13), (5, d), (6, a), (3, pt), (2, md), (3, z), (4, chn)] = w :=
    ⟨_, _, _, _, _, _, rfl, h.pack_fields [5, 6, 3, 2, 3, 4] rfl⟩
  rw [hu]
  refine reencodes_ite (fun hmd => reencodes_zeros fun hz => ?_) fun _ => reencodes_ite (fun hmd => reencodes_zeros fun hz => ?_) fun _ => reencodes_error _
  · obtain ⟨rfl, rfl⟩ : a = 0 ∧ z = 0 := by simpa using hz
    subst hmd; rfl
  · obtain ⟨rfl, rfl, rfl⟩ : d = 0 ∧ z = 0 ∧ chn = 0 := by simpa using hz
    subst hmd; rfl

/-- The fields of the two words of VGTH and VSCT. -/
theorem HasOp.fieldsIndexed (h : HasOp w 1 op) (hv : v < 2 ^ 32) : ∃ d a ix esz z z' chn px land,
    unpack [9, 5, 6, 5, 2, 5] w = [w % 2 ^ 9, d, a, ix, esz, z] ∧ unpack [14, 4, 7, 7] v = [z', chn, px, land] ∧
      pack [(2, 1), (7, op), (5, d), (6, a), (5, ix), (2, esz), (5, z)] = w ∧ pack [(14, z'), (4, chn), (7, px), (7, land)] = v :=
  ⟨_, _, _, _, _, _, _, _, _, rfl, rfl, h.pack_fields [5, 6, 5, 2, 5] rfl, pack_operand hv [14, 4, 7, 7] rfl⟩

theorem vgth_row {n a chn d esz ix land px z z' : Nat} (h : opOf w = 0x14)
    (hu : unpack [9, 5, 6, 5, 2, 5] w = [n, d, a, ix, esz, z]) (hv : unpack [14, 4, 7, 7] v = [z', chn, px, land]) :
    decM w (some v) = zeros [z, z', chn] (.vgth esz ix a d land px) := by
  unfold decM
  rw [h]
  change (match unpack [9, 5, 6, 5, 2, 5] w, unpack [14, 4, 7, 7] v with
    | [_, d, a, ix, esz, z], [z', chn, px, land] => zeros [z, z', chn] (.vgth esz ix a d land px)
    | _, _ => .error .operands) = _
  rw [hu, hv]

theorem vgth_reencodes (h : HasOp w 1 0x14) (hv : v < 2 ^ 32) : Reencodes .M w (some v) (decM w (some v)) := by
  obtain ⟨d, a, ix, esz, z, z', chn, px, land, hu, hu', rfl, rfl⟩ := h.fieldsIndexed hv
  rw [vgth_row h.op hu hu']
  refine reencodes_zeros fun hz => ?_
  obtain ⟨rfl, rfl, rfl⟩ : z = 0 ∧ z' = 0 ∧ chn = 0 := by simpa using hz
  rfl

theorem vsct_row {n a chn d esz ix land px z z' : Nat} (h : opOf w = 0x15)
    (hu : unpack [9, 5, 6, 5, 2, 5] w = [n, d, a, ix, esz, z]) (hv : unpack [14, 4, 7, 7] v = [z', chn, px, land]) :
    decM w (some v) = zeros [z, z', land] (.vsct esz ix a d px chn) := by
  unfold decM
  rw [h]
  change (match unpack [9, 5, 6, 5, 2, 5] w, unpack [14, 4, 7, 7] v with
    | [_, d, a, ix, esz, z], [z', chn, px, land] => zeros [z, z', land] (.vsct esz ix a d px chn)
    | _, _ => .error .operands) = _
  rw [hu, hv]

theorem vsct_reencodes (h : HasOp w 1 0x15) (hv : v < 2 ^ 32) : Reencodes .M w (some v) (decM w (some v)) := by
  obtain ⟨d, a, ix, esz, z, z', chn, px, land, hu, hu', rfl, rfl⟩ := h.fieldsIndexed hv
  rw [vsct_row h.op hu hu']
  refine reencodes_zeros fun hz => ?_
  obtain ⟨rfl, rfl, rfl⟩ : z = 0 ∧ z' = 0 ∧ land = 0 := by simpa using hz
  rfl

/-- The fields of the two words of TLD and TST. -/
theorem HasOp.fieldsTile (h : HasOp w 1 op) (hv : v < 2 ^ 32) : ∃ z a f t bo z' chn land,
    unpack [9, 6, 6, 4, 3, 4] w = [w % 2 ^ 9, z, a, f, t, bo] ∧ unpack [21, 4, 7] v = [z', chn, land] ∧
      pack [(2, 1), (7, op), (6, z), (6, a), (4, f), (3, t), (4, bo)] = w ∧ pack [(21, z'), (4, chn), (7, land)] = v :=
  ⟨_, _, _, _, _, _, _, _, rfl, rfl, h.pack_fields [6, 6, 4, 3, 4] rfl, pack_operand hv [21, 4, 7] rfl⟩

theorem tld_row {n a bo chn f land t z z' : Nat} (h : opOf w = 0x18)
    (hu : unpack [9, 6, 6, 4, 3, 4] w = [n, z, a, f, t, bo]) (hv : unpack [21, 4, 7] v = [z', chn, land]) :
    decM w (some v) = zeros [z, z', chn] (.tld bo t f a land) := by
  unfold decM
  rw [h]
  change (match unpack [9, 6, 6, 4, 3, 4] w, unpack [21, 4, 7] v with
    | [_, z, a, f, t, bo], [z', chn, land] => zeros [z, z', chn] (.tld bo t f a land)
    | _, _ => .error .operands) = _
  rw [hu, hv]

theorem tld_reencodes (h : HasOp w 1 0x18) (hv : v < 2 ^ 32) : Reencodes .M w (some v) (decM w (some v)) := by
  obtain ⟨z, a, f, t, bo, z', chn, land, hu, hu', rfl, rfl⟩ := h.fieldsTile hv
  rw [tld_row h.op hu hu']
  refine reencodes_zeros fun hz => ?_
  obtain ⟨rfl, rfl, rfl⟩ : z = 0 ∧ z' = 0 ∧ chn = 0 := by simpa using hz
  rfl

theorem tst_row {n a bo chn f land t z z' : Nat} (h : opOf w = 0x19)
    (hu : unpack [9, 6, 6, 4, 3, 4] w = [n, z, a, f, t, bo]) (hv : unpack [21, 4, 7] v = [z', chn, land]) :
    decM w (some v) = zeros [z, z', land] (.tst bo t f a chn) := by
  unfold decM
  rw [h]
  change (match unpack [9, 6, 6, 4, 3, 4] w, unpack [21, 4, 7] v with
    | [_, z, a, f, t, bo], [z', chn, land] => zeros [z, z', land] (.tst bo t f a chn)
    | _, _ => .error .operands) = _
  rw [hu, hv]

theorem tst_reencodes (h : HasOp w 1 0x19) (hv : v < 2 ^ 32) : Reencodes .M w (some v) (decM w (some v)) := by
  obtain ⟨z, a, f, t, bo, z', chn, land, hu, hu', rfl, rfl⟩ := h.fieldsTile hv
  rw [tst_row h.op hu hu']
  refine reencodes_zeros fun hz => ?_
  obtain ⟨rfl, rfl, rfl⟩ : z = 0 ∧ z' = 0 ∧ land = 0 := by simpa using hz
  rfl

theorem prf_reencodes (h : HasOp w 1 0x1A) (hv : v < 2 ^ 32) : Reencodes .M w (some v) (decM w (some v)) := by
  unfold decM
  rw [h.op]
  obtain ⟨lv, a, z, cnt, hu, rfl⟩ : ∃ lv a z cnt, unpack [9, 6, 6, 7, 4] w = [w % 2 ^ 9, lv, a, z, cnt] ∧
      pack [(2, 1), (7, 0x1A), (6, lv), (6, a), (7, z), (4, cnt)] = w := ⟨_, _, _, _, rfl, h.pack_fields [6, 6, 7, 4] rfl⟩
  rw [hu]
  refine reencodes_zeros fun hz => ?_
  obtain rfl : z = 0 := by simpa using hz
  exact encML_sgn hv

/-- SPIN and SPREL: what stands between the fields A and N is zero. -/
theorem HasOp.fieldsPin (h : HasOp w 0 op) : ∃ z a n z', unpack [9, 6, 6, 4, 7] w = [w % 2 ^ 9, z, a, n, z'] ∧
    pack [(2, 0), (7, op), (6, z), (6, a), (4, n), (7, z')] = w := ⟨_, _, _, _, rfl, h.pack_fields [6, 6, 4, 7] rfl⟩

theorem spin_reencodes (h : HasOp w 0 0x1B) : Reencodes .M w none (decM w none) := by
  unfold decM
  rw [h.op]
  obtain ⟨z, a, n, z', hu, rfl⟩ := h.fieldsPin
  rw [hu]
  refine reencodes_zeros fun hz => ?_
  obtain ⟨rfl, rfl⟩ : z = 0 ∧ z' = 0 := by simpa using hz
  rfl

theorem sprel_reencodes (h : HasOp w 0 0x1C) : Reencodes .M w none (decM w none) := by
  unfold decM
  rw [h.op]
  obtain ⟨z, a, n, z', hu, rfl⟩ := h.fieldsPin
  rw [hu]
  refine reencodes_zeros fun hz => ?_
  obtain ⟨rfl, rfl⟩ : z = 0 ∧ z' = 0 := by simpa using hz
  rfl

theorem wake_reencodes (h : HasOp w 0 0x31) : Reencodes .M w none (decM w none) := by
  unfold decM
  rw [h.op]
  obtain ⟨z, a, b, sz, z', hu, rfl⟩ : ∃ z a b sz z', unpack [9, 6, 6, 6, 1, 4] w = [w % 2 ^ 9, z, a, b, sz, z'] ∧
      pack [(2, 0), (7, 0x31), (6, z), (6, a), (6, b), (1, sz), (4, z')] = w := ⟨_, _, _, _, _, rfl, h.pack_fields [6, 6, 6, 1, 4] rfl⟩
  rw [hu]
  refine reencodes_zeros fun hz => ?_
  obtain ⟨rfl, rfl⟩ : z = 0 ∧ z' = 0 := by simpa using hz
  rfl

/-- An accepted 32-bit M-class word is the encoding of what it decodes to: the short rows of Table 4-8 by their opcodes. -/
theorem decM_reencodes_short (h : HasOp w 0 op) : Reencodes .M w none (decM w none) := by
  obtain rfl | hvldp := eq_or_ne op 0x12
  · exact vldp_reencodes h
  obtain rfl | hvstp := eq_or_ne op 0x13
  · exact vstp_reencodes h
  obtain rfl | hspin := eq_or_ne op 0x1B
  · exact spin_reencodes h
  obtain rfl | hsprel := eq_or_ne op 0x1C
  · exact sprel_reencodes h
  obtain rfl | hwake := eq_or_ne op 0x31
  · exact wake_reencodes h
  have hop := h.op_lt
  unfold decM
  rw [h.op]
  interval_cases op
  iterate 18 exact reencodes_error _
  iterate 2 contradiction
  iterate 7 exact reencodes_error _
  iterate 2 contradiction
  iterate 20 exact reencodes_error _
  · contradiction
  all_goals exact reencodes_error _

/-- An accepted 64-bit M-class word is the encoding of what it decodes to. -/
theorem decM_reencodes_long (h : HasOp w 1 op) (hv : v < 2 ^ 32) : Reencodes .M w (some v) (decM w (some v)) := by
  obtain rfl | hvgth := eq_or_ne op 0x14
  · exact vgth_reencodes h hv
  obtain rfl | hvsct := eq_or_ne op 0x15
  · exact vsct_reencodes h hv
  obtain rfl | htld := eq_or_ne op 0x18
  · exact tld_reencodes h hv
  obtain rfl | htst := eq_or_ne op 0x19
  · exact tst_reencodes h hv
  obtain rfl | hprf := eq_or_ne op 0x1A
  · exact prf_reencodes h hv
  have hop := h.op_lt
  unfold decM
  rw [h.op]
  interval_cases op
  · exact reencodes_error _
  iterate 7 exact decLoad_reencodes h hv fun _ _ _ _ => rfl
  iterate 4 exact decStore_reencodes h hv fun _ _ _ _ => rfl
  iterate 4 exact reencodes_error _
  · exact decLoad_reencodes h hv fun _ _ _ _ => rfl
  · exact decStore_reencodes h hv fun _ _ _ _ => rfl
  iterate 2 exact reencodes_error _
  iterate 2 contradiction
  iterate 2 exact reencodes_error _
  iterate 3 contradiction
  iterate 5 exact reencodes_error _
  iterate 13 exact decAT_reencodes h hv fun o he => reencodes_checked he
  iterate 3 exact reencodes_error _
  · refine decAT_reencodes h hv fun ⟨nr, sz, land, a, d, b, c, off⟩ he => reencodes_zeros fun hz => ?_
    obtain ⟨rfl, rfl, rfl⟩ : nr = 0 ∧ land = 0 ∧ c = 0 := by simpa using hz
    exact he
  all_goals exact reencodes_error _
end
end Sys2Proof
end

section
/-! V-, X- and E-class words (Tables 4-3, 4-9 to 4-11): what each layout reads of a packed word, that accepted words re-encode, and
the classes together. -/

namespace Sys2Proof
open Laws

/-! ### Layouts -/

section
variable {w k op v : Nat}

theorem decVR_pack {d a b t p : Nat} (h : Fit [(5, d), (5, a), (5, b), (3, t), (5, p)]) :
    decVR (pack [(2, k), (7, op), (5, d), (5, a), (5, b), (3, t), (5, p)]) = ⟨p, t, b, a, d⟩ := by
  have hu : unpack [9, 5, 5, 5, 3, 5] _ = [_, d, a, b, t, p] := unpack_word h k op
  rw [decVR, hu]

theorem decV_pack_long {d a b t p px c fd hi : Nat} (h : Fit [(5, d), (5, a), (5, b), (3, t), (5, p)])
    (h' : Fit [(7, px), (5, c), (4, fd), (16, hi)]) (K : Option (VR → Instr)) (L : VL → Instr) :
    decV (pack [(2, k), (7, op), (5, d), (5, a), (5, b), (3, t), (5, p)]) (some (pack [(7, px), (5, c), (4, fd), (16, hi)])) K (some L) =
      zeros [p] (L ⟨t, b, a, d, fd, c, px, hi⟩) := by
  have hv : unpack [7, 5, 4, 16] _ = [px, c, fd, hi] := unpack_pack h'
  simp only [decV, hv, decVR_pack h]

theorem decPL_pack {b a d z : Nat} (h : Fit [(7, b), (7, a), (7, d), (2, z)]) (K : Nat → Nat → Nat → DecResult) :
    decPL (pack [(2, k), (7, op), (7, b), (7, a), (7, d), (2, z)]) K = if z = 0 then K d a b else .error .nonZeroField := by
  have hu : unpack [9, 7, 7, 7, 2] _ = [_, b, a, d, z] := unpack_word h k op
  rw [decPL, hu]

theorem decPC_pack {z p s lc : Nat} (h : Fit [(7, z), (7, p), (6, s), (3, lc)]) (K : Nat → Nat → Nat → Instr) :
    decPC (pack [(2, k), (7, op), (7, z), (7, p), (6, s), (3, lc)]) K = zeros [z] (K lc s p) := by
  have hu : unpack [9, 7, 7, 6, 3] _ = [_, z, p, s, lc] := unpack_word h k op
  rw [decPC, hu]

/-- An E-class word of fields that fit is read as those fields. -/
theorem decE_pack {fs : List (Nat × Nat)} (h : Fit fs) (K : List Nat → DecResult) :
    decE (pack ((2, k) :: (7, op) :: fs)) (fs.map (·.1)) K = K (fs.map (·.2)) := by
  have hz : pack ((2, k) :: (7, op) :: fs) / 2 ^ (9 + (fs.map (·.1)).sum) = 0 := by
    refine Nat.div_eq_of_lt ((pack_lt _).trans_eq ?_)
    simp only [List.map_cons, List.sum_cons, ← Nat.add_assoc]
  simp only [decE, unpack_word h k op, hz, if_true, List.tail_cons]

theorem HasOp.fieldsV (h : HasOp w k op) : ∃ d a b t p, Fit [(5, d), (5, a), (5, b), (3, t), (5, p)] ∧
    pack [(2, k), (7, op), (5, d), (5, a), (5, b), (3, t), (5, p)] = w :=
  ⟨_, _, _, _, _, fit_unpack [5, 5, 5, 3, 5] _, h.pack_fields [5, 5, 5, 3, 5] rfl⟩

end

/-! ### Accepted V-class words re-encode -/

section
variable {w op v : Nat}

theorem decV_reencodes_short {K : VR → Instr} {L : Option (VL → Instr)} (h : HasOp w 0 op) (henc : ∀ o, encode (K o) = encVR op o) :
    Reencodes .V w none (decV w none (some K) L) := by
  obtain ⟨d, a, b, t, p, hfit, rfl⟩ := h.fieldsV
  rw [decV, decVR_pack hfit]
  exact reencodes_checked (henc _)

theorem decV_reencodes_long {K : Option (VR → Instr)} {L : VL → Instr} (h : HasOp w 1 op) (hv : v < 2 ^ 32)
    (henc : ∀ o, encode (L o) = encVL op o) : Reencodes .V w (some v) (decV w (some v) K (some L)) := by
  obtain ⟨d, a, b, t, p, hfit, rfl⟩ := h.fieldsV
  obtain ⟨px, c, fd, hi, hfit', rfl⟩ : ∃ px c fd hi, Fit [(7, px), (5, c), (4, fd), (16, hi)] ∧ pack [(7, px), (5, c), (4, fd), (16, hi)] = v :=
    ⟨_, _, _, _, fit_unpack [7, 5, 4, 16] _, pack_operand hv [7, 5, 4, 16] rfl⟩
  rw [decV_pack_long hfit hfit']
  refine reencodes_zeros fun hz => ?_
  obtain rfl : p = 0 := by simpa using hz
  exact henc _

theorem decPL_reencodes {K : Nat → Nat → Nat → DecResult} (h : HasOp w 0 op)
    (hK : ∀ d a b, encPL op d a b = some ⟨.V, w, none⟩ → Reencodes .V w none (K d a b)) : Reencodes .V w none (decPL w K) := by
  obtain ⟨b, a, d, z, hfit, rfl⟩ : ∃ b a d z, Fit [(7, b), (7, a), (7, d), (2, z)] ∧ pack [(2, 0), (7, op), (7, b), (7, a), (7, d), (2, z)] = w :=
    ⟨_, _, _, _, fit_unpack [7, 7, 7, 2] _, h.pack_fields [7, 7, 7, 2] rfl⟩
  rw [decPL_pack hfit]
  refine reencodes_ite (fun hz => ?_) fun _ => reencodes_error _
  subst hz
  exact hK _ _ _ rfl

theorem decPC_reencodes {K : Nat → Nat → Nat → Instr} (h : HasOp w 0 op) (henc : ∀ lc s p, encode (K lc s p) = encPC op lc s p) :
    Reencodes .V w none (decPC w K) := by
  obtain ⟨z, p, s, lc, hfit, rfl⟩ : ∃ z p s lc, Fit [(7, z), (7, p), (6, s), (3, lc)] ∧ pack [(2, 0), (7, op), (7, z), (7, p), (6, s), (3, lc)] = w :=
    ⟨_, _, _, _, fit_unpack [7, 7, 6, 3] _, h.pack_fields [7, 7, 6, 3] rfl⟩
  rw [decPC_pack hfit]
  refine reencodes_zeros fun hz => ?_
  obtain rfl : z = 0 := by simpa using hz
  exact henc _ _ _

/-- PNOT and PMOV: the field B is zero. -/
theorem unary_reencodes {b d a : Nat} {i : Instr} (he : encPL op d a b = some ⟨.V, w, none⟩) (henc : encode i = encPL op d a 0) :
    Reencodes .V w none (zeros [b] i) :=
  reencodes_zeros fun hz => by
    obtain rfl : b = 0 := by simpa using hz
    exact henc.trans he

/-- An accepted 32-bit V-class word is the encoding of what it decodes to: the rows of Table 4-9 by their opcodes. -/
theorem decVc_reencodes_short (h : HasOp w 0 op) : Reencodes .V w none (decVc w none) := by
  have hop := h.op_lt
  unfold decVc
  rw [h.op]
  interval_cases op
  · exact reencodes_error _
  iterate 4 exact decV_reencodes_short h fun _ => rfl
  · exact reencodes_error _
  iterate 11 exact decV_reencodes_short h fun _ => rfl
  iterate 2 exact reencodes_error _
  iterate 2 exact decV_reencodes_short h fun _ => rfl
  iterate 11 exact reencodes_error _
  iterate 3 exact decV_reencodes_short h fun _ => rfl
  · exact reencodes_error _
  iterate 4 exact decV_reencodes_short h fun _ => rfl
  · exact reencodes_error _
  iterate 7 exact decV_reencodes_short h fun _ => rfl
  iterate 10 exact reencodes_error _
  iterate 11 exact decV_reencodes_short h fun _ => rfl
  iterate 11 exact reencodes_error _
  · exact decPL_reencodes (K := fun d a b => checked (.pand d a b)) h fun _ _ _ he => reencodes_checked he
  · exact decPL_reencodes (K := fun d a b => checked (.por d a b)) h fun _ _ _ he => reencodes_checked he
  · exact decPL_reencodes (K := fun d a b => checked (.pxor d a b)) h fun _ _ _ he => reencodes_checked he
  · exact decPL_reencodes (K := fun d a b => zeros [b] (.pnot d a)) h fun _ _ _ he => unary_reencodes he rfl
  · exact decPL_reencodes (K := fun d a b => checked (.pandn d a b)) h fun _ _ _ he => reencodes_checked he
  iterate 3 exact decPC_reencodes h fun _ _ _ => rfl
  · exact decPL_reencodes (K := fun d a b => zeros [b] (.pmov d a)) h fun _ _ _ he => unary_reencodes he rfl
  all_goals exact reencodes_error _

/-- An accepted 64-bit V-class word is the encoding of what it decodes to. -/
theorem decVc_reencodes_long (h : HasOp w 1 op) (hv : v < 2 ^ 32) : Reencodes .V w (some v) (decVc w (some v)) := by
  have hop := h.op_lt
  unfold decVc
  rw [h.op]
  interval_cases op
  · exact reencodes_error _
  iterate 20 exact decV_reencodes_long h hv fun _ => rfl
  iterate 11 exact reencodes_error _
  iterate 21 exact decV_reencodes_long h hv fun _ => rfl
  iterate 3 exact reencodes_error _
  iterate 13 exact decV_reencodes_long h hv fun _ => rfl
  all_goals exact reencodes_error _

/-! ### Accepted X-class words re-encode -/

/-- The fields of TMMA and TMSR. -/
theorem HasOp.fieldsProduct (h : HasOp w 0 op) : ∃ set ta tb seg nv z, unpack [9, 1, 3, 3, 4, 7, 5] w = [w % 2 ^ 9, set, ta, tb, seg, nv, z] ∧
    pack [(2, 0), (7, op), (1, set), (3, ta), (3, tb), (4, seg), (7, nv), (5, z)] = w :=
  ⟨_, _, _, _, _, _, rfl, h.pack_fields [1, 3, 3, 4, 7, 5] rfl⟩

/-- The fields of the first word of a drain. -/
theorem HasOp.fieldsDrain {k : Nat} (h : HasOp w k op) : ∃ set z r arg f z' dk,
    unpack [9, 1, 2, 6, 7, 4, 1, 2] w = [w % 2 ^ 9, set, z, r, arg, f, z', dk] ∧ arg < 2 ^ 7 ∧
      pack [(2, k), (7, op), (1, set), (2, z), (6, r), (7, arg), (4, f), (1, z'), (2, dk)] = w :=
  ⟨_, _, _, _, _, _, _, rfl, Nat.mod_lt _ (by decide), h.pack_fields [1, 2, 6, 7, 4, 1, 2] rfl⟩

/-- TZERO to TGEN: one field after the other, with zeros above. -/
theorem decX_reencodes_short (h : HasOp w 0 op) : Reencodes .X w none (decX w none) := by
  have hop := h.op_lt
  unfold decX
  rw [h.op]
  interval_cases op
  · exact reencodes_error _
  · obtain ⟨set, fa, fb, mk, z, hu, rfl⟩ : ∃ set fa fb mk z, unpack [9, 1, 4, 4, 3, 11] w = [w % 2 ^ 9, set, fa, fb, mk, z] ∧
        pack [(2, 0), (7, 0x01), (1, set), (4, fa), (4, fb), (3, mk), (11, z)] = w := ⟨_, _, _, _, _, rfl, h.pack_fields [1, 4, 4, 3, 11] rfl⟩
    rw [hu]
    refine reencodes_zeros fun hz => ?_
    obtain rfl : z = 0 := by simpa using hz
    rfl
  · obtain ⟨set, ta, tb, seg, nv, z, hu, rfl⟩ := h.fieldsProduct
    rw [hu]
    refine reencodes_zeros fun hz => ?_
    obtain rfl : z = 0 := by simpa using hz
    rfl
  · obtain ⟨set, ta, tb, seg, nv, z, hu, rfl⟩ := h.fieldsProduct
    rw [hu]
    refine reencodes_zeros fun hz => ?_
    obtain rfl : z = 0 := by simpa using hz
    rfl
  · obtain ⟨set, z, r, arg, f, z', dk, hu, harg, rfl⟩ := h.fieldsDrain
    rw [hu]
    refine reencodes_ite (fun hdk => reencodes_zeros fun hz => ?_) fun _ => reencodes_ite (fun hdk => reencodes_zeros fun hz => ?_) fun _ => reencodes_error _
    · obtain ⟨rfl, rfl, hlow⟩ : z = 0 ∧ z' = 0 ∧ arg % 8 = 0 := by simpa using hz
      obtain ⟨bo, rfl⟩ : ∃ bo, arg = 8 * bo := ⟨arg / 8, by omega⟩
      rw [Nat.mul_div_cancel_left bo (by decide), hdk]; rfl
    · obtain ⟨rfl, rfl⟩ : z = 0 ∧ z' = 0 := by simpa using hz
      subst hdk; rfl
  iterate 2 exact reencodes_checked (enc_word (h.pack_fields [3, 7, 5, 4, 3, 1] rfl))
  · exact reencodes_checked (enc_word (h.pack_fields [3, 10, 5, 4, 1] rfl))
  · obtain ⟨tr, f, bo, v, sd, z, hu, rfl⟩ : ∃ tr f bo v sd z, unpack [9, 3, 4, 4, 5, 6, 1] w = [w % 2 ^ 9, tr, f, bo, v, sd, z] ∧
        pack [(2, 0), (7, 0x08), (3, tr), (4, f), (4, bo), (5, v), (6, sd), (1, z)] = w := ⟨_, _, _, _, _, _, rfl, h.pack_fields [3, 4, 4, 5, 6, 1] rfl⟩
    rw [hu]
    refine reencodes_zeros fun hz => ?_
    obtain rfl : z = 0 := by simpa using hz
    rfl
  · obtain ⟨tr, f, bo, v, z, hu, rfl⟩ : ∃ tr f bo v z, unpack [9, 3, 4, 4, 5, 7] w = [w % 2 ^ 9, tr, f, bo, v, z] ∧
        pack [(2, 0), (7, 0x09), (3, tr), (4, f), (4, bo), (5, v), (7, z)] = w := ⟨_, _, _, _, _, rfl, h.pack_fields [3, 4, 4, 5, 7] rfl⟩
    rw [hu]
    refine reencodes_zeros fun hz => ?_
    obtain rfl : z = 0 := by simpa using hz
    rfl
  all_goals exact reencodes_error _

theorem tdrainMemory_row {n set z r arg f z' dk off z'' chn sc : Nat} (h : opOf w = 0x04)
    (hu : unpack [9, 1, 2, 6, 7, 4, 1, 2] w = [n, set, z, r, arg, f, z', dk]) (hv : unpack [20, 5, 4, 3] v = [off, z'', chn, sc]) :
    decX w (some v) =
      if dk = 2 then zeros [z, z', arg, z''] (.tdrainMemory f r set sc chn (sgn 20 off)) else .error .wrongKind := by
  unfold decX
  rw [h]
  change (match unpack [9, 1, 2, 6, 7, 4, 1, 2] w, unpack [20, 5, 4, 3] v with
    | [_, set, z, r, arg, f, z', dk], [off, z'', chn, sc] =>
      if dk = 2 then zeros [z, z', arg, z''] (.tdrainMemory f r set sc chn (sgn 20 off)) else .error .wrongKind
    | _, _ => .error .operands) = _
  rw [hu, hv]

/-- The drain to memory is the only X-class op word of 64 bits. -/
theorem decX_reencodes_long (h : HasOp w 1 op) (hv : v < 2 ^ 32) : Reencodes .X w (some v) (decX w (some v)) := by
  obtain rfl | hdrain := eq_or_ne op 0x04
  · obtain ⟨set, z, r, arg, f, z', dk, hu, -, rfl⟩ := h.fieldsDrain
    obtain ⟨off, z'', chn, sc, hu', hoff, rfl⟩ : ∃ off z'' chn sc, unpack [20, 5, 4, 3] v = [off, z'', chn, sc] ∧ off < 2 ^ 20 ∧
        pack [(20, off), (5, z''), (4, chn), (3, sc)] = v := ⟨_, _, _, _, rfl, Nat.mod_lt _ (by decide), pack_operand hv [20, 5, 4, 3] rfl⟩
    rw [tdrainMemory_row h.op hu hu']
    refine reencodes_ite (fun hdk => reencodes_zeros fun hz => ?_) fun _ => reencodes_error _
    obtain ⟨rfl, rfl, rfl, rfl⟩ : z = 0 ∧ z' = 0 ∧ arg = 0 ∧ z'' = 0 := by simpa using hz
    subst hdk
    change e64 .X 0x04 _ [(20, usg 20 (sgn 20 off)), _, _, _] = _
    rw [usg_sgn hoff]; rfl
  · have hop := h.op_lt
    unfold decX
    rw [h.op]
    interval_cases op
    iterate 4 exact reencodes_error _
    · contradiction
    all_goals exact reencodes_error _

/-! ### Accepted E-class words re-encode -/

/-- What is left to show of an E-class word, whose fields fill its bits up to zeros. -/
theorem decE_reencodes {ws : List Nat} {K : List Nat → DecResult} (h : HasOp w 0 op)
    (hK : ∀ vs, vs = unpack ws (w / 2 ^ 9) → pack ((2, 0) :: (7, op) :: ws.zip vs) = w → Reencodes .E w none (K vs)) :
    Reencodes .E w none (decE w ws K) := by
  unfold decE
  refine reencodes_ite (fun hz => ?_) fun _ => reencodes_error _
  refine hK _ rfl (pack_fields h.kind h.op ws ?_)
  exact (Nat.div_eq_zero_iff.1 hz).resolve_left (Nat.two_pow_pos _).ne'

/-- An E-class word without zeros among its fields. -/
theorem decE_reencodes_checked {ws : List Nat} {K : List Nat → DecResult} {i : Instr} (h : HasOp w 0 op)
    (hK : K (unpack ws (w / 2 ^ 9)) = checked i) (henc : encode i = e32 .E op (ws.zip (unpack ws (w / 2 ^ 9)))) :
    Reencodes .E w none (decE w ws K) :=
  decE_reencodes h fun vs hvs hw => by
    subst hvs
    rw [hK]
    exact reencodes_checked (henc.trans (enc_word hw))

/-- CTLW by its register, whichever row it is of, holds the register's index (R49, R50, R104). -/
theorem encode_ctlwOf (c a : Nat) : encode (ctlwOf c a) = e32 .E 0x13 [(6, a), (10, c)] := by
  unfold ctlwOf
  split
  · next h => rw [h]; rfl
  · split
    · next h => change e32 .E 0x13 [(6, a), (10, 0x40 + (c - 0x40))] = _; rw [Nat.add_sub_cancel' h.1]
    · rfl

/-- Every accepted E-class word is the encoding of what it decodes to. -/
theorem decEc_reencodes (h : HasOp w 0 op) : Reencodes .E w none (decEc w) := by
  have hop := h.op_lt
  unfold decEc
  rw [h.op]
  interval_cases op
  · exact reencodes_error _
  · exact decE_reencodes_checked h rfl rfl
  · refine decE_reencodes h fun vs hvs hw => ?_
    obtain ⟨z, a, b, rfl⟩ : ∃ z a b, vs = [z, a, b] := ⟨_, _, _, hvs⟩
    refine reencodes_zeros fun hz => ?_
    obtain rfl : z = 0 := by simpa using hz
    exact enc_word hw
  · exact decE_reencodes_checked h rfl rfl
  · refine decE_reencodes h fun vs hvs hw => ?_
    subst hvs
    exact reencodes_zeros fun _ => enc_word hw
  iterate 5 exact decE_reencodes_checked h rfl rfl
  iterate 6 exact reencodes_error _
  · exact decE_reencodes_checked h rfl rfl
  · refine decE_reencodes h fun vs hvs hw => ?_
    obtain ⟨a, nx, hnx, rfl⟩ : ∃ a nx, nx < 2 ^ 1 ∧ vs = [a, nx] := ⟨_, _, Nat.mod_lt _ (by decide), hvs⟩
    refine reencodes_checked ?_
    obtain rfl | rfl : nx = 0 ∨ nx = 1 := by omega
    all_goals exact enc_word hw
  · exact decE_reencodes_checked h rfl rfl
  · refine decE_reencodes h fun vs hvs hw => ?_
    obtain ⟨a, c, rfl⟩ : ∃ a c, vs = [a, c] := ⟨_, _, hvs⟩
    exact reencodes_checked ((encode_ctlwOf c a).trans (enc_word hw))
  iterate 5 exact decE_reencodes_checked h rfl rfl
  iterate 7 exact reencodes_error _
  iterate 5 exact decE_reencodes_checked h rfl rfl
  · refine decE_reencodes h fun vs hvs hw => ?_
    obtain ⟨sb, z, d, rfl⟩ : ∃ sb z d, vs = [sb, z, d] := ⟨_, _, _, hvs⟩
    refine reencodes_zeros fun hz => ?_
    obtain rfl : z = 0 := by simpa using hz
    exact enc_word hw
  · exact decE_reencodes_checked h rfl rfl
  iterate 9 exact reencodes_error _
  iterate 5 exact decE_reencodes_checked h rfl rfl
  iterate 3 exact reencodes_error _
  · exact decE_reencodes_checked h rfl rfl
  · refine decE_reencodes h fun vs hvs hw => ?_
    obtain ⟨d, z, md, land, hmd, rfl⟩ : ∃ d z md land, md < 2 ^ 1 ∧ vs = [d, z, md, land] := ⟨_, _, _, _, Nat.mod_lt _ (by decide), hvs⟩
    refine reencodes_ite (fun h0 => reencodes_zeros fun hz => ?_) fun h0 => reencodes_zeros fun hz => ?_
    · obtain rfl : z = 0 := by simpa using hz
      subst h0; exact enc_word hw
    · obtain ⟨rfl, rfl⟩ : z = 0 ∧ land = 0 := by simpa using hz
      obtain rfl : md = 1 := by omega
      exact enc_word hw
  · exact decE_reencodes_checked h rfl rfl
  · exact reencodes_error _
  · exact decE_reencodes_checked h rfl rfl
  · refine decE_reencodes h fun vs hvs hw => ?_
    obtain ⟨d, a, z, chn, rfl⟩ : ∃ d a z chn, vs = [d, a, z, chn] := ⟨_, _, _, _, hvs⟩
    refine reencodes_zeros fun hz => ?_
    obtain rfl : z = 0 := by simpa using hz
    exact enc_word hw
  iterate 2 exact decE_reencodes_checked h rfl rfl
  all_goals exact reencodes_error _

end

/-! ### The classes together -/

/-- Where an op word of a class is accepted, it is the encoding of what it decodes to. -/
theorem decodeOp_reencodes {c : Cls} {w : Nat} {w2 : Option Nat} (hw : w < 2 ^ 32) (hw2 : ∀ v, w2 = some v → v < 2 ^ 32) :
    Reencodes c w w2 (decodeOp c w w2) := by
  refine reencodes_ite (fun hkind => ?_) fun _ => reencodes_error _
  obtain ⟨hk, rfl⟩ | ⟨hk, hsome⟩ := hkind
  · have h : HasOp w 0 (opOf w) := ⟨hw, hk, rfl⟩
    cases c with
    | I => exact decI_reencodes_short h
    | M => exact decM_reencodes_short h
    | V => exact decVc_reencodes_short h
    | X => exact decX_reencodes_short h
    | E => exact decEc_reencodes h
  · obtain ⟨v, rfl⟩ := Option.isSome_iff_exists.1 hsome
    have h : HasOp w 1 (opOf w) := ⟨hw, hk, rfl⟩
    have hv := hw2 v rfl
    cases c with
    | I => exact decI_reencodes_long h hv
    | M => exact decM_reencodes_long h hv
    | V => exact decVc_reencodes_long h hv
    | X => exact decX_reencodes_long h hv
    | E => exact reencodes_error _

/-- Settles O2: class by class, the row that accepts a word is the row that encodes what it reads. -/
theorem decodedWordsReencode : Obligations.DecodedWordsReencode :=
  fun _ _ _ i hw hw2 h => decodeOp_reencodes hw hw2 i h

end Sys2Proof
end

section
/-! The round trip: the row of a well-formed instruction's opcode reads it back from its packed fields. -/

namespace Sys2Proof
open Laws

/-- A well-formed instruction is read back from its encoding. -/
def RoundTrips (i : Instr) : Prop := i.wellFormed = true → ∀ e, encode i = some e → decodeOp e.cls e.w e.w2 = .ok i

section
variable {i : Instr} {c : Cls} {op : Nat} {fs gs : List (Nat × Nat)}

/-- An instruction of one word. -/
theorem roundTrips_short {r : Nat → DecResult} (henc : encode i = e32 c op fs) (hop : op < 128)
    (hrow : ∀ w, kindOf w = 0 → opOf w = op → decodeOp c w none = r w)
    (hread : i.wellFormed = true → r (pack ((2, 0) :: (7, op) :: fs)) = .ok i) : RoundTrips i := by
  intro hwf e he
  obtain rfl := Option.some.inj (henc.symm.trans he)
  exact (hrow _ (pack_kind 0 _) (opOf_pack hop ..)).trans (hread hwf)

/-- An instruction of an op word and an operand word. -/
theorem roundTrips_long {r : Nat → Nat → DecResult} (henc : encode i = e64 c op fs gs) (hop : op < 128)
    (hrow : ∀ w v, kindOf w = 1 → opOf w = op → decodeOp c w (some v) = r w v)
    (hread : i.wellFormed = true → r (pack ((2, 1) :: (7, op) :: fs)) (pack gs) = .ok i) : RoundTrips i := by
  intro hwf e he
  obtain rfl := Option.some.inj (henc.symm.trans he)
  exact (hrow _ _ (pack_kind 1 _) (opOf_pack hop ..)).trans (hread hwf)

end

/-! ### The rows of a class -/

theorem decodeOp_I_short {w : Nat} (h : kindOf w = 0) : decodeOp .I w none = decI w none := if_pos (.inl ⟨h, rfl⟩)
theorem decodeOp_I_long {w v : Nat} (h : kindOf w = 1) : decodeOp .I w (some v) = decI w (some v) := if_pos (.inr ⟨h, rfl⟩)
theorem decodeOp_M_short {w : Nat} (h : kindOf w = 0) : decodeOp .M w none = decM w none := if_pos (.inl ⟨h, rfl⟩)
theorem decodeOp_M_long {w v : Nat} (h : kindOf w = 1) : decodeOp .M w (some v) = decM w (some v) := if_pos (.inr ⟨h, rfl⟩)
theorem decodeOp_V_short {w : Nat} (h : kindOf w = 0) : decodeOp .V w none = decVc w none := if_pos (.inl ⟨h, rfl⟩)
theorem decodeOp_V_long {w v : Nat} (h : kindOf w = 1) : decodeOp .V w (some v) = decVc w (some v) := if_pos (.inr ⟨h, rfl⟩)
theorem decodeOp_X_short {w : Nat} (h : kindOf w = 0) : decodeOp .X w none = decX w none := if_pos (.inl ⟨h, rfl⟩)
theorem decodeOp_X_long {w v : Nat} (h : kindOf w = 1) : decodeOp .X w (some v) = decX w (some v) := if_pos (.inr ⟨h, rfl⟩)
theorem decodeOp_E {w : Nat} (h : kindOf w = 0) : decodeOp .E w none = decEc w := if_pos (.inl ⟨h, rfl⟩)

/-! ### I-class layouts -/

section
variable {op d a b : Nat} {o : Int}

theorem rrr_roundTrips {K : Nat → Nat → Nat → Instr} (henc : encode (K d a b) = encRRR op d a b)
    (hwf : (K d a b).wellFormed = (fits 6 d && fits 6 a && fits 6 b)) (hop : op < 128)
    (hrow : ∀ w, opOf w = op → decI w none = decRRR w K) : RoundTrips (K d a b) := by
  refine roundTrips_short henc hop (fun w hk h => (decodeOp_I_short hk).trans (hrow w h)) fun h => ?_
  obtain ⟨⟨hd, ha⟩, hb⟩ : (d < 2 ^ 6 ∧ a < 2 ^ 6) ∧ b < 2 ^ 6 := by simpa using hwf.symm.trans h
  exact (decIR_pack (by simp only [fit_cons, fit_nil, and_true]; omega) _).trans (zeros_of_wellFormed rfl h)

theorem rr_roundTrips {K : Nat → Nat → Instr} (henc : encode (K d a) = encRRR op d a 0)
    (hwf : (K d a).wellFormed = (fits 6 d && fits 6 a)) (hop : op < 128)
    (hrow : ∀ w, opOf w = op → decI w none = decRR w K) : RoundTrips (K d a) := by
  refine roundTrips_short henc hop (fun w hk h => (decodeOp_I_short hk).trans (hrow w h)) fun h => ?_
  obtain ⟨hd, ha⟩ : d < 2 ^ 6 ∧ a < 2 ^ 6 := by simpa using hwf.symm.trans h
  exact (decIR_pack (by simp only [fit_cons, fit_nil, and_true]; omega) _).trans (zeros_of_wellFormed rfl h)

/-- Formats II and IB: the third field is signed. -/
theorem imm_roundTrips {K L : Nat → Nat → Int → Instr} (henc : encode (K d a o) = encII op d a o) (hop : op < 128)
    (hrow : ∀ w, opOf w = op → decI w none = decImm w none K L)
    (hfit : (K d a o).wellFormed = true → d < 64 ∧ a < 64 ∧ fitsS 11 o = true) : RoundTrips (K d a o) := by
  refine roundTrips_short henc hop (fun w hk h => (decodeOp_I_short hk).trans (hrow w h)) fun h => ?_
  obtain ⟨hd, ha, ho⟩ := hfit h
  rw [decImm_pack_short (fit_ii hd ha), sgn_usg (by decide) ho]
  exact checked_of_wellFormed h

theorem immLong_roundTrips {K L : Nat → Nat → Int → Instr} (henc : encode (L d a o) = encIL op d a o) (hop : op < 128)
    (hrow : ∀ w v, opOf w = op → decI w (some v) = decImm w (some v) K L)
    (hfit : (L d a o).wellFormed = true → d < 64 ∧ a < 64 ∧ fitsS 32 o = true) : RoundTrips (L d a o) := by
  refine roundTrips_long henc hop (fun w v hk h => (decodeOp_I_long hk).trans (hrow w v h)) fun h => ?_
  obtain ⟨hd, ha, ho⟩ := hfit h
  rw [decImm_pack_long (fit_il hd ha), pack_word (usg_lt ..), sgn_usg (by decide) ho]
  exact zeros_of_wellFormed rfl h

theorem branch_roundTrips {i : Instr} {K L : Nat → Nat → Int → DecResult} (henc : encode i = encII op a b o) (hop : op < 128)
    (hrow : ∀ w, opOf w = op → decI w none = decB w none K L)
    (hfit : i.wellFormed = true → a < 64 ∧ b < 64 ∧ fitsS 11 o = true) (hK : i.wellFormed = true → K a b o = .ok i) : RoundTrips i := by
  refine roundTrips_short henc hop (fun w hk h => (decodeOp_I_short hk).trans (hrow w h)) fun h => ?_
  obtain ⟨ha, hb, ho⟩ := hfit h
  rw [decB_pack_short (fit_ii ha hb), sgn_usg (by decide) ho]
  exact hK h

theorem branchLong_roundTrips {i : Instr} {K L : Nat → Nat → Int → DecResult} (henc : encode i = encIL op a b o) (hop : op < 128)
    (hrow : ∀ w v, opOf w = op → decI w (some v) = decB w (some v) K L)
    (hfit : i.wellFormed = true → a < 64 ∧ b < 64 ∧ fitsS 32 o = true) (hL : i.wellFormed = true → L a b o = .ok i) : RoundTrips i := by
  refine roundTrips_long henc hop (fun w v hk h => (decodeOp_I_long hk).trans (hrow w v h)) fun h => ?_
  obtain ⟨ha, hb, ho⟩ := hfit h
  rw [decB_pack_long (fit_il ha hb), pack_word (usg_lt ..), sgn_usg (by decide) ho, if_pos rfl]
  exact hL h

/-- The ranges of two registers and a signed field, as a well-formedness check states them. -/
theorem ranges_of_signed {n : Nat} (h : (fits 6 a && fits 6 b && fitsS n o) = true) : a < 64 ∧ b < 64 ∧ fitsS n o = true := by
  simp only [Bool.and_eq_true, and_assoc] at h
  simpa using h

/-- A shift amount lies in the immediate's range of either format. -/
theorem ranges_of_shift {n : Nat} (hn : 7 ≤ n) (h : (fits 6 a && fits 6 b && decide (0 ≤ o) && decide (o ≤ 63)) = true) :
    a < 64 ∧ b < 64 ∧ fitsS n o = true := by
  have hp : 2 ^ 6 ≤ 2 ^ (n - 1) := Nat.pow_le_pow_right (by decide) (by omega)
  simp only [fitsS, Bool.and_eq_true, decide_eq_true_eq] at h ⊢
  omega


/-- SEXT and ZEXT. -/
theorem ext_roundTrips {f : Nat} {K : Nat → Nat → Nat → Instr} (henc : encode (K d a f) = e32 .I op [(6, d), (6, a), (6, 0), (5, f)])
    (hwf : (K d a f).wellFormed = (fits 6 d && fits 6 a && decide (f ≤ 2))) (hop : op < 128)
    (hrow : ∀ w, opOf w = op → decI w none = decIR w fun d a b f => zeros [b] (K d a f)) : RoundTrips (K d a f) := by
  refine roundTrips_short henc hop (fun w hk h => (decodeOp_I_short hk).trans (hrow w h)) fun h => ?_
  obtain ⟨⟨hd, ha⟩, hf⟩ : (d < 2 ^ 6 ∧ a < 2 ^ 6) ∧ f ≤ 2 := by simpa using hwf.symm.trans h
  exact (decIR_pack (by simp only [fit_cons, fit_nil, and_true]; omega) _).trans (zeros_of_wellFormed rfl h)

/-- The words of an instruction of three registers and an operand word. -/
theorem irLong_roundTrips {i : Instr} {gs : List (Nat × Nat)} {K : Nat → Nat → Nat → Nat → Nat → DecResult}
    (henc : encode i = e64 .I op [(6, d), (6, a), (6, b), (5, 0)] gs) (hop : op < 128)
    (hrow : ∀ w v, opOf w = op → decI w (some v) = decIR w fun d a b f => K v d a b f)
    (hfit : i.wellFormed = true → Fit [(6, d), (6, a), (6, b), (5, 0)]) (hK : i.wellFormed = true → K (pack gs) d a b 0 = .ok i) :
    RoundTrips i :=
  roundTrips_long henc hop (fun w v hk h => (decodeOp_I_long hk).trans (hrow w v h)) fun h => (decIR_pack (hfit h) _).trans (hK h)

/-! ### I-class words of their own layouts -/

theorem RoundTrips.sel (d a b c : Nat) : RoundTrips (.sel d a b c) := by
  refine irLong_roundTrips rfl (by decide) (fun w v h => by unfold decI; rw [h]; rfl) (fun h => ?_) fun h => ?_
  all_goals
    have hwf : (_ && _) = true := h
    simp only [Bool.and_eq_true, decide_eq_true_eq] at hwf
  · simp only [fit_cons, fit_nil, and_true]; omega
  · have hu : unpack [6, 26] _ = [c, 0] :=
      unpack_pack (fs := [(6, c), (26, 0)]) (by simp only [fit_cons, fit_nil, and_true]; omega)
    rw [hu]
    exact zeros_of_wellFormed rfl h

theorem RoundTrips.bfx (d a pos len sx : Nat) : RoundTrips (.bfx d a pos len sx) := by
  refine irLong_roundTrips rfl (by decide) (fun w v h => by unfold decI; rw [h]; rfl) (fun h => ?_) fun h => ?_
  all_goals
    have hwf : (_ && _) = true := h
    simp only [Bool.and_eq_true, decide_eq_true_eq] at hwf
  · simp only [fit_cons, fit_nil, and_true]; omega
  · have hu : unpack [6, 7, 1, 18] _ = [pos, len, sx, 0] :=
      unpack_pack (fs := [(6, pos), (7, len), (1, sx), (18, 0)]) (by simp only [fit_cons, fit_nil, and_true]; omega)
    rw [hu]
    exact zeros_of_wellFormed rfl h

theorem RoundTrips.bfi (d a b pos len : Nat) : RoundTrips (.bfi d a b pos len) := by
  refine irLong_roundTrips rfl (by decide) (fun w v h => by unfold decI; rw [h]; rfl) (fun h => ?_) fun h => ?_
  all_goals
    have hwf : (_ && _) = true := h
    simp only [Bool.and_eq_true, decide_eq_true_eq] at hwf
  · simp only [fit_cons, fit_nil, and_true]; omega
  · have hu : unpack [6, 7, 19] _ = [pos, len, 0] :=
      unpack_pack (fs := [(6, pos), (7, len), (19, 0)]) (by simp only [fit_cons, fit_nil, and_true]; omega)
    rw [hu]
    exact zeros_of_wellFormed rfl h

theorem RoundTrips.movi (d md imm : Nat) : RoundTrips (.movi d md imm) := by
  refine roundTrips_long rfl (by decide) (fun w v hk h => (decodeOp_I_long hk).trans (by unfold decI; rw [h])) fun h => ?_
  have hwf : (_ && _) = true := h
  simp only [Bool.and_eq_true, decide_eq_true_eq] at hwf
  obtain ⟨⟨hd, hmd⟩, himm⟩ := hwf
  have hu : unpack [9, 6, 6, 2, 9] _ = [_, d, 0, md, 0] :=
    unpack_word (fs := [(6, d), (6, 0), (2, md), (9, 0)]) (by simp only [fit_cons, fit_nil, and_true]; omega) 1 0x28
  rw [hu, pack_word himm]
  change zeros _ (if md = 2 then _ else _) = _
  rw [if_neg (by omega)]
  exact zeros_of_wellFormed rfl h

theorem RoundTrips.moviHi (d imm : Nat) : RoundTrips (.moviHi d imm) := by
  refine roundTrips_long rfl (by decide) (fun w v hk h => (decodeOp_I_long hk).trans (by unfold decI; rw [h])) fun h => ?_
  have hwf : (_ && _) = true := h
  simp only [Bool.and_eq_true, decide_eq_true_eq] at hwf
  obtain ⟨hd, himm⟩ := hwf
  have hu : unpack [9, 6, 6, 2, 9] _ = [_, d, 0, 2, 0] :=
    unpack_word (fs := [(6, d), (6, 0), (2, 2), (9, 0)]) (by simp only [fit_cons, fit_nil, and_true]; omega) 1 0x28
  rw [hu, pack_word himm]
  exact zeros_of_wellFormed rfl h

theorem RoundTrips.step (slot src a : Nat) (imm : Int) : RoundTrips (.step slot src a imm) := by
  refine roundTrips_short rfl (by decide) (fun w hk h => (decodeOp_I_short hk).trans (by unfold decI; rw [h])) fun h => ?_
  obtain ⟨hslot, hsrc, ha, himm⟩ : slot ≤ 4 ∧ src < 2 ∧ a < 64 ∧ fitsS 12 imm = true := by
    have hwf : (_ && (_ && _ && _ || _ && _ && _)) = true := h
    simp only [Bool.and_eq_true, Bool.or_eq_true, decide_eq_true_eq, beq_iff_eq] at hwf
    obtain ⟨hslot, ⟨⟨rfl, rfl⟩, himm⟩ | ⟨⟨rfl, ha⟩, rfl⟩⟩ := hwf
    · exact ⟨hslot, by decide, by decide, by simpa using himm⟩
    · exact ⟨hslot, by decide, ha, by decide⟩
  have himm' := usg_lt 12 imm
  have hu : unpack [9, 1, 6, 1, 3, 12] _ = [_, 0, a, src, slot, usg 12 imm] :=
    unpack_word (fs := [(1, 0), (6, a), (1, src), (3, slot), (12, usg 12 imm)]) (by simp only [fit_cons, fit_nil, and_true]; omega) 0 0x29
  rw [hu]
  change zeros _ (.step slot src a (sgn 12 (usg 12 imm))) = _
  rw [sgn_usg (by decide) himm]
  exact zeros_of_wellFormed rfl h

end

/-! ### M-class words -/

theorem RoundTrips.vldp (land pt d : Nat) : RoundTrips (.vldp land pt d) := by
  refine roundTrips_short rfl (by decide) (fun w hk h => (decodeOp_M_short hk).trans (by unfold decM; rw [h])) fun h => ?_
  have hwf : (_ && _) = true := h
  simp only [Bool.and_eq_true, decide_eq_true_eq] at hwf
  have hu : unpack [9, 5, 6, 3, 2, 7] _ = [_, d, 0, pt, 0, land] :=
    unpack_word (fs := [(5, d), (6, 0), (3, pt), (2, 0), (7, land)]) (by simp only [fit_cons, fit_nil, and_true]; omega) 0 0x12
  rw [hu]
  exact (if_pos rfl).trans (zeros_of_wellFormed rfl h)

theorem RoundTrips.vldpSet (land pt a : Nat) : RoundTrips (.vldpSet land pt a) := by
  refine roundTrips_short rfl (by decide) (fun w hk h => (decodeOp_M_short hk).trans (by unfold decM; rw [h])) fun h => ?_
  have hwf : (_ && _) = true := h
  simp only [Bool.and_eq_true, decide_eq_true_eq] at hwf
  have hu : unpack [9, 5, 6, 3, 2, 7] _ = [_, 0, a, pt, 1, land] :=
    unpack_word (fs := [(5, 0), (6, a), (3, pt), (2, 1), (7, land)]) (by simp only [fit_cons, fit_nil, and_true]; omega) 0 0x12
  rw [hu]
  exact (if_neg (by decide)).trans ((if_pos rfl).trans (zeros_of_wellFormed rfl h))

theorem RoundTrips.vstp (chn pt d : Nat) : RoundTrips (.vstp chn pt d) := by
  refine roundTrips_short rfl (by decide) (fun w hk h => (decodeOp_M_short hk).trans (by unfold decM; rw [h])) fun h => ?_
  have hwf : (_ && _) = true := h
  simp only [Bool.and_eq_true, decide_eq_true_eq] at hwf
  have hu : unpack [9, 5, 6, 3, 2, 3, 4] _ = [_, d, 0, pt, 0, 0, chn] :=
    unpack_word (fs := [(5, d), (6, 0), (3, pt), (2, 0), (3, 0), (4, chn)]) (by simp only [fit_cons, fit_nil, and_true]; omega) 0 0x13
  rw [hu]
  exact (if_pos rfl).trans (zeros_of_wellFormed rfl h)

theorem RoundTrips.vstpSave (pt a : Nat) : RoundTrips (.vstpSave pt a) := by
  refine roundTrips_short rfl (by decide) (fun w hk h => (decodeOp_M_short hk).trans (by unfold decM; rw [h])) fun h => ?_
  have hwf : (_ && _) = true := h
  simp only [Bool.and_eq_true, decide_eq_true_eq] at hwf
  have hu : unpack [9, 5, 6, 3, 2, 3, 4] _ = [_, 0, a, pt, 1, 0, 0] :=
    unpack_word (fs := [(5, 0), (6, a), (3, pt), (2, 1), (3, 0), (4, 0)]) (by simp only [fit_cons, fit_nil, and_true]; omega) 0 0x13
  rw [hu]
  exact (if_neg (by decide)).trans ((if_pos rfl).trans (zeros_of_wellFormed rfl h))

theorem RoundTrips.vgth (esz ix a d land px : Nat) : RoundTrips (.vgth esz ix a d land px) := by
  refine roundTrips_long (fs := [(5, d), (6, a), (5, ix), (2, esz), (5, 0)]) (gs := [(14, 0), (4, 0), (7, px), (7, land)])
    (r := fun w v => decM w (some v)) rfl (by decide) (fun w v hk _ => decodeOp_M_long hk) fun h => ?_
  have hwf : (_ && _) = true := h
  simp only [Bool.and_eq_true, decide_eq_true_eq] at hwf
  have hu : unpack [9, 5, 6, 5, 2, 5] _ = [_, d, a, ix, esz, 0] :=
    unpack_word (fs := [(5, d), (6, a), (5, ix), (2, esz), (5, 0)]) (by simp only [fit_cons, fit_nil, and_true]; omega) 1 0x14
  have hv : unpack [14, 4, 7, 7] _ = [0, 0, px, land] :=
    unpack_pack (fs := [(14, 0), (4, 0), (7, px), (7, land)]) (by simp only [fit_cons, fit_nil, and_true]; omega)
  exact (vgth_row (opOf_pack (by decide) ..) hu hv).trans (zeros_of_wellFormed rfl h)

theorem RoundTrips.vsct (esz ix a d px chn : Nat) : RoundTrips (.vsct esz ix a d px chn) := by
  refine roundTrips_long (fs := [(5, d), (6, a), (5, ix), (2, esz), (5, 0)]) (gs := [(14, 0), (4, chn), (7, px), (7, 0)])
    (r := fun w v => decM w (some v)) rfl (by decide) (fun w v hk _ => decodeOp_M_long hk) fun h => ?_
  have hwf : (_ && _) = true := h
  simp only [Bool.and_eq_true, decide_eq_true_eq] at hwf
  have hu : unpack [9, 5, 6, 5, 2, 5] _ = [_, d, a, ix, esz, 0] :=
    unpack_word (fs := [(5, d), (6, a), (5, ix), (2, esz), (5, 0)]) (by simp only [fit_cons, fit_nil, and_true]; omega) 1 0x15
  have hv : unpack [14, 4, 7, 7] _ = [0, chn, px, 0] :=
    unpack_pack (fs := [(14, 0), (4, chn), (7, px), (7, 0)]) (by simp only [fit_cons, fit_nil, and_true]; omega)
  exact (vsct_row (opOf_pack (by decide) ..) hu hv).trans (zeros_of_wellFormed rfl h)

theorem RoundTrips.tld (bo t f a land : Nat) : RoundTrips (.tld bo t f a land) := by
  refine roundTrips_long (fs := [(6, 0), (6, a), (4, f), (3, t), (4, bo)]) (gs := [(21, 0), (4, 0), (7, land)])
    (r := fun w v => decM w (some v)) rfl (by decide) (fun w v hk _ => decodeOp_M_long hk) fun h => ?_
  have hwf : (_ && _) = true := h
  simp only [Bool.and_eq_true, decide_eq_true_eq] at hwf
  have hu : unpack [9, 6, 6, 4, 3, 4] _ = [_, 0, a, f, t, bo] :=
    unpack_word (fs := [(6, 0), (6, a), (4, f), (3, t), (4, bo)]) (by simp only [fit_cons, fit_nil, and_true]; omega) 1 0x18
  have hv : unpack [21, 4, 7] _ = [0, 0, land] :=
    unpack_pack (fs := [(21, 0), (4, 0), (7, land)]) (by simp only [fit_cons, fit_nil, and_true]; omega)
  exact (tld_row (opOf_pack (by decide) ..) hu hv).trans (zeros_of_wellFormed rfl h)

theorem RoundTrips.tst (bo t f a chn : Nat) : RoundTrips (.tst bo t f a chn) := by
  refine roundTrips_long (fs := [(6, 0), (6, a), (4, f), (3, t), (4, bo)]) (gs := [(21, 0), (4, chn), (7, 0)])
    (r := fun w v => decM w (some v)) rfl (by decide) (fun w v hk _ => decodeOp_M_long hk) fun h => ?_
  have hwf : (_ && _) = true := h
  simp only [Bool.and_eq_true, decide_eq_true_eq] at hwf
  have hu : unpack [9, 6, 6, 4, 3, 4] _ = [_, 0, a, f, t, bo] :=
    unpack_word (fs := [(6, 0), (6, a), (4, f), (3, t), (4, bo)]) (by simp only [fit_cons, fit_nil, and_true]; omega) 1 0x19
  have hv : unpack [21, 4, 7] _ = [0, chn, 0] :=
    unpack_pack (fs := [(21, 0), (4, chn), (7, 0)]) (by simp only [fit_cons, fit_nil, and_true]; omega)
  exact (tst_row (opOf_pack (by decide) ..) hu hv).trans (zeros_of_wellFormed rfl h)

theorem RoundTrips.prf (cnt a lv : Nat) (off : Int) : RoundTrips (.prf cnt a lv off) := by
  refine roundTrips_long rfl (by decide) (fun w v hk h => (decodeOp_M_long hk).trans (by unfold decM; rw [h])) fun h => ?_
  have hwf : (_ && fitsS 32 off) = true := h
  rw [Bool.and_eq_true] at hwf
  obtain ⟨hwf, hoff⟩ := hwf
  simp only [Bool.and_eq_true, decide_eq_true_eq] at hwf
  have hu : unpack [9, 6, 6, 7, 4] _ = [_, lv, a, 0, cnt] :=
    unpack_word (fs := [(6, lv), (6, a), (7, 0), (4, cnt)]) (by simp only [fit_cons, fit_nil, and_true]; omega) 1 0x1A
  rw [hu, pack_word (usg_lt ..)]
  change zeros _ (.prf cnt a lv (sgn 32 (usg 32 off))) = _
  rw [sgn_usg (by decide) hoff]
  exact zeros_of_wellFormed rfl h

theorem RoundTrips.spin (n a : Nat) : RoundTrips (.spin n a) := by
  refine roundTrips_short rfl (by decide) (fun w hk h => (decodeOp_M_short hk).trans (by unfold decM; rw [h])) fun h => ?_
  have hwf : (_ && _) = true := h
  simp only [Bool.and_eq_true, decide_eq_true_eq] at hwf
  have hu : unpack [9, 6, 6, 4, 7] _ = [_, 0, a, n, 0] :=
    unpack_word (fs := [(6, 0), (6, a), (4, n), (7, 0)]) (by simp only [fit_cons, fit_nil, and_true]; omega) 0 0x1B
  rw [hu]
  exact zeros_of_wellFormed rfl h

theorem RoundTrips.sprel (n a : Nat) : RoundTrips (.sprel n a) := by
  refine roundTrips_short rfl (by decide) (fun w hk h => (decodeOp_M_short hk).trans (by unfold decM; rw [h])) fun h => ?_
  have hwf : (_ && _) = true := h
  simp only [Bool.and_eq_true, decide_eq_true_eq] at hwf
  have hu : unpack [9, 6, 6, 4, 7] _ = [_, 0, a, n, 0] :=
    unpack_word (fs := [(6, 0), (6, a), (4, n), (7, 0)]) (by simp only [fit_cons, fit_nil, and_true]; omega) 0 0x1C
  rw [hu]
  exact zeros_of_wellFormed rfl h

theorem RoundTrips.wake (sz b a : Nat) : RoundTrips (.wake sz b a) := by
  refine roundTrips_short rfl (by decide) (fun w hk h => (decodeOp_M_short hk).trans (by unfold decM; rw [h])) fun h => ?_
  have hwf : (_ && _) = true := h
  simp only [Bool.and_eq_true, decide_eq_true_eq] at hwf
  have hu : unpack [9, 6, 6, 6, 1, 4] _ = [_, 0, a, b, sz, 0] :=
    unpack_word (fs := [(6, 0), (6, a), (6, b), (1, sz), (4, 0)]) (by simp only [fit_cons, fit_nil, and_true]; omega) 0 0x31
  rw [hu]
  exact zeros_of_wellFormed rfl h

/-! ### X-class words -/

theorem RoundTrips.tzero (mk fb fa set : Nat) : RoundTrips (.tzero mk fb fa set) := by
  refine roundTrips_short rfl (by decide) (fun w hk h => (decodeOp_X_short hk).trans (by unfold decX; rw [h])) fun h => ?_
  have hwf : (_ && _) = true := h
  simp only [Bool.and_eq_true, decide_eq_true_eq] at hwf
  have hu : unpack [9, 1, 4, 4, 3, 11] _ = [_, set, fa, fb, mk, 0] :=
    unpack_word (fs := [(1, set), (4, fa), (4, fb), (3, mk), (11, 0)]) (by simp only [fit_cons, fit_nil, and_true]; omega) 0 0x01
  rw [hu]
  exact zeros_of_wellFormed rfl h

theorem RoundTrips.tmma (nv seg tb ta set : Nat) : RoundTrips (.tmma nv seg tb ta set) := by
  refine roundTrips_short rfl (by decide) (fun w hk h => (decodeOp_X_short hk).trans (by unfold decX; rw [h])) fun h => ?_
  have hwf : (_ && _) = true := h
  simp only [Bool.and_eq_true, decide_eq_true_eq] at hwf
  have hu : unpack [9, 1, 3, 3, 4, 7, 5] _ = [_, set, ta, tb, seg, nv, 0] :=
    unpack_word (fs := [(1, set), (3, ta), (3, tb), (4, seg), (7, nv), (5, 0)]) (by simp only [fit_cons, fit_nil, and_true]; omega) 0 0x02
  rw [hu]
  exact zeros_of_wellFormed rfl h

theorem RoundTrips.tmsr (nv seg tb ta set : Nat) : RoundTrips (.tmsr nv seg tb ta set) := by
  refine roundTrips_short rfl (by decide) (fun w hk h => (decodeOp_X_short hk).trans (by unfold decX; rw [h])) fun h => ?_
  have hwf : (_ && _) = true := h
  simp only [Bool.and_eq_true, decide_eq_true_eq] at hwf
  have hu : unpack [9, 1, 3, 3, 4, 7, 5] _ = [_, set, ta, tb, seg, nv, 0] :=
    unpack_word (fs := [(1, set), (3, ta), (3, tb), (4, seg), (7, nv), (5, 0)]) (by simp only [fit_cons, fit_nil, and_true]; omega) 0 0x03
  rw [hu]
  exact zeros_of_wellFormed rfl h

theorem RoundTrips.tdrainTile (f bo r set : Nat) : RoundTrips (.tdrainTile f bo r set) := by
  refine roundTrips_short rfl (by decide) (fun w hk h => (decodeOp_X_short hk).trans (by unfold decX; rw [h])) fun h => ?_
  have hwf : (_ && _) = true := h
  simp only [Bool.and_eq_true, decide_eq_true_eq] at hwf
  have hu : unpack [9, 1, 2, 6, 7, 4, 1, 2] _ = [_, set, 0, r, 8 * bo, f, 0, 0] :=
    unpack_word (fs := [(1, set), (2, 0), (6, r), (7, 8 * bo), (4, f), (1, 0), (2, 0)]) (by simp only [fit_cons, fit_nil, and_true]; omega) 0 0x04
  rw [hu]
  change zeros [0, 0, 8 * bo % 8] (.tdrainTile f (8 * bo / 8) r set) = _
  rw [Nat.mul_mod_right, Nat.mul_div_cancel_left bo (by decide)]
  exact zeros_of_wellFormed rfl h

theorem RoundTrips.tdrainVector (f row r set : Nat) : RoundTrips (.tdrainVector f row r set) := by
  refine roundTrips_short rfl (by decide) (fun w hk h => (decodeOp_X_short hk).trans (by unfold decX; rw [h])) fun h => ?_
  have hwf : (_ && _) = true := h
  simp only [Bool.and_eq_true, decide_eq_true_eq] at hwf
  have hu : unpack [9, 1, 2, 6, 7, 4, 1, 2] _ = [_, set, 0, r, row, f, 0, 1] :=
    unpack_word (fs := [(1, set), (2, 0), (6, r), (7, row), (4, f), (1, 0), (2, 1)]) (by simp only [fit_cons, fit_nil, and_true]; omega) 0 0x04
  rw [hu]
  exact (if_neg (by decide)).trans ((if_pos rfl).trans (zeros_of_wellFormed rfl h))

theorem RoundTrips.tdrainMemory (f r set sc chn : Nat) (off : Int) : RoundTrips (.tdrainMemory f r set sc chn off) := by
  refine roundTrips_long (fs := [(1, set), (2, 0), (6, r), (7, 0), (4, f), (1, 0), (2, 2)]) (gs := [(20, usg 20 off), (5, 0), (4, chn), (3, sc)])
    (r := fun w v => decX w (some v)) rfl (by decide) (fun w v hk _ => decodeOp_X_long hk) fun h => ?_
  have hwf : (_ && fitsS 20 off && _) = true := h
  rw [Bool.and_eq_true, Bool.and_eq_true] at hwf
  obtain ⟨⟨hwf, hoff⟩, -⟩ := hwf
  simp only [Bool.and_eq_true, decide_eq_true_eq] at hwf
  have hoff' := usg_lt 20 off
  have hu : unpack [9, 1, 2, 6, 7, 4, 1, 2] _ = [_, set, 0, r, 0, f, 0, 2] :=
    unpack_word (fs := [(1, set), (2, 0), (6, r), (7, 0), (4, f), (1, 0), (2, 2)]) (by simp only [fit_cons, fit_nil, and_true]; omega) 1 0x04
  have hv : unpack [20, 5, 4, 3] _ = [usg 20 off, 0, chn, sc] :=
    unpack_pack (fs := [(20, usg 20 off), (5, 0), (4, chn), (3, sc)]) (by simp only [fit_cons, fit_nil, and_true]; omega)
  refine (tdrainMemory_row (opOf_pack (by decide) ..) hu hv).trans ((if_pos rfl).trans ?_)
  rw [sgn_usg (by decide) hoff]
  exact zeros_of_wellFormed rfl h

theorem RoundTrips.twr (cv bq f v row tr : Nat) : RoundTrips (.twr cv bq f v row tr) := by
  refine roundTrips_short rfl (by decide) (fun w hk h => (decodeOp_X_short hk).trans (by unfold decX; rw [h])) fun h => ?_
  have hwf : (_ && _) = true := h
  simp only [Bool.and_eq_true, decide_eq_true_eq] at hwf
  have hu : unpack [9, 3, 7, 5, 4, 3, 1] _ = [_, tr, row, v, f, bq, cv] :=
    unpack_word (fs := [(3, tr), (7, row), (5, v), (4, f), (3, bq), (1, cv)]) (by simp only [fit_cons, fit_nil, and_true]; omega) 0 0x05
  rw [hu]
  exact checked_of_wellFormed h

theorem RoundTrips.trdr (cv bq f v row tr : Nat) : RoundTrips (.trdr cv bq f v row tr) := by
  refine roundTrips_short rfl (by decide) (fun w hk h => (decodeOp_X_short hk).trans (by unfold decX; rw [h])) fun h => ?_
  have hwf : (_ && _) = true := h
  simp only [Bool.and_eq_true, decide_eq_true_eq] at hwf
  have hu : unpack [9, 3, 7, 5, 4, 3, 1] _ = [_, tr, row, v, f, bq, cv] :=
    unpack_word (fs := [(3, tr), (7, row), (5, v), (4, f), (3, bq), (1, cv)]) (by simp only [fit_cons, fit_nil, and_true]; omega) 0 0x06
  rw [hu]
  exact checked_of_wellFormed h

theorem RoundTrips.trdc (cv f v j tr : Nat) : RoundTrips (.trdc cv f v j tr) := by
  refine roundTrips_short rfl (by decide) (fun w hk h => (decodeOp_X_short hk).trans (by unfold decX; rw [h])) fun h => ?_
  have hwf : (_ && _) = true := h
  simp only [Bool.and_eq_true, decide_eq_true_eq] at hwf
  have hu : unpack [9, 3, 10, 5, 4, 1] _ = [_, tr, j, v, f, cv] :=
    unpack_word (fs := [(3, tr), (10, j), (5, v), (4, f), (1, cv)]) (by simp only [fit_cons, fit_nil, and_true]; omega) 0 0x07
  rw [hu]
  exact checked_of_wellFormed h

theorem RoundTrips.tchk (sd v bo f tr : Nat) : RoundTrips (.tchk sd v bo f tr) := by
  refine roundTrips_short rfl (by decide) (fun w hk h => (decodeOp_X_short hk).trans (by unfold decX; rw [h])) fun h => ?_
  have hwf : (_ && _) = true := h
  simp only [Bool.and_eq_true, decide_eq_true_eq] at hwf
  have hu : unpack [9, 3, 4, 4, 5, 6, 1] _ = [_, tr, f, bo, v, sd, 0] :=
    unpack_word (fs := [(3, tr), (4, f), (4, bo), (5, v), (6, sd), (1, 0)]) (by simp only [fit_cons, fit_nil, and_true]; omega) 0 0x08
  rw [hu]
  exact zeros_of_wellFormed rfl h

theorem RoundTrips.tgen (v bo f tr : Nat) : RoundTrips (.tgen v bo f tr) := by
  refine roundTrips_short rfl (by decide) (fun w hk h => (decodeOp_X_short hk).trans (by unfold decX; rw [h])) fun h => ?_
  have hwf : (_ && _) = true := h
  simp only [Bool.and_eq_true, decide_eq_true_eq] at hwf
  have hu : unpack [9, 3, 4, 4, 5, 7] _ = [_, tr, f, bo, v, 0] :=
    unpack_word (fs := [(3, tr), (4, f), (4, bo), (5, v), (7, 0)]) (by simp only [fit_cons, fit_nil, and_true]; omega) 0 0x09
  rw [hu]
  exact zeros_of_wellFormed rfl h

end Sys2Proof
end

section
/-! The round trip of the layouts that many instructions share, and of every instruction. -/

namespace Sys2Proof
open Laws

section
variable {op : Nat} {i : Instr}

/-! ### Loads, stores and atomics -/

theorem load_roundTrips {d a land : Nat} {off : Int} {K : Nat → Nat → Nat → Int → Instr} (henc : encode (K d a land off) = encML op d a land 0 off)
    (hop : op < 128) (hrow : ∀ w v, opOf w = op → decM w (some v) = decLoad w v K)
    (hfit : (K d a land off).wellFormed = true → d < 64 ∧ a < 64 ∧ land < 128 ∧ fitsS 32 off = true) : RoundTrips (K d a land off) := by
  refine roundTrips_long henc hop (fun w v hk h => (decodeOp_M_long hk).trans (hrow w v h)) fun h => ?_
  obtain ⟨hd, ha, hland, hoff⟩ := hfit h
  rw [decLoad, decML_pack (by simp only [fit_cons, fit_nil, and_true]; omega), pack_word (usg_lt ..), sgn_usg (by decide) hoff]
  exact zeros_of_wellFormed rfl h

theorem store_roundTrips {d a chn : Nat} {off : Int} {K : Nat → Nat → Nat → Int → Instr} (henc : encode (K d a chn off) = encML op d a 0 chn off)
    (hop : op < 128) (hrow : ∀ w v, opOf w = op → decM w (some v) = decStore w v K)
    (hfit : (K d a chn off).wellFormed = true → d < 64 ∧ a < 64 ∧ chn < 16 ∧ fitsS 32 off = true) : RoundTrips (K d a chn off) := by
  refine roundTrips_long henc hop (fun w v hk h => (decodeOp_M_long hk).trans (hrow w v h)) fun h => ?_
  obtain ⟨hd, ha, hchn, hoff⟩ := hfit h
  rw [decStore, decML_pack (by simp only [fit_cons, fit_nil, and_true]; omega), pack_word (usg_lt ..), sgn_usg (by decide) hoff]
  exact zeros_of_wellFormed rfl h

/-- The ranges of a load's operands, with a destination register of `n` bits. -/
theorem ranges_of_load {n d a land : Nat} {off : Int} (hn : n ≤ 6) (h : (fits n d && fits 6 a && landOk land && fitsS 32 off) = true) :
    d < 64 ∧ a < 64 ∧ land < 128 ∧ fitsS 32 off = true := by
  simp only [Bool.and_eq_true, decide_eq_true_eq] at h ⊢
  have := Nat.pow_le_pow_right (show 0 < 2 by decide) hn
  omega

theorem ranges_of_store {n d a chn : Nat} {off : Int} (hn : n ≤ 6) (h : (fits n d && fits 6 a && fits 4 chn && fitsS 32 off) = true) :
    d < 64 ∧ a < 64 ∧ chn < 16 ∧ fitsS 32 off = true := by
  simp only [Bool.and_eq_true, decide_eq_true_eq] at h ⊢
  have := Nat.pow_le_pow_right (show 0 < 2 by decide) hn
  omega

theorem at_roundTrips {o : AT} {K : AT → DecResult} (henc : encode i = encAT op o) (hop : op < 128)
    (hrow : ∀ w v, opOf w = op → decM w (some v) = decAT w v K)
    (hfit : i.wellFormed = true → o.nr < 2 ∧ o.sz < 2 ∧ o.land < 128 ∧ o.a < 64 ∧ o.d < 64 ∧ o.b < 64 ∧ o.c < 64 ∧ fitsS 20 o.off = true)
    (hK : i.wellFormed = true → K o = .ok i) : RoundTrips i := by
  refine roundTrips_long henc hop (fun w v hk h => (decodeOp_M_long hk).trans (hrow w v h)) fun h => ?_
  obtain ⟨hnr, hsz, hland, ha, hd, hb, hc, hoff⟩ := hfit h
  have hoff' := usg_lt 20 o.off
  rw [decAT_pack (by simp only [fit_cons, fit_nil, and_true]; omega) (by simp only [fit_cons, fit_nil, and_true]; omega), if_pos rfl,
    sgn_usg (by decide) hoff]
  exact hK h

theorem AT.ranges {o : AT} {useC sz0 : Bool} (h : o.ok useC sz0 = true) :
    o.nr < 2 ∧ o.sz < 2 ∧ o.land < 128 ∧ o.a < 64 ∧ o.d < 64 ∧ o.b < 64 ∧ o.c < 64 ∧ fitsS 20 o.off = true := by
  unfold AT.ok at h
  simp only [Bool.and_eq_true, decide_eq_true_eq] at h ⊢
  omega

/-! ### V-class words -/

theorem left_of_and {a b : Bool} (h : (a && b) = true) : a = true := (Bool.and_eq_true_iff.1 h).1

theorem vr_roundTrips {o : VR} {K : VR → Instr} {L : Option (VL → Instr)} (henc : encode (K o) = encVR op o) (hop : op < 128)
    (hrow : ∀ w, opOf w = op → decVc w none = decV w none (some K) L) (hfit : (K o).wellFormed = true → o.regsOk = true) :
    RoundTrips (K o) := by
  refine roundTrips_short henc hop (fun w hk h => (decodeOp_V_short hk).trans (hrow w h)) fun h => ?_
  have hregs := hfit h
  simp only [VR.regsOk, Bool.and_eq_true, decide_eq_true_eq] at hregs
  rw [decV, decVR_pack (by simp only [fit_cons, fit_nil, and_true]; omega)]
  exact checked_of_wellFormed h

theorem vl_roundTrips {o : VL} {fdNamed : Bool} {K : Option (VR → Instr)} {L : VL → Instr} (henc : encode (L o) = encVL op o) (hop : op < 128)
    (hrow : ∀ w v, opOf w = op → decVc w (some v) = decV w (some v) K (some L))
    (hfit : (L o).wellFormed = true → o.regsOk fdNamed = true) : RoundTrips (L o) := by
  refine roundTrips_long henc hop (fun w v hk h => (decodeOp_V_long hk).trans (hrow w v h)) fun h => ?_
  have hregs := left_of_and (hfit h)
  simp only [Bool.and_eq_true, decide_eq_true_eq] at hregs
  rw [decV_pack_long (by simp only [fit_cons, fit_nil, and_true]; omega) (by simp only [fit_cons, fit_nil, and_true]; omega)]
  exact zeros_of_wellFormed rfl h

theorem pl_roundTrips {d a b : Nat} {K : Nat → Nat → Nat → DecResult} (henc : encode i = encPL op d a b) (hop : op < 128)
    (hrow : ∀ w, opOf w = op → decVc w none = decPL w K)
    (hfit : i.wellFormed = true → d ≤ 95 ∧ a ≤ 95 ∧ b ≤ 95) (hK : i.wellFormed = true → K d a b = .ok i) : RoundTrips i := by
  refine roundTrips_short henc hop (fun w hk h => (decodeOp_V_short hk).trans (hrow w h)) fun h => ?_
  have hranges := hfit h
  rw [decPL_pack (by simp only [fit_cons, fit_nil, and_true]; omega)]
  exact hK h

theorem pc_roundTrips {lc s p : Nat} {K : Nat → Nat → Nat → Instr} (henc : encode (K lc s p) = encPC op lc s p) (hop : op < 128)
    (hrow : ∀ w, opOf w = op → decVc w none = decPC w K)
    (hwf : (K lc s p).wellFormed = (decide (lc ≤ 4) && fits 6 s && decide (p ≤ 95))) : RoundTrips (K lc s p) := by
  refine roundTrips_short henc hop (fun w hk h => (decodeOp_V_short hk).trans (hrow w h)) fun h => ?_
  have hranges := hwf.symm.trans h
  simp only [Bool.and_eq_true, decide_eq_true_eq] at hranges
  rw [decPC_pack (by simp only [fit_cons, fit_nil, and_true]; omega)]
  exact zeros_of_wellFormed rfl h

/-! ### E-class words -/

theorem e_roundTrips {fs : List (Nat × Nat)} {K : Nat → List Nat → DecResult} (henc : encode i = e32 .E op fs) (hop : op < 128)
    (hrow : ∀ w, opOf w = op → decEc w = decE w (fs.map (·.1)) (K w)) (hfit : i.wellFormed = true → Fit fs)
    (hK : i.wellFormed = true → K (pack ((2, 0) :: (7, op) :: fs)) (fs.map (·.2)) = .ok i) : RoundTrips i := by
  refine roundTrips_short henc hop (fun w hk h => (decodeOp_E hk).trans (hrow w h)) fun h => ?_
  rw [decE_pack (hfit h)]
  exact hK h

theorem fit_one {n v : Nat} (h : fits n v = true) : Fit [(n, v)] := fit_cons.2 ⟨of_decide_eq_true h, fit_nil⟩

end

/-! ### Every instruction -/

section
variable {a b lc : Nat} {o : Int} {n : Nat}

theorem ranges_of_bp (h : (fits 6 a && decide (lc ≤ 4) && fitsS n o) = true) : a < 64 ∧ lc < 64 ∧ fitsS n o = true := by
  simp only [Bool.and_eq_true, decide_eq_true_eq] at h ⊢
  omega

/-- LC of BPANY and BPNONE leaves the bits above it zero. -/
theorem zeros_of_bp {i : Nat → Instr} (hwf : (i lc).wellFormed = true) (h : (fits 6 a && decide (lc ≤ 4) && fitsS n o) = true) :
    zeros [lc / 8] (i (lc % 8)) = .ok (i lc) := by
  simp only [Bool.and_eq_true, decide_eq_true_eq] at h
  rw [Nat.div_eq_of_lt (by omega), Nat.mod_eq_of_lt (by omega)]
  exact zeros_of_wellFormed rfl hwf

theorem ranges_of_linked (h : (fits 6 a && fitsS n o) = true) : a < 64 ∧ 0 < 64 ∧ fitsS n o = true := by
  simp only [Bool.and_eq_true, decide_eq_true_eq] at h ⊢
  omega

theorem ranges_of_calli (h : (fits 6 a && fits 6 b) = true) : a < 64 ∧ b < 64 ∧ fitsS 11 0 = true := by
  simp only [Bool.and_eq_true, decide_eq_true_eq] at h
  exact ⟨h.1, h.2, by decide⟩

theorem ranges_of_waita {sz d : Nat} (h : (fits 1 sz && fits 6 a && fits 6 d && fits 6 b && fitsS 20 o) = true) :
    0 < 2 ∧ sz < 2 ∧ 0 < 128 ∧ a < 64 ∧ d < 64 ∧ b < 64 ∧ 0 < 64 ∧ fitsS 20 o = true := by
  simp only [Bool.and_eq_true, decide_eq_true_eq] at h ⊢
  omega

theorem ranges_of_predicates {d : Nat} (h : (decide (d ≤ 95) && decide (a ≤ 95) && decide (b ≤ 95)) = true) : d ≤ 95 ∧ a ≤ 95 ∧ b ≤ 95 := by
  simpa only [Bool.and_eq_true, decide_eq_true_eq, and_assoc] using h

theorem ranges_of_predicate {d : Nat} (h : (decide (d ≤ 95) && decide (a ≤ 95)) = true) : d ≤ 95 ∧ a ≤ 95 ∧ 0 ≤ 95 := by
  simpa using h

theorem index_of_ctlListed {c : Nat} (h : ctlListed c = true) : c ≤ 0x4F := by
  simp only [ctlListed, Bool.or_eq_true, Bool.and_eq_true, decide_eq_true_eq] at h
  omega

end

/-- SUSPEND fills bits 0 to 30 of its word. -/
theorem RoundTrips.suspend (a idx : Nat) : RoundTrips (.suspend a idx) := by
  refine e_roundTrips rfl (by decide) (fun w h => by unfold decEc; rw [h]; rfl) (fun h => ?_) fun h => ?_
  · have hwf : (_ && _) = true := h
    simp only [Bool.and_eq_true, decide_eq_true_eq] at hwf
    simp only [fit_cons, fit_nil, and_true]; omega
  · have htop : pack [(2, 0), (7, 0x04), (16, idx), (6, a)] / 2 ^ 31 = 0 := Nat.div_eq_of_lt (pack_lt _)
    change zeros [_ / 2 ^ 31] _ = _
    rw [htop]
    exact zeros_of_wellFormed rfl h

theorem RoundTrips.ctlr (c d : Nat) : RoundTrips (.ctlr c d) := by
  refine e_roundTrips rfl (by decide) (fun w h => by unfold decEc; rw [h]; rfl) (fun h => ?_) fun h => checked_of_wellFormed h
  have hwf : (_ && _) = true := h
  rw [Bool.and_eq_true] at hwf
  obtain ⟨hc, hd⟩ := hwf
  have hc' := index_of_ctlListed hc
  simp only [decide_eq_true_eq] at hd
  simp only [fit_cons, fit_nil, and_true]; omega

/-- CTLW of a register that has no row of its own. -/
theorem RoundTrips.ctlw (c a : Nat) : RoundTrips (.ctlw c a) := by
  have hranges (h : (Instr.ctlw c a).wellFormed = true) : c ≤ 0x4F ∧ a < 64 ∧ c ≠ 0x11 ∧ ¬ (0x40 ≤ c ∧ c ≤ 0x4F) := by
    have hwf : (_ && _ && _ && _) = true := h
    simp only [Bool.and_eq_true, decide_eq_true_eq, bne_iff_ne, Bool.not_eq_true', ← Bool.not_eq_true] at hwf
    obtain ⟨⟨⟨hc, ha⟩, hinject⟩, hsb⟩ := hwf
    exact ⟨index_of_ctlListed hc, ha, hinject, hsb⟩
  refine e_roundTrips rfl (by decide) (fun w h => by unfold decEc; rw [h]; rfl) (fun h => ?_) fun h => ?_
  · have hwf := hranges h
    simp only [fit_cons, fit_nil, and_true]; omega
  · obtain ⟨-, -, hinject, hsb⟩ := hranges h
    change checked (if c = 0x11 then _ else if _ then _ else .ctlw c a) = _
    rw [if_neg hinject, if_neg hsb]
    exact checked_of_wellFormed h

theorem RoundTrips.sbDescriptorWrite (n a : Nat) : RoundTrips (.sbDescriptorWrite n a) := by
  have hranges (h : (Instr.sbDescriptorWrite n a).wellFormed = true) : n < 16 ∧ a < 64 := by
    have hwf : (_ && _) = true := h
    simp only [Bool.and_eq_true, decide_eq_true_eq] at hwf
    exact hwf
  refine e_roundTrips rfl (by decide) (fun w h => by unfold decEc; rw [h]; rfl) (fun h => ?_) fun h => ?_
  · have hwf := hranges h
    simp only [fit_cons, fit_nil, and_true]; omega
  · obtain ⟨hn, -⟩ := hranges h
    change checked (if 0x40 + n = 0x11 then _ else if 0x40 ≤ 0x40 + n ∧ 0x40 + n ≤ 0x4F then .sbDescriptorWrite (0x40 + n - 0x40) a else _) = _
    rw [if_neg (by omega), if_pos (by omega), Nat.add_sub_cancel_left]
    exact checked_of_wellFormed h

/-- Every instruction that has an encoding is read back from it: the arms are the layouts of Tables 4-3 and 4-7 to 4-11. -/
theorem Instr.roundTrips (i : Instr) : RoundTrips i := by
  cases i with
  | add _ _ _ | sub _ _ _ | mul _ _ _ | mulh _ _ _ | mulhu _ _ _ | div _ _ _ | divu _ _ _ | rem _ _ _ | remu _ _ _ | and _ _ _ | or _ _ _
  | xor _ _ _ | andn _ _ _ | shl _ _ _ | shr _ _ _ | sra _ _ _ | rotr _ _ _ | min _ _ _ | max _ _ _ | minu _ _ _ | maxu _ _ _ | seq _ _ _
  | slt _ _ _ | sltu _ _ _ => exact rrr_roundTrips rfl rfl (by decide) fun w h => by unfold decI; rw [h]; rfl
  | clz _ _ | ctz _ _ | popc _ _ => exact rr_roundTrips rfl rfl (by decide) fun w h => by unfold decI; rw [h]; rfl
  | sext _ _ _ | zext _ _ _ => exact ext_roundTrips rfl rfl (by decide) fun w h => by unfold decI; rw [h]; rfl
  | sel _ _ _ _ => exact RoundTrips.sel _ _ _ _
  | bfx _ _ _ _ _ => exact RoundTrips.bfx _ _ _ _ _
  | bfi _ _ _ _ _ => exact RoundTrips.bfi _ _ _ _ _
  | movi _ _ _ => exact RoundTrips.movi _ _ _
  | moviHi _ _ => exact RoundTrips.moviHi _ _
  | step _ _ _ _ => exact RoundTrips.step _ _ _ _
  | addi _ _ _ | andi _ _ _ | ori _ _ _ | xori _ _ _ =>
    exact imm_roundTrips rfl (by decide) (fun w h => by unfold decI; rw [h]; rfl) fun h => ranges_of_signed h
  | shli _ _ _ | shri _ _ _ | srai _ _ _ =>
    exact imm_roundTrips rfl (by decide) (fun w h => by unfold decI; rw [h]; rfl) fun h => ranges_of_shift (by decide) h
  | addiLong _ _ _ | andiLong _ _ _ | oriLong _ _ _ | xoriLong _ _ _ =>
    exact immLong_roundTrips rfl (by decide) (fun w v h => by unfold decI; rw [h]; rfl) fun h => ranges_of_signed h
  | shliLong _ _ _ | shriLong _ _ _ | sraiLong _ _ _ =>
    exact immLong_roundTrips rfl (by decide) (fun w v h => by unfold decI; rw [h]; rfl) fun h => ranges_of_shift (by decide) h
  | beq _ _ _ | bne _ _ _ | blt _ _ _ | bge _ _ _ | bltu _ _ _ | bgeu _ _ _ =>
    exact branch_roundTrips rfl (by decide) (fun w h => by unfold decI; rw [h]; rfl) (fun h => ranges_of_signed h) fun h => checked_of_wellFormed h
  | beqLong _ _ _ | bneLong _ _ _ | bltLong _ _ _ | bgeLong _ _ _ | bltuLong _ _ _ | bgeuLong _ _ _ =>
    exact branchLong_roundTrips rfl (by decide) (fun w v h => by unfold decI; rw [h]; rfl) (fun h => ranges_of_signed h) fun h => checked_of_wellFormed h
  | bpany p lc o =>
    exact branch_roundTrips rfl (by decide) (fun w h => by unfold decI; rw [h]; rfl) (fun h => ranges_of_bp h) fun h => zeros_of_bp (i := (.bpany p · o)) h h
  | bpnone p lc o =>
    exact branch_roundTrips rfl (by decide) (fun w h => by unfold decI; rw [h]; rfl) (fun h => ranges_of_bp h) fun h => zeros_of_bp (i := (.bpnone p · o)) h h
  | bpanyLong p lc o =>
    exact branchLong_roundTrips rfl (by decide) (fun w v h => by unfold decI; rw [h]; rfl) (fun h => ranges_of_bp h) fun h => zeros_of_bp (i := (.bpanyLong p · o)) h h
  | bpnoneLong p lc o =>
    exact branchLong_roundTrips rfl (by decide) (fun w v h => by unfold decI; rw [h]; rfl) (fun h => ranges_of_bp h) fun h => zeros_of_bp (i := (.bpnoneLong p · o)) h h
  | jmp _ =>
    exact branch_roundTrips rfl (by decide) (fun w h => by unfold decI; rw [h]; rfl) (fun h => ⟨by decide, by decide, h⟩) fun h => zeros_of_wellFormed rfl h
  | jmpLong _ =>
    exact branchLong_roundTrips rfl (by decide) (fun w v h => by unfold decI; rw [h]; rfl) (fun h => ⟨by decide, by decide, h⟩) fun h => zeros_of_wellFormed rfl h
  | jmpi _ | ret _ =>
    exact branch_roundTrips rfl (by decide) (fun w h => by unfold decI; rw [h]; rfl) (fun h => ⟨of_decide_eq_true h, by decide, by decide⟩) fun h => zeros_of_wellFormed rfl h
  | call _ _ | loop _ _ =>
    exact branch_roundTrips rfl (by decide) (fun w h => by unfold decI; rw [h]; rfl) (fun h => ranges_of_linked h) fun h => zeros_of_wellFormed rfl h
  | callLong _ _ | loopLong _ _ =>
    exact branchLong_roundTrips rfl (by decide) (fun w v h => by unfold decI; rw [h]; rfl) (fun h => ranges_of_linked h) fun h => zeros_of_wellFormed rfl h
  | calli _ _ =>
    exact branch_roundTrips rfl (by decide) (fun w h => by unfold decI; rw [h]; rfl) (fun h => ranges_of_calli h) fun h => zeros_of_wellFormed rfl h
  | ldb _ _ _ _ | ldbs _ _ _ _ | ldh _ _ _ _ | ldhs _ _ _ _ | ldw _ _ _ _ | ldws _ _ _ _ | ldd _ _ _ _ =>
    exact load_roundTrips rfl (by decide) (fun w v h => by unfold decM; rw [h]; rfl) fun h => ranges_of_load (n := 6) (by decide) h
  | vld _ _ _ _ =>
    exact load_roundTrips rfl (by decide) (fun w v h => by unfold decM; rw [h]; rfl) fun h => ranges_of_load (n := 5) (by decide) h
  | stb _ _ _ _ | sth _ _ _ _ | stw _ _ _ _ | std _ _ _ _ =>
    exact store_roundTrips rfl (by decide) (fun w v h => by unfold decM; rw [h]; rfl) fun h => ranges_of_store (n := 6) (by decide) h
  | vst _ _ _ _ =>
    exact store_roundTrips rfl (by decide) (fun w v h => by unfold decM; rw [h]; rfl) fun h => ranges_of_store (n := 5) (by decide) h
  | vldp _ _ _ => exact RoundTrips.vldp _ _ _
  | vldpSet _ _ _ => exact RoundTrips.vldpSet _ _ _
  | vstp _ _ _ => exact RoundTrips.vstp _ _ _
  | vstpSave _ _ => exact RoundTrips.vstpSave _ _
  | vgth _ _ _ _ _ _ => exact RoundTrips.vgth _ _ _ _ _ _
  | vsct _ _ _ _ _ _ => exact RoundTrips.vsct _ _ _ _ _ _
  | tld _ _ _ _ _ => exact RoundTrips.tld _ _ _ _ _
  | tst _ _ _ _ _ => exact RoundTrips.tst _ _ _ _ _
  | prf _ _ _ _ => exact RoundTrips.prf _ _ _ _
  | spin _ _ => exact RoundTrips.spin _ _
  | sprel _ _ => exact RoundTrips.sprel _ _
  | aadd _ | afadd _ | axchg _ | acas _ | aand _ | aor _ | axor _ | amin _ | amax _ | aminu _ | amaxu _ | afmin _ | afmax _ =>
    exact at_roundTrips rfl (by decide) (fun w v h => by unfold decM; rw [h]; rfl) (fun h => AT.ranges h) fun h => checked_of_wellFormed h
  | waita _ _ _ _ _ =>
    exact at_roundTrips rfl (by decide) (fun w v h => by unfold decM; rw [h]; rfl) (fun h => ranges_of_waita h) fun h => zeros_of_wellFormed rfl h
  | wake _ _ _ => exact RoundTrips.wake _ _ _
  | vadd _ | vsub _ | vmul _ | vmulh _ | vmin _ | vmax _ | vand _ | vor _ | vxor _ | vshl _ | vshr _ | vsra _ | vabs _ | vneg _ | vnot _
  | vpopc _ | vclz _ | vrsum _ | vrmax _ | vrmin _ | vscan _ | vfadd _ | vfsub _ | vfmul _ | vfmin _ | vfmax _ | vfdiv _ | vfabs _
  | vfneg _ | vfsqrt _ | vrcp _ | vrsq _ | vexp2 _ | vlog2 _ | vtanh _ | vrfsum _ | vbcast _ | vext _ | vins _ | vcmpr _ | vexpd _ =>
    exact vr_roundTrips rfl (by decide) (fun w h => by unfold decVc; rw [h]; rfl) fun h => left_of_and (left_of_and h)
  | vslide _ => exact vr_roundTrips rfl (by decide) (fun w h => by unfold decVc; rw [h]; rfl) fun h => left_of_and h
  | vmad _ | vaddLong _ | vsubLong _ | vmulLong _ | vmulhLong _ | vminLong _ | vmaxLong _ | vshlLong _ | vandLong _ | vorLong _
  | vxorLong _ | vshrLong _ | vsraLong _ | vabsLong _ | vnegLong _ | vnotLong _ | vpopcLong _ | vclzLong _ | vrsumLong _ | vfma _
  | vfaddLong _ | vfsubLong _ | vfmulLong _ | vfminLong _ | vfmaxLong _ | vfdivLong _ | vfabsLong _ | vfnegLong _ | vfsqrtLong _
  | vrcpLong _ | vrsqLong _ | vexp2Long _ | vlog2Long _ | vtanhLong _ | vrfsumLong _ | vsel _ | vperm _ | vslideLong _ | vcmprLong _
  | vexpdLong _ =>
    exact vl_roundTrips rfl (by decide) (fun w v h => by unfold decVc; rw [h]; rfl) fun h => left_of_and (left_of_and (left_of_and (left_of_and h)))
  | vshuf _ | vrmaxLong _ | vrminLong _ | vscanLong _ =>
    exact vl_roundTrips rfl (by decide) (fun w v h => by unfold decVc; rw [h]; rfl) fun h => left_of_and (left_of_and (left_of_and h))
  | vcvt _ | vbcastLong _ =>
    exact vl_roundTrips rfl (by decide) (fun w v h => by unfold decVc; rw [h]; rfl) fun h => left_of_and (left_of_and (left_of_and (left_of_and (left_of_and h))))
  | vcmp _ | vfcmp _ | vqnt _ | vdqnt _ | vextLong _ | vinsLong _ =>
    exact vl_roundTrips rfl (by decide) (fun w v h => by unfold decVc; rw [h]; rfl) fun h => left_of_and (left_of_and (left_of_and (left_of_and (left_of_and (left_of_and h)))))
  | vi2f _ | vf2i _ =>
    exact vl_roundTrips rfl (by decide) (fun w v h => by unfold decVc; rw [h]; rfl) fun h => left_of_and (left_of_and (left_of_and (left_of_and (left_of_and (left_of_and (left_of_and h))))))
  | pand _ _ _ =>
    exact pl_roundTrips (K := fun d a b => checked (.pand d a b)) rfl (by decide) (fun w h => by unfold decVc; rw [h]; rfl) (fun h => ranges_of_predicates h)
      fun h => checked_of_wellFormed h
  | por _ _ _ =>
    exact pl_roundTrips (K := fun d a b => checked (.por d a b)) rfl (by decide) (fun w h => by unfold decVc; rw [h]; rfl) (fun h => ranges_of_predicates h)
      fun h => checked_of_wellFormed h
  | pxor _ _ _ =>
    exact pl_roundTrips (K := fun d a b => checked (.pxor d a b)) rfl (by decide) (fun w h => by unfold decVc; rw [h]; rfl) (fun h => ranges_of_predicates h)
      fun h => checked_of_wellFormed h
  | pandn _ _ _ =>
    exact pl_roundTrips (K := fun d a b => checked (.pandn d a b)) rfl (by decide) (fun w h => by unfold decVc; rw [h]; rfl) (fun h => ranges_of_predicates h)
      fun h => checked_of_wellFormed h
  | pnot _ _ =>
    exact pl_roundTrips (K := fun d a b => zeros [b] (.pnot d a)) rfl (by decide) (fun w h => by unfold decVc; rw [h]; rfl) (fun h => ranges_of_predicate h)
      fun h => zeros_of_wellFormed rfl h
  | pmov _ _ =>
    exact pl_roundTrips (K := fun d a b => zeros [b] (.pmov d a)) rfl (by decide) (fun w h => by unfold decVc; rw [h]; rfl) (fun h => ranges_of_predicate h)
      fun h => zeros_of_wellFormed rfl h
  | pcnt _ _ _ | pfirst _ _ _ | psetn _ _ _ => exact pc_roundTrips rfl (by decide) (fun w h => by unfold decVc; rw [h]; rfl) rfl
  | tzero _ _ _ _ => exact RoundTrips.tzero _ _ _ _
  | tmma _ _ _ _ _ => exact RoundTrips.tmma _ _ _ _ _
  | tmsr _ _ _ _ _ => exact RoundTrips.tmsr _ _ _ _ _
  | tdrainTile _ _ _ _ => exact RoundTrips.tdrainTile _ _ _ _
  | tdrainVector _ _ _ _ => exact RoundTrips.tdrainVector _ _ _ _
  | tdrainMemory _ _ _ _ _ _ => exact RoundTrips.tdrainMemory _ _ _ _ _ _
  | twr _ _ _ _ _ _ => exact RoundTrips.twr _ _ _ _ _ _
  | trdr _ _ _ _ _ _ => exact RoundTrips.trdr _ _ _ _ _ _
  | trdc _ _ _ _ _ => exact RoundTrips.trdc _ _ _ _ _
  | tchk _ _ _ _ _ => exact RoundTrips.tchk _ _ _ _ _
  | tgen _ _ _ _ => exact RoundTrips.tgen _ _ _ _
  | exit | decpl | rejn | cpinv =>
    exact e_roundTrips rfl (by decide) (fun w h => by unfold decEc; rw [h]; rfl) (fun _ => fit_nil) fun h => checked_of_wellFormed h
  | safe _ | join _ | yield _ | trap _ | brk _ | time _ | hbeat _ | flset _ | flclr _ | dcfg _ | coll _ | bar _ | sbrel _ =>
    exact e_roundTrips rfl (by decide) (fun w h => by unfold decEc; rw [h]; rfl) (fun h => fit_one h) fun h => checked_of_wellFormed h
  | fence _ =>
    exact e_roundTrips rfl (by decide) (fun w h => by unfold decEc; rw [h]; rfl) (fun h => fit_one (decide_eq_true ((of_decide_eq_true h).trans_lt (by decide)))) fun h => checked_of_wellFormed h
  | fuse _ _ | getid _ _ | fmtset _ _ | flwait _ _ | cpost _ _ | cwait _ _ | ctest _ _ _ | cqry _ _ | frel _ _ _ _ | tpost _ _ _
  | tcancel _ _ =>
    exact e_roundTrips rfl (by decide) (fun w h => by unfold decEc; rw [h]; rfl) (fun h => by
        have hwf : (_ && _) = true := h
        simp only [Bool.and_eq_true, decide_eq_true_eq] at hwf
        simp only [fit_cons, fit_nil, and_true]; omega) fun h => checked_of_wellFormed h
  | spawn _ _ | sbacq _ _ | fchq _ _ _ =>
    exact e_roundTrips rfl (by decide) (fun w h => by unfold decEc; rw [h]; rfl) (fun h => by
        have hwf : (_ && _) = true := h
        simp only [Bool.and_eq_true, decide_eq_true_eq] at hwf
        simp only [fit_cons, fit_nil, and_true]; omega) fun h => zeros_of_wellFormed rfl h
  | vldx _ _ =>
    exact e_roundTrips rfl (by decide) (fun w h => by unfold decEc; rw [h]; rfl) (fun h => by
        have hwf : (_ && _) = true := h
        simp only [Bool.and_eq_true, decide_eq_true_eq] at hwf
        simp only [fit_cons, fit_nil, and_true]; omega) fun h => (if_pos rfl).trans (zeros_of_wellFormed rfl h)
  | vldxWait _ =>
    exact e_roundTrips rfl (by decide) (fun w h => by unfold decEc; rw [h]; rfl) (fun h => by
        have hwf : decide _ = true := h
        simp only [decide_eq_true_eq] at hwf
        simp only [fit_cons, fit_nil, and_true]; omega) fun h => (if_neg Nat.one_ne_zero).trans (zeros_of_wellFormed rfl h)
  | tret _ | tretNext _ | injectArm _ =>
    exact e_roundTrips rfl (by decide) (fun w h => by unfold decEc; rw [h]; rfl) (fun h => by
        have hwf : decide _ = true := h
        simp only [decide_eq_true_eq] at hwf
        simp only [fit_cons, fit_nil, and_true]; omega) fun h => checked_of_wellFormed h
  | suspend _ _ => exact RoundTrips.suspend _ _
  | ctlr _ _ => exact RoundTrips.ctlr _ _
  | ctlw _ _ => exact RoundTrips.ctlw _ _
  | sbDescriptorWrite _ _ => exact RoundTrips.sbDescriptorWrite _ _
  | _ => exact fun _ e he => nomatch he

/-- Settles O1: the row of each instruction's opcode reads its fields back. -/
theorem decodeEncodeRoundTrip : Obligations.DecodeEncodeRoundTrip :=
  fun i e hwf he => i.roundTrips hwf e he

end Sys2Proof
end

section
/-! The manual's worked examples (04 to 09). -/

namespace Sys2Proof

/-- Settles O3: each word's row of its class's table, evaluated. -/
theorem workedExampleWordsDecode : Obligations.WorkedExampleWordsDecode :=
  ⟨rfl, rfl, rfl, rfl, rfl, rfl, rfl, rfl, rfl, rfl, rfl, rfl, rfl⟩

end Sys2Proof
end

section
/-! Every step answers a next state: no instruction stops, and the schedule only combines what instructions answer. -/

namespace Sys2Proof.Machine

/-- An outcome that is a next state. -/
def Goes (o : Out) : Prop := ∃ t, o = .next t

/-- A meaning of the instructions under which none of them stops. -/
def NeverStopping (exec : Exec) : Prop := ∀ i s, Goes (exec i s)

theorem goes_next (s : State) : Goes (.next s) := ⟨s, rfl⟩

theorem goes_ite {p : Prop} [Decidable p] {a b : Out} (ha : Goes a) (hb : Goes b) : Goes (if p then a else b) := by
  split
  · exact ha
  · exact hb

theorem goes_mapNext {o : Out} (f : State → State) (h : Goes o) : Goes (mapNext f o) := by
  obtain ⟨t, rfl⟩ := h
  exact ⟨f t, rfl⟩

theorem goes_execFence (sc : Nat) (s : State) : Goes (execFence sc s) :=
  goes_ite (goes_next s) (goes_next _)

/-- No instruction's meaning is a fault or a refusal (log entry 14); FENCE alone tests its operand before it says so. -/
theorem exec_neverStopping : NeverStopping exec := by
  intro i s
  cases i with
  | fence sc => exact goes_execFence sc s
  | _ => exact ⟨_, rfl⟩

/-! ### The op words of an issue -/

/-- What the op words of an issue did, none of them having stopped the machine. -/
def Ran.Goes : Ran → Prop
  | .stopped _ => False
  | _ => True

section
variable {exec : Exec} (hx : NeverStopping exec)
include hx

theorem runOps_goes (b : Bundle) (all : List Todo) : ∀ ts s n, (runOps exec b all ts s n).Goes
  | [], _, _ => trivial
  | t :: r, s, n => by
    obtain ⟨s', h⟩ := hx t.op.instr { s with core := s.core.withCtx b all t, trapTaken := none }
    simp only [runOps, h]
    split
    · split <;> trivial
    · split
      · trivial
      · split <;> exact runOps_goes b all r _ _

theorem runMember_goes (b : Bundle) (s : State) : (s.runMember exec b).Goes := by
  unfold State.runMember
  dsimp only
  split
  · trivial
  split
  · trivial
  have hrun := runOps_goes hx b (s.core.todos b)
    (actingOrder (s.core.group.isSome || s.core.closed)
      (((s.core.todos b).filter fun t => !hasBit s.core.done t.slot).filter s.core.guardOpen)) s 0
  split
  · split <;> trivial
  · split
    · trivial
    · split <;> trivial
  · split <;> trivial
  · exact hrun

theorem runCrew_goes (b : Bundle) (s0 : State) : ∀ ks s n, (runCrew exec b s0 ks s n).Goes
  | [], _, _ => trivial
  | k :: r, s, n => by
    have hrun := runMember_goes hx b (s.focus k)
    have hrun0 := runMember_goes hx b (s0.focus k)
    unfold runCrew
    split
    · exact runCrew_goes b s0 r _ _
    · trivial
    · split
      · trivial
      · exact hrun0
    · trivial
    · rename_i h
      rw [h] at hrun
      exact hrun

/-! ### The issue of a bundle -/

theorem issueBundle_goes (b : Bundle) (s : State) : Goes (s.issueBundle exec b) := by
  unfold State.issueBundle
  dsimp only
  split
  · exact goes_next _
  have hrun := runCrew_goes hx b (s.each s.crew fun s => s.onCore (·.decoded b)) s.crew
    (s.each s.crew fun s => s.onCore (·.decoded b)) 0
  split
  · exact goes_ite (goes_next _) (goes_ite (goes_next _) (goes_next _))
  · exact goes_next _
  · exact goes_next _
  · exact goes_next _
  · rename_i h
    rw [h] at hrun
    exact hrun.elim

theorem issue_goes (s : State) : Goes (s.issue exec) := by
  unfold State.issue
  dsimp only
  split
  · exact issueBundle_goes hx _ _
  split
  · exact goes_next _
  · exact goes_next _
  · exact goes_ite (issueBundle_goes hx _ _) (goes_next _)

/-! ### The turn of a core -/

theorem firstChange_goes (s : State) : ∀ (is : List Instr) (o : Out), firstChange exec s is = some o → Goes o
  | [], _, h => by cases h
  | i :: r, o, h => by
    obtain ⟨t, ht⟩ := hx i s
    simp only [firstChange, ht] at h
    split at h
    · exact firstChange_goes s r o h
    · exact ⟨t, (Option.some.inj h).symm⟩

theorem others_goes (s : State) (k : Nat) : Goes (s.others_ exec k) := by
  unfold State.others_
  split
  · exact goes_next _
  cases h : firstChange exec s s.waiting with
  | none => exact goes_next _
  | some o => exact firstChange_goes hx s _ o h

/-- A step that goes goes on with the others where it changed nothing. -/
theorem orOthers_goes (s : State) (k : Nat) {o : Out} :
    Goes o → Goes (match o with
      | .next t => if t = s then s.others_ exec k else .next t
      | o => o) := by
  rintro ⟨t, rfl⟩
  exact goes_ite (others_goes hx s k) (goes_next t)

theorem goAway_goes (s : State) (k : Nat) : Goes (s.goAway exec k) :=
  orOthers_goes hx s k (hx .writeBack s)

theorem thawCore_goes (s : State) (f : Freeze) (k : Nat) : Goes (s.thawCore exec f k) := by
  unfold State.thawCore
  dsimp only
  split
  · refine goes_ite (goes_next _) (orOthers_goes hx s k ?_)
    split
    · split
      · exact hx _ _
      · split
        · exact hx _ _
        · exact goes_next _
    · exact goes_next _
    · exact goes_next _
    · exact goes_ite (hx _ _) (hx _ _)
    · exact hx _ _
    · exact goes_ite (hx _ _) (hx _ _)
    · exact goes_next _
    · exact goes_next _
    · exact goes_next _
    · split <;> exact goes_next _
    · split <;> exact goes_next _
    · exact goes_next _
    · exact goes_next _
  · split
    · exact hx _ _
    · exact goes_ite (hx _ _) (goes_next _)

theorem coreCycle_goes (crew : List Nat) (k : Nat) (s : State) : Goes (s.coreCycle exec crew k) := by
  unfold State.coreCycle
  refine goes_ite (goAway_goes hx s k) (goes_ite (goes_next _) (goes_ite (goes_next _) (goes_ite (goes_next _) ?_)))
  split
  · split
    · exact hx _ _
    · exact goes_next _
  refine goes_ite ?_ (goes_ite (goAway_goes hx _ k) (goes_ite ?_ (goes_mapNext _ (issue_goes hx _))))
  · split
    · exact goes_next _
    · exact goAway_goes hx _ k
  · split
    · rename_i h
      exact firstChange_goes hx _ _ _ h
    · exact goes_mapNext _ (issue_goes hx _)

theorem coreStep_goes (k : Nat) (s : State) : Goes (s.coreStep exec k) := by
  unfold State.coreStep
  refine goes_ite (others_goes hx s k) (goes_ite (others_goes hx s k) ?_)
  split
  · dsimp only
    split
    · exact thawCore_goes hx _ _ k
    · exact goes_next _
  · exact coreCycle_goes hx _ k _

theorem turnStep_goes (s : State) : Goes (s.turnStep exec) := by
  unfold State.turnStep
  dsimp only
  split
  · exact coreStep_goes hx _ _
  · split
    · exact hx _ _
    · exact coreStep_goes hx _ _

/-- Under a meaning that never stops the schedule does not stop either: its own answers are next states. -/
theorem advance_goes (s : State) : Goes (s.advance exec) := by
  unfold State.advance
  split
  · exact goes_next _
  split
  · exact goes_ite (goes_next _) (coreStep_goes hx _ _)
  split
  · exact goes_next _
  split
  · exact goes_next _
  split
  · exact goes_ite (turnStep_goes hx s) (goes_ite (turnStep_goes hx _) (hx _ _))
  split
  · refine goes_ite (goes_next _) ?_
    split
    · exact hx _ _
    · exact turnStep_goes hx s
  · split
    · exact hx _ _
    · exact turnStep_goes hx s

end

/-- Settles O6: no instruction's meaning stops (`exec_neverStopping`), so no step of the schedule does; a root that names no
physical address is the step's one fault. -/
theorem neverStops : Obligations.NeverStops := by
  unfold Obligations.NeverStops
  intro s
  refine ⟨fun hroot => ?_, fun a ha => ?_⟩
  · rw [step_eq_advance hroot]
    exact advance_goes exec_neverStopping s
  · simp [step, ha]

end Sys2Proof.Machine
end

section
/-! Branches, jumps, calls and the loop branch (R88–R90, R378): what a branch does by its target, then which target and which
condition each instruction has. -/

namespace Sys2Proof.Machine

/-! ### A branch by its target -/

section
variable {s : State} {t : Nat} (also : State → State)

theorem State.branchWith_good (hgood : s.badTarget t = false) (hhere : s.codeMoves s.core.part t = false) :
    s.branchWith t also = (also s).jump t := by
  simp [State.branchWith, hgood, hhere]

theorem State.branchWith_moving (hgood : s.badTarget t = false) (hmoves : s.codeMoves s.core.part t = true) :
    s.branchWith t also = s.freeze (.transit t) := by
  simp [State.branchWith, hgood, hmoves]

theorem State.branchWith_bad (hbad : s.badTarget t = true) :
    s.branchWith t also = s.takeTrap { no := .target, addr := t } := by
  simp [State.branchWith, hbad]

end

/-! ### The conditions (R88) -/

/-- The low n bits of a predicate are not all 0 exactly where one of them is 1. -/
theorem low_ne_zero_iff {w : Nat} (x : BitVec w) (n : Nat) :
    (x.toNat % 2 ^ n != 0) = true ↔ ∃ k < n, x.getLsbD k = true := by
  rw [bne_iff_ne, ← not_iff_not]
  push Not
  constructor
  · intro h k hk
    have hbit := Nat.testBit_mod_two_pow x.toNat n k
    rw [h] at hbit
    simpa [hk, BitVec.getLsbD] using hbit.symm
  · intro h
    refine Nat.eq_of_testBit_eq fun k => ?_
    rw [Nat.testBit_mod_two_pow, Nat.zero_testBit]
    by_cases hk : k < n
    · have := h k hk
      simp_all [BitVec.getLsbD]
    · simp [hk]

theorem State.anyBit_iff (s : State) (p lc : Nat) :
    s.anyBit p lc = true ↔ ∃ k < 1024 / 2 ^ lc, (s.leadCore.rp p).getLsbD k = true :=
  low_ne_zero_iff (s.leadCore.rp p) (lcLanes lc)

theorem State.not_anyBit_iff (s : State) (p lc : Nat) :
    (!s.anyBit p lc) = true ↔ ¬ ∃ k < 1024 / 2 ^ lc, (s.leadCore.rp p).getLsbD k = true := by
  rw [← State.anyBit_iff]
  simp

/-- An instruction branches by OFF on a condition. -/
def BranchesIf (s : State) (off : Int) (i : Instr) (P : Prop) : Prop :=
  ∃ c : Bool, exec i s = s.branchIf c off ∧ (c = true ↔ P)

theorem BranchesIf.not_taken {s : State} {off : Int} {i : Instr} {P : Prop} (h : BranchesIf s off i P) (hP : ¬ P) :
    exec i s = .next s := by
  obtain ⟨c, hexec, hc⟩ := h
  rw [hexec, State.branchIf, if_neg (mt hc.1 hP)]

theorem BranchesIf.taken {s : State} {off : Int} {i : Instr} {P : Prop} (h : BranchesIf s off i P) (hP : P) :
    exec i s = .next (s.branchTo (s.target off)) := by
  obtain ⟨c, hexec, hc⟩ := h
  rw [hexec, State.branchIf, if_pos (hc.2 hP)]

/-- The six comparisons and the two tests of a predicate, in both formats. -/
theorem conditions_branchIf (s : State) (a b lc : Nat) (off : Int) :
    let x := s.leadCore.rs a
    let y := s.leadCore.rs b
    let some1 : Prop := ∃ k < 1024 / 2 ^ lc, (s.leadCore.rp a).getLsbD k = true
    ∀ r ∈ ([(.beq a b off, x = y), (.bne a b off, x ≠ y), (.blt a b off, x.toInt < y.toInt), (.bge a b off, y.toInt ≤ x.toInt),
       (.bltu a b off, x.toNat < y.toNat), (.bgeu a b off, y.toNat ≤ x.toNat), (.bpany a lc off, some1), (.bpnone a lc off, ¬ some1),
       (.beqLong a b off, x = y), (.bneLong a b off, x ≠ y), (.bltLong a b off, x.toInt < y.toInt), (.bgeLong a b off, y.toInt ≤ x.toInt),
       (.bltuLong a b off, x.toNat < y.toNat), (.bgeuLong a b off, y.toNat ≤ x.toNat), (.bpanyLong a lc off, some1),
       (.bpnoneLong a lc off, ¬ some1)] : List (Instr × Prop)), BranchesIf s off r.1 r.2 := by
  intro x y some1
  have eq : (x == y) = true ↔ x = y := beq_iff_eq
  have ne : (x != y) = true ↔ x ≠ y := bne_iff_ne
  have lt := BitVec.slt_iff_toInt_lt (x := x) (y := y)
  have ge := BitVec.sle_iff_toInt_le (x := y) (y := x)
  have ltu : decide (x < y) = true ↔ x.toNat < y.toNat := by rw [decide_eq_true_iff, BitVec.lt_def]
  have geu : decide (y ≤ x) = true ↔ y.toNat ≤ x.toNat := by rw [decide_eq_true_iff, BitVec.le_def]
  have any := s.anyBit_iff a lc
  have none := s.not_anyBit_iff a lc
  simp only [List.forall_mem_cons]
  exact ⟨⟨_, rfl, eq⟩, ⟨_, rfl, ne⟩, ⟨_, rfl, lt⟩, ⟨_, rfl, ge⟩, ⟨_, rfl, ltu⟩, ⟨_, rfl, geu⟩, ⟨_, rfl, any⟩, ⟨_, rfl, none⟩,
    ⟨_, rfl, eq⟩, ⟨_, rfl, ne⟩, ⟨_, rfl, lt⟩, ⟨_, rfl, ge⟩, ⟨_, rfl, ltu⟩, ⟨_, rfl, geu⟩, ⟨_, rfl, any⟩, ⟨_, rfl, none⟩,
    List.forall_mem_nil _⟩

/-! ### Jumps and calls (R88, R89) -/

theorem jumps_branchTo (s : State) (a : Nat) (off : Int) :
    ∀ r ∈ [(Instr.jmp off, s.target off), (.jmpLong off, s.target off), (.jmpi a, (s.leadCore.rs a).toNat),
      (.ret a, (s.leadCore.rs a).toNat)], exec r.1 s = .next (s.branchWith r.2 id) := by
  simp only [List.forall_mem_cons]
  exact ⟨rfl, rfl, rfl, rfl, List.forall_mem_nil _⟩

/-- The link register receives the address of the header that follows the bundle. -/
def State.link (a wc : Nat) (s : State) : State := s.result 1 [.s a (BitVec.ofNat 64 (s.core.pc + 4 * wc))]

theorem ofNat_nextBundle (s : State) : (BitVec.ofNat 64 s.nextBundle : Word) = BitVec.ofNat 64 (s.core.pc + 4 * s.core.ctx.wc) :=
  BitVec.eq_of_toNat_eq (by simp [State.nextBundle])

theorem State.callTo_eq (s : State) (a t : Nat) :
    s.callTo a t = .next (s.branchWith t (State.link a s.core.ctx.wc)) := by
  simp only [State.callTo, State.branchWith, State.link, ofNat_nextBundle]

theorem calls_branchWith (s : State) (a b : Nat) (off : Int) :
    ∀ r ∈ [(Instr.call a off, s.target off), (.callLong a off, s.target off), (.calli a b, (s.leadCore.rs b).toNat)],
      exec r.1 s = .next (s.branchWith r.2 (State.link a s.core.ctx.wc)) := by
  simp only [List.forall_mem_cons, ← State.callTo_eq]
  exact ⟨rfl, rfl, rfl, List.forall_mem_nil _⟩

/-! ### The loop branch (R90) -/

/-- 1 less modulo 2^64, which is 0 for 1 alone. -/
theorem sub_one_toNat (x : Word) : (x - 1).toNat = (x.toNat + 2 ^ 64 - 1) % 2 ^ 64 := by
  bv_omega

theorem sub_one_eq_zero_iff (x : Word) : x - 1 = 0 ↔ x.toNat = 1 := by
  bv_omega

theorem State.loopTo_last {s : State} {a : Nat} (off : Int) (h : (s.leadCore.rs a).toNat = 1) :
    s.loopTo a off = .next (s.result 1 [.s a (s.leadCore.rs a - 1)]) := by
  have h0 : s.rl a - 1 = 0 := (sub_one_eq_zero_iff _).2 h
  simp only [State.loopTo, if_pos h0]
  rfl

theorem State.loopTo_again {s : State} {a : Nat} (off : Int) (h : (s.leadCore.rs a).toNat ≠ 1) :
    s.loopTo a off = .next (s.branchWith (s.target off) fun s' => s'.result 1 [.s a (s.leadCore.rs a - 1)]) := by
  have h0 : ¬ s.rl a - 1 = 0 := mt (sub_one_eq_zero_iff _).1 h
  simp only [State.loopTo, if_neg h0]
  rfl

/-- Settles O14: each instruction is a branch by its condition and its target, and `branchWith` says what a good, a moving and a
bad target do. -/
theorem branchesCallsAndLoops : Obligations.BranchesCallsAndLoops := by
  unfold Obligations.BranchesCallsAndLoops
  refine ⟨fun s a b lc off => ?_, fun s a b off => ?_, fun s a off => ?_⟩
  · intro x y some1 target rows r hr
    have h : BranchesIf s off r.1 r.2 := conditions_branchIf s a b lc off r hr
    refine ⟨h.not_taken, fun hP hgood hhere => ?_, fun hP hgood hmoves => ?_, fun hP hbad => ?_⟩
    · exact (h.taken hP).trans (congrArg _ (State.branchWith_good id hgood hhere))
    · exact (h.taken hP).trans (congrArg _ (State.branchWith_moving id hgood hmoves))
    · exact (h.taken hP).trans (congrArg _ (State.branchWith_bad id hbad))
  · intro rel link go bare linked
    have hbare : ∀ r ∈ bare, exec r.1 s = .next (s.branchWith r.2 id) := jumps_branchTo s a off
    have hlinked : ∀ r ∈ linked, exec r.1 s = .next (s.branchWith r.2 (State.link a s.core.ctx.wc)) :=
      calls_branchWith s a b off
    have hall : ∀ r ∈ bare ++ linked, ∃ also, exec r.1 s = .next (s.branchWith r.2 also) := fun r hr =>
      (List.mem_append.1 hr).elim (fun h => ⟨_, hbare r h⟩) fun h => ⟨_, hlinked r h⟩
    refine ⟨fun r hr hgood hhere => ?_, fun r hr hgood hhere => ?_, fun r hr hgood hmoves => ?_, fun r hr hbad => ?_⟩
    · exact (hbare r hr).trans (congrArg _ (State.branchWith_good id hgood hhere))
    · exact (hlinked r hr).trans (congrArg _ (State.branchWith_good _ hgood hhere))
    · obtain ⟨also, hexec⟩ := hall r hr
      exact hexec.trans (congrArg _ (State.branchWith_moving also hgood hmoves))
    · obtain ⟨also, hexec⟩ := hall r hr
      exact hexec.trans (congrArg _ (State.branchWith_bad also hbad))
  · intro x target
    refine ⟨x - 1, sub_one_toNat x, fun i hi => ?_⟩
    have hexec : exec i s = s.loopTo a off := by
      obtain rfl | rfl : i = .loop a off ∨ i = .loopLong a off := by simpa using hi
      · rfl
      · rfl
    rw [hexec]
    refine ⟨State.loopTo_last off, fun h hgood hhere => ?_, fun h hgood hmoves => ?_, fun h hbad => ?_⟩
    · exact (State.loopTo_again off h).trans (congrArg _ (State.branchWith_good _ hgood hhere))
    · exact (State.loopTo_again off h).trans (congrArg _ (State.branchWith_moving _ hgood hmoves))
    · exact (State.loopTo_again off h).trans (congrArg _ (State.branchWith_bad _ hbad))

end Sys2Proof.Machine
end

section
/-! What an access does by the answer of its checks (R108, R109), and the requests of the atomics and of WAKE (R126, R127, R131). -/

namespace Sys2Proof.Machine

/-! ### The answer of the checks -/

/-- An instruction that goes on with the pieces of a checked access. -/
theorem accesses_of_checked {i : Instr} {s : State} {r : Checked} {f : List Piece → State} {k : List Piece → State → Prop}
    (hexec : exec i s = .next (s.checked r f)) (hok : ∀ ps, r = .ok ps → k ps (f ps)) : accesses i s r k := by
  refine ⟨fun ps h => ⟨f ps, ?_, hok ps h⟩, fun t h => ?_, fun w h => ?_⟩
  · rw [hexec, h]; rfl
  · rw [hexec, h]; rfl
  · rw [hexec, h]; rfl

/-- A fold whose every step that answers pieces answers some answers some, once it has taken a step. -/
theorem foldl_ok_ne_nil {α : Type} {f : Checked → α → Checked} (hf : ∀ acc x ps, f acc x = .ok ps → ps ≠ [])
    {l : List α} (hl : l ≠ []) {acc : Checked} {ps : List Piece} (h : l.foldl f acc = .ok ps) : ps ≠ [] := by
  obtain ⟨xs, x, rfl⟩ := (List.eq_nil_or_concat l).resolve_left hl
  rw [List.concat_eq_append, List.foldl_append] at h
  exact hf _ _ _ h

theorem cut_ne_nil (a : Nat) {n : Nat} (hn : n ≠ 0) : cut a n ≠ [] := by
  simp [cut, pieces, hn]

/-- An admitted access of some bytes has a piece. -/
theorem State.check_ok_ne_nil {s : State} {a : Access} {scope ea n align : Nat} {ps : List Piece} (hn : n ≠ 0)
    (h : s.check a scope ea n align = .ok ps) : ps ≠ [] := by
  rw [State.check] at h
  split at h
  · cases h
  rw [State.checkBytes] at h
  dsimp only at h
  split at h
  · next qs hfold =>
    have hqs : qs ≠ [] := by
      refine foldl_ok_ne_nil (fun acc x qs hx => ?_) (cut_ne_nil ea hn) hfold
      cases acc with
      | trap t => cases hx
      | freeze w =>
        dsimp only at hx
        split at hx
        · cases hx
        · split at hx <;> cases hx
      | ok os =>
        dsimp only at hx
        split at hx
        · cases hx
        · split at hx
          · cases hx
          · cases hx
          · cases hx
            simp
    split at h
    · cases h
      exact hqs
    · cases h
  · next r hr => exact absurd h (hr ps)

/-! ### Atomics and WAKE -/

/-- The request of an atomic or WAKE whose word is admitted (R126, R127). -/
def State.request (u : State) (op : AtomOp) (sz : Nat) (ret : Bool) (ea : Nat) (x y : Word) (l : Loc) : Atom :=
  ⟨u.nextAtom, .cont u.core.part u.core.cont, u.core.phys, u.core.part, u.core.task, op, sz, l, va52 ea, x, y, u.core.ctx.rnd, ret,
    l.peer.isSome, u.core.pc, u.core.issued, u.now, false, false, none, [], none, none⟩

section
variable {s : State} {i : Instr} {op : AtomOp} {sz : Nat} {ret : Bool} {d land ea : Nat} {x y : Word}
  (hexec : exec i s = .next (s.issueAtom op sz ret d land ea x y))
include hexec

theorem raises_of_issueAtom (hgroup : s.inGroup = true) : raises i s .groupViolation :=
  hexec.trans (congrArg Host.Outcome.next (if_pos hgroup))

theorem accesses_of_issueAtom (hgroup : s.inGroup = false) :
    let u := s.settle.fixLoads s.core.phys
    accesses i s (s.check .atomic s.scope ea (if sz = 0 then 4 else 8) (if sz = 0 then 4 else 8)) fun ps t =>
      ∃ l, ps.head?.map (·.loc) = some l ∧ t = { u with
        atoms := u.atoms ++ [u.request op sz ret ea x y l], nextAtom := (u.nextAtom + 1) % 2 ^ 32
        core := { u.core with
          issued := u.core.issued + 1
          loads := if ret then u.core.loads ++ [⟨[], .atomic d u.nextAtom, land, u.core.ctx.scope, u.core.pc, u.core.issued, u.core.phase, none⟩]
            else u.core.loads } } := by
  refine accesses_of_checked (hexec.trans (congrArg Host.Outcome.next (if_neg (Bool.eq_false_iff.1 hgroup)))) fun ps h => ?_
  have hps := State.check_ok_ne_nil (by split <;> decide) h
  obtain ⟨p, qs, rfl⟩ := List.exists_cons_of_ne_nil hps
  exact ⟨p.loc, rfl, rfl⟩

end

/-- Settles O22: the thirteen atomics and WAKE are one operation, `State.issueAtom`, which a tile group refuses and which otherwise
sends one request. -/
theorem atomicsGoToTheHomeSlice : Obligations.AtomicsGoToTheHomeSlice := by
  intro s o sz b a u request loads goes
  have sends {i : Instr} {op : AtomOp} {sz : Nat} {ret : Bool} {d land ea : Nat} {x y : Word}
      (hexec : exec i s = .next (s.issueAtom op sz ret d land ea x y)) : goes i op sz ret d land ea x y :=
    ⟨raises_of_issueAtom hexec, accesses_of_issueAtom hexec⟩
  refine ⟨?_, sends rfl⟩
  simp only [List.forall_mem_cons]
  exact ⟨sends rfl, sends rfl, sends rfl, sends rfl, sends rfl, sends rfl, sends rfl, sends rfl, sends rfl, sends rfl, sends rfl,
    sends rfl, sends rfl, List.forall_mem_nil _⟩

end Sys2Proof.Machine
end

section
/-! Safe points and what leaves a core at one (R92, R93, R95–R98, R219). -/

namespace Sys2Proof.Machine

variable {s : State}

/-! ### The checks of a safe-table index (R92) -/

theorem State.poisonRange_of_none (h : s.poisoned = []) (part : Nat) (a : Access) (va n : Nat) : s.poisonRange part a va n = s := by
  rw [State.poisonRange]
  split
  · next l _ =>
    refine l.foldlRecOn _ (motive := fun t => t = s) rfl fun t ht x _ => ?_
    subst ht
    split
    · exact State.poisonRead_of_none h _ _
    · rfl
  · rfl

theorem State.safePoison_of_none (h : s.poisoned = []) (part task i : Nat) : s.safePoison part task i = s := by
  simp only [State.safePoison, State.poisonRange_of_none h, ite_self]
  split <;> rfl

section
variable {idx : Nat} (k : State → State)

theorem State.withEntry_of_moving {f : Freeze} (hmoves : s.safeMoves s.core.part s.core.task idx = some f) :
    s.withEntry idx k = s.freeze f := by
  rw [State.withEntry, hmoves]

variable (hpoison : s.poisoned = []) (hhere : s.safeMoves s.core.part s.core.task idx = none)
include hpoison hhere

theorem State.withEntry_of_bad (hbad : s.badSafeIdx idx = true) : s.withEntry idx k = s.refuse .illegal := by
  simp only [State.withEntry, hhere, State.safePoison_of_none hpoison, if_pos hbad]

theorem State.withEntry_of_good (hgood : s.badSafeIdx idx = false) : s.withEntry idx k = k s := by
  simp only [State.withEntry, hhere, State.safePoison_of_none hpoison, hgood, Bool.false_eq_true, if_false]

end

theorem State.badSafeIdx_iff (idx : Nat) :
    s.badSafeIdx idx = true ↔ s.safeCount s.core.part s.core.task ≤ idx ∨ idx = 0xFFFE ∨ idx = 0xFFFF := by
  simp [State.badSafeIdx, or_assoc]

theorem State.suspending_of_inGroup (hg : s.inGroup = true) (idx : Nat) (k : State → State) :
    s.suspending idx k = s.refuse .groupViolation := if_pos hg

theorem State.suspending_outside (hg : s.inGroup = false) (idx : Nat) (k : State → State) :
    s.suspending idx k = s.withEntry idx k := if_neg (Bool.eq_false_iff.1 hg)

/-! ### The three that end a continuation's stay at a safe point -/

/-- What JOIN, YIELD and SUSPEND do at an index that is accepted. -/
def State.departures (idx a : Nat) : List (Instr × (State → State)) :=
  [(.join idx, fun s => s.safePoint idx (.join s.core.pc)), (.yield idx, fun s => s.safePoint idx .yield),
    (.suspend a idx, fun s => s.checked (s.checkWord .watched 3 (s.rs a).toNat 4) fun ps =>
      s.safePoint idx (.suspend (((ps.head?).map (·.va)).getD 0) (((ps.head?).map (·.loc.pa)).getD 0) s.core.pc))]

theorem exec_departures (s : State) (idx a : Nat) : ∀ r ∈ State.departures idx a, exec r.1 s = .next (s.suspending idx r.2) := by
  simp only [State.departures, List.forall_mem_cons]
  exact ⟨rfl, rfl, rfl, List.forall_mem_nil _⟩

/-- Each of them in a group, and outside one at a page in transit and at a refused index. -/
theorem exec_departures_refused (s : State) (idx a : Nat) : ∀ i ∈ [Instr.join idx, .yield idx, .suspend a idx],
    (s.inGroup = true → raises i s .groupViolation) ∧
    (s.inGroup = false →
      (∀ f, s.safeMoves s.core.part s.core.task idx = some f → exec i s = .next (s.freeze f)) ∧
      (s.poisoned = [] → s.safeMoves s.core.part s.core.task idx = none → s.badSafeIdx idx = true → raises i s .illegal)) := by
  intro i hi
  obtain ⟨r, hr, rfl⟩ : ∃ r ∈ State.departures idx a, r.1 = i := by simpa [State.departures, eq_comm] using hi
  have hexec := exec_departures s idx a r hr
  refine ⟨fun hg => ?_, fun hg => ⟨fun f hmoves => ?_, fun hpoison hhere hbad => ?_⟩⟩
  · exact hexec.trans (congrArg _ (State.suspending_of_inGroup hg idx r.2))
  · rw [hexec, State.suspending_outside hg, State.withEntry_of_moving _ hmoves]
  · rw [raises, hexec, State.suspending_outside hg, State.withEntry_of_bad _ hpoison hhere hbad, State.refuse]

theorem exec_departures_accepted {idx : Nat} (a : Nat) (hg : s.inGroup = false) (hpoison : s.poisoned = [])
    (hhere : s.safeMoves s.core.part s.core.task idx = none) (hgood : s.badSafeIdx idx = false) :
    ∀ r ∈ State.departures idx a, exec r.1 s = .next (r.2 s) := fun r hr => by
  rw [exec_departures s idx a r hr, State.suspending_outside hg, State.withEntry_of_good _ hpoison hhere hgood]

/-! ### The safe point of a repetition's end (R73, R219) -/

/-- Two cores with the same safe point: the current entry with its save set, and the one that their bundle has made. -/
def sameSafePoint (c d : Core) : Prop := d.point = c.point ∧ d.safeIdx = c.safeIdx ∧ d.saved = c.saved

theorem Core.write_sameSafePoint (c : Core) (w : RegWrite) : sameSafePoint c (c.write w) := by
  cases w with
  | s r x => unfold Core.write; dsimp only; split <;> exact ⟨rfl, rfl, rfl⟩
  | p r x m => unfold Core.write; dsimp only; split <;> exact ⟨rfl, rfl, rfl⟩
  | _ => exact ⟨rfl, rfl, rfl⟩

theorem Core.writes_sameSafePoint (c : Core) (ws : List RegWrite) : sameSafePoint c (c.writes ws) :=
  ws.foldlRecOn _ (motive := sameSafePoint c) ⟨rfl, rfl, rfl⟩ fun d ⟨hpoint, hidx, hsaved⟩ w _ =>
    have ⟨hpoint', hidx', hsaved'⟩ := Core.write_sameSafePoint d w
    ⟨hpoint'.trans hpoint, hidx'.trans hidx, hsaved'.trans hsaved⟩

theorem State.leaveAtRetire_safePoint (u : State) :
    sameSafePoint u.core u.leaveAtRetire.core ∧ u.leaveAtRetire.core.written = u.core.written := by
  unfold State.leaveAtRetire
  split
  · split <;> exact ⟨⟨rfl, rfl, rfl⟩, rfl⟩
  · exact ⟨⟨rfl, rfl, rfl⟩, rfl⟩
  · exact ⟨⟨rfl, rfl, rfl⟩, rfl⟩

theorem Core.pointed_of_point {c : Core} {idx : Nat} {live : LiveMask} (h : c.point = some (idx, live)) :
    c.pointed.safeIdx = idx ∧ c.pointed.saved = live ∧ c.pointed.written = LiveMask.none ∧ c.pointed.point = none := by
  rw [Core.pointed, h]
  exact ⟨rfl, rfl, rfl, rfl⟩

section
variable {b : Bundle} {idx : Nat} {live : LiveMask}

/-- The last repetition of a bundle that ends no phase makes its safe point current. -/
theorem State.endRepetition_last_safePoint (hpoint : s.core.point = some (idx, live)) (hph : b.header.ph = false)
    (hops : b.ops.any (fun o => endsPhase o.instr) = false) (hrep : s.core.rep = b.header.rep) :
    let t := State.endRepetition b none s
    t.core.safeIdx = idx ∧ t.core.saved = live ∧ t.core.written = LiveMask.none ∧ t.core.point = none := by
  have hlate : (s.core.lateWrites true).point = some (idx, live) :=
    (Core.writes_sameSafePoint s.core _).1.trans hpoint
  simp only [State.endRepetition, hrep, Option.isSome_none, BEq.rfl, Bool.or_true, if_true, hph, hops, Bool.or_self, Bool.false_eq_true,
    if_false]
  generalize hu : State.onCore (State.onCore s _) _ = u
  obtain ⟨hidx, hsaved, hwritten, hpoint⟩ : u.core.safeIdx = idx ∧ u.core.saved = live ∧ u.core.written = LiveMask.none ∧ u.core.point = none := by
    subst hu
    have h : ({ s.core.lateWrites true with coreTimer := if s.core.progressed b then s.now else s.core.coreTimer } : Core).point =
      some (idx, live) := hlate
    exact Core.pointed_of_point h
  obtain ⟨⟨hp, hi, hs⟩, hw⟩ := State.leaveAtRetire_safePoint u
  exact ⟨hi.trans hidx, hs.trans hsaved, hw.trans hwritten, hp.trans hpoint⟩

/-- An earlier one leaves the current safe point and drops its own. -/
theorem State.endRepetition_early_safePoint (hrep : s.core.rep ≠ b.header.rep) :
    let t := State.endRepetition b none s
    t.core.safeIdx = s.core.safeIdx ∧ t.core.saved = s.core.saved ∧ t.core.point = none := by
  have hlast : (s.core.rep == b.header.rep) = false := beq_eq_false_iff_ne.2 hrep
  obtain ⟨_, hidx, hsaved⟩ := Core.writes_sameSafePoint s.core (s.core.late.filter fun w => false || !atBundleEnd w)
  simp only [State.endRepetition, hlast, Option.isSome_none, Bool.or_self, Bool.false_eq_true, if_false]
  exact ⟨hidx, hsaved, rfl⟩

end

/-- Settles O26: the shared checks of the index, then the safe point noted; EXIT by its counter's check; and what the end of a
repetition makes of the safe point. -/
theorem safePointsAndDepartures : Obligations.SafePointsAndDepartures := by
  intro s a idx n here marked
  have refused := exec_departures_refused s idx a
  have hsafe : exec (.safe idx) s = .next (s.withEntry idx fun s => s.safePoint idx (.preempt s.core.pc)) := rfl
  refine ⟨fun hpoison hhere hn hmax => ?_, fun hpoison hhere hbad => ?_, fun f hmoves => ?_, fun hg => ?_, fun hg => ?_,
    fun b live hpoint hph hops => ⟨State.endRepetition_last_safePoint hpoint hph hops, State.endRepetition_early_safePoint⟩⟩
  · have hgood : s.badSafeIdx idx = false := by
      rw [Bool.eq_false_iff, ne_eq, State.badSafeIdx_iff]
      omega
    have accepted (hg : s.inGroup = false) := exec_departures_accepted a hg hpoison hhere hgood
    refine ⟨?_, fun hg => ⟨?_, ?_, ?_⟩⟩
    · rw [hsafe, State.withEntry_of_good _ hpoison hhere hgood]; rfl
    · exact accepted hg (_, _) (List.mem_cons_self ..)
    · exact accepted hg (_, _) (List.mem_cons_of_mem _ (List.mem_cons_self ..))
    · refine accesses_of_checked (accepted hg (_, _) (List.mem_cons_of_mem _ (List.mem_cons_of_mem _ (List.mem_cons_self ..)))) fun ps h => ?_
      obtain ⟨p, qs, rfl⟩ := List.exists_cons_of_ne_nil (State.check_ok_ne_nil (by decide) h)
      exact ⟨p, rfl, rfl⟩
  · have hbad : s.badSafeIdx idx = true := (State.badSafeIdx_iff idx).2 hbad
    have illegal (i : Instr) (hi : i ∈ [Instr.join idx, .yield idx, .suspend a idx]) (hg : s.inGroup = false) : raises i s .illegal :=
      ((refused i hi).2 hg).2 hpoison hhere hbad
    refine ⟨?_, fun hg => ⟨illegal _ (by simp) hg, illegal _ (by simp) hg, illegal _ (by simp) hg⟩⟩
    rw [raises, hsafe, State.withEntry_of_bad _ hpoison hhere hbad, State.refuse]
  · refine ⟨?_, fun hg i hi => ((refused i hi).2 hg).1 f hmoves⟩
    rw [hsafe, State.withEntry_of_moving _ hmoves]; rfl
  · exact ⟨(refused _ (by simp)).1 hg, (refused _ (by simp)).1 hg, (refused _ (by simp)).1 hg,
      congrArg Host.Outcome.next (if_pos hg)⟩
  · exact accesses_of_checked (congrArg Host.Outcome.next (if_neg (Bool.eq_false_iff.1 hg))) fun _ _ => rfl

end Sys2Proof.Machine
end

section
/-! Loads going out (R69, R108–R114, R117, R121), and the scratchpad hints and pins (R124, R125). -/

namespace Sys2Proof.Machine

variable {s t u : State}

/-! ### What a read of poisoned memory may change: the acting core may stop (R392, R393) -/

/-- `t` has the memory of `s` and its acting core, which may have stopped. -/
def stopsAtMost (s t : State) : Prop := (t.core = s.core ∨ t.core = s.core.stopped) ∧ t.mem = s.mem

theorem stopsAtMost.refl (s : State) : stopsAtMost s s := ⟨.inl rfl, rfl⟩

theorem stopsAtMost.trans (h : stopsAtMost s t) (k : stopsAtMost t u) : stopsAtMost s u := by
  obtain ⟨hc, hm⟩ := h
  obtain ⟨kc, km⟩ := k
  refine ⟨?_, km.trans hm⟩
  rcases hc with hc | hc <;> rw [hc] at kc
  · exact kc
  · exact .inr (kc.elim id id)

theorem State.fatalPart_stopsAtMost (s : State) (part : Nat) : stopsAtMost s (s.fatalPart part) := by
  refine ⟨?_, rfl⟩
  change (if _ then _ else _) = s.core ∨ (if _ then _ else _) = s.core.stopped
  split
  · exact .inr rfl
  · exact .inl rfl

theorem State.poisonRead_stopsAtMost (s : State) (pa n : Nat) : stopsAtMost s (s.poisonRead pa n) := by
  refine List.foldlRecOn _ _ (motive := stopsAtMost s) (.refl s) fun t ht b _ => ht.trans ?_
  split
  · exact State.fatalPart_stopsAtMost t _
  · exact .refl t

/-! ### A load that goes out (R69, R110) -/

theorem State.loadPart_tag (s : State) (scope : Nat) (p : Piece) (dst : Nat) : (s.loadPart scope p dst).1.tag = none := by
  unfold State.loadPart
  split <;> rfl

theorem State.loadPart_stopsAtMost (s : State) (scope : Nat) (p : Piece) (dst : Nat) : stopsAtMost s (s.loadPart scope p dst).2 := by
  unfold State.loadPart
  split
  · exact State.poisonRead_stopsAtMost s _ _
  · exact .refl s

/-- The parts of a load have asked no peer yet, and reading those in the scratch segment changes no register and no byte. -/
theorem State.loadParts_untagged (s : State) (scope : Nat) (ps : List (Piece × Nat)) :
    (∀ p ∈ (s.loadParts scope ps).1, p.tag = none) ∧ stopsAtMost s (s.loadParts scope ps).2 := by
  refine List.foldlRecOn ps _ (motive := fun acc : List LoadPart × State => (∀ p ∈ acc.1, p.tag = none) ∧ stopsAtMost s acc.2)
    ⟨by simp, .refl s⟩ fun acc ⟨htags, hstop⟩ p _ => ⟨fun q hq => ?_, hstop.trans (State.loadPart_stopsAtMost acc.2 scope p.1 p.2)⟩
  rcases List.mem_append.1 hq with hq | hq
  · exact htags q hq
  · rw [List.mem_singleton.1 hq]
    exact State.loadPart_tag acc.2 scope p.1 p.2

/-- A part without the READ that it may have sent. -/
def LoadPart.untagged (p : LoadPart) : LoadPart := { p with tag := none }

theorem LoadPart.untagged_eq {p : LoadPart} (h : p.tag = none) : p.untagged = p := by
  cases p
  cases h
  rfl

theorem State.countAccess_frame (s : State) (part va : Nat) : (s.countAccess part va).core = s.core ∧ (s.countAccess part va).mem = s.mem := by
  unfold State.countAccess
  split
  · dsimp only
    split <;> exact ⟨rfl, rfl⟩
  · exact ⟨rfl, rfl⟩

theorem State.sendRead_frame (s : State) (n dev pa len va : Nat) :
    (s.sendRead n dev pa len va).2.core = s.core ∧ (s.sendRead n dev pa len va).2.mem = s.mem :=
  State.countAccess_frame s _ va

/-- A fold that appends one element for each, `g` of it kept, and leaves the state's acting core and memory. -/
theorem foldl_append_frame {α β : Type} (g : α → β) {f : List α × State → α → List α × State}
    (hf : ∀ acc x, (∃ y, (f acc x).1 = acc.1 ++ [y] ∧ g y = g x) ∧ (f acc x).2.core = acc.2.core ∧ (f acc x).2.mem = acc.2.mem) :
    ∀ (xs : List α) (acc : List α × State), (xs.foldl f acc).1.map g = acc.1.map g ++ xs.map g ∧
      (xs.foldl f acc).2.core = acc.2.core ∧ (xs.foldl f acc).2.mem = acc.2.mem
  | [], acc => ⟨(List.append_nil _).symm, rfl, rfl⟩
  | x :: xs, acc => by
    obtain ⟨⟨y, hy, hg⟩, hcore, hmem⟩ := hf acc x
    obtain ⟨hlist, hcore', hmem'⟩ := foldl_append_frame g hf xs (f acc x)
    exact ⟨by rw [List.foldl_cons, hlist, hy]; simp [hg], hcore'.trans hcore, hmem'.trans hmem⟩

/-- READs to peers go out: parts take their tags, the acting core and memory stay. -/
theorem State.sendReads_frame (s : State) (n : Nat) (l : LoadLanding) :
    (s.sendReads n l).1.map LoadPart.untagged = l.parts.map LoadPart.untagged ∧
      (s.sendReads n l).2.core = s.core ∧ (s.sendReads n l).2.mem = s.mem := by
  refine foldl_append_frame LoadPart.untagged (fun acc p => ?_) l.parts ([], s)
  dsimp only
  split
  · exact ⟨⟨p, rfl, rfl⟩, rfl, rfl⟩
  · split
    · exact ⟨⟨p, rfl, rfl⟩, rfl, rfl⟩
    · refine ⟨⟨_, rfl, rfl⟩, ?_⟩
      split
      · exact State.sendRead_frame acc.2 n _ _ _ _
      · exact State.sendRead_frame acc.2 n _ _ _ _

/-- A load that has issued asks its peers or waits; nothing of it but the tags of its parts changes. -/
theorem State.asking_frame (s : State) (l : LoadLanding) :
    (∃ ps, (s.asking l).1 = { l with parts := ps } ∧ ps.map LoadPart.untagged = l.parts.map LoadPart.untagged) ∧
      (s.asking l).2.core = s.core ∧ (s.asking l).2.mem = s.mem := by
  unfold State.asking
  split
  · exact ⟨⟨_, rfl, rfl⟩, rfl, rfl⟩
  · obtain ⟨hps, hframe⟩ := State.sendReads_frame s s.core.phys l
    exact ⟨⟨_, rfl, hps⟩, hframe⟩

theorem stopsAtMost.sameRegisters (h : stopsAtMost s t) : sameRegisters s.core t.core := by
  rcases h.1 with hc | hc <;> rw [hc] <;> exact .refl s.core

/-- A stopped core keeps its loads, its place in issue order and what its loads note. -/
theorem stopsAtMost.loading (h : stopsAtMost s t) : t.core.loads = s.core.loads ∧ t.core.issued = s.core.issued ∧
    t.core.ctx = s.core.ctx ∧ t.core.pc = s.core.pc ∧ t.core.phase = s.core.phase := by
  rcases h.1 with hc | hc <;> rw [hc] <;> exact ⟨rfl, rfl, rfl, rfl, rfl⟩

/-- A load as it issues. -/
def State.newLoad (s : State) (dest : LoadDest) (land : Nat) (parts : List LoadPart) : LoadLanding :=
  ⟨parts, dest, land, s.core.ctx.scope, s.core.pc, s.core.issued, s.core.phase, none⟩

/-- The acting core takes a load that has asked its peers. -/
def State.takeLoad (s : State) (dest : LoadDest) (land : Nat) (parts : List LoadPart) : State :=
  let r := s.asking (s.newLoad dest land parts)
  r.2.onCore fun c => { c with loads := c.loads ++ [r.1], issued := c.issued + 1 }

theorem State.takeLoad_loadOut (hstop : stopsAtMost u s) (dest : LoadDest) (land : Nat) {parts : List LoadPart}
    (htags : ∀ p ∈ parts, p.tag = none) : loadOut u (s.takeLoad dest land parts) dest land parts := by
  obtain ⟨⟨qs, hl, hqs⟩, hcore, hmem⟩ := State.asking_frame s (s.newLoad dest land parts)
  obtain ⟨hloads, hissued, hctx, hpc, hphase⟩ := hstop.loading
  have huntagged : qs.map LoadPart.untagged = parts :=
    hqs.trans ((List.map_congr_left fun p hp => LoadPart.untagged_eq (htags p hp)).trans (List.map_id _))
  have hregs := hstop.sameRegisters
  rw [← hcore] at hregs
  refine ⟨⟨(s.asking (s.newLoad dest land parts)).1, ?_, ?_⟩, ?_, hregs, hmem.trans hstop.2⟩
  · change _ ++ _ = _
    rw [hcore, hloads]
  · rw [hl, ← hctx, ← hpc, ← hissued, ← hphase]
    exact congrArg (fun ps => s.newLoad dest land ps) huntagged
  · change _ + 1 = _
    rw [hcore, hissued]

/-- A load of checked pieces goes out from the settled state. -/
theorem State.load_loadOut (s : State) (dest : LoadDest) (land : Nat) (ps : List Piece) :
    loadOut s.settle (s.load dest land (inPlace ps)) dest land
      (s.settle.loadParts s.settle.scope (ps.map fun p => (p, p.off))).1 :=
  have ⟨htags, hstop⟩ := State.loadParts_untagged s.settle s.settle.scope (inPlace ps)
  State.takeLoad_loadOut hstop dest land htags

/-- An instruction that loads the pieces of a checked access. -/
theorem accesses_of_load {i : Instr} {r : Checked} {dest : LoadDest} {land : Nat}
    (hexec : exec i s = .next (s.checked r fun ps => s.load dest land (inPlace ps))) :
    accesses i s r fun ps t =>
      loadOut s.settle t dest land (s.settle.loadParts s.settle.scope (ps.map fun p => (p, p.off))).1 :=
  accesses_of_checked hexec fun ps _ => State.load_loadOut s dest land ps

/-! ### The pages of the scratch segment (R125) -/

theorem State.makeRoom_frame (s : State) (n page : Nat) :
    { s.makeRoom n page with pages := s.pages, fresh := s.fresh } = s := by
  unfold State.makeRoom
  dsimp only
  split
  · rfl
  · split <;> rfl

theorem State.makeRoom_core (s : State) (n page : Nat) : (s.makeRoom n page).core = s.core := by
  have h := congrArg State.core (State.makeRoom_frame s n page)
  exact h

/-- The other pages of a core, which share its scratchpad with one. -/
def State.otherPages (s : State) (n page : Nat) : List (Nat × Nat × Bool) := s.pages.filter fun p => p.2.1 == n && p.1 != page

theorem State.makeRoom_of_room {n page : Nat} (h : (s.otherPages n page).length < 32) : s.makeRoom n page = s := if_pos h

/-- Where the scratchpad is full, one page that is not pinned goes. -/
theorem State.makeRoom_of_full {n page : Nat} (h : 32 ≤ (s.otherPages n page).length)
    (hfree : ∃ p ∈ s.otherPages n page, p.2.2 = false) :
    ∃ p ∈ s.otherPages n page, p.2.2 = false ∧ (s.makeRoom n page).pages = s.pages.filter (·.1 != p.1) := by
  obtain ⟨q, hq, hqfree⟩ := hfree
  have hmem : q ∈ (s.otherPages n page).filter fun p => !p.2.2 := List.mem_filter.2 ⟨hq, by simp [hqfree]⟩
  have hlt : Config.evicted s.fresh % ((s.otherPages n page).filter fun p => !p.2.2).length <
      ((s.otherPages n page).filter fun p => !p.2.2).length := Nat.mod_lt _ (List.length_pos_of_mem hmem)
  obtain ⟨hp, hpfree⟩ := List.mem_filter.1 (List.getElem_mem hlt)
  refine ⟨_, hp, by simpa using hpfree, ?_⟩
  have hfull : ¬ (s.otherPages n page).length < scratchPages := Nat.not_lt.2 h
  have hget := List.getElem?_eq_getElem hlt
  unfold State.makeRoom
  dsimp only
  split
  · next hroom => exact absurd hroom hfull
  · split
    · next p hp => cases hget.symm.trans hp; rfl
    · next hnone => cases hget.symm.trans hnone

/-- SPIN of one page: it becomes resident, pinned as before or where the core has pins left. -/
def State.pin (s : State) (key : Nat) : State :=
  { s.makeRoom s.core.phys key with
    pages := bankPut (s.makeRoom s.core.phys key).pages key (s.core.phys,
      decide (bankGet (s.core.phys + 1, false) s.pages key = (s.core.phys, true)) || decide (s.pinCount < 28)) }

/-- SPREL of one page. -/
def State.unpin (s : State) (key : Nat) : State :=
  if (bankGet (s.core.phys + 1, false) s.pages key).1 = s.core.phys then
    { s with pages := bankPut s.pages key (s.core.phys, false) } else s

theorem State.unpin_held {key : Nat} (h : (bankGet (s.core.phys + 1, false) s.pages key).1 = s.core.phys) :
    s.unpin key = { s with pages := bankPut s.pages key (s.core.phys, false) } := if_pos h

theorem State.unpin_other {key : Nat} (h : (bankGet (s.core.phys + 1, false) s.pages key).1 ≠ s.core.phys) : s.unpin key = s := if_neg h

theorem State.pin_frame (s : State) (key : Nat) : { s.pin key with pages := s.pages, fresh := s.fresh } = s :=
  State.makeRoom_frame s s.core.phys key

theorem State.unpin_frame (s : State) (key : Nat) : { s.unpin key with pages := s.pages } = s := by
  unfold State.unpin
  split <;> rfl

section
variable {a : Nat}

theorem exec_spin_noncanonical (h : canonical (s.eaM a 0) = false) (n : Nat) :
    exec (.spin n a) s = .next (s.takeTrap { no := .page, addr := s.eaM a 0 }) :=
  congrArg Host.Outcome.next (if_neg (Bool.eq_false_iff.1 h))

theorem exec_sprel_noncanonical (h : canonical (s.eaM a 0) = false) (n : Nat) :
    exec (.sprel n a) s = .next (s.takeTrap { no := .page, addr := s.eaM a 0 }) :=
  congrArg Host.Outcome.next (if_neg (Bool.eq_false_iff.1 h))

variable (h : canonical (s.eaM a 0) = true)
include h

theorem exec_spin (n : Nat) : exec (.spin n a) s = .next ((s.pagesAt n a).foldl State.pin s) := by
  refine (congrArg Host.Outcome.next (if_pos h)).trans (congrArg (fun f => Host.Outcome.next ((s.pagesAt n a).foldl f s)) ?_)
  funext t k
  simp only [State.makeRoom_core, State.pin, beq_eq_decide]

theorem exec_sprel (n : Nat) : exec (.sprel n a) s = .next ((s.pagesAt n a).foldl State.unpin s) :=
  congrArg Host.Outcome.next (if_pos h)

end

theorem State.pagesAt_one {a : Nat} (h : s.core.inScratch (s.eaM a 0 % 2 ^ 52 / 2 ^ 16 * 2 ^ 16) = true) :
    s.pagesAt 0 a = [pageKey s.core.part (s.eaM a 0 % 2 ^ 52 / 2 ^ 16 * 2 ^ 16)] := by
  norm_num at h
  simp [State.pagesAt, va52, h]

/-- Settles O17: loads by their checks, the tile load's own refusals, and the pages that SPIN and SPREL name. -/
theorem loadsHintsAndPins : Obligations.LoadsHintsAndPins := by
  unfold Obligations.LoadsHintsAndPins
  refine ⟨⟨fun s d a land off => ?_, fun s bo t f a land => ?_⟩, fun s cnt a lv off => ⟨rfl, ?_⟩⟩
  · intro ea u
    refine ⟨?_, accesses_of_load rfl, accesses_of_load rfl, rfl⟩
    simp only [List.forall_mem_cons]
    exact ⟨accesses_of_load rfl, accesses_of_load rfl, accesses_of_load rfl, accesses_of_load rfl, accesses_of_load rfl,
      accesses_of_load rfl, accesses_of_load rfl, List.forall_mem_nil _⟩
  · intro fm u
    refine ⟨fun hg => congrArg Host.Outcome.next (if_pos hg), fun hg hbo => ?_, fun hg hbo => accesses_of_load ?_⟩
    · exact congrArg Host.Outcome.next ((if_neg (Bool.eq_false_iff.1 hg)).trans (if_pos (congrArg not hbo)))
    · refine congrArg Host.Outcome.next ((if_neg (Bool.eq_false_iff.1 hg)).trans (if_neg ?_))
      rw [hbo]; decide
  · intro first key old
    refine ⟨fun hc n => ?_, fun hc => ⟨fun hin => ⟨⟨?_, State.makeRoom_of_room, State.makeRoom_of_full⟩, fun hold => ?_, fun hold => ?_⟩, fun n => ?_⟩⟩
    · simp only [List.forall_mem_cons]
      exact ⟨exec_spin_noncanonical hc n, exec_sprel_noncanonical hc n, List.forall_mem_nil _⟩
    · rw [exec_spin hc, State.pagesAt_one hin]; rfl
    · rw [exec_sprel hc, State.pagesAt_one hin, List.foldl_cons, List.foldl_nil, State.unpin_held hold]
    · rw [exec_sprel hc, State.pagesAt_one hin, List.foldl_cons, List.foldl_nil, State.unpin_other hold]
    · refine ⟨_, _, exec_spin hc n, exec_sprel hc n, ?_, ?_⟩
      · refine List.foldlRecOn (motive := fun t : State => { t with pages := s.pages, fresh := s.fresh } = s) _ _ rfl fun t ht k _ => ?_
        exact (congrArg (fun x : State => { x with pages := s.pages, fresh := s.fresh }) (State.pin_frame t k)).trans ht
      · refine List.foldlRecOn (motive := fun t : State => { t with pages := s.pages } = s) _ _ rfl fun t ht k _ => ?_
        exact (congrArg (fun x : State => { x with pages := s.pages }) (State.unpin_frame t k)).trans ht

end Sys2Proof.Machine
end

section
/-! A load's data with nothing newer held over it, and its landing (R69, R70, R111). -/

namespace Sys2Proof.Machine

variable {s t : State}

/-! ### What a read finds where no store is held -/

theorem State.seen_of_pubs_nil (h : s.pubs = []) (r : Path) (pa : Nat) : s.seen r pa = s.deviceByte pa := by
  simp [State.seen, State.heldByte, h]

theorem State.seenN_of_pubs_nil (h : s.pubs = []) (r : Path) : ∀ n pa, s.seenN r pa n = (List.range n).map fun k => s.deviceByte (pa + k)
  | 0, _ => rfl
  | n + 1, pa => by
    rw [State.seenN, State.seen_of_pubs_nil h, State.seenN_of_pubs_nil h r n, List.range_succ_eq_map, List.map_cons, List.map_map]
    refine congrArg₂ _ rfl (List.map_congr_left fun k _ => ?_)
    exact congrArg s.deviceByte (show pa + 1 + k = pa + (k + 1) by omega)

/-- The bytes of a piece within the line that holds it. -/
theorem line_bytes (f : Nat → Byte) {pa size : Nat} (h : size ≤ 64 - pa % 64) :
    (((List.range 64).map fun k => f (pa / 64 * 64 + k)).drop (pa % 64)).take size = (List.range size).map fun k => f (pa + k) := by
  refine List.ext_getElem (by simp; omega) fun i hi _ => ?_
  simp only [List.getElem_take, List.getElem_drop, List.getElem_map, List.getElem_range]
  exact congrArg f (by omega)

theorem State.deviceByte_of_memory (s : State) {pa : Nat} (h : pa < 2 ^ 47) : s.deviceByte pa = s.mem.read pa :=
  if_neg (Nat.not_le.2 h)

/-- The hub statistics (Table 14-7) stand in the second statistics page. -/
theorem State.deviceByte_hubStatistics (s : State) {k off : Nat} (hk : k < 4) (hoff : off < 8) :
    s.deviceByte (2 ^ 47 + 0x10000 + 8 * k + off) =
      BitVec.ofNat 8 ([s.fabDrop, s.collDrop, s.collBusy, s.viol].getD k 0 / 2 ^ (8 * off)) := by
  have hbase : statsBase ≤ 2 ^ 47 + 0x10000 + 8 * k + off := by rw [statsBase]; omega
  have hpage : (2 ^ 47 + 0x10000 + 8 * k + off - statsBase) / 65536 = 1 := by rw [statsBase]; omega
  have hoffset : (2 ^ 47 + 0x10000 + 8 * k + off) % 65536 = 8 * k + off := by omega
  have hword : (8 * k + off) / 8 = k := by omega
  have hbyte : (8 * k + off) % 8 = off := by omega
  rw [State.deviceByte, if_pos hbase, hpage, hoffset]
  simp only [State.statistic, hword, hbyte]
  exact BitVec.eq_of_toNat_eq (by simp)

/-- The statistics pages of a settled core. -/
theorem State.health_settled (s : State) : (s.onCore fun c => { c with unsettled := false }).health = s.health := by
  unfold State.health
  simp only [State.allCores, State.onCore, List.map_cons]

theorem State.compressCount_settled (s : State) (k : Nat) :
    (s.onCore fun c => { c with unsettled := false }).compressCount k = s.compressCount k := by
  unfold State.compressCount
  rfl

theorem State.statistic_settled (s : State) (page off : Nat) :
    (s.onCore fun c => { c with unsettled := false }).statistic page off = s.statistic page off := by
  unfold State.statistic
  simp only [State.health_settled, State.compressCount_settled]
  rfl

theorem State.deviceByte_settled (s : State) (pa : Nat) :
    (s.onCore fun c => { c with unsettled := false }).deviceByte pa = s.deviceByte pa := by
  unfold State.deviceByte
  simp only [State.statistic_settled]
  rfl

/-! ### The data of the only load -/

/-- What a line fill leaves: memory, the registers, the number of the loads and the core's own number. -/
def fillFrame (s t : State) : Prop :=
  t.mem = s.mem ∧ sameRegisters s.core t.core ∧ t.core.phys = s.core.phys ∧ t.core.loads.length = s.core.loads.length

theorem fillFrame_refl (s : State) : fillFrame s s := ⟨rfl, .refl _, rfl, rfl⟩

theorem State.onCoreN_acting (s : State) (f : Core → Core) : s.onCoreN s.core.phys f = s.onCore f := if_pos rfl

theorem State.fillLine_frame (s : State) (key va : Nat) (line : List Byte) : fillFrame s (s.fillLine s.core.phys key va line) := by
  unfold State.fillLine
  dsimp only
  split
  · rw [State.onCoreN_acting]
    exact ⟨rfl, .refl _, rfl, rfl⟩
  · change fillFrame s (State.onCoreN { s with fresh := s.fresh + 1 } ({ s with fresh := s.fresh + 1 } : State).core.phys _)
    rw [State.onCoreN_acting]
    exact ⟨rfl, .refl _, rfl, rfl⟩

/-- A core's first load takes its data, and the replies that it has used are done with. -/
def State.takeData (s : State) (n : Nat) (l : LoadLanding) (tags : List Nat) : State :=
  ({ s with reads := s.reads.filter fun r => !tags.contains r.tag } : State).onCoreN n fun c => { c with loads := c.loads.set 0 l }

theorem State.takeData_frame (s : State) (l : LoadLanding) (tags : List Nat) (h : s.core.loads.length = 1) :
    (s.takeData s.core.phys l tags).mem = s.mem ∧ sameRegisters s.core (s.takeData s.core.phys l tags).core ∧
      (s.takeData s.core.phys l tags).core.loads = [l] := by
  obtain ⟨x, hx⟩ := List.length_eq_one_iff.1 h
  have hacting : s.takeData s.core.phys l tags =
      { s with reads := s.reads.filter fun r => !tags.contains r.tag, core := { s.core with loads := s.core.loads.set 0 l } } := if_pos rfl
  rw [hacting]
  exact ⟨rfl, .refl _, congrArg (List.set · 0 l) hx⟩

section
variable {l : LoadLanding} {p : LoadPart} {d n : Nat} {sx : Bool} (hdest : l.dest = .s d n sx)
  (hlocal : p.loc.peer = none) (hsize : p.size ≤ 64 - p.loc.pa % 64)
  (hline : bankGet [] s.core.snap (p.loc.pa / 64) = []) (hpubs : s.pubs = []) (hpoison : s.poisoned = [])
include hdest hlocal hsize hline hpubs hpoison

/-- A piece of this device that the snapshot does not hold: the device's bytes, with at most a line filled. -/
theorem State.pieceBytes_device : ∃ t, s.pieceBytes s.core.phys l p = some ((List.range p.size).map fun k => s.deviceByte (p.loc.pa + k), t) ∧
    fillFrame s t := by
  have hkey : lineKey p.loc = p.loc.pa / 64 := by rw [lineKey, hlocal]
  unfold State.pieceBytes
  simp only [State.coreOf_acting, hkey, hline, ite_self, ne_eq, not_true_eq_false, if_false, hlocal, hdest,
    State.poisonRead_of_none hpoison, State.seenN_of_pubs_nil hpubs, line_bytes s.deviceByte hsize]
  split
  · refine ⟨_, rfl, ?_⟩
    split
    · exact State.fillLine_frame s _ _ _
    · rw [State.onCoreN_acting]
      exact ⟨rfl, .refl _, rfl, by simp [State.onCore]⟩
  · exact ⟨s, rfl, fillFrame_refl s⟩

variable (hdata : l.data = none) (hparts : l.parts = [p]) (hown : p.own = []) (hfixed : p.fixed = false)

include hown hfixed in
theorem State.partsBytes_device : ∃ t, s.partsBytes s.core.phys l [p] =
    some ((List.range p.size).map fun k => s.deviceByte (p.loc.pa + k), t) ∧ fillFrame s t := by
  obtain ⟨t, ht, hframe⟩ := State.pieceBytes_device hdest hlocal hsize hline hpubs hpoison
  refine ⟨t, ?_, hframe⟩
  simp [State.partsBytes, hfixed, ht, hown, overlay]

variable (hloads : s.core.loads = [l]) (hatoms : s.atoms = []) (hegress : s.egress = [])

include hdata hparts hown hfixed hloads hatoms hegress in
/-- The value of the only load is fixed to the device's bytes. -/
theorem State.fixLoad_device : (s.fixLoad s.core.phys 0).mem = s.mem ∧ sameRegisters s.core (s.fixLoad s.core.phys 0).core ∧
    (s.fixLoad s.core.phys 0).core.loads = [{ l with data := some ((List.range p.size).map fun k => s.deviceByte (p.loc.pa + k)) }] := by
  have hbehind : s.behindAtom s.core.phys l = false := by simp [State.behindAtom, hatoms]
  have hheld : s.held s.core.phys l.seq = false := by simp [State.held, State.coreOf_acting, hloads, hatoms, hpubs, hegress]
  have hatomic : l.isAtomic = false := by simp [LoadLanding.isAtomic, hdest]
  have hreads : s.sendReads s.core.phys l = ([p], s) := by simp [State.sendReads, hparts, hlocal]
  obtain ⟨t, ht, hmem, hregs, hphys, hlen⟩ :=
    State.partsBytes_device hdest hlocal hsize hline hpubs hpoison hown hfixed
  have hsame : ({ l with parts := [p] } : LoadLanding) = l := by rw [← hparts]
  have hfix : s.fixLoad s.core.phys 0 = t.takeData t.core.phys { l with data := some ((List.range p.size).map fun k => s.deviceByte (p.loc.pa + k)) }
      (([p] : List LoadPart).filterMap (·.tag)) := by
    have hnone : l.data.isSome = false := by rw [hdata]; rfl
    unfold State.fixLoad
    simp only [State.coreOf_acting, hloads, List.getElem?_cons_zero, hnone, hatomic, Bool.or_self, Bool.false_eq_true,
      if_false, hbehind, hheld, hreads, hsame, ht, hphys]
    rw [State.takeData, hparts]
  rw [hloads] at hlen
  obtain ⟨hmem', hregs', hloads'⟩ := State.takeData_frame t { l with data := some ((List.range p.size).map fun k => s.deviceByte (p.loc.pa + k)) }
    (([p] : List LoadPart).filterMap (·.tag)) hlen
  rw [hfix]
  exact ⟨hmem'.trans hmem, hregs.trans hregs', hloads'⟩

end

/-! ### The landing of the only load -/

section
variable {l : LoadLanding} {d n : Nat} {sx : Bool} {bs : List Byte} (hloads : s.core.loads = [l]) (hleft : l.left = 0)
  (hdest : l.dest = .s d n sx) (hdata : l.data = some bs) (hlands : s.core.lands = []) (hhere : ∀ h ∈ s.core.here, h.1 ≤ l.seq)

/-- The value that a scalar load of `n` bytes puts into its register (R114). -/
def scalarOf (n : Nat) (sx : Bool) (bs : List Byte) : Word :=
  if sx then BitVec.ofInt 64 (((leNat bs : Nat) : Int).bmod (2 ^ (8 * n))) else BitVec.ofNat 64 (leNat bs)

/-- A core without the results that are due at this boundary. -/
def Core.withoutDue (c : Core) : Core :=
  { c with lands := c.lands.filter (·.left != 0), loads := c.loads.filter (·.left != 0) }

theorem Core.withoutDue_write_s (c : Core) (r : Nat) (x : Word) :
    sameRegisters (c.write (.s r x)) (c.withoutDue.write (.s r x)) := by
  by_cases h : r = 0 <;> simp only [Core.write, h, if_true, if_false] <;> exact .refl _

theorem Core.write_loads (c : Core) (w : RegWrite) : (c.write w).loads = c.loads := by
  cases w with
  | s r x => unfold Core.write; dsimp only; split <;> rfl
  | p r x m => unfold Core.write; dsimp only; split <;> rfl
  | _ => rfl

theorem Core.writes_loads (c : Core) (ws : List RegWrite) : (c.writes ws).loads = c.loads :=
  ws.foldlRecOn _ (motive := fun d : Core => d.loads = c.loads) rfl fun d h w _ => (Core.write_loads d w).trans h

theorem Core.land_loads (c : Core) (seq : Nat) (ws : List RegWrite) : (c.land seq ws).loads = c.loads := by
  unfold Core.land
  dsimp only
  split
  · split
    · exact (Core.writes_loads _ _).trans (Core.writes_loads _ _)
    · exact (Core.writes_loads _ _).trans (Core.writes_loads _ _)
  · exact (Core.writes_loads _ _).trans (Core.writes_loads _ _)

include hdest in
theorem LoadLanding.regWrites_scalar : l.regWrites bs = [.s d (scalarOf n sx bs)] := by
  simp only [LoadLanding.regWrites, hdest, scalarOf, toSigned_eq_bmod]

include hloads hleft hdest hdata hlands in
theorem Core.dueWrites_scalar (f : Core → LoadLanding → List Byte → List RegWrite) :
    s.core.dueWrites f = [(l.seq, [.s d (scalarOf n sx bs)])] := by
  have hwrites := LoadLanding.regWrites_scalar hdest (bs := bs)
  simp [Core.dueWrites, hlands, hloads, hleft, hdest, hdata, insertSeq, hwrites]

include hloads hleft hdest hdata hlands hhere in
/-- The only load, due and with its data, lands alone (R70). -/
theorem Core.landDue_scalar (f : Core → LoadLanding → List Byte → List RegWrite) :
    sameRegisters (s.core.write (.s d (scalarOf n sx bs))) (s.core.landDue f) ∧ (s.core.landDue f).loads = [] := by
  unfold Core.landDue
  simp only [Core.dueWrites_scalar hloads hleft hdest hdata hlands, List.foldl_cons, List.foldl_nil]
  have hland := Core.land_sameRegisters (c := s.core.withoutDue) hhere (.s d (scalarOf n sx bs))
  refine ⟨(Core.withoutDue_write_s s.core d _).trans hland, ?_⟩
  have hkeeps := Core.land_loads s.core.withoutDue l.seq [.s d (scalarOf n sx bs)]
  exact hkeeps.trans (by simp [Core.withoutDue, hloads, hleft])

include hloads hdest in
/-- A scalar load is read once (R122). -/
theorem State.rereadTiles_scalar : s.rereadTiles = s := by
  have hsame : s.core.loads.map s.tileAgain = s.core.loads := by simp [hloads, State.tileAgain, hdest]
  rw [State.rereadTiles, State.onCore, hsame]

include hloads hleft hdest in
/-- No tile lands with it. -/
theorem State.landNow_scalar : ∃ f trap, s.landNow = { s with core := { s.core.landDue f with landTrap := trap } } := by
  unfold State.landNow
  simp only [hloads, hleft, List.filter_cons, List.filter_nil, BEq.rfl, if_true, List.foldl_cons, List.foldl_nil, hdest]
  exact ⟨_, _, rfl⟩

include hloads hleft hdest hdata hlands hhere in
/-- LOAD_LANDING of the only load, due and with its data. -/
theorem exec_loadLanding_scalar (hs : bankWf 0 s.core.s = true) : ∃ t, exec (.loadLanding 0) s = .next t ∧ t.core.loads = [] ∧ t.mem = s.mem ∧
    ∀ r, t.rs r = if r = d ∧ d ≠ 0 then scalarOf n sx bs else s.rs r := by
  have hexec : exec (.loadLanding 0) s = .next s.landNow := by
    have hready : s.core.dataReady = true := by simp [Core.dataReady, hloads, hdata]
    change execLoadLanding 0 s = _
    simp only [execLoadLanding, hloads, List.getElem?_cons_zero, hleft, ne_eq, not_true_eq_false, if_false,
      State.rereadTiles_scalar hloads hdest, hready, if_true]
  obtain ⟨f, trap, hland⟩ := State.landNow_scalar hloads hleft hdest
  obtain ⟨hregs, hnone⟩ := Core.landDue_scalar hloads hleft hdest hdata hlands hhere f
  rw [hexec, hland]
  exact ⟨_, rfl, hnone, rfl, fun r => (hregs.rs r).trans (Core.rs_write hs _ r)⟩

end

/-- What a return of data ends: a freeze that waited for it. -/
def State.thawReady (s : State) : State :=
  if s.core.frozen = some .load ∧ s.core.dataReady then s.onCore fun c => { c with frozen := none } else s

theorem State.thawReady_frame (s : State) :
    s.thawReady.mem = s.mem ∧ s.thawReady.core.loads = s.core.loads ∧ sameRegisters s.core s.thawReady.core := by
  unfold State.thawReady
  split <;> exact ⟨rfl, rfl, .refl _⟩

theorem exec_loadDataReturn_zero (s : State) : exec (.loadDataReturn 0) s = .next (s.settle.fixLoad s.core.phys 0).thawReady := rfl

/-- Settles O20: `State.fixLoad_device` with nothing to settle first, the bytes that a device read finds, and the landing of the
only load. -/
theorem loadedValueIsMemory : Obligations.LoadedValueIsMemory := by
  intro s l p hloads hdata hparts hlocal hown _ hfixed hsize hline hpubs hatoms hegress hpoison _ hbanks hhere d n sx hdest
  refine ⟨?_, fun pa => State.deviceByte_of_memory s, fun k hk off hoff => State.deviceByte_hubStatistics s hk hoff, fun hleft hlands bs u hu => ?_⟩
  · obtain ⟨hmem, hregs, hdone⟩ := State.fixLoad_device (s := s.onCore fun c => { c with unsettled := false }) hdest hlocal hsize hline
      hpubs hpoison hdata hparts hown hfixed hloads hatoms hegress
    simp only [State.deviceByte_settled] at hdone
    rw [exec_loadDataReturn_zero, State.settle_of_empty hatoms hpubs hegress]
    obtain ⟨hmem', hloads', hregs'⟩ := State.thawReady_frame
      ((s.onCore fun c => { c with unsettled := false }).fixLoad s.core.phys 0)
    exact ⟨_, rfl, hmem'.trans hmem, hloads'.trans hdone, hregs.trans hregs'⟩
  · subst hu
    exact exec_loadLanding_scalar (l := { l with data := some bs })
      (s := { s with core := { s.core with loads := [{ l with data := some bs }] } }) rfl hleft hdest rfl hlands hhere hbanks.1

end Sys2Proof.Machine
end

section
/-! Copy channels and waits on bitmap words (R191–R199), with the reissue of a recalled core (R74, R194). -/

namespace Sys2Proof.Machine

variable {s t u : State}

/-! ### A channel put back (R196) -/

theorem Chan.is_iff {y : Chan} {part cont ch : Nat} :
    y.is part cont ch = true ↔ y.part = part ∧ y.cont = cont ∧ y.life = 0 ∧ y.ch = ch := by
  simp [Chan.is, Chan.of, and_assoc]

theorem Chan.same_iff_is {y z : Chan} {part cont ch : Nat} (h : y.is part cont ch = true) : y.same z = z.is part cont ch := by
  obtain ⟨rfl, rfl, hlife, rfl⟩ := Chan.is_iff.1 h
  rw [Bool.eq_iff_iff, Chan.is_iff]
  simp [Chan.same, hlife, and_assoc, and_comm]

theorem State.myChan_is (s : State) (ch : Nat) : (s.myChan ch).is s.core.part s.core.cont ch = true := by
  unfold State.myChan
  cases h : s.chan? s.core.part s.core.cont ch with
  | some y => exact List.find?_some (p := fun z : Chan => z.is s.core.part s.core.cont ch) h
  | none => exact Chan.is_iff.2 ⟨rfl, rfl, rfl, rfl⟩

section
variable {y : Chan} {part cont ch : Nat} (h : y.is part cont ch = true)
include h

/-- Where the context has the channel it is replaced. -/
theorem State.putChan_of_some {z : Chan} (hz : s.chan? part cont ch = some z) :
    s.putChan y = { s with chans := s.chans.map fun x => if x.is part cont ch then y else x } := by
  obtain ⟨rfl, rfl, -, rfl⟩ := Chan.is_iff.1 h
  simp only [State.putChan, hz, Option.isSome_some, if_true, State.onChan, Chan.same_iff_is h]

/-- Where it has none the channel is made. -/
theorem State.putChan_of_none (hz : s.chan? part cont ch = none) : s.putChan y = { s with chans := s.chans ++ [y] } := by
  obtain ⟨rfl, rfl, -, rfl⟩ := Chan.is_iff.1 h
  simp only [State.putChan, hz, Option.isSome_none, Bool.false_eq_true, if_false]

/-- A channel put back is the context's channel of its number; no other channel comes, goes or changes. -/
theorem State.putChan_frame (s : State) : { s.putChan y with chans := s.chans } = s ∧ (s.putChan y).chan? part cont ch = some y ∧
    ∀ z, z.is part cont ch = false → (z ∈ (s.putChan y).chans ↔ z ∈ s.chans) := by
  have hother {z : Chan} (hz : z.is part cont ch = false) : z ≠ y := fun e => by rw [e, h] at hz; cases hz
  cases hfind : s.chan? part cont ch with
  | none =>
    rw [State.putChan_of_none h hfind]
    refine ⟨rfl, ?_, fun z hz => ?_⟩
    · have hnone : s.chans.find? (·.is part cont ch) = none := hfind
      simp [State.chan?, List.find?_append, hnone, h]
    · simp [hother hz]
  | some w =>
    rw [State.putChan_of_some h hfind]
    refine ⟨rfl, ?_, fun z hz => ?_⟩
    · have hw : s.chans.find? (·.is part cont ch) = some w := hfind
      have hcomp : (fun x : Chan => (if x.is part cont ch then y else x).is part cont ch) = (·.is part cont ch) := by
        funext x
        split <;> simp_all
      have hwis : w.is part cont ch = true := List.find?_some (p := fun z : Chan => z.is part cont ch) hw
      simp [State.chan?, List.find?_map, hcomp, hw, hwis]
    · rw [List.mem_map]
      constructor
      · rintro ⟨x, hx, rfl⟩
        split at hz
        · rw [h] at hz; cases hz
        · next hxis => rwa [if_neg hxis]
      · exact fun hz' => ⟨z, hz', if_neg (Bool.eq_false_iff.1 hz)⟩

end

/-! ### CPOST (R191, R194, R196) -/

theorem State.inFull_owing {v : State} (hv : s.finishOwn = v) (h : v.owing = true) (k : State → State) :
    s.inFull k = v.freeze .publish := by
  subst hv
  exact if_pos h

theorem State.inFull_ready {v : State} (hv : s.finishOwn = v) (h : v.owing = false) (k : State → State) : s.inFull k = k v := by
  subst hv
  exact if_neg (Bool.eq_false_iff.1 h)

/-- A channel that the acting core has posted to. -/
def Chan.posted (k : Core) (h : Nat) (y : Chan) : Chan :=
  { y.rekick with heads := y.rekick.heads ++ [⟨h, k.task, false⟩], cluster := clusterOf k.phys }

theorem Chan.rekick_is {y : Chan} {part cont ch : Nat} (h : y.is part cont ch = true) : y.rekick.is part cont ch = true := h
theorem Chan.posted_is {y : Chan} {part cont ch : Nat} (k : Core) (a : Nat) (h : y.is part cont ch = true) :
    (y.posted k a).is part cont ch = true := h

/-- CPOST's answers: it waits for what the core owes, then the channel is put back after a phase start. -/
theorem posts_of_inFull {i : Instr} {ch : Nat} {f : State → Chan → Chan} {v : State}
    (hf : (f v (v.myChan ch)).is v.core.part v.core.cont ch = true) (hv : s.finishOwn = v)
    (hexec : exec i s = .next (s.inFull fun v => v.enginePost.putChan (f v (v.myChan ch)))) :
    (v.owing = true → exec i s = .next (v.freeze .publish)) ∧
    (v.owing = false → ∃ t, exec i s = .next t ∧ { t with chans := v.enginePost.chans } = v.enginePost ∧
      t.chan? v.core.part v.core.cont ch = some (f v (v.myChan ch)) ∧
      ∀ z, z.is v.core.part v.core.cont ch = false → (z ∈ t.chans ↔ z ∈ v.enginePost.chans)) := by
  refine ⟨fun h => ?_, fun h => ⟨v.enginePost.putChan (f v (v.myChan ch)), ?_, State.putChan_frame hf v.enginePost⟩⟩
  · rw [hexec, State.inFull_owing hv h]
  · rw [hexec, State.inFull_ready hv h]

section
variable {ch a : Nat} (hg : s.inGroup = false)
include hg

theorem exec_cpost_rekick (h : (s.rs a).toNat = 0) :
    exec (.cpost ch a) s = .next (s.inFull fun v => v.enginePost.putChan (v.myChan ch).rekick) :=
  congrArg Host.Outcome.next ((if_neg (Bool.eq_false_iff.1 hg)).trans (if_pos h))

theorem exec_cpost_head (h : (s.rs a).toNat ≠ 0) : exec (.cpost ch a) s =
    .next (s.checked (s.check .rw 3 (s.rs a).toNat 1 64) fun _ =>
      if 16 ≤ (s.myChan ch).heads.length then s.stallOn (.chan ch)
      else s.inFull fun v => v.enginePost.putChan ((v.myChan ch).posted v.core (s.rs a).toNat)) :=
  congrArg Host.Outcome.next ((if_neg (Bool.eq_false_iff.1 hg)).trans (if_neg h))

end

/-! ### CQRY (R200) -/

theorem Chan.query_eq (x : Chan) : x.query =
    (match x.walk with | some w => va52 w.va / 64 * 2 ^ 18 | none => ((x.heads.head?).map fun y => va52 y.va / 64 * 2 ^ 18).getD 0) +
      (if x.heads = [] then (if x.bad then 3 else 0) else if (x.walk.map (·.parked)).getD false then 2 else 1) * 2 ^ 16 +
      x.last * 256 + x.heads.length := by
  unfold Chan.query
  cases x.walk <;> cases x.heads <;> rfl

/-! ### Stalls (R194) -/

theorem State.stallOn_raises (h : s.core.mode.getLsbD 1 = true) (q : Stall) : s.stallOn q = s.refuse .qfull := if_pos h

theorem State.stallOn_tests (h : s.core.mode.getLsbD 1 = false) :
    s.stallOn .tests = { s with core := { s.core with stall := some .tests, waiting := true } } := if_neg (Bool.eq_false_iff.1 h)

theorem State.stallOn_chan (h : s.core.mode.getLsbD 1 = false) (hfresh : s.freshIssue = true) (ch : Nat) :
    s.stallOn (.chan ch) = { s with core := { s.core with
      qstall := bankSet 0 s.core.qstall ch (bankGet 0 s.core.qstall ch + 1), stall := some (.chan ch), waiting := true } } := by
  rw [State.stallOn, h]
  simp only [Bool.false_eq_true, if_false, State.onCore, State.wait, hfresh, if_true]

/-! ### Waits on bitmap words (R197, R198) -/

theorem exec_cwait_waiting {a b : Nat} (hbegun : s.begun = true) (h : ∀ y ∈ s.core.released, y.1 ≠ s.core.ctx.slot) :
    exec (.cwait a b) s = .next s.wait := by
  have hnone : s.core.released.any (·.1 == s.core.ctx.slot) = false := by simpa using h
  exact congrArg Host.Outcome.next ((if_pos hbegun).trans (if_neg (Bool.eq_false_iff.1 hnone)))

theorem State.bitmapSeen_full (h : s.core.ctx.full = true) : s.bitmapSeen = s.phaseStart 0 := if_pos h
theorem State.bitmapSeen_early (h : s.core.ctx.full = false) : s.bitmapSeen = s.wait := if_neg (Bool.eq_false_iff.1 h)

theorem exec_cwait_released {a b : Nat} (hbegun : s.begun = true) (h : ∃ y ∈ s.core.released, y.1 = s.core.ctx.slot) :
    exec (.cwait a b) s = .next s.bitmapSeen := by
  have hsome : s.core.released.any (·.1 == s.core.ctx.slot) = true := by simpa using h
  exact congrArg Host.Outcome.next ((if_pos hbegun).trans (if_pos hsome))

/-- A core that owes nothing has nothing to finish. -/
theorem State.finishOwn_of_settled (hunsettled : s.core.unsettled = false) (hloads : s.core.loads = []) (hatoms : s.atoms = []) :
    s.finishOwn = s := by
  have hsettle : s.settle = s := if_neg (Bool.eq_false_iff.1 hunsettled)
  simp [State.finishOwn, hsettle, State.fixLoads_of_nil hloads, State.performOwn, State.finishAtoms, hatoms]

/-- A registered wait joins the monitors; the core and memory stay. -/
theorem State.register_frame (s : State) (part : Nat) (m : Monitor) : ∃ fallen, (s.register part m).core = s.core ∧
    (s.register part m).mem = s.mem ∧ (s.register part m).monitors = s.monitors ++ [{ m with fallen := fallen }] := by
  refine ⟨!m.inCore && s.tableFull m.pa, ?_⟩
  unfold State.register
  dsimp only
  split <;> exact ⟨rfl, rfl, rfl⟩

section
variable {a b f : Nat} {p : Piece} {ps : List Piece}

/-- The bitmap word as the acting core sees it. -/
def State.bitmapWord (s : State) (p : Piece) : Word :=
  BitVec.ofNat 64 (leNat (s.seenN (Path.ofCore s.core.phys s.core.issued) p.loc.pa 8))

/-- The wait of the acting core on a bitmap word, and that of its armed test. -/
def State.cwaitMonitor (s : State) (p : Piece) (ps : List Piece) (mask : Word) : Monitor :=
  ⟨.core s.core.phys s.core.ctx.slot, p.va, p.loc.pa, 8, mask, true, false, (p :: ps).any (·.scratch)⟩
def State.ctestMonitor (s : State) (f : Nat) (p : Piece) (ps : List Piece) (mask : Word) : Monitor :=
  ⟨.test s.core.phys f, p.va, p.loc.pa, 8, mask, true, false, (p :: ps).any (·.scratch)⟩

/-- CTEST arms its test (R198). -/
def State.arm (s : State) (f : Nat) (p : Piece) (ps : List Piece) (mask : Word) : State :=
  (((s.disarm s.core.phys f).register s.core.part (s.ctestMonitor f p ps mask)).onCore fun c =>
    { c with tests := s.core.tests.filter (·.fl != f) ++ [⟨p.va, p.loc, mask, f, c.issued⟩] }).result 2 [.fl f false]

theorem State.arm_frame (s : State) (f : Nat) (p : Piece) (ps : List Piece) (mask : Word) : ∃ fallen, (s.arm f p ps mask).mem = s.mem ∧
    (s.arm f p ps mask).core =
      ({ s.core with tests := s.core.tests.filter (·.fl != f) ++ [⟨p.va, p.loc, mask, f, s.core.issued⟩] } : Core).result 2 [.fl f false] ∧
    (s.arm f p ps mask).monitors = (s.disarm s.core.phys f).monitors ++ [{ s.ctestMonitor f p ps mask with fallen := fallen }] := by
  obtain ⟨fallen, hcore, hmem, hmon⟩ := State.register_frame (s.disarm s.core.phys f) s.core.part (s.ctestMonitor f p ps mask)
  rw [State.arm]
  generalize (s.disarm s.core.phys f).register s.core.part (s.ctestMonitor f p ps mask) = r at hcore hmem hmon ⊢
  refine ⟨fallen, hmem, ?_, hmon⟩
  change Core.result { r.core with tests := _ ++ [⟨_, _, _, _, r.core.issued⟩] } _ _ = _
  rw [hcore]
  rfl

theorem State.cwait_met_iff (s : State) (p : Piece) (ps : List Piece) (mask : Word) :
    (s.cwaitMonitor p ps mask).met (s.watchedFrom (s.cwaitMonitor p ps mask)) = true ↔ s.bitmapWord p &&& mask = mask := by
  simp [Monitor.met, State.cwaitMonitor, State.watchedFrom, State.bitmapWord, State.coreOf_acting]

theorem State.ctest_met_iff (s : State) (f : Nat) (p : Piece) (ps : List Piece) (mask : Word) :
    (s.ctestMonitor f p ps mask).met (s.watchedFrom (s.ctestMonitor f p ps mask)) = true ↔ s.bitmapWord p &&& mask = mask := by
  simp [Monitor.met, State.ctestMonitor, State.watchedFrom, State.bitmapWord, State.coreOf_acting]

variable (hunsettled : s.core.unsettled = false) (hloads : s.core.loads = []) (hatoms : s.atoms = []) (hpoison : s.poisoned = [])
  (hwait : s.mustWait = false) (hcheck : s.checkBitmap (s.rs a).toNat = .ok (p :: ps))
include hunsettled hloads hatoms hwait in
theorem State.inOrder_of_settled (k : State → State) : s.inOrder k = k s := by
  simp only [State.inOrder, State.finishOwn_of_settled hunsettled hloads hatoms, hwait, Bool.false_eq_true, if_false]

include hunsettled hloads hatoms hpoison hwait hcheck

/-- CWAIT at its first issue, where the core owes nothing. -/
theorem exec_cwait_first (hbegun : s.begun = false) : exec (.cwait a b) s = .next
    (let m := s.cwaitMonitor p ps (s.rs b)
     if m.met (s.watchedFrom m) then
       (s.onCore fun c => { c with released := c.released ++ [(c.ctx.slot, s.watchedFrom m)] }).bitmapSeen
     else (s.register s.core.part m).wait) := by
  change execCwait a b s = _
  simp only [execCwait, hbegun, Bool.false_eq_true, if_false, hcheck, State.checked, State.inOrder_of_settled hunsettled hloads hatoms hwait,
    State.poisonRead_of_none hpoison, List.head?_cons, Option.map_some, Option.getD_some]
  rfl

/-- CTEST where the core owes nothing. -/
theorem exec_ctest_settled : exec (.ctest f a b) s = .next
    (let m := s.ctestMonitor f p ps (s.rs b)
     let rest := s.core.tests.filter (·.fl != f)
     if m.met (s.watchedFrom m) then ((s.disarm s.core.phys f).onCore fun c => { c with tests := rest }).result 2 [.fl f true]
     else if 8 ≤ rest.length then s.stallOn .tests
     else s.arm f p ps (s.rs b)) := by
  change execCtest f a b s = _
  simp only [execCtest, hcheck, State.checked, State.inOrder_of_settled hunsettled hloads hatoms hwait,
    State.poisonRead_of_none hpoison, List.head?_cons, Option.map_some, Option.getD_some]
  rfl

end

/-! ### The reissue of a recalled core (R74, R194) -/

theorem State.reissueWhere_acting {q : Core → Bool} (hgated : s.core.gated = true) (hq : q s.core = true) : s.reissueWhere q = s :=
  if_pos ⟨hgated, hq⟩

theorem State.reissueWhere_other {q : Core → Bool} (hgated : s.core.gated = false) {k : Core}
    (hk : s.allCores.find? (fun c => c.gated && q c) = some k) : s.reissueWhere q = s.focus k.phys := by
  have hnot : ¬ (s.core.gated = true ∧ q s.core = true) := fun h => by rw [hgated] at h; exact absurd h.1 (by decide)
  rw [State.reissueWhere, if_neg hnot, hk]

/-- A recalled core acts before anything else but an emptied one. -/
theorem step_of_recalled {n : Nat} (hroot : s.badRoot = none) (hemptied : s.emptied = none) (hrecalled : s.recalled = some n)
    (hcrew : (s.focus n).crew ≠ []) : step s = (s.focus n).coreStep exec 1 := by
  rw [step_eq_advance hroot]
  simp only [State.advance, hemptied, hrecalled, List.isEmpty_iff, hcrew, if_false]

section
variable {a b f : Nat} {p : Piece} {ps : List Piece} (hunsettled : s.core.unsettled = false) (hloads : s.core.loads = [])
  (hatoms : s.atoms = []) (hpoison : s.poisoned = []) (hwait : s.mustWait = false) (hcheck : s.checkBitmap (s.rs a).toNat = .ok (p :: ps))
include hunsettled hloads hatoms hpoison hwait hcheck

/-- CWAIT on a word that holds its mask. -/
theorem exec_cwait_met (hbegun : s.begun = false) (hmet : s.bitmapWord p &&& s.rs b = s.rs b) : exec (.cwait a b) s =
    .next (s.onCore fun c => { c with released := c.released ++ [(c.ctx.slot, s.bitmapWord p)] }).bitmapSeen := by
  have hword : s.watchedFrom (s.cwaitMonitor p ps (s.rs b)) = s.bitmapWord p := by
    simp [State.cwaitMonitor, State.watchedFrom, State.bitmapWord, State.coreOf_acting]
  rw [exec_cwait_first hunsettled hloads hatoms hpoison hwait hcheck hbegun]
  refine congrArg Host.Outcome.next ((if_pos ((s.cwait_met_iff p ps (s.rs b)).2 hmet)).trans ?_)
  rw [hword]

/-- CWAIT on a word that lacks a bit of its mask registers and waits. -/
theorem exec_cwait_unmet (hbegun : s.begun = false) (hmet : s.bitmapWord p &&& s.rs b ≠ s.rs b) : ∃ t fallen,
    exec (.cwait a b) s = .next t ∧ t.core = { s.core with waiting := true } ∧ t.mem = s.mem ∧
      t.monitors = s.monitors ++ [{ s.cwaitMonitor p ps (s.rs b) with fallen := fallen }] := by
  obtain ⟨fallen, hcore, hmem, hmon⟩ := State.register_frame s s.core.part (s.cwaitMonitor p ps (s.rs b))
  refine ⟨(s.register s.core.part (s.cwaitMonitor p ps (s.rs b))).wait, fallen, ?_, ?_, hmem, hmon⟩
  · rw [exec_cwait_first hunsettled hloads hatoms hpoison hwait hcheck hbegun]
    exact congrArg Host.Outcome.next (if_neg (mt (s.cwait_met_iff p ps (s.rs b)).1 hmet))
  · rw [State.wait, State.onCore, hcore]

/-- CTEST on a word that holds its mask. -/
theorem exec_ctest_met (hmet : s.bitmapWord p &&& s.rs b = s.rs b) : exec (.ctest f a b) s =
    .next (((s.disarm s.core.phys f).onCore fun c => { c with tests := s.core.tests.filter (·.fl != f) }).result 2 [.fl f true]) := by
  rw [exec_ctest_settled hunsettled hloads hatoms hpoison hwait hcheck]
  exact congrArg Host.Outcome.next (if_pos ((s.ctest_met_iff f p ps (s.rs b)).2 hmet))

section
variable (hmet : s.bitmapWord p &&& s.rs b ≠ s.rs b)
include hmet

/-- CTEST on a word that lacks a bit of its mask, with room for one test more, arms a test. -/
theorem exec_ctest_arms (hroom : (s.core.tests.filter (·.fl != f)).length < 8) : ∃ t fallen, exec (.ctest f a b) s = .next t ∧ t.mem = s.mem ∧
    t.core = ({ s.core with tests := s.core.tests.filter (·.fl != f) ++ [⟨p.va, p.loc, s.rs b, f, s.core.issued⟩] } : Core).result 2 [.fl f false] ∧
    t.monitors = (s.disarm s.core.phys f).monitors ++ [{ s.ctestMonitor f p ps (s.rs b) with fallen := fallen }] := by
  obtain ⟨fallen, hframe⟩ := s.arm_frame f p ps (s.rs b)
  refine ⟨s.arm f p ps (s.rs b), fallen, ?_, hframe⟩
  rw [exec_ctest_settled hunsettled hloads hatoms hpoison hwait hcheck]
  exact congrArg Host.Outcome.next ((if_neg (mt (s.ctest_met_iff f p ps (s.rs b)).1 hmet)).trans (if_neg (Nat.not_le.2 hroom)))

theorem exec_ctest_stalls (hfull : 8 ≤ (s.core.tests.filter (·.fl != f)).length) : exec (.ctest f a b) s = .next (s.stallOn .tests) := by
  rw [exec_ctest_settled hunsettled hloads hatoms hpoison hwait hcheck]
  exact congrArg Host.Outcome.next ((if_neg (mt (s.ctest_met_iff f p ps (s.rs b)).1 hmet)).trans (if_pos hfull))

end

end

/-- Settles O33: CPOST by its check, its queue and what the core owes; CWAIT and CTEST by whether the word holds its mask; the
reissues by the core recalled. -/
theorem copyChannelsAndBitmapWaits : Obligations.CopyChannelsAndBitmapWaits := by
  intro s ch a b d f c h mask x v k y kicked u posted word others
  have hv : s.finishOwn = v := rfl
  clear_value v
  refine ⟨fun hg => ⟨?_, ?_⟩, fun hg h0 => ?_, fun hg h0 halign => ?_, fun ps hg h0 hcheck => ⟨fun hroom => ?_, fun hfull hmode => ?_,
    fun hfull hmode hfresh => ?_⟩, fun hg => ?_, ?_, fun hbegun hr => exec_cwait_waiting hbegun hr, fun hbegun hr hfull => ?_,
    fun hun hl ha hpo hw p ps hc => ⟨fun hbegun hmet => ⟨fun hfull => ?_, fun hearly => ?_⟩,
      fun hbegun hmet => exec_cwait_unmet hun hl ha hpo hw hc hbegun hmet, fun hmet => exec_ctest_met hun hl ha hpo hw hc hmet,
      fun hmet hroom => exec_ctest_arms hun hl ha hpo hw hc hmet hroom, fun hmet hfull hmode => ?_, fun hmet hfull hmode => ?_⟩,
    fun hgated => ⟨fun hfl => ?_, fun hq => ?_⟩, fun hgated k => ⟨fun hk => ?_, fun hk => ?_⟩, fun n => step_of_recalled⟩
  · exact congrArg Host.Outcome.next (if_pos hg)
  · exact congrArg Host.Outcome.next (if_pos hg)
  · exact posts_of_inFull (f := fun _ y => y.rekick) (Chan.rekick_is (v.myChan_is ch)) hv (exec_cpost_rekick hg h0)
  · rw [exec_cpost_head hg h0, State.check_of_misaligned halign]; rfl
  · have hexec : exec (.cpost ch a) s = .next (s.inFull fun v => v.enginePost.putChan ((v.myChan ch).posted v.core h)) := by
      rw [exec_cpost_head hg h0, hcheck]
      exact congrArg Host.Outcome.next (if_neg (Nat.not_le.2 hroom))
    exact posts_of_inFull (f := fun v y => y.posted v.core h) (Chan.posted_is v.core h (v.myChan_is ch)) hv hexec
  · rw [raises, exec_cpost_head hg h0, hcheck]
    exact congrArg Host.Outcome.next ((if_pos hfull).trans (State.stallOn_raises hmode _))
  · rw [exec_cpost_head hg h0, hcheck]
    exact congrArg Host.Outcome.next ((if_pos hfull).trans (State.stallOn_chan hmode hfresh ch))
  · exact congrArg Host.Outcome.next (if_neg (Bool.eq_false_iff.1 hg))
  · exact ⟨_, rfl, congrArg (BitVec.ofNat 64) (Chan.query_eq x)⟩
  · rw [exec_cwait_released hbegun hr, State.bitmapSeen_full hfull]
  · rw [exec_cwait_met hun hl ha hpo hw hc hbegun hmet]
    exact congrArg Host.Outcome.next (State.bitmapSeen_full hfull)
  · rw [exec_cwait_met hun hl ha hpo hw hc hbegun hmet]
    exact congrArg Host.Outcome.next (State.bitmapSeen_early hearly)
  · exact (exec_ctest_stalls hun hl ha hpo hw hc hmet hfull).trans (congrArg _ (State.stallOn_raises hmode _))
  · exact (exec_ctest_stalls hun hl ha hpo hw hc hmet hfull).trans (congrArg _ (State.stallOn_tests hmode))
  · exact congrArg Host.Outcome.next (State.reissueWhere_acting hgated hfl)
  · exact congrArg Host.Outcome.next (State.reissueWhere_acting hgated hq)
  · exact congrArg Host.Outcome.next (State.reissueWhere_other hgated hk)
  · exact congrArg Host.Outcome.next (State.reissueWhere_other hgated hk)

end Sys2Proof.Machine
end

section
/-! A step of a core of which nothing else is due: the cycle, the fetch, and the issue of a bundle of one op word (R59, R66–R75). -/

namespace Sys2Proof.Machine

variable {s t u : State} {ex : Exec}

/-! ### A core that acts alone -/

theorem State.focus_acting (s : State) : s.focus s.core.phys = s := if_pos rfl

theorem State.each_acting {f : State → State} (hf : (f s).core.phys = s.core.phys) : s.each [s.core.phys] f = f s := by
  change (f (s.focus s.core.phys)).focus s.core.phys = f s
  rw [State.focus_acting, ← hf, State.focus_acting]

theorem State.crew_of_unfused (h : s.core.fused = none) : s.crew = [s.core.phys] := by
  rw [State.crew, h]

theorem State.gather_alone (s : State) : s.gather [s.core.phys] = s := by
  have hcore (c : Core) (hc : c = s.core) :
      s.onCoreN s.core.phys (fun d => { d with pc := c.pc, rep := c.rep, current := c.current }) = s := by
    subst hc
    exact State.onCoreN_acting s _
  simp only [State.gather, List.headD_cons, List.foldl_cons, List.foldl_nil, hcore _ (State.coreOf_acting s)]
  rw [State.coreOf_acting, State.focus_acting]

/-! ### A boundary at which nothing is due (R68–R70) -/

theorem State.feedPops_of_noStream (h : s.core.stream = none) : s.feedPops = s := by
  have hfree : s.core.freePops = s.core := by rw [Core.freePops, h]
  simp only [State.feedPops, hfree, h]

section
variable (hloads : s.core.loads = [])
include hloads

theorem State.rereadTiles_of_nil : s.rereadTiles = s := by
  rw [State.rereadTiles, State.onCore, hloads, List.map_nil, ← hloads]

theorem Core.landDue_of_nothing (hlands : ∀ l ∈ s.core.lands, l.left ≠ 0) (f : Core → LoadLanding → List Byte → List RegWrite) :
    s.core.landDue f = s.core := by
  have hnone : s.core.lands.filter (fun l => l.left == 0 && !l.landed) = [] := by
    simpa [List.filter_eq_nil_iff] using fun l hl h => absurd h (hlands l hl)
  have hall : s.core.lands.filter (·.left != 0) = s.core.lands := by simpa [List.filter_eq_self] using hlands
  have hdue : s.core.dueWrites f = [] := by simp [Core.dueWrites, hnone, hloads]
  rw [Core.landDue, hdue, hall, List.foldl_nil, hloads, List.filter_nil, ← hloads]

theorem State.landNow_of_nothing (hlands : ∀ l ∈ s.core.lands, l.left ≠ 0) (htrap : s.core.landTrap = none) : s.landNow = s := by
  have hdue : s.core.loads.filter (fun l => l.left == 0) = [] := by rw [hloads]; rfl
  unfold State.landNow
  simp only [hdue, List.foldl_nil, State.onCore, Core.landDue_of_nothing hloads hlands, htrap, Option.isSome_none, Bool.false_eq_true,
    if_false, List.find?_nil, Option.map_none, Option.getD_none]
  rw [← htrap]

end

/-! ### The calm step -/

/-- Where nothing else is due the acting core issues, and one core cycle passes. -/
theorem State.advance_of_calm (h : s.calm) : s.advance ex = mapNext (fun t => t.tick 1) (s.issue ex) := by
  obtain ⟨-, hrecalled, hagenda, hturn, hpace, hcut, hdue, -, hrunning, hfused, hfrozen, hbubble, hleave, hgated, -, hwatchdog, hlost,
    htrap, hstream, hloads, hlands, -, -, -, hsettings, hidle, -, -, -, hyields, hemptied, hshot, hfatal⟩ := h
  have hturnStep : s.turnStep ex = s.coreStep ex 1 := by
    have hdrop : ({ s with pace := s.pace.drop 1 } : State) = s := by rw [hpace, List.drop_nil, ← hpace]
    simp only [State.turnStep, hdrop]
    simp only [hturn, hidle, hpace, List.headD_nil]
  have hcoreStep : s.coreStep ex 1 = s.coreCycle ex [s.core.phys] 1 := by
    simp only [State.coreStep, hrunning, State.crew_of_unfused hfused, List.isEmpty_cons, List.find?_cons, State.coreOf_acting, hfrozen,
      Option.isSome_none, List.find?_nil, List.headD_cons, State.focus_acting, Bool.not_true, Bool.false_eq_true, if_false]
  have hcycle : s.coreCycle ex [s.core.phys] 1 = mapNext (fun t => t.tick 1) (s.issue ex) := by
    have hdeparting : s.core.departing = false := by simp [Core.departing, hleave]
    have hfed : s.each [s.core.phys] (fun s => s.feedPops.rereadTiles) = s := by
      have hone : s.feedPops.rereadTiles = s := by rw [State.feedPops_of_noStream hstream, State.rereadTiles_of_nil hloads]
      exact (State.each_acting (congrArg (·.core.phys) hone)).trans hone
    have hlanded : s.each [s.core.phys] State.landNow = s := by
      have hone := State.landNow_of_nothing hloads hlands htrap
      exact (State.each_acting (congrArg (·.core.phys) hone)).trans hone
    have hready : s.core.dataReady = true := by simp [Core.dataReady, hloads]
    have hdueTrap : s.dueTrap = none := by simp [State.dueTrap, Core.schedulerTrap, hwatchdog, hlost, htrap]
    simp [State.coreCycle, hdeparting, hfatal, hfed, hlanded, State.coreOf_acting, hready, hbubble, State.focus_acting, hdueTrap, hleave,
      hyields, hgated]
  simp only [State.advance, hemptied, hrecalled, hshot, hsettings, hagenda, hcut, hdue]
  exact hturnStep.trans (hcoreStep.trans hcycle)

/-! ### Fetch (R59) -/

section
variable {w : Nat} {h : Sys2Proof.Header} {bs : List Byte} {b : Bundle} (hword : s.peekWord s.core.part s.core.pc = .ok w)
  (hheader : decodeHeader w = .ok h) (hread : s.readVa s.core.part .exec s.core.pc (4 * h.wc) = .ok bs) (hbytes : decodeBytes bs = .ok b)
include hword hheader hread hbytes

theorem State.fetch_decoded : s.fetch = .ok b := by
  simp only [State.fetch, hword, hheader, hread, hbytes]

theorem State.issue_decoded (hfused : s.core.fused = none) (hcurrent : s.core.current = none) (hpoison : s.poisoned = [])
    (hrunning : s.core.running = true) : s.issue ex = s.issueBundle ex b := by
  have hclean : s.fetchPoison b = s := by simp [State.fetchPoison, hpoison]
  simp only [State.issue, State.crew_of_unfused hfused, State.gather_alone, hcurrent, State.fetch_decoded hword hheader hread hbytes,
    hclean, hrunning, if_true]

end

/-! ### The issue of one op word (R66–R75) -/

/-- The op word of a bundle that holds one and does not repeat a sticky slot. -/
def soleTodo (b : Bundle) (o : SlotOp) : Todo := ⟨slotNo o.slot, o, b.scope, 0⟩

section
variable {b : Bundle} {o : SlotOp} (hops : b.ops = [o]) (hstk : b.header.stk = false)

include hops hstk in
theorem Core.todos_sole (c : Core) : c.todos b = [soleTodo b o] := by
  simp [Core.todos, hstk, hops, soleTodo]

/-- One op word by its rank below 5. -/
theorem flatMap_ranks {t : Todo} {rank : Todo → Nat} (h : rank t < 5) :
    [0, 1, 2, 3, 4].flatMap (fun k => [t].filter fun x => rank x == k) = [t] := by
  interval_cases hr : rank t <;> simp [hr]

/-- An order of one op word. -/
theorem actingOrder_sole (inside : Bool) (t : Todo) : actingOrder inside [t] = [t] := by
  refine flatMap_ranks ?_
  split
  · decide
  · decide
  · decide
  · decide
  · split <;> decide
  · split <;> decide
  · split <;> decide
  · decide
  · decide
  · decide

include hstk in
/-- An op word outside a sticky repetition joins the done mask, and that is all. -/
theorem Core.executed_plain (c : Core) (t : Todo) (step : Int) : c.executed b t step = { c with done := c.done ||| 2 ^ t.slot } := by
  simp [Core.executed, hstk]

/-- The state in which the op word of a bundle acts. -/
def State.acting (s : State) (b : Bundle) (o : SlotOp) : State :=
  { s with core := s.core.withCtx b [soleTodo b o] (soleTodo b o), trapTaken := none }

section
variable (hexec : ex o.instr (s.acting b o) = .next u)
include hexec

include hstk in
theorem runOps_acts (htrap : u.trapTaken = none) (hfrozen : u.core.frozen = none) (hwaiting : u.core.waiting = false) :
    runOps ex b [soleTodo b o] [soleTodo b o] s 0 = .acted (u.onCore fun c => { c with done := c.done ||| 2 ^ slotNo o.slot }) 1 := by
  have hexec' : ex (soleTodo b o).op.instr { s with core := s.core.withCtx b [soleTodo b o] (soleTodo b o), trapTaken := none } = .next u := hexec
  simp only [runOps, hexec']
  split
  · next h => cases htrap.symm.trans h
  · split
    · next h => cases hfrozen.symm.trans h
    · rw [if_neg (Bool.eq_false_iff.1 hwaiting), Core.executed_plain hstk]
      rfl

theorem runOps_traps {tr : Trap} (htrap : u.trapTaken = some tr) (hlate : raisesLate o.instr = false) :
    runOps ex b [soleTodo b o] [soleTodo b o] s 0 = .trapped tr := by
  have hexec' : ex (soleTodo b o).op.instr { s with core := s.core.withCtx b [soleTodo b o] (soleTodo b o), trapTaken := none } = .next u := hexec
  have hlate' : raisesLate (soleTodo b o).op.instr = false := hlate
  simp only [runOps, hexec', htrap, hlate', Bool.false_eq_true, if_false]

end

section
variable (hdone : s.core.done = 0) (hmode : s.core.mode.getLsbD 0 = false) (hsafe : s.core.safecnt < 4096)
  (hguard : ∀ f, o.pfx.guard = some f → s.core.flag f = true)

theorem hasBit_zero (k : Nat) : hasBit 0 k = false := by
  simp [hasBit]

include hguard in
theorem Core.guardOpen_sole : s.core.guardOpen (soleTodo b o) = true := by
  unfold Core.guardOpen
  split
  · next f hf => exact hguard f hf
  · rfl

include hops hstk hdone hmode hsafe hguard

theorem State.runMember_acted {v : State} {n : Nat} (hrun : runOps ex b [soleTodo b o] [soleTodo b o] s 0 = .acted v n) :
    s.runMember ex b = .acted v n := by
  have hfar : ¬ 4096 ≤ s.core.safecnt := Nat.not_le.2 hsafe
  have hmode' : s.core.mode[0] = false := by simpa using hmode
  simp [State.runMember, Core.todos_sole hops hstk, hdone, hasBit_zero, Core.guardOpen_sole hguard, hmode', hfar, actingOrder_sole, hrun]

theorem State.runMember_trapped {tr : Trap} (hrun : runOps ex b [soleTodo b o] [soleTodo b o] s 0 = .trapped tr) :
    s.runMember ex b = .trapped tr := by
  have hfar : ¬ 4096 ≤ s.core.safecnt := Nat.not_le.2 hsafe
  have hmode' : s.core.mode[0] = false := by simpa using hmode
  simp [State.runMember, Core.todos_sole hops hstk, hdone, hasBit_zero, Core.guardOpen_sole hguard, hmode', hfar, actingOrder_sole, hrun]

end

/-! ### The end of the issue -/

/-- What the decode of the sticky slots leaves (R72). -/
theorem Core.decoded_frame (c : Core) (b : Bundle) : (c.decoded b).phys = c.phys ∧ (c.decoded b).done = c.done ∧
    (c.decoded b).mode = c.mode ∧ (c.decoded b).safecnt = c.safecnt ∧ (c.decoded b).fl = c.fl ∧ (c.decoded b).fused = c.fused := by
  unfold Core.decoded
  dsimp only
  split <;> exact ⟨rfl, rfl, rfl, rfl, rfl, rfl⟩

section
variable (hfused : s.core.fused = none)
include hfused

/-- An issue that traps leaves the state of the issue, with the trap taken. -/
theorem State.issueBundle_trapped {tr : Trap}
    (htrap : (s.onCore (·.decoded b)).core.bundleTrap b = none) (hrun : (s.onCore (·.decoded b)).runMember ex b = .trapped tr) :
    s.issueBundle ex b = .next ((s.onCore (·.decoded b)).takeTrap tr) := by
  have hphys : (s.onCore (·.decoded b)).core.phys = s.core.phys := (Core.decoded_frame s.core b).1
  have heach : s.each [s.core.phys] (fun s => s.onCore (·.decoded b)) = s.onCore (·.decoded b) := State.each_acting hphys
  have hfocus : (s.onCore (·.decoded b)).focus s.core.phys = s.onCore (·.decoded b) := by rw [← hphys, State.focus_acting]
  have hcoreOf : (s.onCore (·.decoded b)).coreOf s.core.phys = (s.onCore (·.decoded b)).core := by rw [← hphys, State.coreOf_acting]
  simp only [State.issueBundle, State.crew_of_unfused hfused, heach]
  generalize s.onCore (·.decoded b) = s1 at *
  simp only [List.findSome?_cons, hcoreOf, htrap, Option.map_none, List.findSome?_nil, runCrew, hfocus, hrun]

/-- An issue whose one op word has acted ends its issue cycle and its repetition. -/
theorem State.issueBundle_acted {v : State} {n : Nat} (hn : n ≠ 0)
    (htrap : (s.onCore (·.decoded b)).core.bundleTrap b = none) (hrun : (s.onCore (·.decoded b)).runMember ex b = .acted v n)
    (hphys' : v.core.phys = s.core.phys) (hfull : v.core.maskFull b = true) :
    let x := v.each [s.core.phys] fun y => y.dropUsed.onCore fun c => c.issueCycle (holdsSafe b)
    s.issueBundle ex b = .next (x.each [s.core.phys] (State.endRepetition b x.core.branch)) := by
  have hphys : (s.onCore (·.decoded b)).core.phys = s.core.phys := (Core.decoded_frame s.core b).1
  have heach : s.each [s.core.phys] (fun s => s.onCore (·.decoded b)) = s.onCore (·.decoded b) := State.each_acting hphys
  have hfocus : (s.onCore (·.decoded b)).focus s.core.phys = s.onCore (·.decoded b) := by rw [← hphys, State.focus_acting]
  have hcoreOf : (s.onCore (·.decoded b)).coreOf s.core.phys = (s.onCore (·.decoded b)).core := by rw [← hphys, State.coreOf_acting]
  have hfocus' : v.focus s.core.phys = v := by rw [← hphys', State.focus_acting]
  intro x
  have hx : x = v.dropUsed.onCore fun c => c.issueCycle (holdsSafe b) := by
    have h := State.each_acting (s := v) (f := fun y => y.dropUsed.onCore fun c => c.issueCycle (holdsSafe b)) rfl
    rwa [hphys'] at h
  have hxfull : (x.coreOf s.core.phys).maskFull b = true := by
    have hxphys : x.core.phys = s.core.phys := by rw [hx]; exact hphys'
    rw [← hxphys, State.coreOf_acting, hx]
    exact hfull
  simp only [State.issueBundle, State.crew_of_unfused hfused, heach]
  generalize s.onCore (·.decoded b) = s1 at *
  simp only [List.findSome?_cons, hcoreOf, htrap, Option.map_none, List.findSome?_nil, runCrew, hfocus, hrun, Nat.zero_add, hn, false_and,
    if_false, List.headD_cons, hfocus', List.all_cons, List.all_nil, Bool.and_true]
  exact if_pos hxfull

end

end

/-- The sole op word's bit fills the done mask. -/
theorem Core.maskFull_sole {b : Bundle} {o : SlotOp} (hops : b.ops = [o]) (hstk : b.header.stk = false) {c : Core}
    (hdone : c.done = 2 ^ slotNo o.slot) : c.maskFull b = true := by
  have hmask : maskOf (c.todos b) = 2 ^ slotNo o.slot := by
    rw [Core.todos_sole hops hstk]
    exact Nat.zero_or _
  rw [Core.maskFull, hmask, hdone, Nat.and_self, beq_self_eq_true]

/-- Settles O4: under the calm premise the step is the issue of the bundle fetched, whose one op word acts or traps. -/
theorem stepRunsDecodedInstruction : Obligations.StepRunsDecodedInstruction := by
  intro s w h bs b o hcalm hword hheader hread hbytes hops hstk hguard n t s1 htrapNone u hexec
  have hstep : step s = mapNext (fun t => t.tick 1) (s.issue exec) := (step_eq_advance hcalm.1).trans (State.advance_of_calm hcalm)
  obtain ⟨-, -, -, -, -, -, -, hpoison, hrunning, hfused, -, -, -, -, -, -, -, -, -, -, -, hdone, hmode, hsafe, -, -, hcurrent, -⟩ := hcalm
  have hissue : s.issue exec = s.issueBundle exec b :=
    State.issue_decoded hword hheader hread hbytes hfused hcurrent hpoison hrunning
  obtain ⟨-, hdone1, hmode1, hsafe1, hfl1, -⟩ := Core.decoded_frame s.core b
  have hguard1 : ∀ f, o.pfx.guard = some f → s1.core.flag f = true := fun f hf => by
    rw [Core.flag, show s1.core.fl = s.core.fl from hfl1]
    exact hguard f hf
  rw [hstep, hissue]
  refine ⟨fun hno hfrozen hwaiting hphys hdoneU => ?_, fun tr htr hlate => ?_⟩
  · have hrun := State.runMember_acted hops hstk (hdone1.trans hdone) (hmode1 ▸ hmode) (hsafe1 ▸ hsafe) hguard1
      (runOps_acts hstk hexec hno hfrozen hwaiting)
    have hv : (u.onCore fun c => { c with done := c.done ||| 2 ^ slotNo o.slot }) = u.onCore fun c => { c with done := 2 ^ slotNo o.slot } := by
      rw [State.onCore, hdoneU, Nat.zero_or]; rfl
    rw [hv] at hrun
    intro v x
    rw [State.issueBundle_acted hfused Nat.one_ne_zero htrapNone hrun hphys (Core.maskFull_sole hops hstk rfl)]
    rfl
  · have hrun := State.runMember_trapped hops hstk (hdone1.trans hdone) (hmode1 ▸ hmode) (hsafe1 ▸ hsafe) hguard1
      (runOps_traps hexec htr hlate)
    rw [State.issueBundle_trapped hfused htrapNone hrun]
    rfl

end Sys2Proof.Machine
end

section
/-! Scalar sums, products, bit operations, shifts and rotations (R82, R85): the numbers and the bits that the results are. -/

namespace Sys2Proof.Machine

/-- A scalar result that `P` holds of. -/
theorem writesScalar_of_putS {i : Instr} {s : State} {l d : Nat} {z : Word} {P : Word → Prop} (hz : P z) (h : exec i s = s.putS l d z) :
    writesScalar i s l d P := ⟨z, h, hz⟩

/-! ### Sums and products -/

theorem natCast_toNat_ofInt (i : Int) : ((BitVec.ofInt 64 i).toNat : Int) = i % 2 ^ 64 := by
  rw [BitVec.toNat_ofInt, Int.toNat_of_nonneg (Int.emod_nonneg i (by decide))]; rfl

theorem natCast_toNat_sub (x y : Word) : ((x - y).toNat : Int) = ((x.toNat : Int) - y.toNat) % 2 ^ 64 := by
  rw [BitVec.toNat_sub]; omega

theorem natCast_toNat_add_imm (x : Word) (i : Int) : ((x + immW i).toNat : Int) = ((x.toNat : Int) + i) % 2 ^ 64 := by
  have h := natCast_toNat_ofInt i
  rw [immW, BitVec.toNat_add]; omega

theorem abs_toInt_le (x : Word) : |x.toInt| ≤ 2 ^ 63 := abs_le.2 ⟨x.le_toInt, x.toInt_lt.le⟩

/-- The high half of a signed product fits 64 bits. -/
theorem toInt_mulh (x y : Word) : (BitVec.ofInt 64 (x.toInt * y.toInt / (2 ^ 64 : Nat))).toInt = x.toInt * y.toInt / 2 ^ 64 := by
  have habs : |x.toInt * y.toInt| ≤ 2 ^ 126 := by
    calc |x.toInt * y.toInt| = |x.toInt| * |y.toInt| := abs_mul ..
      _ ≤ 2 ^ 63 * 2 ^ 63 := mul_le_mul (abs_toInt_le x) (abs_toInt_le y) (abs_nonneg _) (by decide)
      _ = 2 ^ 126 := by norm_num
  have hbounds := abs_le.1 habs
  rw [BitVec.toInt_ofInt]
  exact Int.bmod_eq_of_le (by omega) (by omega)

theorem toNat_mulhu (x y : Word) : (BitVec.ofNat 64 (x.toNat * y.toNat / 2 ^ 64)).toNat = x.toNat * y.toNat / 2 ^ 64 := by
  refine BitVec.toNat_ofNat .. |>.trans (Nat.mod_eq_of_lt (Nat.div_lt_of_lt_mul ?_))
  exact Nat.mul_lt_mul'' x.isLt y.isLt

/-! ### Bit by bit -/

theorem getLsbD_shr (x : Word) (n k : Nat) : (x >>> n).getLsbD k = (decide (k + n < 64) && x.getLsbD (k + n)) := by
  rw [BitVec.getLsbD_ushiftRight, Nat.add_comm]
  by_cases h : k + n < 64
  · simp [h]
  · simp [h, BitVec.getLsbD_of_ge x _ (Nat.not_lt.1 h)]

section
variable (x y : Word) {n k : Nat} (hk : k < 64)
include hk

theorem getLsbD_andn : (x &&& ~~~y).getLsbD k = (x.getLsbD k && !y.getLsbD k) := by
  simp [hk]

theorem getLsbD_shl : (x <<< n).getLsbD k = (decide (n ≤ k) && x.getLsbD (k - n)) := by
  rw [BitVec.getLsbD_shiftLeft, decide_eq_true hk, Bool.true_and, ← decide_not, decide_eq_decide.2 Nat.not_lt]

theorem getLsbD_sra : (x.sshiftRight n).getLsbD k = x.getLsbD (min (k + n) 63) := by
  rw [BitVec.getLsbD_sshiftRight, Nat.add_comm n k, decide_eq_false (by omega : ¬ 64 ≤ k), Bool.not_false, Bool.true_and]
  split
  · rw [min_eq_left (by omega)]
  · rw [min_eq_right (by omega), BitVec.msb_eq_getLsbD_last]

theorem getLsbD_rotr (hn : n < 64) : (x.rotateRight n).getLsbD k = x.getLsbD ((k + n) % 64) := by
  rw [BitVec.getLsbD_rotateRight, Nat.mod_eq_of_lt hn, Bool.cond_decide]
  split
  · congr 1; omega
  · rw [decide_eq_true hk, Bool.true_and]; congr 1; omega

end

theorem amount_lt (y : Word) : amount y < 64 := Nat.mod_lt _ (by decide)

/-- The amount of a shift by an immediate. -/
theorem amount_immW (i : Int) : amount (immW i) = (i % 64).toNat := by
  have h := natCast_toNat_ofInt i
  simp only [amount, immW]; omega

/-- Settles O10: each result is a sum, a product or a word of which each bit is said. -/
theorem scalarSumsProductsAndBits : Obligations.ScalarSumsProductsAndBits := by
  refine ⟨fun s d a b imm => ?_, fun s d a b imm => ?_⟩
  · intro x y
    have himm := natCast_toNat_add_imm x imm
    exact ⟨writesScalar_of_putS (BitVec.toNat_add x y) rfl, writesScalar_of_putS (natCast_toNat_sub x y) rfl,
      writesScalar_of_putS (BitVec.toNat_mul x y) rfl, writesScalar_of_putS (toInt_mulh x y) rfl,
      writesScalar_of_putS (toNat_mulhu x y) rfl, writesScalar_of_putS himm rfl, writesScalar_of_putS himm rfl⟩
  · intro x y i n m shl shr sra
    have hand (y : Word) : ∀ k < 64, (x &&& y).getLsbD k = (x.getLsbD k && y.getLsbD k) := fun _ _ => BitVec.getLsbD_and
    have hor (y : Word) : ∀ k < 64, (x ||| y).getLsbD k = (x.getLsbD k || y.getLsbD k) := fun _ _ => BitVec.getLsbD_or
    have hxor (y : Word) : ∀ k < 64, (x ^^^ y).getLsbD k = (x.getLsbD k != y.getLsbD k) := fun _ _ => BitVec.getLsbD_xor
    have hshl : shl m (x <<< amount (immW imm)) := amount_immW imm ▸ fun _ => getLsbD_shl x
    have hshr : shr m (x >>> amount (immW imm)) := amount_immW imm ▸ fun k _ => getLsbD_shr x _ k
    have hsra : sra m (x.sshiftRight (amount (immW imm))) := amount_immW imm ▸ fun _ => getLsbD_sra x
    simp only [List.forall_mem_cons]
    exact ⟨writesScalar_of_putS (hand y) rfl, writesScalar_of_putS (hor y) rfl, writesScalar_of_putS (hxor y) rfl,
      writesScalar_of_putS (fun _ => getLsbD_andn x y) rfl, writesScalar_of_putS (fun _ => getLsbD_shl x) rfl,
      writesScalar_of_putS (fun k _ => getLsbD_shr x _ k) rfl, writesScalar_of_putS (fun _ => getLsbD_sra x) rfl,
      writesScalar_of_putS (fun _ hk => getLsbD_rotr x hk (amount_lt y)) rfl,
      ⟨writesScalar_of_putS (hand i) rfl, writesScalar_of_putS (hand i) rfl, List.forall_mem_nil _⟩,
      ⟨writesScalar_of_putS (hor i) rfl, writesScalar_of_putS (hor i) rfl, List.forall_mem_nil _⟩,
      ⟨writesScalar_of_putS (hxor i) rfl, writesScalar_of_putS (hxor i) rfl, List.forall_mem_nil _⟩,
      ⟨writesScalar_of_putS hshl rfl, writesScalar_of_putS hshl rfl, List.forall_mem_nil _⟩,
      ⟨writesScalar_of_putS hshr rfl, writesScalar_of_putS hshr rfl, List.forall_mem_nil _⟩,
      ⟨writesScalar_of_putS hsra rfl, writesScalar_of_putS hsra rfl, List.forall_mem_nil _⟩⟩

end Sys2Proof.Machine
end

section
/-! Division, counts, bit fields and immediates (R82–R87): what the quotients, counts, fields and constants are. -/

namespace Sys2Proof.Machine

/-! ### Division (R83) -/

theorem divS_zero (x : Word) : divS x 0 = (BitVec.allOnes 64, x) := if_pos rfl

theorem divU_zero (x : Word) : divU x 0 = (BitVec.allOnes 64, x) := if_pos rfl

/-- The overflow of R83 in terms of the integers read. -/
theorem overflow_iff (x y : Word) : (x = BitVec.intMin 64 ∧ y = BitVec.allOnes 64) ↔ (x.toInt = -2 ^ 63 ∧ y.toInt = -1) :=
  and_congr (BitVec.toInt_inj (x := x) (y := BitVec.intMin 64)).symm (BitVec.toInt_inj (x := y) (y := BitVec.allOnes 64)).symm

theorem divS_overflow {x y : Word} (h : x.toInt = -2 ^ 63 ∧ y.toInt = -1) : divS x y = (x, 0) := by
  have hwords := (overflow_iff x y).2 h
  rw [divS, if_neg (by rw [hwords.2]; decide), if_pos hwords]

/-- Otherwise the results are those of truncating division. -/
theorem divS_truncates {x y : Word} (hy : y ≠ 0) (h : ¬ (x.toInt = -2 ^ 63 ∧ y.toInt = -1)) :
    (divS x y).1.toInt = x.toInt.tdiv y.toInt ∧ (divS x y).2.toInt = x.toInt.tmod y.toInt := by
  have hwords := mt (overflow_iff x y).1 h
  rw [divS, if_neg hy, if_neg hwords]
  have hdiv : (x.sdiv y).toInt = x.toInt.tdiv y.toInt := BitVec.toInt_sdiv_of_ne_or_ne x y (not_and_or.1 hwords)
  rw [← hdiv, ← BitVec.toInt_srem, BitVec.ofInt_toInt, BitVec.ofInt_toInt]
  exact ⟨rfl, rfl⟩

/-- A remainder of truncating division that is not 0 has the dividend's sign. -/
theorem tmod_sign (a b : Int) : a.tmod b = 0 ∨ (a.tmod b < 0 ↔ a < 0) := by
  have h := Int.sign_tmod a b
  split at h
  · exact .inl (Int.sign_eq_zero_iff_zero.1 h)
  · exact .inr (by rw [← Int.sign_eq_neg_one_iff_neg, h, Int.sign_eq_neg_one_iff_neg])

/-- Settles O11: the zero divisor, the overflow, and truncating division. -/
theorem scalarDivision : Obligations.ScalarDivision := by
  intro s d a b x y
  refine ⟨(divS x y).1, (divS x y).2, (divU x y).1, (divU x y).2, writesScalar_of_putS rfl rfl, writesScalar_of_putS rfl rfl,
    writesScalar_of_putS rfl rfl, writesScalar_of_putS rfl rfl, fun hy => ?_, fun h => ?_, fun ⟨hy, h⟩ => ?_, fun hy => ?_⟩
  · rw [hy, divS_zero, divU_zero]
    exact ⟨rfl, rfl, rfl, rfl⟩
  · rw [divS_overflow h]
    exact ⟨h.1, rfl⟩
  · obtain ⟨hq, hr⟩ := divS_truncates hy h
    have hpos : 0 < y.toInt.natAbs := Int.natAbs_pos.2 fun h0 => hy (BitVec.toInt_inj.1 h0)
    rw [hq, hr, Int.natAbs_tmod]
    exact ⟨(Int.mul_tdiv_add_tmod ..).symm, Nat.mod_lt _ hpos, tmod_sign ..⟩
  · have hpos : 0 < y.toNat := Nat.pos_of_ne_zero fun h0 => hy (BitVec.eq_of_toNat_eq h0)
    rw [divU, if_neg hy, BitVec.toNat_udiv, BitVec.toNat_umod]
    exact ⟨(Nat.div_add_mod ..).symm, Nat.mod_lt _ hpos⟩

/-! ### Counts (R82) -/

theorem toNat_ofNat_small {n : Nat} (h : n ≤ 64) : (BitVec.ofNat 64 n : Word).toNat = n :=
  (BitVec.toNat_ofNat ..).trans (Nat.mod_eq_of_lt (by omega))

/-- A scalar register's value as a predicate's, of which the lemmas on counts speak. -/
theorem toNat_setWidth_word (x : Word) : (x.setWidth 1024).toNat = x.toNat := BitVec.toNat_setWidth_of_le (by decide)

theorem getLsbD_setWidth_word (x : Word) {k : Nat} (hk : k < 1024) : (x.setWidth 1024).getLsbD k = x.getLsbD k := by
  rw [BitVec.getLsbD_setWidth, decide_eq_true hk, Bool.true_and]

theorem ctz_spec (x : Word) : let z : Word := BitVec.ofNat 64 (lowest 64 x.toNat)
    z.toNat ≤ 64 ∧ (∀ k < z.toNat, x.getLsbD k = false) ∧ (z.toNat < 64 → x.getLsbD z.toNat = true) := by
  intro z
  obtain ⟨hle, hbelow, hat⟩ := lowest_spec 64 (x.setWidth 1024)
  rw [toNat_setWidth_word] at hle hbelow hat
  rw [toNat_ofNat_small hle]
  refine ⟨hle, fun k hk => ?_, fun hlt => ?_⟩
  · rw [← getLsbD_setWidth_word x (by omega), hbelow k hk]
  · rw [← getLsbD_setWidth_word x (by omega), hat hlt]

theorem popc_spec (x : Word) : (BitVec.ofNat 64 (ones 64 x.toNat) : Word).toNat = ((List.range 64).filter fun k => x.getLsbD k).length := by
  have h := ofNat_ones (n := 64) (by decide) (x.setWidth 1024)
  rw [toNat_setWidth_word] at h
  rw [h, List.filter_congr fun k hk => getLsbD_setWidth_word x (by have := List.mem_range.1 hk; omega)]

theorem leading_spec (x : Word) : leading 64 x.toNat ≤ 64 ∧ (∀ k < leading 64 x.toNat, x.getLsbD (63 - k) = false) ∧
    (leading 64 x.toNat < 64 → x.getLsbD (63 - leading 64 x.toNat) = true) := by
  rw [leading]
  split
  · next h0 =>
    obtain rfl : x = 0 := BitVec.eq_of_toNat_eq h0
    exact ⟨le_rfl, fun _ _ => BitVec.getLsbD_zero, fun h => absurd h (lt_irrefl 64)⟩
  · next h0 =>
    have hlog : Nat.log2 x.toNat < 64 := (Nat.log2_lt h0).2 x.isLt
    refine ⟨by omega, fun k hk => Nat.testBit_lt_two_pow ?_, fun _ => ?_⟩
    · exact Nat.lt_log2_self.trans_le (Nat.pow_le_pow_right (by decide) (by omega))
    · rw [show 63 - (64 - 1 - Nat.log2 x.toNat) = Nat.log2 x.toNat by omega]
      exact Nat.testBit_log2 h0

theorem clz_spec (x : Word) : let z : Word := BitVec.ofNat 64 (leading 64 x.toNat)
    z.toNat ≤ 64 ∧ (∀ k < z.toNat, x.getLsbD (63 - k) = false) ∧ (z.toNat < 64 → x.getLsbD (63 - z.toNat) = true) := by
  intro z
  rw [toNat_ofNat_small (leading_spec x).1]
  exact leading_spec x

/-! ### Comparisons (R82) -/

section
variable (x y : Word)

theorem toInt_min : (if y.slt x then y else x).toInt = min x.toInt y.toInt := by
  simp only [BitVec.slt_iff_toInt_lt]
  split <;> omega

theorem toInt_max : (if x.slt y then y else x).toInt = max x.toInt y.toInt := by
  simp only [BitVec.slt_iff_toInt_lt]
  split <;> omega

theorem toNat_minu : (if y < x then y else x).toNat = min x.toNat y.toNat := by
  simp only [BitVec.lt_def]
  split <;> omega

theorem toNat_maxu : (if x < y then y else x).toNat = max x.toNat y.toNat := by
  simp only [BitVec.lt_def]
  split <;> omega

end

theorem toNat_truth {b : Bool} {p : Prop} [Decidable p] (h : b = true ↔ p) : (truth b).toNat = if p then 1 else 0 := by
  simp only [← h]
  cases b <;> rfl

/-! ### Extension (R82) -/

/-- A field of width w read as a signed number is the sign extension of its low w bits. -/
theorem ofInt_toSigned (w v : Nat) : BitVec.ofInt 64 (toSigned w (v % 2 ^ w)) = (BitVec.ofNat w v).signExtend 64 := by
  rw [toSigned_eq_bmod, BitVec.signExtend, BitVec.toInt_eq_toNat_bmod, BitVec.toNat_ofNat]

theorem toInt_signExtend_word {w : Nat} (hw : w ≤ 64) (v : Nat) :
    (BitVec.ofInt 64 (toSigned w (v % 2 ^ w))).toInt = (v : Int).bmod (2 ^ w) := by
  rw [ofInt_toSigned, BitVec.toInt_signExtend_of_le hw, BitVec.toInt_eq_toNat_bmod, BitVec.toNat_ofNat, Int.natCast_emod, Int.emod_bmod]

theorem toNat_low {w : Nat} (hw : w ≤ 64) (v : Nat) : (BitVec.ofNat 64 (v % 2 ^ w) : Word).toNat = v % 2 ^ w :=
  (BitVec.toNat_ofNat ..).trans
    (Nat.mod_eq_of_lt ((Nat.mod_lt v (Nat.two_pow_pos w)).trans_le (Nat.pow_le_pow_right (by decide) hw)))

/-! ### Bit fields (R84) -/

section
variable (x y : Word) {pos len k : Nat} (hk : k < 64)
include hk

/-- A bit of BFX without SX. -/
theorem getLsbD_bitField : (bitField x.toNat pos len 0).getLsbD k = (decide (k < len) && decide (pos + k < 64) && x.getLsbD (pos + k)) := by
  have hbit : (field x.toNat pos len).testBit k = (decide (k < len) && x.getLsbD (pos + k)) := by
    rw [field, Nat.testBit_mod_two_pow, Nat.testBit_div_two_pow, Nat.add_comm]; rfl
  rw [bitField, if_neg (by decide), BitVec.getLsbD_ofNat, hbit, decide_eq_true hk, Bool.true_and]
  by_cases h : pos + k < 64
  · simp [h]
  · simp [h, BitVec.getLsbD_of_ge x _ (Nat.not_lt.1 h)]

/-- A bit of BFX with SX: above the field the bit below its top repeats. -/
theorem getLsbD_bitField_signed (hpos : pos < 64) (hlen : 1 ≤ len) : (bitField x.toNat pos len 1).getLsbD k =
    x.getLsbD (if pos + k < min (pos + len) 64 then pos + k else min (pos + len) 64 - 1) := by
  have hbit (j : Nat) (hj : j < min (pos + len) 64 - pos) :
      (BitVec.ofNat (min (pos + len) 64 - pos) (field x.toNat pos len)).getLsbD j = x.getLsbD (pos + j) := by
    rw [BitVec.getLsbD_ofNat, field, Nat.testBit_mod_two_pow, Nat.testBit_div_two_pow, decide_eq_true hj,
      decide_eq_true (by omega : j < len), Nat.add_comm]; rfl
  simp only [bitField, if_true]
  rw [ofInt_toSigned, BitVec.getLsbD_signExtend, decide_eq_true hk, Bool.true_and]
  by_cases h : pos + k < min (pos + len) 64
  · rw [if_pos (by omega), if_pos h, hbit k (by omega)]
  · rw [if_neg (by omega), if_neg h, BitVec.msb_eq_getLsbD_last, hbit _ (by omega)]
    congr 1; omega

/-- A bit of BFI. -/
theorem getLsbD_insertField : (insertField x y pos len).getLsbD k = if pos ≤ k ∧ k < pos + len then y.getLsbD (k - pos) else x.getLsbD k := by
  have hmask : (BitVec.ofNat 64 (2 ^ len - 1) <<< pos : Word).getLsbD k = decide (pos ≤ k ∧ k < pos + len) := by
    rw [getLsbD_shl _ hk, BitVec.getLsbD_ofNat, decide_eq_true (by omega : k - pos < 64), Bool.true_and, Nat.testBit_two_pow_sub_one,
      ← Bool.decide_and, decide_eq_decide]
    omega
  simp only [insertField]
  rw [BitVec.getLsbD_or, getLsbD_andn _ _ hk, BitVec.getLsbD_and, hmask, getLsbD_shl _ hk]
  split <;> simp [*]

end

/-! ### Immediates (R86, R87) -/

theorem toInt_movi {imm : Nat} (h : imm < 2 ^ 32) :
    (BitVec.ofInt 64 (toSigned 32 (imm % 2 ^ 32))).toInt = if imm < 2 ^ 31 then (imm : Int) else imm - 2 ^ 32 := by
  rw [toInt_signExtend_word (by decide), Int.bmod_def]
  split <;> split <;> omega

theorem toNat_moviHi {imm : Nat} (h : imm < 2 ^ 32) (x : Word) :
    let z : Word := BitVec.ofNat 64 (imm % 2 ^ 32 * 2 ^ 32 + x.toNat % 2 ^ 32)
    z.toNat / 2 ^ 32 = imm ∧ z.toNat % 2 ^ 32 = x.toNat % 2 ^ 32 := by
  intro z
  have hz : z.toNat = imm * 2 ^ 32 + x.toNat % 2 ^ 32 := by
    rw [BitVec.toNat_ofNat, Nat.mod_eq_of_lt h, Nat.mod_eq_of_lt (by omega)]
  omega

theorem toInt_step {i : Int} (hlo : -2 ^ 31 ≤ i) (hhi : i < 2 ^ 31) : (BitVec.ofInt 32 i).toInt = i :=
  (BitVec.toInt_ofInt ..).trans (Int.bmod_eq_of_le (by omega) (by omega))

/-- Settles O12: the counts, comparisons, extensions, fields and immediates one by one. -/
theorem scalarCountsFieldsAndImmediates : Obligations.ScalarCountsFieldsAndImmediates := by
  refine ⟨fun s d a b c => ?_, fun s d a b pos len hpos hlen _ => ?_, fun s d a slot imm i himm hlo hhi => ?_⟩
  · intro x y
    refine ⟨writesScalar_of_putS (clz_spec x) rfl, writesScalar_of_putS (ctz_spec x) rfl, writesScalar_of_putS (popc_spec x) rfl,
      writesScalar_of_putS (toInt_min x y) rfl, writesScalar_of_putS (toInt_max x y) rfl,
      writesScalar_of_putS (toNat_minu x y) rfl, writesScalar_of_putS (toNat_maxu x y) rfl,
      writesScalar_of_putS (toNat_truth (beq_iff_eq.trans BitVec.toNat_inj.symm)) rfl,
      writesScalar_of_putS (toNat_truth BitVec.slt_iff_toInt_lt) rfl,
      writesScalar_of_putS (toNat_truth (decide_eq_true_iff.trans BitVec.lt_def)) rfl, ?_, ?_⟩
    · intro f w hfw
      obtain ⟨rfl, hw⟩ : w = extWidth f ∧ w ≤ 64 := by
        simp only [List.mem_cons, Prod.mk.injEq, List.not_mem_nil, or_false] at hfw
        obtain ⟨rfl, rfl⟩ | ⟨rfl, rfl⟩ | ⟨rfl, rfl⟩ := hfw <;> decide
      exact ⟨writesScalar_of_putS (toInt_signExtend_word hw x.toNat) rfl, writesScalar_of_putS (toNat_low hw x.toNat) rfl⟩
    · refine writesScalar_of_putS ?_ rfl
      have hzero : (s.rs c).toNat = 0 ↔ s.rs c = 0 := BitVec.toNat_inj (y := 0)
      simp only [hzero, ite_not]; rfl
  · intro x y top
    exact ⟨writesScalar_of_putS (fun _ => getLsbD_bitField x) rfl,
      writesScalar_of_putS (fun _ hk => getLsbD_bitField_signed x hk hpos hlen) rfl,
      writesScalar_of_putS (fun _ => getLsbD_insertField x y) rfl⟩
  · have himm' : imm % 2 ^ 32 = imm := Nat.mod_eq_of_lt himm
    exact ⟨writesScalar_of_putS ((toNat_low (by decide) imm).trans himm') rfl, writesScalar_of_putS (toInt_movi himm) rfl,
      writesScalar_of_putS (toNat_moviHi himm (s.rs d)) rfl,
      ⟨_, rfl, toInt_step hlo hhi⟩, ⟨_, rfl, BitVec.toNat_setWidth ..⟩⟩

end Sys2Proof.Machine
end

section
/-! Tandem fusion (R99, R101): FUSE by what the arrivals say, DECPL, and REJN by its release. -/

namespace Sys2Proof.Machine

/-! ### A change of several cores -/

/-- Each core of a list changed in turn. -/
def State.onCoreList (s : State) (l : List Nat) (g : Nat → Core → Core) : State := l.foldl (fun s k => s.onCoreN k (g k)) s

theorem State.onCoreN_core_other {s : State} {n : Nat} (h : s.core.phys ≠ n) (g : Core → Core) : (s.onCoreN n g).core = s.core := by
  rw [State.onCoreN, if_neg h]

section
variable {s : State} {l : List Nat} {g : Nat → Core → Core}

theorem State.onCoreList_mem : (s.onCoreList l g).mem = s.mem := by
  induction l generalizing s with
  | nil => rfl
  | cons k r ih => exact ih.trans (s.onCoreN_mem k (g k))

/-- What every change keeps of a core holds of the acting one. -/
theorem State.onCoreList_keeps {P : Core → Prop} (hg : ∀ k c, P c → P (g k c)) (h : P s.core) : P (s.onCoreList l g).core := by
  induction l generalizing s with
  | nil => exact h
  | cons k r ih =>
    refine ih (s := s.onCoreN k (g k)) ?_
    unfold State.onCoreN
    split
    · exact hg k _ h
    · exact h

theorem State.onCoreList_core_of_notMem (h : s.core.phys ∉ l) : (s.onCoreList l g).core = s.core := by
  induction l generalizing s with
  | nil => rfl
  | cons k r ih =>
    have hcore := State.onCoreN_core_other (List.ne_of_not_mem_cons h) (g k)
    exact (ih (s := s.onCoreN k (g k)) (by rw [hcore]; exact List.not_mem_of_not_mem_cons h)).trans hcore

/-- The acting core of a list without repetitions is changed once. -/
theorem State.onCoreList_core_of_mem (hl : l.Nodup) (hg : ∀ k c, (g k c).phys = c.phys) (h : s.core.phys ∈ l) :
    (s.onCoreList l g).core = g s.core.phys s.core := by
  induction l generalizing s with
  | nil => exact absurd h List.not_mem_nil
  | cons k r ih =>
    obtain ⟨hk, hr⟩ := List.nodup_cons.1 hl
    by_cases hme : s.core.phys = k
    · subst hme
      have hcore : (s.onCoreN s.core.phys (g s.core.phys)).core = g s.core.phys s.core := by rw [State.onCoreN, if_pos rfl]
      refine (State.onCoreList_core_of_notMem (s := s.onCoreN s.core.phys (g s.core.phys)) ?_).trans hcore
      rwa [hcore, hg]
    · have hcore := State.onCoreN_core_other hme (g k)
      have hrest := ih (s := s.onCoreN k (g k)) hr (by rw [hcore]; exact (List.mem_cons.1 h).resolve_left hme)
      rw [hcore] at hrest
      exact hrest

end

theorem fusedSet_nodup (size n : Nat) : (fusedSet size n).Nodup :=
  List.nodup_range.map fun _ _ h => Nat.add_left_cancel h

theorem mem_fusedSet {size : Nat} (h : 0 < size) (n : Nat) : n ∈ fusedSet size n :=
  List.mem_map.2 ⟨n % size, List.mem_range.2 (Nat.mod_lt n h), Nat.div_add_mod' n size⟩

/-! ### Releases -/

/-- The core without the releases of the acting op word. -/
def State.releaseTaken (s : State) : State :=
  { s with core := { s.core with released := s.core.released.filter (·.1 != s.core.ctx.slot) } }

theorem State.release?_of_some {s : State} {x : Nat × Word} (h : s.core.released.find? (·.1 == s.core.ctx.slot) = some x) :
    s.release? = some (x.2, s.releaseTaken) := by
  simp only [State.release?, h, Option.map_some]; rfl

theorem State.release?_of_none {s : State} (h : s.core.released.find? (·.1 == s.core.ctx.slot) = none) : s.release? = none := by
  simp only [State.release?, h, Option.map_none]

/-! ### FUSE (R99) -/

/-- The number of members that N names. -/
def fuseSize (n : Nat) : Nat := if n = 0 then 2 else 4

theorem fuseSize_pos (n : Nat) : 0 < fuseSize n := by
  unfold fuseSize; split <;> decide

/-- A member of a set that fuses. -/
def Core.fuses (size me lead k : Nat) (c : Core) : Core :=
  let f : Fusion := ⟨size, k % size, (c.fuseArrived.map (·.2)).getD 0, lead⟩
  { c with fused := some f, lastFused := some f, released := if k = me then c.released else c.released ++ [(7, 0)] }

theorem Core.sameRegisters_fuses (size me lead k : Nat) (c : Core) : sameRegisters c (c.fuses size me lead k) :=
  ⟨rfl, rfl, rfl, rfl, rfl, rfl, rfl, rfl, rfl, rfl, rfl, rfl, rfl, rfl, rfl, rfl, rfl⟩

/-- The set of the acting core fuses. -/
def State.fuseSet (s : State) (size : Nat) : State :=
  s.onCoreList (fusedSet size s.core.phys) (Core.fuses size s.core.phys (s.coreOf (s.core.phys / size * size)).cont)

/-- FUSE of the acting core has arrived. -/
def State.arrive (s : State) (a n : Nat) : State := { s with core := { s.core with fuseArrived := some (fuseSize n, (s.rs a).toInt) } }

section
variable {s : State} {a n : Nat}

theorem exec_fuse_released {x : Word × State} (h : s.release? = some x) : exec (.fuse a n) s = .next x.2 := by
  change execFuse a n s = _
  simp only [execFuse, h]

/-- FUSE without a release goes by the shape, the sizes, the rest of its bundle, and the arrivals. -/
theorem exec_fuse (h : s.release? = none) : exec (.fuse a n) s = .next (
    if !s.holdsSet (fuseSize n) then s.refuse .perm
    else if !(s.disagreeing (fuseSize n)).isEmpty then
      (s.onCoreList (s.core.phys :: s.disagreeing (fuseSize n)) fun _ c => { c with landTrap := some { no := .illegal } }).wait
    else if !s.core.ctx.full then s.wait
    else if (s.arrive a n).allArrived (fuseSize n) then (s.arrive a n).fuseSet (fuseSize n)
    else (s.arrive a n).wait) := by
  change execFuse a n s = _
  simp only [execFuse, h]; rfl

section
variable (hrel : s.release? = none)
include hrel

theorem exec_fuse_unheld (hholds : s.holdsSet (fuseSize n) = false) : raises (.fuse a n) s .perm := by
  rw [raises, exec_fuse hrel, hholds]; rfl

variable (hholds : s.holdsSet (fuseSize n) = true)
include hholds

theorem exec_fuse_disagreeing (h : s.disagreeing (fuseSize n) ≠ []) : exec (.fuse a n) s = .next
    (s.onCoreList (s.core.phys :: s.disagreeing (fuseSize n)) fun _ c => { c with landTrap := some { no := .illegal } }).wait := by
  rw [exec_fuse hrel, hholds, List.isEmpty_eq_false_iff.2 h]; rfl

variable (hagree : s.disagreeing (fuseSize n) = [])
include hagree

theorem exec_fuse_early (hfull : s.core.ctx.full = false) : exec (.fuse a n) s = .next s.wait := by
  rw [exec_fuse hrel, hholds, hagree, hfull]; rfl

variable (hfull : s.core.ctx.full = true)
include hfull

theorem exec_fuse_waits (harr : (s.arrive a n).allArrived (fuseSize n) = false) : exec (.fuse a n) s = .next (s.arrive a n).wait := by
  rw [exec_fuse hrel, hholds, hagree, hfull, harr]; rfl

theorem exec_fuse_fuses (harr : (s.arrive a n).allArrived (fuseSize n) = true) :
    exec (.fuse a n) s = .next ((s.arrive a n).fuseSet (fuseSize n)) := by
  rw [exec_fuse hrel, hholds, hagree, hfull, harr]; rfl

end

/-- Where members disagree, X_ILLEGAL is due. -/
theorem State.disagree_spec (l : List Nat) :
    let t := s.onCoreList (s.core.phys :: l) fun _ c => { c with landTrap := some { no := .illegal } }
    t.core.landTrap = some { no := .illegal } ∧ t.mem = s.mem := by
  refine ⟨?_, State.onCoreList_mem⟩
  exact State.onCoreList_keeps (s := s.onCoreN s.core.phys _) (P := fun c => c.landTrap = some { no := .illegal })
    (fun _ _ _ => rfl) (by rw [State.onCoreN_acting]; rfl)

/-- The acting core of a set that has fused. -/
theorem State.fuseSet_core {size : Nat} (h : 0 < size) : (s.fuseSet size).core =
    s.core.fuses size s.core.phys (s.coreOf (s.core.phys / size * size)).cont s.core.phys :=
  State.onCoreList_core_of_mem (fusedSet_nodup ..) (fun _ _ => rfl) (mem_fusedSet h _)

end

/-! ### REJN (R101) -/

section
variable {s : State}

theorem exec_rejn_unfused (h : s.core.lastFused = none) : exec .rejn s = .next s := by
  change execRejn s = _
  unfold execRejn
  rw [h]

theorem exec_rejn_released {f : Fusion} {x : Word × State} (h : s.core.lastFused = some f) (hx : s.release? = some x) :
    exec .rejn s = .next x.2 := by
  change execRejn s = _
  unfold execRejn
  rw [h, hx]

/-- The acting core waits in REJN. -/
def State.inRejn (s : State) : State := { s with core := { s.core with rejoined := true } }

/-- A member whose REJN retires with those of the others. -/
def Core.leavesRejn (me k : Nat) (c : Core) : Core :=
  { c with rejoined := false, released := if k = me then c.released else c.released ++ [(7, 0)] }

/-- REJN without a release goes by the members that wait in REJN. -/
theorem exec_rejn {f : Fusion} (h : s.core.lastFused = some f) (hx : s.release? = none) : exec .rejn s = .next (
    if (s.inRejn.rejoining f).length = f.size then s.inRejn.onCoreList (s.inRejn.rejoining f) (Core.leavesRejn s.core.phys) else s.inRejn.wait) := by
  change execRejn s = _
  unfold execRejn
  rw [h, hx]
  rfl

end

theorem exec_decpl (s : State) :
    exec .decpl s = .next (if s.core.fused.isSome then s.onCore fun c => { c with leave := some .decouple } else s) := rfl

/-- Settles O28: FUSE and REJN each by their release, then by what the members have done. -/
theorem tandemFusion : Obligations.TandemFusion := by
  intro s a n size u done
  refine ⟨fun v hv => exec_fuse_released (State.release?_of_some hv), fun hd hholds => ?_, fun hd hholds hdis => ?_,
    fun hd hholds hdis hfull => ?_, fun hd hholds hdis hfull => ?_, fun f hf => ?_, fun hf => ?_, exec_rejn_unfused,
    fun f v hf hv => exec_rejn_released hf (State.release?_of_some hv), fun f hf hd => ?_⟩
  · exact exec_fuse_unheld (State.release?_of_none hd) hholds
  · obtain ⟨htrap, hmem⟩ := State.disagree_spec (s := s) (s.disagreeing (fuseSize n))
    exact ⟨_, exec_fuse_disagreeing (State.release?_of_none hd) hholds hdis, rfl, htrap, hmem⟩
  · exact exec_fuse_early (State.release?_of_none hd) hholds hdis hfull
  · refine ⟨exec_fuse_waits (State.release?_of_none hd) hholds hdis hfull, fun harr => ?_⟩
    have hcore := State.fuseSet_core (s := s.arrive a n) (fuseSize_pos n)
    refine ⟨_, exec_fuse_fuses (State.release?_of_none hd) hholds hdis hfull harr, ?_, ?_, State.onCoreList_mem, ?_⟩
    · rw [hcore]; rfl
    · rw [hcore]; rfl
    · rw [hcore]; exact Core.sameRegisters_fuses ..
  · rw [exec_decpl, hf]; rfl
  · rw [exec_decpl, hf]; rfl
  · intro v
    have hrejn := exec_rejn hf (State.release?_of_none hd)
    refine ⟨fun hlen => hrejn.trans (congrArg _ (if_neg hlen)), fun hlen => ⟨_, hrejn.trans (congrArg _ (if_pos hlen)), ?_, State.onCoreList_mem⟩⟩
    exact State.onCoreList_keeps (P := fun c => c.waiting = s.core.waiting) (fun _ _ h => h) rfl

end Sys2Proof.Machine
end

section
/-! TRAP and BREAK (R102), and what taking a trap leaves of the core (R356). -/

namespace Sys2Proof.Machine

section
variable {s : State} {no : TrapNo} {code : Nat}

/-- After the rest of its bundle a trap of the software resumes at the next bundle, the bundle's late writes being made. -/
theorem State.software_of_full (h : s.core.ctx.full = true) : s.software no code =
    ({ s with core := { s.core.writes s.core.late with late := [], gated := false, closed := false, start := none, current := none } } : State).takeTrap
      { no := no, arg := code, resume := some (s.core.branch.getD ((s.core.pc + 4 * s.core.ctx.wc) % 2 ^ 64)) } := by
  rw [State.software, if_pos h]; rfl

/-- Before that it resumes at its own bundle, with its slot in the done mask. -/
theorem State.software_of_early (h : s.core.ctx.full = false) : s.software no code =
    ({ s with core := { s.core with done := s.core.done ||| 2 ^ s.core.ctx.slot } } : State).takeTrap { no := no, arg := code } := by
  rw [State.software, if_neg (by rw [h]; decide)]; rfl

/-- A trap that is taken leaves the core without a continuation and is marked. -/
theorem State.takeTrap_taken (h : s.frameInTransit = none) (t : Trap) :
    (s.takeTrap t).trapTaken = some t ∧ ∃ c : Core, (s.takeTrap t).core = c.idled := by
  rw [State.takeTrap, State.takeTrapAt, h]
  exact ⟨rfl, _, rfl⟩

end

/-- Settles O29: both instructions are `State.software`, by whether the rest of the bundle has executed. -/
theorem softwareTrapsEnterTheHandler : Obligations.SoftwareTrapsEnterTheHandler := by
  intro s code
  refine ⟨?_, fun t h => ?_⟩
  · simp only [List.forall_mem_cons]
    exact ⟨⟨fun h => congrArg _ (State.software_of_full h), fun h => congrArg _ (State.software_of_early h)⟩,
      ⟨fun h => congrArg _ (State.software_of_full h), fun h => congrArg _ (State.software_of_early h)⟩, List.forall_mem_nil _⟩
  · obtain ⟨htaken, c, hc⟩ := State.takeTrap_taken h t
    rw [hc]
    exact ⟨htaken, rfl, rfl⟩

end Sys2Proof.Machine
end

section
/-! TRET and TRET_NEXT (R103, R237, R378): the record that they find, and how they release it and end the handler. -/

namespace Sys2Proof.Machine

section
variable {s : State} {r : Nat}

/-- What TRET may resume: a published record of the partition, faulted, with no write-back of it failed. -/
theorem State.tretOk_iff : s.tretOk r = true ↔ (∃ p, s.part? s.core.part = some p ∧ ∃ x ∈ p.recs, x.1 = r) ∧
    s.recSt s.core.part r = 4 ∧ s.recState s.core.part r / 2 ^ 9 % 2 = 0 := by
  have hrecs : ((s.part? s.core.part).map fun p => p.recs.any (·.1 == r)).getD false = true ↔
      ∃ p, s.part? s.core.part = some p ∧ ∃ x ∈ p.recs, x.1 = r := by
    cases s.part? s.core.part <;> simp
  rw [State.tretOk, Bool.and_eq_true, Bool.and_eq_true, State.myPart, hrecs, and_assoc, beq_iff_eq, beq_iff_eq]; rfl

/-! ### After the check of the record the handler's parent word decides -/

variable {k : State → State}

theorem State.endsByTret_freeze {f : Freeze} (h : s.parentCheck s.core.parent = .freeze f) : s.endsByTret k = s.freeze f := by
  rw [State.endsByTret, h]; rfl

theorem State.endsByTret_trap {t : Trap} (h : s.parentCheck s.core.parent = .trap t) : s.endsByTret k = s.takeTrap t := by
  rw [State.endsByTret, h]; rfl

theorem State.endsByTret_ok {ps : List Piece} (h : s.parentCheck s.core.parent = .ok ps) :
    s.endsByTret k = (k s).onCore fun c => { c with leave := some .exit } := by
  rw [State.endsByTret, h]; rfl

end

section
variable {s : State} {a : Nat}

theorem tret_raises (h : s.settle.tretOk (s.rs a).toNat = false) : raises (.tret a) s .illegal ∧ raises (.tretNext a) s .illegal := by
  refine ⟨?_, ?_⟩
  · change execTret a s = _
    simp only [execTret, h]; rfl
  · change execTretNext a s = _
    simp only [execTretNext, h]; rfl

variable (h : s.settle.tretOk (s.rs a).toNat = true)
include h

theorem exec_tret : exec (.tret a) s = .next (s.settle.endsByTret fun s' => s'.releaseFaulted s'.core.part (s.rs a).toNat) := by
  change execTret a s = _
  simp only [execTret, h]; rfl

theorem exec_tretNext_moving (hmoves : s.settle.codeMoves s.core.part (s.settle.recCode s.core.part (s.rs a).toNat) = true) :
    exec (.tretNext a) s = .next (s.freeze (.transit (s.settle.recCode s.core.part (s.rs a).toNat))) := by
  change execTretNext a s = _
  simp only [execTretNext, h, hmoves]; rfl

variable (hhere : s.settle.codeMoves s.core.part (s.settle.recCode s.core.part (s.rs a).toNat) = false)
include hhere

theorem tretNext_raises (hnone : s.settle.bundleAfter s.core.part (s.settle.recCode s.core.part (s.rs a).toNat) = none) :
    raises (.tretNext a) s .illegal := by
  change execTretNext a s = _
  simp only [execTretNext, h, hhere, hnone]; rfl

theorem exec_tretNext {next : Nat} (hnext : s.settle.bundleAfter s.core.part (s.settle.recCode s.core.part (s.rs a).toNat) = some next) :
    exec (.tretNext a) s = .next (s.settle.endsByTret fun t =>
      (((t.hubWrite s.core.part (s.rs a).toNat 0 8 next).onSaved s.core.part (s.rs a).toNat fun x =>
        { x with resume := x.resume.bind (·.skipped next) }).setRecBits s.core.part (s.rs a).toNat 6 1 0).releaseFaulted
          s.core.part (s.rs a).toNat) := by
  change execTretNext a s = _
  simp only [execTretNext, h, hhere, hnext]; rfl

end

/-- Settles O30: the record's check, the resume point's, and the parent word's, in that order. -/
theorem returnsFromAnException : Obligations.ReturnsFromAnException := by
  intro s a r part u q frozen gone
  refine ⟨tret_raises, State.tretOk_iff, exec_tretNext_moving, fun h f hf => ?_, fun h t ht => ?_, fun h ps hps => ⟨?_, fun next hhere hnext => ?_⟩,
    tretNext_raises⟩
  · exact (exec_tret h).trans (congrArg _ (State.endsByTret_freeze hf))
  · exact (exec_tret h).trans (congrArg _ (State.endsByTret_trap ht))
  · exact (exec_tret h).trans (congrArg _ (State.endsByTret_ok hps))
  · exact (exec_tretNext h hhere hnext).trans (congrArg _ (State.endsByTret_ok hps))

end Sys2Proof.Machine
end

section
/-! Where O54 fails. WRITE_BACK writes FUS = 0 into the record's state word and then decides by that word whether the record becomes
ready alone (R222, R230). The statement takes it that the word reads back as written; but it is about every state with canonical
memory, also one whose record lies over the leaf entry that maps it. The write then moves the record to another frame, where the hub
finds the state word of a member of a pair, and waits for the other one. -/

namespace Sys2Proof.Machine

/-- The page table and the record share the page at 0x400_0000. The entry at its start names this same table at levels 0 to 2. The
leaf at offset 32 maps the record's page to frame 0x400, this page, so that it is the record's state word too (Table 10-1), with
FUS = 1; with FUS = 0 it maps to frame 0, where the word at offset 32 has FUS = 1. The next leaf maps the frame's page. -/
def selfMappedMem : Memory :=
  let blank : Memory := []
  let table := 0x4000000
  (((blank.writeN 32 (leBytes 4 0x400)).writeN table (leBytes 8 (2 ^ 63 + table / 2 ^ 8))).writeN (table + 32)
    (leBytes 8 (leafWord true ⟨0, 0, 0, false, true, true, 0x400⟩))).writeN (table + 40) (leBytes 8 (leafWord true ⟨0, 0, 0, false, true, true, 0x800⟩))

/-- A continuation that has executed YIELD, with its record in that page; CODE, which the write-back sets to the resume point, lies over
the table's first entry and keeps its value. -/
def selfMapped : State := { State.reset with
  core := { Core.reset 0 with
    running := true, cont := 0x40000, frame := 0x50000, pc := 2 ^ 63 + 0x40000, leave := some .yield, safeIdx := 0 }
  parts := [{ placedPartition with quotas := { placedPartition.quotas with root := 0x4000000 } }]
  mem := selfMappedMem }

theorem selfMapped_inv : selfMapped.inv := by unfold State.inv; decide +kernel

theorem selfMapped_mayLeave : selfMapped.frameInTransit = none ∧ selfMapped.cancelMarked = false ∧ (selfMapped.part? 0).isSome = true := by
  decide +kernel

/-- Its frame is written and no reply is pending; but the record, written with FUS = 0, then reads FUS = 1. -/
theorem selfMapped_writeBackAt : let w := selfMapped.writeBackAt true 0 (2 ^ 63 + 0x40000) 0 0
    w.2 = none ∧ w.1.pendingAtoms 0 0x40000 = [] ∧ (w.1.asNow 0 ⟨0x40000, 0, 0, 0, 0, 0, true⟩).fus = 1 := by
  decide +kernel

/-- The ready records of partition 0 after a step that has one. -/
def readyAfter : Out → List Ready
  | .next t => ((t.part? 0).map (·.ready)).getD []
  | _ => []

theorem selfMapped_writeBack_ready : readyAfter (exec .writeBack selfMapped) = [] := by decide +kernel

/-- Refutes O54: WRITE_BACK of `selfMapped` meets every premise of the clause on a continuation that yields, and the record does not
become ready. -/
theorem not_continuationsLeaveAndReturn : ¬ Obligations.ContinuationsLeaveAndReturn := by
  intro h
  obtain ⟨-, -, hwriteBack, -⟩ := h
  obtain ⟨-, -, hyield, -⟩ := hwriteBack selfMapped rfl
  obtain ⟨hframe, hmarked, hpart⟩ := selfMapped_mayLeave
  obtain ⟨hwritten, hpending, -⟩ := selfMapped_writeBackAt
  obtain ⟨t, p, hexec, -, hp, hready⟩ := hyield rfl rfl rfl hframe hmarked rfl rfl selfMapped_inv hwritten hpart
  obtain ⟨r, hr, -⟩ := hready hpending
  have hnone : p.ready = [] := by
    have h := selfMapped_writeBack_ready
    rw [hexec] at h
    change ((t.part? selfMapped.core.part).map (·.ready)).getD [] = [] at h
    rwa [hp] at h
  rw [hnone] at hr
  exact List.not_mem_nil hr

end Sys2Proof.Machine
end

section
/-! The checks of an access (R108, R109): what refuses a piece of it, and what an admitted piece is. -/

namespace Sys2Proof.Machine

variable {s : State} {a : Access} {scope ea n align : Nat}

/-- The checks of one piece of an access, after those of the pieces before it. -/
def State.checkPiece (s : State) (a : Access) (scope : Nat) (acc : Checked) (x : Nat × Nat × Nat) : Checked :=
  match acc with
  | .trap t => .trap t
  | _ =>
    let e := x.1 % 2 ^ 64
    match s.corePoison s.core.phys s.core.part (va52 e) with
    | some pa => match acc with
      | .ok _ => .freeze (.poison pa)
      | other => other
    | none => match s.xlat a scope e with
    | .trap t => .trap { no := t, addr := e }
    | .transit => match acc with
      | .ok _ => .freeze (.transit (va52 e))
      | other => other
    | .ok loc c => match acc with
      | .ok ps => .ok (ps ++ [⟨va52 e, x.2.1, x.2.2, loc, c, s.core.inScratch (va52 e)⟩])
      | other => other

/-- After the checks of every piece, the scratch pages that are not resident are waited for. -/
def State.refilled (s : State) (r : Checked) : Checked :=
  match r with
  | .ok ps =>
    let pages := (ps.flatMap fun p => if p.scratch then s.missing p.va p.size else []).eraseDups
    if pages.isEmpty then .ok ps else .freeze (.refill pages)
  | other => other

theorem State.checkBytes_eq (s : State) (a : Access) (scope ea n : Nat) :
    s.checkBytes a scope ea n = s.refilled ((cut ea n).foldl (s.checkPiece a scope) (.ok [])) := rfl

theorem State.check_of_aligned (h : ea % align = 0) : s.check a scope ea n align = s.checkBytes a scope ea n :=
  if_neg (not_not.2 h)

theorem State.corePoison_of_none (h : s.poisoned = []) (core part va : Nat) : s.corePoison core part va = none := by
  simp [State.corePoison, State.enginePoison, State.walkPoison, h]

/-- A trap of one piece is the answer, whatever the later ones are. -/
theorem State.foldl_checkPiece_trap (t : Trap) (l : List (Nat × Nat × Nat)) : l.foldl (s.checkPiece a scope) (.trap t) = .trap t :=
  List.foldlRecOn (motive := (· = Checked.trap t)) l _ rfl fun _ h _ _ => by rw [h]; rfl

/-- The first piece of an access of some bytes starts at its address. -/
theorem cut_eq_cons (h : 0 < n) : ∃ k r, cut ea n = (ea, k, 0) :: r :=
  ⟨_, _, if_neg h.ne'⟩

/-- An aligned access whose first byte is refused. -/
theorem State.check_of_refused {t : TrapNo} (hpoison : s.poisoned = []) (halign : ea % align = 0) (hn : 0 < n) (hea : ea < 2 ^ 64)
    (ht : s.xlat a scope ea = .trap t) : s.check a scope ea n align = .trap { no := t, addr := ea } := by
  obtain ⟨k, r, hcut⟩ := cut_eq_cons (ea := ea) hn
  have hfirst : s.checkPiece a scope (.ok []) (ea, k, 0) = .trap { no := t, addr := ea } := by
    simp only [State.checkPiece, Nat.mod_eq_of_lt hea, State.corePoison_of_none hpoison, ht]
  rw [State.check_of_aligned halign, State.checkBytes_eq, hcut, List.foldl_cons, hfirst, State.foldl_checkPiece_trap]
  rfl

theorem State.xlat_of_noncanonical (h : canonical ea = false) : s.xlat a scope ea = .trap .page := if_pos (by rw [h]; rfl)

theorem State.xlat_of_window (h : canonical ea = true) (hw : inWindow (va52 ea) = true) : s.xlat a scope ea = .trap .perm :=
  (if_neg (by rw [h]; decide)).trans (if_pos hw)

/-- An admitted address has a leaf that does not refuse it, and its place on the leaf's page. -/
theorem State.xlat_ok {loc : Loc} {c : Bool} (h : s.xlat a scope ea = .ok loc c) :
    ∃ e level, s.lookup s.core.phys s.core.part (va52 ea) = .leaf e level ∧ s.denied a scope (leafFields e) = none ∧
      (loc, c) = s.place e level (va52 ea) := by
  unfold State.xlat at h
  split at h
  · cases h
  split at h
  · cases h
  unfold State.xlatOf at h
  split at h
  · cases h
  · cases h
  · next e level hleaf =>
    split at h
    · cases h
    · next hdenied =>
      cases h
      exact ⟨e, level, hleaf, hdenied, rfl⟩

/-- A piece that no check refuses: it stands on a page that translation finds and that allows the access. -/
def State.admits (s : State) (a : Access) (scope : Nat) (p : Piece) : Prop :=
  ∃ e level, s.lookup s.core.phys s.core.part p.va = .leaf e level ∧ s.denied a scope (leafFields e) = none ∧
    (p.loc, p.cached) = s.place e level p.va

theorem State.checkPiece_ok {acc : Checked} {x : Nat × Nat × Nat} {ps : List Piece} (h : s.checkPiece a scope acc x = .ok ps) :
    ∃ qs p, acc = .ok qs ∧ ps = qs ++ [p] ∧ s.admits a scope p := by
  cases acc with
  | trap t => cases h
  | freeze f =>
    unfold State.checkPiece at h
    dsimp only at h
    split at h
    · cases h
    · split at h <;> cases h
  | ok qs =>
    unfold State.checkPiece at h
    dsimp only at h
    split at h
    · cases h
    · split at h
      · cases h
      · cases h
      · next hx =>
        cases h
        exact ⟨qs, _, rfl, rfl, State.xlat_ok hx⟩

theorem State.admits_of_foldl {l : List (Nat × Nat × Nat)} {ps : List Piece} (h : l.foldl (s.checkPiece a scope) (.ok []) = .ok ps) :
    ∀ p ∈ ps, s.admits a scope p := by
  refine List.foldlRecOn (motive := fun acc => ∀ ps, acc = Checked.ok ps → ∀ p ∈ ps, s.admits a scope p) l _ (fun ps hps => ?_)
    (fun acc hacc x _ ps hps => ?_) ps h
  · cases hps
    simp
  · obtain ⟨qs, p, hqs, rfl, hp⟩ := State.checkPiece_ok hps
    intro q hq
    rcases List.mem_append.1 hq with hq | hq
    · exact hacc qs hqs q hq
    · rwa [List.mem_singleton.1 hq]

/-- An admitted access is aligned, and each of its pieces is admitted. -/
theorem State.check_ok {ps : List Piece} (h : s.check a scope ea n align = .ok ps) : ea % align = 0 ∧ ∀ p ∈ ps, s.admits a scope p := by
  by_cases halign : ea % align = 0
  · rw [State.check_of_aligned halign, State.checkBytes_eq] at h
    refine ⟨halign, ?_⟩
    unfold State.refilled at h
    split at h
    · next qs hfold =>
      dsimp only at h
      split at h
      · cases h
        exact State.admits_of_foldl hfold
      · cases h
    · next hne => exact absurd h (hne ps)
  · rw [State.check_of_misaligned halign] at h
    cases h

/-- Settles O16: the alignment first, then the first byte's translation; and what each admitted piece has passed. -/
theorem checksOfAnAccess : Obligations.ChecksOfAnAccess := by
  intro s a scope ea n align
  exact ⟨State.check_of_misaligned,
    fun hpoison halign hn hea hc => State.check_of_refused hpoison halign hn hea (State.xlat_of_noncanonical hc),
    fun hpoison halign hn hea hc hw => State.check_of_refused hpoison halign hn hea (State.xlat_of_window hc hw),
    fun ps => State.check_ok⟩

end Sys2Proof.Machine
end

section
/-! Direct stream patterns (R116, R118): the coordinates of an element, its clamped position and its address. -/

namespace Sys2Proof.Machine

/-- Coordinate d of lane i of a direct pattern, clamped where LIM_d is not 0. -/
def Pattern.clamped (p : Pattern) (i d : Nat) : Int :=
  let y : Int := p.org.getD d 0 + ((p.coords (p.step i)).getD d 0 : Int)
  if p.lim.getD d 0 = 0 then y else min (max y 0) ((p.lim.getD d 0 : Int) - 1)

theorem Pattern.address_of_direct {p : Pattern} (h : p.ind = false) (i : Nat) (e o : Int) :
    p.address i e o = toBits 64 (p.base + o + p.clamped i 0 * p.sd.getD 0 0 + p.clamped i 1 * p.sd.getD 1 0
      + p.clamped i 2 * p.sd.getD 2 0 + p.clamped i 3 * p.sd.getD 3 0) := by
  simp only [Pattern.address, h, Bool.false_eq_true, if_false, Pattern.clamped, ite_not]
  rfl

theorem Pattern.coords_of_ext {p : Pattern} {a b c d : Nat} (h : p.ext = [a, b, c, d]) (q : Nat) :
    p.coords q = [q % a, q / a % b, q / a / b % c, q / a / b / c % d] := by
  rw [Pattern.coords, h]; rfl

theorem Pattern.total_of_ext {p : Pattern} {a b c d : Nat} (h : p.ext = [a, b, c, d]) : p.total = a * b * c * d := by
  rw [Pattern.total, h]; simp

theorem setField_lt {v lo n x w : Nat} (hv : v < 2 ^ w) (h : lo + n ≤ w) : setField v lo n x < 2 ^ w := by
  refine Nat.lt_pow_two_of_testBit _ fun i hi => ?_
  rw [setField_testBit, if_neg (by omega)]
  exact Nat.testBit_lt_two_pow (hv.trans_le (Nat.pow_le_pow_right (by decide) hi))

theorem toNat_ofNat_setField {w lo n : Nat} (x : BitVec w) (y : Nat) (h : lo + n ≤ w) :
    (BitVec.ofNat w (setField x.toNat lo n y)).toNat = setField x.toNat lo n y :=
  (BitVec.toNat_ofNat ..).trans (Nat.mod_eq_of_lt (setField_lt x.isLt h))

/-- POS is replaced and nothing else of the record. -/
theorem Pattern.advance_toNat (p : Pattern) (x : BitVec 512) (k : Nat) :
    (p.advance x k).toNat = setField x.toNat 448 32 ((p.pos + k) % p.total) :=
  toNat_ofNat_setField x _ (by decide)

/-- The bits of a byte field. -/
theorem field_field {v lo n k m : Nat} (h : k + m ≤ n) : field (field v lo n) k m = field v (lo + k) m := by
  refine Nat.eq_of_testBit_eq fun j => ?_
  rw [field_testBit, field_testBit, field_testBit]
  by_cases hj : j < m
  · simp [hj, show k + j < n by omega, Nat.add_assoc]
  · simp [hj]

theorem map_range_four {α : Type} (f : Nat → α) : (List.range 4).map f = [f 0, f 1, f 2, f 3] := rfl

theorem getD_map_range {α : Type} (f : Nat → α) {n d : Nat} (h : d < n) (y : α) : ((List.range n).map f).getD d y = f d := by
  simp [h]

/-- Settles O19: the coordinates by division by the extents, each clamped, and POS by the field replaced. -/
theorem patternAddresses : Obligations.PatternAddresses := by
  intro x i o b ext n q t c step p
  have hext : p.ext = [ext 0, ext 1, ext 2, ext 3] := map_range_four ext
  have htotal : p.total = n := Pattern.total_of_ext hext
  have hcoords : p.coords (p.step i) = [t 0, t 1, t 2, t 3] := by
    rw [Pattern.coords_of_ext hext, Pattern.step, htotal]
    rfl
  have ht {d : Nat} (hd : d < 4) : [t 0, t 1, t 2, t 3].getD d 0 = t d := getD_map_range t hd 0
  have horg {d : Nat} (hd : d < 4) : p.org.getD d 0 = ((b (48 + 2 * d) 2 : Nat) : Int).bmod (2 ^ 16) :=
    (getD_map_range (fun d => toSigned 16 (b (48 + 2 * d) 2)) hd 0).trans (toSigned_eq_bmod 16 _)
  have hlim {d : Nat} (hd : d < 4) : p.lim.getD d 0 = b (40 + 2 * d) 2 := getD_map_range (fun d => b (40 + 2 * d) 2) hd 0
  have hstep {d : Nat} (hd : d < 4) : p.sd.getD d 0 = step d :=
    (getD_map_range (fun d => toSigned 32 (b (16 + 4 * d) 4)) hd 0).trans (toSigned_eq_bmod 32 _)
  have hclamped {d : Nat} (hd : d < 4) : p.clamped i d = c d := by
    rw [Pattern.clamped, hcoords, ht hd, horg hd, hlim hd]
  have hflags : b 60 1 = field x.toNat 480 8 := by simp only [b, Nat.reduceMul]
  have hpos : b 56 4 = field x.toNat 448 32 := by simp only [b, Nat.reduceMul]
  have hesz : field x.toNat 480 2 = field (b 60 1) 0 2 := by rw [hflags, field_field (by decide)]
  have hind : field x.toNat 482 1 = field (b 60 1) 2 1 := by rw [hflags, field_field (by decide)]
  refine ⟨congrArg (2 ^ ·) (hesz.trans ?_), (congrArg (· == 1) hind).trans (beq_eq_decide _ _), fun h e => ?_, fun k => ?_⟩
  · rw [field, pow_zero, Nat.div_one]; rfl
  · rw [Pattern.address_of_direct h, hclamped (by decide), hclamped (by decide), hclamped (by decide), hclamped (by decide),
      hstep (by decide), hstep (by decide), hstep (by decide), hstep (by decide)]
    rfl
  · rw [Pattern.advance_toNat, htotal, setField, ← hpos]
    rfl

end Sys2Proof.Machine
end

section
/-! Phase starts and the stores that they publish (R133, R236, R237). -/

namespace Sys2Proof.Machine

variable {s : State}

/-! ### A phase start -/

/-- A local store of a core as its phase start publishes it. -/
def Core.published (c : Core) (widen : Nat) (st : OwnStore) : PubStore :=
  ⟨c.phys, c.task, c.part, st.loc, st.bytes, max st.scope widen, st.chn, st.whole, c.issued, false⟩

/-- The posted writes of a store of a core to a peer. -/
def Core.posted (c : Core) (st : OwnStore) : List Posted :=
  match st.loc.peer with
  | some d => postedOf (some (c.phys, c.issued)) 0 c.part c.task d st.chn st.loc.pa st.va (laidOver [] st.bytes) none
  | none => []

/-- More published stores, and more posted writes on their way to the egress. -/
def State.adding (s : State) (ps : List PubStore) (ws : List Posted) : State := { s with pubs := s.pubs ++ ps, egress := s.egress ++ ws }

theorem State.adding_nil (s : State) : s.adding [] [] = s := by
  simp only [State.adding, List.append_nil]

theorem State.adding_adding (s : State) (ps ps' : List PubStore) (ws ws' : List Posted) :
    (s.adding ps ws).adding ps' ws' = s.adding (ps ++ ps') (ws ++ ws') := by
  simp only [State.adding, List.append_assoc]

/-- What a phase start publishes of a core's stores: those to this device, and those to peers. -/
def Core.publishes (c : Core) (widen : Nat) (sts : List OwnStore) : List PubStore :=
  (sts.filter fun st => st.loc.peer.isNone).map (c.published widen)
def Core.posts (c : Core) (sts : List OwnStore) : List Posted := sts.flatMap c.posted

theorem State.publish_eq (s : State) (c : Core) (widen : Nat) (st : OwnStore) :
    s.publish c widen st = s.adding (c.publishes widen [st]) (c.posts [st]) := by
  cases h : st.loc.peer with
  | none => simp [State.publish, State.adding, Core.publishes, Core.posts, Core.posted, Core.published, h]
  | some d => simp [State.publish, State.adding, Core.publishes, Core.posts, Core.posted, h]

/-- The stores of a phase, published in issue order. -/
theorem State.foldl_publish (c : Core) (widen : Nat) : ∀ (sts : List OwnStore) (s : State),
    sts.foldl (fun s st => s.publish c widen st) s = s.adding (c.publishes widen sts) (c.posts sts)
  | [], s => s.adding_nil.symm
  | st :: sts, s => by
    rw [List.foldl_cons, State.foldl_publish c widen sts, State.publish_eq, State.adding_adding, Core.publishes, Core.publishes,
      ← List.map_append, ← List.filter_append, Core.posts, Core.posts, ← List.flatMap_append]
    rfl

/-- A core without landing loads at a phase start. -/
def Core.nextPhase (c : Core) (now : Nat) : Core := { c with
  issued := c.issued + 1, stores := [], snap := [], filled := [], phase := c.phase + 1, unsettled := true
  coreTimer := if c.stores.isEmpty then c.coreTimer else now }

/-- The state after a phase start of the acting core without landing loads. -/
def State.phased (s : State) (widen : Nat) : State :=
  { s.adding (s.core.publishes widen s.core.stores) (s.core.posts s.core.stores) with
    atoms := s.atoms.map fun (a : Atom) => if a.core = s.core.phys ∧ a.old.isNone then { a with past := true } else a
    core := s.core.nextPhase s.now }

theorem State.phaseStart_of_noLoads (h : s.core.loads = []) (widen : Nat) : s.phaseStart widen = s.phased widen := by
  rw [State.phaseStart, State.phaseStartOf]
  simp only [State.fixLoads_of_nil h, State.coreOf_acting, State.foldl_publish, State.adding, State.onCoreN, if_true, h, List.map_nil]
  rw [State.phased, Core.nextPhase, h]
  rfl

theorem Core.published_zero (c : Core) : c.published 0 = fun st =>
    ⟨c.phys, c.task, c.part, st.loc, st.bytes, st.scope, st.chn, st.whole, c.issued, false⟩ := by
  funext st
  simp [Core.published]

/-! ### The bytes of a store -/

theorem laidOver_length (old : List Byte) (bs : List (Option Byte)) : (laidOver old bs).length = bs.length := by
  simp [laidOver]

theorem laidOver_getD {old : List Byte} {bs : List (Option Byte)} {j : Nat} (h : j < bs.length) (d : Byte) :
    (laidOver old bs).getD j d = (bs.getD j none).getD (old.getD j 0) := by
  simp [laidOver, h]

/-! ### A published store performed (R233, R237) -/

/-- A store written over what stands at its place, in a memory that nobody watches. -/
theorem State.perform_laidOver (hquiet : s.unwatched) (hwf : s.mem.wf = true) (pa : Nat) (bs : List (Option Byte)) (whole : Bool) :
    let t := s.perform pa (laidOver (s.mem.readN pa bs.length) bs) whole
    (∀ j < bs.length, t.mem.read (pa + j) = (bs.getD j none).getD (s.mem.read (pa + j))) ∧
      sameBytesBut s t pa bs.length ∧ t.pubs = s.pubs ∧ t.core = s.core ∧ t.mem.wf = true := by
  intro t
  have hbooks : onlyBooks _ t := State.perform_onlyBooks hquiet ..
  have hread (x : Nat) : t.mem.read x = if pa ≤ x ∧ x < pa + bs.length then
      (laidOver (s.mem.readN pa bs.length) bs).getD (x - pa) Memory.blank else s.mem.read x := by
    have hwritten := Memory.read_writeN pa x (laidOver (s.mem.readN pa bs.length) bs) hwf
    rw [laidOver_length] at hwritten
    rw [hbooks.mem]
    exact hwritten
  refine ⟨fun j hj => ?_, fun x hx => ?_, (congrArg State.pubs hbooks :), (congrArg State.core hbooks :), ?_⟩
  · rw [hread, if_pos (by omega), Nat.add_sub_cancel_left, laidOver_getD hj]
    exact congrArg _ (Memory.readN_getD hwf hj)
  · rw [hread, if_neg (by omega)]
  · rw [hbooks.mem]
    exact Memory.writeN_wf pa _ hwf

section
variable {p : PubStore} (hp : p ∈ s.pubs) (hahead : s.aheadOf p = [])
include hp hahead

/-- A published store with nothing before it is performed. -/
theorem State.finish_pub : s.finish (.inl p) = ({ s with pubs := s.pubs.erase p } : State).perform p.loc.pa
    (laidOver (s.mem.readN p.loc.pa p.bytes.length) p.bytes) p.whole := by
  rw [State.finish, State.complete]
  simp only [hahead, List.foldl_nil, List.contains_iff_mem.2 hp, if_true]

omit hp in
/-- Nothing of its core, and nothing held at a port of its cluster, stands before it. -/
theorem State.ahead_of_aheadOf : s.ahead p.path p.loc.pa p.bytes.length = [] ∧
    (s.pubs.takeWhile (· != p)).filter (fun q => q.core == p.core && q.meets p.loc.pa p.bytes.length) = [] := by
  obtain ⟨hpath, hmine⟩ := List.append_eq_nil_iff.1 hahead
  refine ⟨hpath, List.filter_eq_nil_iff.2 fun q hq hmeets => ?_⟩
  have hnone := List.filter_eq_nil_iff.1 (List.map_eq_nil_iff.1 hmine) q hq
  simp only [Bool.and_eq_true, beq_iff_eq] at hmeets
  simp [hmeets] at hnone

variable (hpoint : p.atPoint = false) (hheld : s.held p.core p.seq = false)
include hpoint hheld

omit hahead in
/-- At device scope the point of coherence is the home slice. -/
theorem State.toPoint_device (hscope : 3 ≤ p.scope) : s.toPoint p = s.finish (.inl p) := by
  simp [State.toPoint, hpoint, hp, hheld, hscope]

/-- A store of narrower scope reaches its point of coherence. -/
theorem State.toPoint_narrow (hscope : p.scope ≤ 2) :
    s.toPoint p = { s with pubs := s.pubs.erase p ++ [{ p with atPoint := true }] } := by
  obtain ⟨hpath, hmine⟩ := State.ahead_of_aheadOf hahead
  have hcore : p.path = Path.ofCore p.core p.seq := by simp [PubStore.path, hpoint]
  rw [State.ahead, List.append_eq_nil_iff, hcore] at hpath
  obtain ⟨hown, hports⟩ := hpath
  have hown' : s.ahead { p.path with port := none, die := none } p.loc.pa p.bytes.length = [] := by
    rw [State.ahead, hcore, List.append_eq_nil_iff]
    refine ⟨hown, ?_⟩
    simp [PubStore.atPort, PubStore.atDie]
  have hport : s.pubs.filter (fun q => q.atPort p.path && q.meets p.loc.pa p.bytes.length) = [] := by
    refine List.filter_eq_nil_iff.2 fun q hq hmeets => ?_
    have hnone := List.filter_eq_nil_iff.1 (List.map_eq_nil_iff.1 hports) q hq
    simp only [Bool.and_eq_true, hcore] at hmeets
    simp [hmeets] at hnone
  simp [State.toPoint, hpoint, hp, hheld, show ¬ 3 ≤ p.scope by omega, hmine, hown', hport, State.finishPubs]

end

theorem State.toPoint_held {p : PubStore} (hheld : s.held p.core p.seq = true) : s.toPoint p = s := by
  simp [State.toPoint, hheld]

theorem exec_storePerform_atPoint {k : Nat} {p : PubStore} (hk : s.pubs[k]? = some p) (h : p.atPoint = true) :
    exec (.storePerform k) s = .next (s.finish (.inl p)) := by
  change execStorePerform k s = _
  simp only [execStorePerform, hk, h, if_true]

theorem exec_storePerform_before {k : Nat} {p : PubStore} (hk : s.pubs[k]? = some p) (h : p.atPoint = false) :
    exec (.storePerform k) s = .next (s.toPoint p) := by
  change execStorePerform k s = _
  simp only [execStorePerform, hk, h, Bool.false_eq_true, if_false]

/-- Settles O15: the phase start in closed form, and a published store by whether it has reached its point of coherence. -/
theorem storesArePublishedAndPerformed : Obligations.StoresArePublishedAndPerformed := by
  refine ⟨fun s hloads => ⟨_, congrArg Host.Outcome.next (State.phaseStart_of_noLoads hloads 0), ?_, rfl, rfl, rfl, rfl, .refl _, rfl⟩,
    fun s k p hk hquiet hwf => ⟨fun hahead hready => ?_, fun hahead hscope hpoint hheld => ?_, fun hpoint hheld => ?_⟩⟩
  · exact congrArg (fun f => s.pubs ++ (s.core.stores.filter _).map f) (Core.published_zero s.core)
  · have hp : p ∈ s.pubs := List.mem_of_getElem? hk
    refine ⟨_, ?_, State.perform_laidOver (s := { s with pubs := s.pubs.erase p }) hquiet hwf p.loc.pa p.bytes p.whole⟩
    rw [← State.finish_pub hp hahead]
    cases hpoint : p.atPoint with
    | true => exact exec_storePerform_atPoint hk hpoint
    | false =>
      obtain ⟨hscope, hheld⟩ := hready.resolve_left (by simp [hpoint])
      rw [exec_storePerform_before hk hpoint, State.toPoint_device hp hpoint hheld hscope]
  · rw [exec_storePerform_before hk hpoint, State.toPoint_narrow (List.mem_of_getElem? hk) hahead hpoint hheld hscope]
  · rw [exec_storePerform_before hk hpoint, State.toPoint_held hheld]

end Sys2Proof.Machine
end

section
/-! Integer atomics of a continuation at their home slice (Table 6-7, R127, R128). -/

namespace Sys2Proof.Machine

variable {s : State} {a : Atom}

/-- The new values of Table 6-7's integer operations on words of n bytes. -/
def integerResults (n old b c : Nat) : List (AtomOp × Nat) :=
  let m := 2 ^ (8 * n)
  let sg (x : Nat) : Int := (x : Int).bmod m
  [(.add, (old + b) % m), (.xchg, b), (.wake, b), (.cas, if old = c then b else old), (.and, old &&& b), (.or, old ||| b),
    (.xor, old ^^^ b), (.min, if sg b < sg old then b else old), (.max, if sg old < sg b then b else old),
    (.minu, min old b), (.maxu, max old b)]

theorem apply_eq_of_integerResults (sz mode old b c : Nat) :
    ∀ q ∈ integerResults (if sz = 0 then 4 else 8) old b c, q.1.apply sz mode old b c = (q.2, 0) := by
  have hbits : (if sz = 0 then 32 else 64) = 8 * (if sz = 0 then 4 else 8) := by split_ifs <;> rfl
  have hmin : (if b < old then b else old) = min old b := by split_ifs <;> omega
  have hmax : (if old < b then b else old) = max old b := by split_ifs <;> omega
  simp only [integerResults, List.forall_mem_cons, AtomOp.apply, hbits, toSigned_eq_bmod, hmin, hmax]
  simp

theorem integerResults_lt {n old b : Nat} (c : Nat) (hold : old < 2 ^ (8 * n)) (hb : b < 2 ^ (8 * n)) :
    ∀ q ∈ integerResults n old b c, q.2 < 2 ^ (8 * n) := by
  have either (p : Prop) [Decidable p] : (if p then b else old) < 2 ^ (8 * n) := by split_ifs <;> assumption
  simp only [integerResults, List.forall_mem_cons]
  exact ⟨Nat.mod_lt _ (Nat.two_pow_pos _), hb, hb, either _, Nat.and_lt_two_pow _ hb, Nat.or_lt_two_pow hold hb, Nat.xor_lt_two_pow hold hb,
    either _, either _, by omega, by omega, fun q hq => absurd hq List.not_mem_nil⟩

/-- A request of a core of this device carries itself only, so nothing but its own core's earlier operations holds it. -/
theorem State.mayGo_of_cont {p r : Nat} (hown : a.owner = .cont p r) (hheld : s.held a.core a.seq = false) : s.mayGo a = true := by
  simp only [State.mayGo, State.carries, hown, List.all_cons, hheld, List.all_nil, Bool.not_false, Bool.and_self]

/-- What becomes of a request whose old value is known: a returning one keeps it for its reply, another is done with. -/
def State.doneAtom (s : State) (a : Atom) (old : Nat) : State :=
  { s with atoms := if a.ret then s.atoms.map fun x => if x.id = a.id then { x with old := some (BitVec.ofNat 64 old, 0) } else x
      else s.atoms.filter (·.id != a.id) }

/-- A continuation's integer atomic at its home slice, where no block is poisoned: its word and its request. -/
theorem State.performAtom_cont {p r new : Nat} (hown : a.owner = .cont p r) (hpoison : s.poisoned = [])
    (hnew : let n := if a.sz = 0 then 4 else 8
      a.op.apply a.sz a.mode (leNat (s.mem.readN a.loc.pa n)) (a.b.toNat % 2 ^ (8 * n)) (a.c.toNat % 2 ^ (8 * n)) = (new, 0)) :
    let n := if a.sz = 0 then 4 else 8
    let old := leNat (s.mem.readN a.loc.pa n)
    s.performAtom a = (if a.op = .cas ∧ old ≠ a.c.toNat % 2 ^ (8 * n) then s else s.perform a.loc.pa (leBytes n new)).doneAtom a old := by
  intro n old
  have hflags (u : State) : u.flagsTo p r 0 = u := if_pos rfl
  simp only [State.performAtom, State.poisonRead_of_none hpoison, hnew, hown, hflags]
  rfl

/-- Settles O23: a request with nothing before it is performed in one step, and its word is Table 6-7's. -/
theorem homeSlicePerformsAtomically : Obligations.HomeSlicePerformsAtomically := by
  intro s k a hk hquiet hwf hold hrec hsent hbehind hheld hahead hloc howner n m old b sg new hnew
  obtain ⟨p, r, hown⟩ := howner
  have hexec := exec_homeSliceAtomic hk hold hrec hsent hloc hbehind (State.mayGo_of_cont hown hheld) hahead
  have happly := apply_eq_of_integerResults a.sz a.mode old b (a.c.toNat % m) _ hnew
  have hperform := State.performAtom_cont hown hquiet.2 happly
  have hwidth : 256 ^ n = m := by simp only [m, Nat.pow_mul]
  have holdLt : old < m := by
    have h := leNat_lt (s.mem.readN a.loc.pa n)
    rwa [Memory.readN_length, hwidth] at h
  have hnewLt : new < m := integerResults_lt (a.c.toNat % m) holdLt (Nat.mod_lt _ (Nat.two_pow_pos _)) _ hnew
  refine ⟨_, hexec, ?_⟩
  rw [hperform]
  by_cases hfail : a.op = .cas ∧ old ≠ a.c.toNat % m
  · have hkeep : new = old := by
      have h := happly
      simp only [hfail.1, AtomOp.apply, Prod.mk.injEq, if_neg hfail.2] at h
      exact h.1.symm
    rw [if_pos hfail]
    exact ⟨hkeep.symm, fun _ _ => rfl, hwf, fun _ _ => rfl, rfl, rfl⟩
  · have hbooks : onlyBooks { s with mem := s.mem.writeN a.loc.pa (leBytes n new) } (s.perform a.loc.pa (leBytes n new)) :=
      State.perform_onlyBooks hquiet ..
    have hmem : (s.perform a.loc.pa (leBytes n new)).mem = s.mem.writeN a.loc.pa (leBytes n new) := hbooks.mem
    have hatoms : (s.perform a.loc.pa (leBytes n new)).atoms = s.atoms := hbooks.atoms
    have hcore : (s.perform a.loc.pa (leBytes n new)).core = s.core := (congrArg State.core hbooks :)
    have hlen : (leBytes n new).length = n := leBytes_length ..
    have hread := Memory.readN_writeN_same a.loc.pa (leBytes n new) hwf
    rw [hlen] at hread
    rw [if_neg hfail]
    refine ⟨?_, fun x hx => ?_, ?_, fun hop hne => absurd ⟨hop, hne⟩ hfail, hcore, ?_⟩
    · change leNat ((s.perform a.loc.pa (leBytes n new)).mem.readN a.loc.pa n) = new
      rw [hmem, hread, leNat_leBytes, hwidth, Nat.mod_eq_of_lt hnewLt]
    · change (s.perform a.loc.pa (leBytes n new)).mem.read x = _
      rw [hmem, Memory.read_writeN _ _ _ hwf, hlen, if_neg (by omega)]
    · change (s.perform a.loc.pa (leBytes n new)).mem.wf = true
      rw [hmem]
      exact Memory.writeN_wf _ _ hwf
    · change (if a.ret then (s.perform a.loc.pa (leBytes n new)).atoms.map _ else (s.perform a.loc.pa (leBytes n new)).atoms.filter _) = _
      rw [hatoms]

end Sys2Proof.Machine
end

section
/-! Waits on a word (R130, R132). -/

namespace Sys2Proof.Machine

variable {s : State}

/-- The word at a place as the acting core's path shows it (R238). -/
def State.seenWord (s : State) (pa n : Nat) : Word := BitVec.ofNat 64 (leNat (s.seenN (Path.ofCore s.core.phys s.core.issued) pa n))

/-- The wait of the acting op word on a word, as its issue registers it. -/
def State.waitaMonitor (s : State) (va pa n : Nat) (cmp : Word) : Monitor :=
  ⟨.core s.core.phys s.core.ctx.slot, va, pa, n, cmp, false, false, false⟩

theorem State.watchedFrom_waitaMonitor (s : State) (va pa n : Nat) (cmp : Word) :
    s.watchedFrom (s.waitaMonitor va pa n cmp) = s.seenWord pa n := by
  simp [State.watchedFrom, State.waitaMonitor, State.seenWord, State.coreOf_acting]

theorem State.waitaMonitor_met_iff (s : State) (va pa n : Nat) (cmp w : Word) : (s.waitaMonitor va pa n cmp).met w = true ↔ w ≠ cmp := by
  simp [Monitor.met, State.waitaMonitor]

/-- Where no store is published, the core's path shows the word that memory holds. -/
theorem State.seenWord_of_memory {pa n : Nat} (hpubs : s.pubs = []) (hwf : s.mem.wf = true) (hplace : pa + n ≤ 2 ^ 47) :
    s.seenWord pa n = BitVec.ofNat 64 (leNat (s.mem.readN pa n)) := by
  rw [State.seenWord, State.seenN_of_pubs_nil hpubs]
  refine congrArg (fun bs => BitVec.ofNat 64 (leNat bs)) (List.ext_getElem (by simp) fun k hk hk' => ?_)
  rw [Memory.readN_length] at hk'
  rw [List.getElem_map, List.getElem_range, State.deviceByte_of_memory s (by omega), List.getElem_eq_getD Memory.blank, Memory.readN_getD hwf hk']

/-- What WAITA does of the place of an admitted word: it takes a value that differs, and otherwise registers its wait. -/
def State.waitOnWord (s : State) (d va pa n : Nat) (cmp : Word) : State :=
  let m := s.waitaMonitor va pa n cmp
  if m.met (s.watchedFrom m) then s.atRetire [.s d (s.watchedFrom m)] else (s.register s.core.part m).wait

theorem State.waitOnWord_eq (s : State) (d va pa n : Nat) (cmp : Word) : s.waitOnWord d va pa n cmp =
    if s.seenWord pa n ≠ cmp then s.atRetire [.s d (s.seenWord pa n)] else (s.register s.core.part (s.waitaMonitor va pa n cmp)).wait := by
  simp only [State.waitOnWord, State.watchedFrom_waitaMonitor, State.waitaMonitor_met_iff]

theorem State.waitOnWord_unequal {d va pa n : Nat} {cmp : Word} (h : s.seenWord pa n ≠ cmp) :
    s.waitOnWord d va pa n cmp = { s with core := { s.core with late := s.core.late ++ [.s d (s.seenWord pa n)] } } :=
  (s.waitOnWord_eq ..).trans (if_pos h)

theorem State.waitOnWord_equal (d va : Nat) {pa n : Nat} {cmp : Word} (h : s.seenWord pa n = cmp) :
    ∃ fallen, (s.waitOnWord d va pa n cmp).core = { s.core with waiting := true } ∧ (s.waitOnWord d va pa n cmp).mem = s.mem ∧
      (s.waitOnWord d va pa n cmp).monitors = s.monitors ++ [{ s.waitaMonitor va pa n cmp with fallen := fallen }] := by
  obtain ⟨fallen, hcore, hmem, hmon⟩ := State.register_frame s s.core.part (s.waitaMonitor va pa n cmp)
  rw [State.waitOnWord_eq, if_neg (not_not.2 h)]
  exact ⟨fallen, by rw [State.wait, State.onCore, hcore], hmem, hmon⟩

section
variable {sz a d b : Nat} {off : Int}

/-- WAITA at its first issue, where the core owes nothing. -/
theorem exec_waita_first (hbegun : s.begun = false) (hunsettled : s.core.unsettled = false) (hloads : s.core.loads = [])
    (hatoms : s.atoms = []) (hpoison : s.poisoned = []) (hwait : s.mustWait = false) :
    let n := if sz = 0 then 4 else 8
    exec (.waita sz a d b off) s = .next (s.checked (s.check .watched s.scope (s.eaM a off) n n) fun ps =>
      s.waitOnWord d (((ps.head?).map (·.va)).getD 0) (((ps.head?).map (·.loc.pa)).getD 0) n
        (BitVec.ofNat 64 ((s.rs b).toNat % 2 ^ (8 * n)))) := by
  intro n
  change execWaita sz a d b off s = _
  simp only [execWaita, hbegun, Bool.false_eq_true, if_false, State.inOrder_of_settled hunsettled hloads hatoms hwait,
    State.poisonRead_of_none hpoison]
  rfl

theorem exec_waita_released {v : Word} (hbegun : s.begun = true) (h : s.release? = some (v, s.releaseTaken)) :
    exec (.waita sz a d b off) s = .next (s.releaseTaken.atRetire [.s d v]) := by
  change execWaita sz a d b off s = _
  simp only [execWaita, hbegun, if_true, h]

theorem exec_waita_unreleased (hbegun : s.begun = true) (h : s.release? = none) : exec (.waita sz a d b off) s = .next s.wait := by
  change execWaita sz a d b off s = _
  simp only [execWaita, hbegun, if_true, h]

end

/-- A waiter that had fallen back and whose word has come is released. -/
theorem exec_monitorReread_met {k : Nat} {m : Monitor} (hk : s.monitors[k]? = some m) (hpoison : s.poisoned = []) (hfallen : m.fallen = true)
    (hmet : m.met (s.watchedFrom m) = true) :
    exec (.monitorReread k) s = .next (({ s with monitors := s.monitors.erase m } : State).releaseWaiter m (s.watchedFrom m)) := by
  change execMonitorReread k s = _
  simp only [execMonitorReread, hk, hfallen, Bool.not_true, Bool.false_eq_true, if_false, State.poisonRead_of_none hpoison, hmet, if_true]

/-- Settles O24: by the state of the wait (its first issue, released, not yet released) and by the word found. -/
theorem waitsOnAWord : Obligations.WaitsOnAWord := by
  intro s sz a d b off n cmp
  refine ⟨fun hbegun hunsettled hloads hatoms hpoison hwait => ?_, fun hbegun v hv => ?_, fun hbegun hv => ?_,
    fun k m slot hk hpoison hfallen hbitmap hwho hne => ?_⟩
  · refine accesses_of_checked (exec_waita_first hbegun hunsettled hloads hatoms hpoison hwait) fun ps hps => ?_
    have hn : n ≠ 0 := by simp only [n]; split <;> decide
    obtain ⟨p, qs, rfl⟩ := List.exists_cons_of_ne_nil (State.check_ok_ne_nil hn hps)
    refine ⟨p, rfl, State.seenWord_of_memory, State.waitOnWord_unequal, fun heq => ?_⟩
    obtain ⟨fallen, hcore, hmem, hmon⟩ := State.waitOnWord_equal d p.va (n := n) heq
    refine ⟨(congrArg Core.waiting hcore :), hmem, ?_, fallen, hmon⟩
    change sameRegisters s.core (s.waitOnWord d p.va p.loc.pa n cmp).core
    rw [hcore]
    exact ⟨rfl, rfl, rfl, rfl, rfl, rfl, rfl, rfl, rfl, rfl, rfl, rfl, rfl, rfl, rfl, rfl, rfl⟩
  · exact ⟨_, exec_waita_released hbegun (State.release?_of_some hv), rfl, rfl, rfl⟩
  · exact exec_waita_unreleased hbegun (State.release?_of_none hv)
  · have hmet : m.met (s.watchedFrom m) = true := by simpa [Monitor.met, hbitmap] using hne
    rw [exec_monitorReread_met hk hpoison hfallen hmet, State.releaseWaiter, hwho]
    exact congrArg Host.Outcome.next (State.onCoreN_acting { s with monitors := s.monitors.erase m } _)

end Sys2Proof.Machine
end

section
/-! Stores that join the phase (R111, R117, R119, R123): the checks of their items, and their writes by 64-byte units. -/

namespace Sys2Proof.Machine

variable {s : State}

/-! ### The items of a store -/

/-- The checks of one item of a store, after those of the items before it. -/
def State.storeItem (s : State) (align : Nat) (acc : Checked × List (Piece × List Byte)) (it : Nat × List Byte) :
    Checked × List (Piece × List Byte) :=
  match acc.1 with
  | .trap t => (.trap t, [])
  | _ => match s.check .write s.scope it.1 it.2.length align with
    | .trap t => (.trap t, [])
    | .freeze f => (match acc.1 with
      | .ok _ => .freeze f
      | other => other, acc.2)
    | .ok ps => (acc.1, acc.2 ++ ps.map fun p => (p, (it.2.drop p.off).take p.size))

/-- The bytes of items on their pieces. -/
def onPieces (items : List (Nat × List Byte)) (pss : List (List Piece)) : List (Piece × List Byte) :=
  (items.zip pss).flatMap fun x => x.2.map fun p => (p, (x.1.2.drop p.off).take p.size)

theorem State.storeItem_of_trap {align : Nat} {acc : Checked × List (Piece × List Byte)} {t : Trap} (h : acc.1 = .trap t)
    (it : Nat × List Byte) : s.storeItem align acc it = (.trap t, []) := by
  simp only [State.storeItem, h]

theorem State.foldl_storeItem_of_trap (align : Nat) (t : Trap) (items : List (Nat × List Byte)) :
    items.foldl (s.storeItem align) (.trap t, []) = (.trap t, []) := by
  induction items with
  | nil => rfl
  | cons it r ih => rw [List.foldl_cons, State.storeItem_of_trap rfl, ih]

theorem State.foldl_storeItem_misaligned {align : Nat} {it : Nat × List Byte} (r : List (Nat × List Byte)) (h : it.1 % align ≠ 0) :
    (it :: r).foldl (s.storeItem align) (.ok [], []) = (.trap { no := .align, addr := it.1 }, []) := by
  have hfirst : s.storeItem align (.ok [], []) it = (.trap { no := .align, addr := it.1 }, []) := by
    simp only [State.storeItem, State.check_of_misaligned h]
  rw [List.foldl_cons, hfirst, State.foldl_storeItem_of_trap]

theorem State.foldl_storeItem_ok {align : Nat} {items : List (Nat × List Byte)} : ∀ {pss : List (List Piece)} {put : List (Piece × List Byte)},
    items.map (fun it => s.check .write s.core.ctx.scope it.1 it.2.length align) = pss.map .ok →
    items.foldl (s.storeItem align) (.ok [], put) = (.ok [], put ++ onPieces items pss) := by
  induction items with
  | nil => intro pss put _; simp [onPieces]
  | cons it r ih =>
    intro pss put h
    cases pss with
    | nil => simp at h
    | cons ps pss =>
      simp only [List.map_cons, List.cons.injEq] at h
      have hstep : s.storeItem align (.ok [], put) it = (.ok [], put ++ ps.map fun p => (p, (it.2.drop p.off).take p.size)) := by
        simp only [State.storeItem, State.scope, h.1]
      rw [List.foldl_cons, hstep, ih h.2]
      simp [onPieces]

/-! ### The writes of a store -/

/-- A write of local memory outside the scratch segment. -/
def Stored.plain (x : Stored) : Prop := x.loc.peer = none ∧ x.scratch = false

theorem Stored.join_plain {x y z : Stored} (hx : x.plain) (hy : y.plain) (h : x.join y = some z) : z.plain := by
  rw [Stored.join, Option.ite_none_left_eq_some] at h
  obtain ⟨-, h⟩ := h
  rw [← Option.some.inj h]
  refine ⟨?_, hx.2⟩
  change (if x.loc.pa ≤ y.loc.pa then x else y).loc.peer = none
  split
  · exact hx.1
  · exact hy.1

theorem addStored_plain {x : Stored} (hx : x.plain) : ∀ {ws : List Stored}, (∀ w ∈ ws, w.plain) → ∀ w ∈ addStored x ws, w.plain
  | [], _ => by simpa [addStored] using hx
  | y :: r, h => by
    have hy : y.plain := h y (List.mem_cons_self ..)
    have hr : ∀ w ∈ r, w.plain := fun w hw => h w (List.mem_cons_of_mem _ hw)
    rw [addStored]
    cases hj : y.join x with
    | none => exact List.forall_mem_cons.2 ⟨hy, addStored_plain hx hr⟩
    | some z => exact List.forall_mem_cons.2 ⟨Stored.join_plain hy hx hj, hr⟩

theorem unitsStored_plain {items : List (Nat × List Byte)} {pss : List (List Piece)}
    (h : ∀ ps ∈ pss, ∀ p ∈ ps, p.loc.peer = none ∧ p.scratch = false) : ∀ w ∈ unitsStored items pss, w.plain := by
  refine List.foldlRecOn _ _ (motive := fun ws : List Stored => ∀ w ∈ ws, w.plain) (by simp) fun ws hws x hx => addStored_plain ?_ hws
  obtain ⟨⟨it, ps⟩, hps, hx⟩ := List.mem_flatMap.1 hx
  obtain ⟨p, hp, rfl⟩ := List.mem_map.1 hx
  exact h ps (List.of_mem_zip hps).2 p hp

theorem flatMap_messages_of_plain : ∀ {ws : List Stored}, (∀ w ∈ ws, w.plain) → ws.flatMap (·.messages) = ws
  | [], _ => rfl
  | w :: r, h => by
    have hw : w.messages = [w] := if_pos (by simp [(h w (List.mem_cons_self ..)).1])
    rw [List.flatMap_cons, hw, flatMap_messages_of_plain fun x hx => h x (List.mem_cons_of_mem _ hx), List.singleton_append]

/-- Writes of local memory ask no log for room. -/
theorem State.roomFor_of_plain {ws : List Stored} (h : ∀ w ∈ ws, w.plain) (chn : Nat) : s.roomFor chn ws = .room := by
  have hpeers : ws.filterMap (fun p => p.loc.peer) = [] := List.filterMap_eq_nil_iff.2 fun w hw => (h w hw).1
  simp only [State.roomFor, hpeers, List.eraseDups_nil, List.foldl_nil]

/-- A state whose acting core has stored a list of writes of one instruction. -/
def State.storing (s : State) (chn : Nat) (all ws : List Stored) : State :=
  { s with core := { s.core with
      stores := s.core.stores ++ ws.map fun w => ⟨w.va, w.loc, w.bytes, s.core.ctx.scope, chn, wholeBlock all w⟩ } }

theorem State.foldl_putPiece_of_plain (chn : Nat) (all : List Stored) : ∀ {ws : List Stored} {s : State}, (∀ w ∈ ws, w.plain) →
    ws.foldl (fun s p => s.putPiece chn (wholeBlock all p) p) s = s.storing chn all ws
  | [], s, _ => by simp [State.storing]
  | w :: r, s, h => by
    have hw : s.putPiece chn (wholeBlock all w) w = s.storing chn all [w] := by
      simp only [State.putPiece, (h w (List.mem_cons_self ..)).2, Bool.false_eq_true, if_false]
      rfl
    rw [List.foldl_cons, hw, State.foldl_putPiece_of_plain chn all fun x hx => h x (List.mem_cons_of_mem _ hx)]
    simp [State.storing]

/-- What a store does by the answer of its checks. -/
theorem State.putItems_eq (s : State) (chn : Nat) (items : List (Nat × List Byte)) (align : Nat) :
    let r := items.foldl (s.storeItem align) (.ok [], [])
    s.putItems chn items align = s.checked r.1 fun _ =>
      let ws := (r.2.foldl (fun ws p => addStored ⟨p.1.va, p.1.loc, p.1.scratch, p.2.map some⟩ ws) []).flatMap (·.messages)
      match s.roomFor chn ws with
      | .trap t => s.takeTrap t
      | .wait => s.freeze .log
      | .room => ws.foldl (fun s p => s.putPiece chn (wholeBlock ws p) p) s.settle := rfl

theorem State.putItems_of_misaligned {chn align : Nat} {it : Nat × List Byte} (r : List (Nat × List Byte)) (h : it.1 % align ≠ 0) :
    s.putItems chn (it :: r) align = s.takeTrap { no := .align, addr := it.1 } := by
  simp only [State.putItems_eq, State.foldl_storeItem_misaligned r h, State.checked]

/-- A store whose every item is admitted to local memory outside the scratch segment. -/
theorem State.putItems_of_admitted {chn align : Nat} {items : List (Nat × List Byte)} {pss : List (List Piece)}
    (hok : items.map (fun it => s.check .write s.core.ctx.scope it.1 it.2.length align) = pss.map .ok)
    (hplain : ∀ ps ∈ pss, ∀ p ∈ ps, p.loc.peer = none ∧ p.scratch = false) :
    s.putItems chn items align = s.settle.storing chn (unitsStored items pss) (unitsStored items pss) := by
  have hunits := unitsStored_plain (items := items) hplain
  have hws : ((onPieces items pss).foldl (fun ws p => addStored ⟨p.1.va, p.1.loc, p.1.scratch, p.2.map some⟩ ws) []).flatMap (·.messages)
      = unitsStored items pss := flatMap_messages_of_plain hunits
  simp only [State.putItems_eq, State.foldl_storeItem_ok hok, State.checked, List.nil_append, hws, State.roomFor_of_plain hunits,
    State.foldl_putPiece_of_plain _ _ hunits]

/-! ### The store instructions -/

/-- An instruction that stores items. -/
theorem storesItems_of_exec {i : Instr} {chn align : Nat} {items : List (Nat × List Byte)}
    (hexec : exec i s = .next (s.storeItems chn items align)) : storesItems i s chn items align := by
  refine ⟨fun hg => hexec.trans (congrArg Host.Outcome.next (if_pos hg)), fun hg => ?_⟩
  have hput : exec i s = .next (s.putItems chn items align) :=
    hexec.trans (congrArg Host.Outcome.next (if_neg (Bool.eq_false_iff.1 hg)))
  refine ⟨fun it r hitems hmis => ?_, fun pss hok hplain => ?_⟩
  · subst hitems
    rw [hput, State.putItems_of_misaligned r hmis]
  · exact hput.trans (congrArg Host.Outcome.next (State.putItems_of_admitted hok hplain))

/-- The active elements of a gather or scatter with their addresses. -/
theorem State.indexed_eq (s : State) (esz ix a px : Nat) : s.indexed esz ix a px =
    ((List.range (if esz = 3 then 64 else 128)).filter fun i => s.core.act px i).map fun i =>
      (s.eaM a ((s.core.lane 32 ix i * 2 ^ esz : Nat) : Int), i) := by
  simp only [State.indexed, hasBit_toNat_eq]
  rfl

section
variable {bo t f a chn : Nat}

/-- TST of a format with its BO. -/
theorem exec_tst_ok (hbo : boOk (s.core.rfmt f) bo = true) : exec (.tst bo t f a chn) s =
    .next (s.storeItems chn [(s.eaM a 0, ((s.core.tileAt (s.core.rfmt f) t bo).summed (s.core.rfmt f)).bytes (s.core.rfmt f))] 64) := by
  change execTst bo t f a chn s = _
  rw [execTst]
  by_cases hg : s.inGroup = true
  · simp only [hg, if_true, State.storeItems]
  · simp only [hg, hbo, Bool.not_true, Bool.false_eq_true, if_false]

/-- TST with a BO that its format does not allow. -/
theorem exec_tst_illegal (hbo : boOk (s.core.rfmt f) bo = false) (hg : s.inGroup = false) : raises (.tst bo t f a chn) s .illegal := by
  change execTst bo t f a chn s = _
  simp only [execTst, hg, hbo, Bool.not_false, Bool.false_eq_true, if_false, if_true]
  rfl

end

/-- Settles O21: each instruction stores its items, and what a store does of them is said once. -/
theorem storesJoinThePhase : Obligations.StoresJoinThePhase := by
  intro s d a chn esz ix px pt t bo f off ea fm act
  have hvsct : exec (.vsct esz ix a d px chn) s = .next (s.storeItems chn
      (act.map fun i => (s.eaM a ((s.core.lane 32 ix i * 2 ^ esz : Nat) : Int), leBytes (2 ^ esz) (s.core.lane (8 * 2 ^ esz) d i))) (2 ^ esz)) := by
    change execVsct esz ix a d px chn s = _
    simp only [execVsct, State.indexed_eq, List.map_map]
    rfl
  exact ⟨storesItems_of_exec rfl, storesItems_of_exec rfl, storesItems_of_exec rfl, storesItems_of_exec rfl, storesItems_of_exec rfl,
    storesItems_of_exec rfl, storesItems_of_exec hvsct, fun hbo => storesItems_of_exec (exec_tst_ok hbo), exec_tst_illegal⟩

end Sys2Proof.Machine
end

section
/-! Pattern accesses and gathers (R117, R118, R119): what they load and store, and the advance of POS. -/

namespace Sys2Proof.Machine

variable {s : State}

/-- A load of checked pieces, each with its place in the destination. -/
theorem State.load_loadOut_placed (s : State) (dest : LoadDest) (land : Nat) (ps : List (Piece × Nat)) :
    loadOut s.settle (s.load dest land ps) dest land (s.settle.loadParts s.settle.scope ps).1 :=
  have ⟨htags, hstop⟩ := State.loadParts_untagged s.settle s.settle.scope ps
  State.takeLoad_loadOut hstop dest land htags

section
variable {land pt d : Nat}

/-- VLDP by the answer of its resolution. -/
theorem exec_vldp (s : State) (land pt d : Nat) :
    let p := Pattern.of (s.core.rpat pt)
    exec (.vldp land pt d) s = .next (match s.resolve p (512 / p.esz) with
      | .trap t => s.takeTrap t
      | .freeze f => s.freeze f
      | .ok as u =>
        let r := u.checkList .read (as.zipIdx.map fun x => (x.1, p.esz * x.2)) p.esz
        u.checked r.1 fun _ => (u.load (.v d) land r.2).advancePat pt p) := rfl

theorem exec_vldp_trap {t : Trap} (h : let p := Pattern.of (s.core.rpat pt); s.resolve p (512 / p.esz) = .trap t) :
    exec (.vldp land pt d) s = .next (s.takeTrap t) := by
  rw [exec_vldp, h]

theorem exec_vldp_freeze {f : Freeze} (h : let p := Pattern.of (s.core.rpat pt); s.resolve p (512 / p.esz) = .freeze f) :
    exec (.vldp land pt d) s = .next (s.freeze f) := by
  rw [exec_vldp, h]

theorem exec_vldp_ok {as : List Nat} {u : State} (h : let p := Pattern.of (s.core.rpat pt); s.resolve p (512 / p.esz) = .ok as u) :
    let p := Pattern.of (s.core.rpat pt)
    let r := u.checkList .read (as.zipIdx.map fun x => (x.1, p.esz * x.2)) p.esz
    exec (.vldp land pt d) s = .next (u.checked r.1 fun _ => (u.load (.v d) land r.2).advancePat pt p) := by
  rw [exec_vldp, h]

end

section
variable {chn pt d : Nat}

theorem exec_vstp_inGroup (hg : s.inGroup = true) : raises (.vstp chn pt d) s .groupViolation := by
  change execVstp chn pt d s = _
  simp only [execVstp, hg, if_true]
  rfl

/-- VSTP whose addresses are resolved and whose stores neither trap nor wait. -/
theorem exec_vstp_stored {as : List Nat} {u v : State} (hg : s.inGroup = false)
    (hresolve : let p := Pattern.of (s.core.rpat pt); s.resolve p (512 / p.esz) = .ok as u)
    (hstore : let p := Pattern.of (s.core.rpat pt)
      u.storeItems chn (as.zipIdx.map fun x => (x.1, leBytes p.esz (s.core.lane (8 * p.esz) d x.2))) p.esz = v)
    (htrap : v.trapTaken = none) (hfrozen : v.core.frozen = none) :
    exec (.vstp chn pt d) s = .next (v.advancePat pt (Pattern.of (s.core.rpat pt))) := by
  dsimp only at hresolve hstore
  change execVstp chn pt d s = _
  simp only [execVstp, hg, Bool.false_eq_true, if_false, hresolve]
  simp only [Core.lane] at hstore
  simp only [hstore, htrap, hfrozen, Option.isSome_none, Bool.or_self, Bool.false_eq_true, if_false]

end

/-- Settles O18: by the answers of the resolution and of the checks; the lanes of VSTP are stored as the items of a store. -/
theorem patternAndGatherAccesses : Obligations.PatternAndGatherAccesses := by
  refine ⟨fun s land pt d esz ix a px => ⟨fun t => exec_vldp_trap, fun f => exec_vldp_freeze, fun as u hu => ?_, ?_⟩, fun s chn pt d =>
    ⟨exec_vstp_inGroup, fun as u pss hg hu hgu hsettled htrap hfrozen hok hplain => ?_⟩⟩
  · have hexec := exec_vldp_ok (land := land) (d := d) hu
    dsimp only at hexec ⊢
    refine ⟨fun ps hps => ⟨_, by rw [hexec, hps]; rfl, _, State.load_loadOut_placed u .., rfl⟩, fun t ht => ?_, fun f hf => ?_⟩
    · rw [hexec, ht]; rfl
    · rw [hexec, hf]; rfl
  · have hexec : exec (.vgth esz ix a d land px) s = .next (s.checked
        (s.checkList .read ((s.indexed esz ix a px).map fun x => (x.1, 2 ^ esz * x.2)) (2 ^ esz)).1
        fun _ => s.load (.v d) land (s.checkList .read ((s.indexed esz ix a px).map fun x => (x.1, 2 ^ esz * x.2)) (2 ^ esz)).2) := rfl
    rw [State.indexed_eq, List.map_map] at hexec
    exact accesses_of_checked hexec fun ps _ => State.load_loadOut_placed s ..
  · intro ws stored
    have hsettle : u.settle = u := if_neg (by simp [hsettled])
    have hstore : u.storeItems chn (as.zipIdx.map fun x => (x.1, leBytes (Pattern.of (s.core.rpat pt)).esz
        (s.core.lane (8 * (Pattern.of (s.core.rpat pt)).esz) d x.2))) (Pattern.of (s.core.rpat pt)).esz = u.storing chn ws ws := by
      rw [State.storeItems, hgu, if_neg Bool.false_ne_true, State.putItems_of_admitted (pss := pss) ?_ hplain, hsettle]
      rw [← hok, List.map_map]
      conv_rhs => rw [← List.zipIdx_map_fst 0 as, List.map_map]
      exact List.map_congr_left fun x _ => by simp [leBytes_length]
    exact exec_vstp_stored hg hu hstore htrap hfrozen

end Sys2Proof.Machine
end

section
/-! The weight decoder's instructions (R202–R204, R284): streams, pops and waits. -/

namespace Sys2Proof.Machine

variable {s : State} {a land d : Nat}

/-! ### DCFG -/

/-- DCFG on an admitted record, outside a group. -/
theorem exec_dcfg_record {p : Piece} {ps : List Piece} (hg : s.inGroup = false) (hcheck : s.check .read 3 (s.rs a).toNat 64 64 = .ok (p :: ps)) :
    exec (.dcfg a) s = .next (s.inFull fun u => match u.readNow 0 p with
      | (.inr w, _) => u.freeze w
      | (.inl bs, u) => match u.core.cfgTrap bs with
        | some t => u.refuse t
        | none =>
          let d := DecCfg.of bs (u.core.rfmt (field (leNat bs) 208 4)).lane
          (u.enginePost).onCore fun c => { c with stream := some (.start d (rebasePops c.loads).2), loads := (rebasePops c.loads).1 }) := by
  change execDcfg a s = _
  rw [execDcfg, hg, if_neg Bool.false_ne_true, hcheck]
  rfl

section
variable {p : Piece} {ps : List Piece} {v : State} (hg : s.inGroup = false)
  (hcheck : s.check .read 3 (s.rs a).toNat 64 64 = .ok (p :: ps)) (hv : s.finishOwn = v)
include hg hcheck hv

theorem exec_dcfg_owing (howing : v.owing = true) : exec (.dcfg a) s = .next (v.freeze .publish) := by
  rw [exec_dcfg_record hg hcheck, State.inFull_owing hv howing]

theorem exec_dcfg_unread {w : Freeze} {u : State} (howing : v.owing = false) (hread : v.readNow 0 p = (.inr w, u)) :
    exec (.dcfg a) s = .next (v.freeze w) := by
  rw [exec_dcfg_record hg hcheck, State.inFull_ready hv howing, hread]

theorem exec_dcfg_trap {bs : List Byte} {u : State} {t : TrapNo} (howing : v.owing = false) (hread : v.readNow 0 p = (.inl bs, u))
    (htrap : u.core.cfgTrap bs = some t) : exec (.dcfg a) s = .next (u.refuse t) := by
  rw [exec_dcfg_record hg hcheck, State.inFull_ready hv howing, hread]
  simp only [htrap]

theorem exec_dcfg_starts {bs : List Byte} {u : State} (howing : v.owing = false) (hread : v.readNow 0 p = (.inl bs, u))
    (htrap : u.core.cfgTrap bs = none) : exec (.dcfg a) s = .next ((u.enginePost).onCore fun c =>
      { c with stream := some (.start (.of bs (u.core.rfmt (field (leNat bs) 208 4)).lane) (rebasePops c.loads).2), loads := (rebasePops c.loads).1 }) := by
  rw [exec_dcfg_record hg hcheck, State.inFull_ready hv howing, hread]
  simp only [htrap]

end

/-! ### VLDX and VLDX_WAIT -/

/-- A group refuses the decoder's instructions (R113). -/
theorem decoder_raises_inGroup (hg : s.inGroup = true) :
    raises (.dcfg a) s .groupViolation ∧ raises (.vldx land d) s .groupViolation ∧ raises (.vldxWait d) s .groupViolation := by
  refine ⟨?_, ?_, ?_⟩
  · change execDcfg a s = _; rw [execDcfg, if_pos hg]; rfl
  · change execVldx land d s = _; rw [execVldx, if_pos hg]; rfl
  · change execVldxWait d s = _; rw [execVldxWait, if_pos hg]; rfl

theorem vldx_raises_without_stream (hg : s.inGroup = false) (hst : s.core.stream = none) :
    raises (.vldx land d) s .illegal ∧ raises (.vldxWait d) s .illegal := by
  constructor
  · change execVldx land d s = _; rw [execVldx, hg, if_neg Bool.false_ne_true, hst]; rfl
  · change execVldxWait d s = _; rw [execVldxWait, hg, if_neg Bool.false_ne_true, hst]; rfl

section
variable {st : Stream} (hg : s.inGroup = false) (hst : s.core.stream = some st)
include hg hst

theorem exec_vldx (land d : Nat) : exec (.vldx land d) s = .next (if st.cfg.dest ≠ 0 then s.refuse .illegal
    else s.onCore fun c => { c with
      loads := c.loads ++ [⟨[], .pop d st.popNext, land, c.ctx.scope, c.pc, c.issued, c.phase, none⟩]
      issued := c.issued + 1
      stream := some { st with popNext := st.popNext + 512 } }) := by
  change execVldx land d s = _
  simp only [execVldx, hg, Bool.false_eq_true, if_false, hst]

theorem exec_vldxWait (d : Nat) : exec (.vldxWait d) s = .next (if st.cfg.dest = 0 then s.refuse .illegal
    else if !st.drained then s.wait
    else match st.fail with
      | some f => s.takeTrap (failTrap f)
      | none => s.atRetire [.s d (BitVec.ofNat 64 st.completed)]) := by
  change execVldxWait d s = _
  simp only [execVldxWait, hg, Bool.false_eq_true, if_false, hst] <;> rfl

end

theorem Stream.drained_iff (st : Stream) : st.drained = true ↔ st.written = st.avail ∧ (st.phase = .done ∨ st.fail.isSome = true) := by
  simp only [Stream.drained, Bool.and_eq_true, Bool.or_eq_true, beq_iff_eq]

/-- The trap of a failed stream by the row of Table 9-6. -/
theorem failTrap_eq (b row stat : Nat) : failTrap (b, row, stat) =
    { no := if row = 2 then .decRatio else if row = 3 ∨ row = 4 then .decLength else .decCheck, arg := b, stat := stat } := by
  unfold failTrap
  dsimp only
  split
  · rfl
  · rfl
  · rfl
  · next h2 h3 h4 => rw [if_neg h2, if_neg (not_or.2 ⟨h3, h4⟩)]

/-- Settles O34: by the group, the stream's destination, and what it has written. -/
theorem decoderStreamsAndPops : Obligations.DecoderStreamsAndPops := by
  intro s a land d c m
  refine ⟨decoder_raises_inGroup, vldx_raises_without_stream, fun hg hmis => ?_, fun p ps hg hcheck =>
    ⟨exec_dcfg_owing hg hcheck rfl, fun howing w u => exec_dcfg_unread hg hcheck rfl howing⟩, fun p ps bs r hg hcheck howing hread =>
    ⟨fun t => exec_dcfg_trap hg hcheck rfl howing hread, fun htrap => ?_⟩, fun st hg hst => ?_⟩
  · change execDcfg a s = _
    rw [execDcfg, hg, if_neg Bool.false_ne_true, State.check_of_misaligned hmis]
    rfl
  · refine ⟨_, _, exec_dcfg_starts hg hcheck rfl howing hread htrap, rfl, ?_⟩
    generalize r.enginePost = u
    exact ⟨rfl, rfl, rfl, rfl, rfl, rfl, rfl, rfl, rfl, rfl, rfl, rfl,
      rfl, rfl, rfl, rfl, rfl, rfl, rfl, rfl, rfl, rfl, rfl, rfl, rfl, rfl, rfl, rfl, rfl⟩
  · have hvldx := exec_vldx hg hst land d
    have hwait := exec_vldxWait hg hst d
    refine ⟨fun hdest => ?_, fun hdest => ⟨?_, ?_⟩, fun hdest hnot => ?_, fun hdest hwritten => ⟨fun hfail hdone => ?_, fun b row stat hfail => ?_⟩⟩
    · rw [if_pos hdest] at hvldx; exact hvldx
    · rw [if_pos hdest] at hwait; exact hwait
    · rw [if_neg (not_not.2 hdest)] at hvldx; exact hvldx
    · rw [if_neg hdest, if_pos (by simpa using mt st.drained_iff.1 hnot)] at hwait; exact hwait
    · have hdrained := st.drained_iff.2 ⟨hwritten, .inl hdone⟩
      simp only [hdest, hdrained, hfail, Bool.not_true, Bool.false_eq_true, if_false] at hwait
      exact hwait
    · have hdrained := st.drained_iff.2 ⟨hwritten, .inr (by rw [hfail]; rfl)⟩
      simp only [hdest, hdrained, hfail, Bool.not_true, Bool.false_eq_true, if_false, failTrap_eq] at hwait
      exact hwait

end Sys2Proof.Machine
end

section
/-! What the performing of published stores, atomics and posted writes leaves (R132, R233, R237, R295, R392): the stores and the
snapshot of the acting core, which it only loses from, and the tasks and the queues' entries of every partition. -/

namespace Sys2Proof.Machine

variable {s t u : State}

/-! ### The relation -/

/-- A core whose place, op word, copy in progress and done mask stay, and whose stores and snapshot gain nothing. -/
structure Core.steady (c d : Core) : Prop where
  phys : d.phys = c.phys
  part : d.part = c.part
  ctx : d.ctx = c.ctx
  posting : d.posting = c.posting
  done : d.done = c.done
  filled : d.filled = c.filled
  stores : ∀ x ∈ d.stores, x ∈ c.stores
  snap : ∀ x ∈ d.snap, x ∈ c.snap

theorem Core.steady.refl (c : Core) : c.steady c := ⟨rfl, rfl, rfl, rfl, rfl, rfl, fun _ h => h, fun _ h => h⟩

theorem Core.steady.trans {a b c : Core} (h : a.steady b) (k : b.steady c) : a.steady c :=
  ⟨k.phys.trans h.phys, k.part.trans h.part, k.ctx.trans h.ctx, k.posting.trans h.posting, k.done.trans h.done, k.filled.trans h.filled,
    fun x hx => h.stores x (k.stores x hx), fun x hx => h.snap x (k.snap x hx)⟩

/-- The tasks of a partition, and of its queues the numbers, the HEADs and the indices of the entries. -/
def Partition.work (p : Partition) : List Task × List (Nat × Nat × List Nat) := (p.tasks, p.queues.map fun y => (y.q, y.head, y.idx))

def State.taskWork (s : State) (n : Nat) : Option (List Task × List (Nat × Nat × List Nat)) := (s.part? n).map (·.work)

/-- The acting core is steady and the tasks and entries of every partition stay. -/
structure State.steady (s t : State) : Prop where
  core : s.core.steady t.core
  work : ∀ n, t.taskWork n = s.taskWork n

theorem State.steady.refl (s : State) : s.steady s := ⟨.refl _, fun _ => rfl⟩

theorem State.steady.trans (h : s.steady t) (k : t.steady u) : s.steady u :=
  ⟨h.core.trans k.core, fun n => (k.work n).trans (h.work n)⟩

/-- A steady change that poisons nothing, and that stops no core where nothing is poisoned. -/
structure State.settles (s t : State) : Prop extends s.steady t where
  sound : s.poisoned = [] → t.poisoned = []
  running : s.poisoned = [] → t.core.running = s.core.running

theorem State.settles.refl (s : State) : s.settles s := ⟨.refl s, id, fun _ => rfl⟩

theorem State.settles.trans (h : s.settles t) (k : t.settles u) : s.settles u :=
  ⟨h.tosteady.trans k.tosteady, fun hs => k.sound (h.sound hs), fun hs => (k.running (h.sound hs)).trans (h.running hs)⟩

theorem State.settles.foldl {α : Type} {f : State → α → State} (h : ∀ (s : State) (x : α), s.settles (f s x)) (l : List α) :
    ∀ s : State, s.settles (l.foldl f s) := by
  induction l with
  | nil => exact .refl
  | cons x r ih => exact fun s => (h s x).trans (ih _)

/-- Changes apart from the acting core, the partitions and the poison. -/
theorem State.settles.of_same (hcore : t.core = s.core) (hparts : t.parts = s.parts) (hpoison : t.poisoned = s.poisoned) : s.settles t :=
  ⟨⟨hcore ▸ .refl _, fun n => by rw [State.taskWork, State.taskWork, State.part?, State.part?, hparts]⟩, fun h => hpoison.trans h,
    fun _ => by rw [hcore]⟩

theorem State.settles.ite {q : Prop} [Decidable q] (ht : s.settles t) (hu : s.settles u) : s.settles (if q then t else u) := by
  split <;> assumption

theorem State.settles.pubs (ps : List PubStore) : s.settles { s with pubs := ps } := .of_same rfl rfl rfl

theorem State.taskWork_onPart {m : Nat} {f : Partition → Partition} (hno : ∀ p, (f p).no = p.no) (hwork : ∀ p, (f p).work = p.work) (n : Nat) :
    (s.onPart m f).taskWork n = s.taskWork n := by
  rw [State.taskWork, State.part?_onPart hno, State.taskWork]
  cases s.part? n with
  | none => rfl
  | some p =>
    change some (if p.no = m then f p else p).work = some p.work
    split_ifs <;> simp only [hwork]

theorem State.settles.onPart {m : Nat} {f : Partition → Partition} (hno : ∀ p, (f p).no = p.no) (hwork : ∀ p, (f p).work = p.work) :
    s.settles (s.onPart m f) :=
  ⟨⟨.refl _, State.taskWork_onPart hno hwork⟩, id, fun _ => rfl⟩

theorem State.settles.onCoreN (n : Nat) {f : Core → Core} (hf : ∀ c : Core, c.steady (f c)) (hrun : ∀ c, (f c).running = c.running) :
    s.settles (s.onCoreN n f) := by
  unfold State.onCoreN
  split
  · exact ⟨⟨hf _, fun _ => rfl⟩, id, fun _ => hrun _⟩
  · exact .of_same rfl rfl rfl

/-! ### Writes and their evaluations -/

theorem State.settles.touchBlock (b k : Nat) : s.settles (s.touchBlock b k) := by
  have hrenew : s.settles (s.renew b k) := by
    unfold State.renew
    dsimp only
    split
    · exact .refl s
    · split
      · exact ⟨⟨.refl _, fun _ => rfl⟩, fun h => by change s.poisoned.filter _ = []; rw [h]; rfl, fun _ => rfl⟩
      · exact .of_same rfl rfl rfl
  unfold State.touchBlock
  dsimp only
  split
  · exact hrenew
  · exact hrenew.trans (.of_same rfl rfl rfl)

theorem State.settles.touchBlocks (pa n : Nat) (whole : Bool) : s.settles (s.touchBlocks pa n whole) := by
  unfold State.touchBlocks
  split
  · exact .refl s
  · exact .foldl (fun _ _ => .touchBlock ..) _ s

theorem State.settles.put (pa : Nat) (bs : List Byte) (whole : Bool) : s.settles (s.put pa bs whole) :=
  State.settles.trans (t := { s with mem := s.mem.writeN pa bs }) (.of_same rfl rfl rfl) (.touchBlocks ..)

/-- A partition that stops with a fatal error stops cores and nothing else of them (R393). -/
theorem State.fatalPart_steady (s : State) (n : Nat) : s.steady (s.fatalPart n) := by
  refine ⟨?_, State.taskWork_onPart (s := s) (m := n) (f := fun p => { p with fatal := true }) (fun _ => rfl) fun _ => rfl⟩
  change s.core.steady (if s.core.part = n ∧ s.core.running ∧ s.core.done = 0 then s.core.stopped else s.core)
  split
  · exact ⟨rfl, rfl, rfl, rfl, rfl, rfl, fun _ h => h, fun _ h => h⟩
  · exact .refl _

theorem State.settles.poisonRead (pa n : Nat) : s.settles (s.poisonRead pa n) := by
  refine ⟨List.foldlRecOn _ _ (motive := s.steady) (.refl s) fun t ht b _ => ?_, fun h => ?_, fun h => ?_⟩
  · split
    · exact ht.trans (State.fatalPart_steady ..)
    · exact ht
  · rw [State.poisonRead_of_none h, h]
  · rw [State.poisonRead_of_none h]

theorem State.settles.writeRec (part rec off n v : Nat) : s.settles (s.writeRec part rec off n v) := by
  unfold State.writeRec
  split
  · exact .put ..
  · exact .refl s

theorem Core.steady_preempt (c : Core) : c.steady { c with preempt := true } := ⟨rfl, rfl, rfl, rfl, rfl, rfl, fun _ h => h, fun _ h => h⟩

theorem State.settles.askFor (part : Nat) (r : Ready) : s.settles (s.askFor part r) := by
  have hask (n : Nat) (f : Partition → Partition) (hno : ∀ p, (f p).no = p.no) (hwork : ∀ p, (f p).work = p.work) :
      s.settles ((s.onCoreN n fun c => { c with preempt := true }).onPart part f) :=
    (State.settles.onCoreN n Core.steady_preempt fun _ => rfl).trans (.onPart hno hwork)
  unfold State.askFor
  split
  · exact .refl s
  · dsimp only
    split_ifs
    · exact .refl s
    · split
      · exact .ite (hask _ _ (fun _ => rfl) fun _ => rfl) (.refl s)
      · exact .refl s

theorem State.settles.enterReady (part rec : Nat) : s.settles (s.enterReady part rec) := by
  have hst : s.settles (s.setSt part rec 1 0) := .writeRec ..
  refine .trans (hst.trans (.onPart ?_ ?_)) (.askFor ..) <;> exact fun _ => rfl

theorem State.settles.makeReady (part rec : Nat) : s.settles (s.makeReady part rec) := by
  have hmark (saved : List SavedCtx) : s.settles { s with saved := saved } := .of_same rfl rfl rfl
  unfold State.makeReady
  dsimp only
  split
  · exact (hmark _).trans (.foldl (fun _ _ => .enterReady ..) _ _)
  · split
    · exact (hmark _).trans (.writeRec ..)
    · exact hmark _

theorem Core.fireTest_steady (f : Nat) (c : Core) : c.steady (c.fireTest f) ∧ (c.fireTest f).running = c.running := by
  unfold Core.fireTest
  split
  · exact ⟨⟨rfl, rfl, rfl, rfl, rfl, rfl, fun _ h => h, fun _ h => h⟩, rfl⟩
  · exact ⟨.refl c, rfl⟩

theorem State.settles.releaseWaiter (m : Monitor) (v : Word) : s.settles (s.releaseWaiter m v) := by
  unfold State.releaseWaiter
  split
  · exact .onCoreN _ (fun _ => ⟨rfl, rfl, rfl, rfl, rfl, rfl, fun _ h => h, fun _ h => h⟩) fun _ => rfl
  · exact .onCoreN _ (fun c => (c.fireTest_steady _).1) fun c => (c.fireTest_steady _).2
  · split
    · exact .makeReady ..
    · exact .refl s

theorem State.settles.evaluate (pa n : Nat) : s.settles (s.evaluate pa n) := by
  have hreleased (ms rest : List Monitor) : s.settles
      (ms.foldl (fun t m => t.releaseWaiter m (t.watchedValue m)) { s with monitors := rest }) :=
    State.settles.trans (t := { s with monitors := rest }) (.of_same rfl rfl rfl) (.foldl (fun _ _ => .releaseWaiter ..) _ _)
  unfold State.evaluate
  split
  dsimp only
  exact (hreleased _ _).trans (.foldl (fun _ _ => .poisonRead ..) _ _)

theorem State.settles.perform (pa : Nat) (bs : List Byte) (whole : Bool) : s.settles (s.perform pa bs whole) :=
  (State.settles.put ..).trans (.evaluate ..)

/-! ### Atomics at their home slice -/

theorem State.settles.flagsTo (part rec : Nat) (f : Flags) : s.settles (s.flagsTo part rec f) := by
  unfold State.flagsTo
  split
  · exact .refl s
  · split
    · exact .onCoreN _ (fun _ => ⟨rfl, rfl, rfl, rfl, rfl, rfl, fun _ h => h, fun _ h => h⟩) fun _ => rfl
    · exact .writeRec ..

theorem State.settles.answerPeer (a : Atom) (dev tag : Nat) (old : Word) (f : Flags) : s.settles (s.answerPeer a dev tag old f) :=
  .of_same rfl rfl rfl

theorem State.settles.performAtom (a : Atom) : s.settles (s.performAtom a) := by
  unfold State.performAtom
  dsimp only
  generalize (if a.sz = 0 then 4 else 8) = n
  have hwrite (q : Prop) [Decidable q] (new : Nat) : s.settles
      (if q then s.poisonRead a.loc.pa n else (s.poisonRead a.loc.pa n).perform a.loc.pa (leBytes n new)) := by
    split
    · exact .poisonRead ..
    · exact (State.settles.poisonRead ..).trans (.perform ..)
  split
  · exact ((hwrite _ _).trans (.flagsTo ..)).trans (.of_same rfl rfl rfl)
  · exact (hwrite _ _).trans (.of_same rfl rfl rfl)
  · exact (hwrite _ _).trans (.of_same rfl rfl rfl)
  · exact (hwrite _ _).trans (.answerPeer ..)

theorem State.settles.answerAtom (a : Atom) (v : Word) : s.settles (s.answerAtom a v) := by
  unfold State.answerAtom
  split <;> exact .of_same rfl rfl rfl

theorem State.settles.splitReply (fuel : Nat) : ∀ (s : State) (id : Nat) (v : Word), s.settles (State.splitReply fuel s id v) := by
  induction fuel with
  | zero => exact fun s _ _ => .refl s
  | succ fuel ih =>
    intro s id v
    unfold State.splitReply
    split
    · exact .refl s
    · next r _ =>
      refine List.foldlRecOn _ _ (motive := fun acc : State × Nat => s.settles acc.1) (.of_same rfl rfl rfl) fun acc hacc e _ => ?_
      refine State.settles.trans hacc ?_
      dsimp only
      split
      · exact .refl _
      · split
        · refine .trans (.of_same ?_ ?_ ?_) (ih ..) <;> rfl
        · exact .answerAtom ..

theorem State.settles.performAlone (m : Atom) : s.settles (s.performAlone m) := by
  unfold State.performAlone
  dsimp only
  split
  · refine .trans ((State.settles.performAtom m).trans (.of_same ?_ ?_ ?_)) (.splitReply ..) <;> rfl
  · exact .performAtom m

/-! ### What must be performed before -/

theorem State.settles.complete (fuel : Nat) : ∀ (s : State) (x : Pending), s.settles (s.complete fuel x) := by
  induction fuel with
  | zero => exact fun s _ => .refl s
  | succ fuel ih =>
    intro s x
    cases x with
    | inl p =>
      have hahead : s.settles ((s.aheadOf p).foldl (State.complete fuel) s) := .foldl ih _ s
      rw [State.complete]
      dsimp only
      split
      · refine .trans (hahead.trans (.of_same ?_ ?_ ?_)) (.perform ..) <;> rfl
      · exact hahead
    | inr a =>
      rw [State.complete]
      split
      · exact .refl s
      · next m _ =>
        have hahead : s.settles ((s.aheadAtom m).foldl (State.complete fuel) s) := .foldl ih _ s
        dsimp only
        split
        · exact .refl s
        · split
          · split
            · exact hahead.trans (.performAlone ..)
            · exact hahead
          · exact hahead

theorem State.settles.finish (x : Pending) : s.settles (s.finish x) := .complete ..

theorem State.settles.finishPubs (ps : List PubStore) : s.settles (s.finishPubs ps) := .foldl (fun _ _ => .finish _) _ _

theorem State.settles.finishAtoms (l : List Atom) : s.settles (s.finishAtoms l) := by
  refine .foldl (fun t a => ?_) _ _
  split
  · split
    · exact .finish _
    · exact .refl t
  · exact .refl t

theorem State.settles.performVia (r : Path) (pa : Nat) (bs : List (Option Byte)) (whole : Bool) : s.settles (s.performVia r pa bs whole) :=
  (State.settles.foldl (fun _ _ => .finish _) _ s).trans (.perform ..)

theorem State.settles.toPoint (p : PubStore) : s.settles (s.toPoint p) := by
  unfold State.toPoint
  dsimp only
  split
  · exact .refl s
  · split
    · exact .finish _
    · split
      · exact .refl s
      · have hbefore (xs : List Pending) (ps : List PubStore) : s.settles ((xs.foldl State.finish s).finishPubs ps) :=
          (State.settles.foldl (fun _ _ => .finish _) xs s).trans (.finishPubs ps)
        split
        · exact ((hbefore _ _).trans (.finishPubs _)).trans (.pubs _)
        · exact (hbefore _ _).trans (.pubs _)

/-! ### Posted writes and ended phases -/

theorem State.settles.countAccess (part va : Nat) : s.settles (s.countAccess part va) := by
  unfold State.countAccess
  split
  · dsimp only
    split
    · exact .refl s
    · exact .of_same rfl rfl rfl
  · exact .refl s

theorem State.settles.logEntry (p : Pair) (e : LogEntry) : s.settles (s.logEntry p e) := by
  have hfresh : s.settles { s with fresh := s.fresh + 1 } := .of_same rfl rfl rfl
  exact (hfresh.trans (.put ..)).trans (.put ..)

theorem State.settles.onPair (dev chn : Nat) (f : Pair → Pair) : s.settles (s.onPair dev chn f) := .of_same rfl rfl rfl

theorem State.settles.send (m : FabricMsg) : s.settles (s.send m) := .of_same rfl rfl rfl

theorem State.settles.passPosted (w : Posted) : s.settles (s.passPosted w) := by
  have hgone : s.settles { s with egress := s.egress.erase w } := .of_same rfl rfl rfl
  unfold State.passPosted
  dsimp only
  split
  · exact hgone
  · exact (((hgone.trans (.logEntry ..)).trans (.onPair ..)).trans (.countAccess ..)).trans (.send _)

theorem State.settles.passOwn (n : Nat) : s.settles (s.passOwn n) := by
  refine .foldl (fun t w => ?_) _ s
  split
  · exact .passPosted w
  · exact .refl t

theorem State.settles.settleOf (n : Nat) : s.settles (s.settleOf n) := by
  unfold State.settleOf
  dsimp only
  refine State.settles.trans ?_ (.onCoreN n (fun _ => ⟨rfl, rfl, rfl, rfl, rfl, rfl, fun _ h => h, fun _ h => h⟩) fun _ => rfl)
  refine State.settles.trans (.foldl (fun t x => ?_) _ s) (.passOwn n)
  cases x with
  | inl p => exact (State.settles.passOwn n).trans (.toPoint p)
  | inr a => exact (State.settles.passOwn n).trans (.finish _)

theorem State.settles.settle : s.settles s.settle := by
  unfold State.settle
  split
  · exact .settleOf _
  · exact .refl s

end Sys2Proof.Machine
end

section
/-! Drains of accumulator sets (R176–R181): the three TDRAINs, the comparison and its replays. -/

namespace Sys2Proof.Machine

variable {s u : State} {set : Nat}

/-! ### A set that may be drained -/

/-- A set as its drain closes it. -/
def AccSet.closed (a : AccSet) : AccSet := { a with status := .checked, pending := false }

/-- The group of a set is closed by its drain (R177). -/
def State.closeSet (s : State) (set : Nat) : State :=
  ({ s with core := { s.core.setAcc set (s.core.acc set).closed with group := none, drained := false, closed := true } } : State).raiseFlags
    (s.core.acc set).closed.flags

/-- The state in which a set's drain converts it: a checked set, or an open one whose comparison has passed, which closes. -/
def State.drainable (s : State) (set : Nat) (storing : Bool) (u : State) : Prop :=
  ((s.core.acc set).status = .checked ∧ (storing = true → s.inGroup = false) ∧ u = s) ∨
  ((s.core.acc set).status = .opened ∧ (∀ m ∈ s.core.array, m.set ≠ set) ∧ s.core.drained = true ∧ u = s.closeSet set)

section
variable {storing : Bool} {pre : Option TrapNo} {k : State → AccSet → State}

theorem State.drainSet_idle (h : (s.core.acc set).status = .idle) : s.drainSet set storing pre k = s.refuse .illegal := by
  simp only [State.drainSet, h]

theorem State.drainSet_inGroup (h : (s.core.acc set).status = .checked) (hg : s.inGroup = true) :
    s.drainSet set true pre k = s.refuse .groupViolation := by
  simp only [State.drainSet, h, hg, Bool.and_self, if_true]

theorem State.drainSet_refused {t : TrapNo} (h : (s.core.acc set).status = .checked) (hg : storing = true → s.inGroup = false) :
    s.drainSet set storing (some t) k = s.refuse t := by
  have hno : (s.inGroup && storing) = false := by cases storing <;> simp_all
  simp only [State.drainSet, h, hno, Bool.false_eq_true, if_false]

theorem State.drainSet_computing (h : (s.core.acc set).status = .opened) (harray : ∃ m ∈ s.core.array, m.set = set) :
    s.drainSet set storing none k = s.freeze .array := by
  have hany : (s.core.array.any fun m => m.set == set) = true := by simpa using harray
  simp only [State.drainSet, h, hany, if_true]

theorem State.not_array_any (harray : ∀ m ∈ s.core.array, m.set ≠ set) : (s.core.array.any fun m => m.set == set) = false := by
  simpa using harray

theorem State.drainSet_uncompared (h : (s.core.acc set).status = .opened) (harray : ∀ m ∈ s.core.array, m.set ≠ set)
    (hdrained : s.core.drained = false) : s.drainSet set storing none k = s.freeze .drain := by
  simp only [State.drainSet, h, State.not_array_any harray, hdrained, Bool.not_false, Bool.false_eq_true, if_false, if_true]

/-- A drain that converts alike before and after the set is closed. -/
theorem State.drainSet_drainable (h : s.drainable set storing u) (hk : ∀ v, k v (s.core.acc set).closed = k v (s.core.acc set)) :
    s.drainSet set storing none k = k u (s.core.acc set) := by
  rcases h with ⟨hst, hg, rfl⟩ | ⟨hst, harray, hdrained, rfl⟩
  · have hno : (u.inGroup && storing) = false := by cases storing <;> simp_all
    simp only [State.drainSet, hst, hno, Bool.false_eq_true, if_false]
  · rw [← hk]
    simp only [State.drainSet, hst, State.not_array_any harray, hdrained, Bool.not_true, Bool.false_eq_true, if_false]
    rfl

end

/-! ### The three drains -/

/-- The rows of a set converted, with flags and generators (R181). -/
def AccSet.convert (a : AccSet) (x : DrainArgs) (whole : Bool) (rows : List Nat) (u : State) :
    List (List Nat × List (Option Nat) × Flags) × State :=
  let q := a.drainRows x whole rows u.core.gens.arr
  (q.1, (u.withArrGens q.2).raiseFlags (rowFlags q.1))

/-- What a drain to a tile register refuses, and a drain to a vector register. -/
def tilePre (f : Fmt) (bo : Nat) : Option TrapNo := if f.scale = 2 then some .format else if !boOk f bo then some .illegal else none
def vectorPre (f : Fmt) (i : Int) : Option TrapNo := if i < 0 ∨ 127 < i then some .illegal else if f.scale ≠ 0 then some .format else none
def memoryPre (f : Fmt) : Option TrapNo := if f.scale = 2 then some .format else none

theorem exec_tdrainTile (s : State) (f bo r set : Nat) : exec (.tdrainTile f bo r set) s =
    .next (s.drainSet set true (tilePre (s.drainArgs f).f bo) fun u a =>
      let q := a.convert (s.drainArgs f) false (List.range 128) u
      q.2.result 132 (q.1.zipIdx.map fun y => .t r y.2 (placeRow (s.drainArgs f).f (32 * bo) y.1).1 (placeRow (s.drainArgs f).f (32 * bo) y.1).2)) := rfl

theorem exec_tdrainVector (s : State) (f row r set : Nat) : exec (.tdrainVector f row r set) s =
    .next (s.drainSet set false (vectorPre (s.drainArgs f).f ((row : Int) + s.core.ctx.off)) fun u a =>
      let q := a.convert (s.drainArgs f) false [((row : Int) + s.core.ctx.off).toNat] u
      q.2.result 4 [laneRow r (s.drainArgs f).f.lane (q.1.flatMap (·.2.1))]) := rfl

theorem exec_tdrainMemory (s : State) (f r set sc chn : Nat) (off : Int) : exec (.tdrainMemory f r set sc chn off) s =
    .next (s.drainSet set true (memoryPre (s.drainArgs f).f) fun u a =>
      let q := a.convert (s.drainArgs f) true (List.range 128) u
      (q.2.onCore fun c => { c with ctx := { c.ctx with scope := sc } }).putItems chn
        [(toBits 64 ((s.rs r).toNat + off + s.core.fusedOff), drainImage (s.drainArgs f).f q.1)] 64) := rfl

/-! ### The drain comparison (R178–R180) -/

/-- Besides the Beryl map and its marks, two cores are the same. -/
def onlyLines (c d : Core) : Prop := { d with beryl := c.beryl, marked := c.marked } = c

theorem onlyLines.trans {c d e : Core} (h : onlyLines c d) (k : onlyLines d e) : onlyLines c e := by
  have hsame : ({ ({ e with beryl := d.beryl, marked := d.marked } : Core) with beryl := c.beryl, marked := c.marked } : Core) = c := by
    rw [k]; exact h
  exact hsame

/-- The events of lines are in the Beryl map of the acting core (R182). -/
theorem State.countLines_frame (s : State) (ev : List (Bool × Nat)) :
    onlyLines s.core (s.countLines ev).core ∧ (s.countLines ev).mem = s.mem :=
  List.foldlRecOn ev _ (motive := fun t : State => onlyLines s.core t.core ∧ t.mem = s.mem) ⟨rfl, rfl⟩
    fun _ ⟨hcore, hmem⟩ _ _ => ⟨hcore.trans rfl, hmem⟩

/-- A replay counts, and leaves the registers that no snapshot holds. -/
theorem Core.replay_keeps (c : Core) (n : Nat) (g : Snapshot) : (c.replay n g).fused = c.fused ∧ (c.replay n g).v = c.v ∧
    (c.replay n g).p = c.p ∧ (c.replay n g).t = c.t ∧ ((c.replay n g).acc n).replays = (c.acc n).replays + 1 := by
  unfold Core.replay Core.rewind Core.setAcc Core.acc
  split <;> exact ⟨rfl, rfl, rfl, rfl, rfl⟩

theorem exec_drainComparison_unfrozen (h : s.core.frozen ≠ some .drain) : exec .drainComparison s = .next s := by
  change execDrainComparison s = _
  rw [execDrainComparison]
  split
  · next heq _ => exact absurd heq h
  · rfl

section
variable {n : Nat} {g : Snapshot} (hfrozen : s.core.frozen = some .drain) (hgroup : s.core.group = some (n, g))
include hfrozen hgroup

theorem exec_drainComparison_passes {b : AccSet} {k : Nat} (h : (s.core.acc n).compare = .pass b k []) :
    exec .drainComparison s = .next { s with core := { s.core.setAcc n b with drained := true, frozen := none } } := by
  change execDrainComparison s = _
  simp only [execDrainComparison, hfrozen, hgroup, h]
  rfl

/-- A first failing comparison of an unfused core replays its group. -/
theorem exec_drainComparison_replays {ev : List (Bool × Nat)} (h : (s.core.acc n).compare = .replay ev) (hreplays : (s.core.acc n).replays = 0)
    (hfused : s.core.fused = none) : exec .drainComparison s = .next (((s.countLines ev).onCore fun c => c.replay n g).resendReads) := by
  have hcore : (s.countLines ev).core.fused = s.core.fused := (congrArg Core.fused (s.countLines_frame ev).1 :)
  have hnone : ((s.countLines ev).onCore fun c => c.replay n g).core.fused = none := by
    obtain ⟨hkeep, -⟩ := (s.countLines ev).core.replay_keeps n g
    exact hkeep.trans (hcore.trans hfused)
  change execDrainComparison s = _
  simp only [execDrainComparison, hfrozen, hgroup, h, hreplays, (by decide : ¬ 2 ≤ 0), (by decide : ¬ 0 = 1), if_false, State.rewindOthers, State.resendAll, hnone]

theorem exec_drainComparison_inTransit {ev : List (Bool × Nat)} {va : Nat} (h : (s.core.acc n).compare = .replay ev)
    (hreplays : 2 ≤ (s.core.acc n).replays) (htransit : s.frameInTransit = some va) :
    exec .drainComparison s = .next (s.freeze (.transit va)) := by
  change execDrainComparison s = _
  simp only [execDrainComparison, hfrozen, hgroup, h, hreplays, if_true, htransit]

theorem exec_drainComparison_traps {ev : List (Bool × Nat)} (h : (s.core.acc n).compare = .replay ev)
    (hreplays : 2 ≤ (s.core.acc n).replays) (htransit : s.frameInTransit = none) :
    exec .drainComparison s = .next (((s.countLines ev).onCore fun d =>
      { d.setAcc n { s.core.acc n with replays := 0, pending := false } with frozen := none }).takeTrap { no := .tileUnrecoverable }) := by
  change execDrainComparison s = _
  simp only [execDrainComparison, hfrozen, hgroup, h, hreplays, if_true, htransit]

end

/-- Settles O45: by the set's status; what a drain converts is said once for the three, and the comparison by its answer. -/
theorem drainsOfAccumulatorSets : Obligations.DrainsOfAccumulatorSets := by
  intro s f bo r row set sc chn off c a x i ea tile vec mem b closes drained ready
  have htile := exec_tdrainTile s f bo r set
  have hvec := exec_tdrainVector s f row r set
  have hmem := exec_tdrainMemory s f r set sc chn off
  have hrange (h0 : 0 ≤ i) (h127 : i ≤ 127) : ¬(i < 0 ∨ 127 < i) := by omega
  refine ⟨fun hst => ⟨?_, ?_, ?_⟩, fun hst hg => ⟨?_, ?_⟩, fun hst hscale h0 h127 hbo j hj => ?_, fun hst =>
    ⟨fun hg hscale => ⟨?_, ?_⟩, fun hg hscale hbo => ?_, fun hi => ?_, fun h0 h127 hscale => ?_⟩,
    fun u hu hscale hbo => ?_, fun u hu h0 h127 hscale => ?_, fun u hu hscale ps hok hplain => ?_,
    exec_drainComparison_unfrozen, fun n g hfrozen hgroup =>
    ⟨fun b k => exec_drainComparison_passes hfrozen hgroup, fun ev hreplay hzero hfused => ?_, fun ev hreplay htwo =>
      ⟨fun va => exec_drainComparison_inTransit hfrozen hgroup hreplay htwo, exec_drainComparison_traps hfrozen hgroup hreplay htwo⟩⟩⟩
  · exact htile.trans (congrArg Host.Outcome.next (State.drainSet_idle hst))
  · exact hvec.trans (congrArg Host.Outcome.next (State.drainSet_idle hst))
  · exact hmem.trans (congrArg Host.Outcome.next (State.drainSet_idle hst))
  · exact htile.trans (congrArg Host.Outcome.next (State.drainSet_inGroup hst hg))
  · exact hmem.trans (congrArg Host.Outcome.next (State.drainSet_inGroup hst hg))
  · have htpre : tilePre x.f bo = none := by simp [tilePre, hscale, hbo]
    have hvpre : vectorPre x.f i = none := (if_neg (hrange h0 h127)).trans (if_neg (not_not.2 hscale))
    have hmpre : memoryPre x.f = none := if_neg (by omega)
    rw [htpre] at htile
    rw [hvpre] at hvec
    rw [hmpre] at hmem
    simp only [List.mem_cons, List.not_mem_nil, or_false] at hj
    obtain rfl | rfl | rfl := hj
    · exact ⟨fun hm => htile.trans (congrArg Host.Outcome.next (State.drainSet_computing hst hm)),
        fun hm hd => htile.trans (congrArg Host.Outcome.next (State.drainSet_uncompared hst hm hd))⟩
    · exact ⟨fun hm => hvec.trans (congrArg Host.Outcome.next (State.drainSet_computing hst hm)),
        fun hm hd => hvec.trans (congrArg Host.Outcome.next (State.drainSet_uncompared hst hm hd))⟩
    · exact ⟨fun hm => hmem.trans (congrArg Host.Outcome.next (State.drainSet_computing hst hm)),
        fun hm hd => hmem.trans (congrArg Host.Outcome.next (State.drainSet_uncompared hst hm hd))⟩
  · have hpre : tilePre x.f bo = some .format := if_pos hscale
    rw [hpre] at htile
    exact htile.trans (congrArg Host.Outcome.next (State.drainSet_refused hst fun _ => hg))
  · have hpre : memoryPre x.f = some .format := if_pos hscale
    rw [hpre] at hmem
    exact hmem.trans (congrArg Host.Outcome.next (State.drainSet_refused hst fun _ => hg))
  · have hpre : tilePre x.f bo = some .illegal := by simp [tilePre, hscale, hbo]
    rw [hpre] at htile
    exact htile.trans (congrArg Host.Outcome.next (State.drainSet_refused hst fun _ => hg))
  · have hpre : vectorPre x.f i = some .illegal := if_pos hi
    rw [hpre] at hvec
    exact hvec.trans (congrArg Host.Outcome.next (State.drainSet_refused hst nofun))
  · have hpre : vectorPre x.f i = some .format := (if_neg (hrange h0 h127)).trans (if_pos hscale)
    rw [hpre] at hvec
    exact hvec.trans (congrArg Host.Outcome.next (State.drainSet_refused hst nofun))
  · have hpre : tilePre x.f bo = none := by simp [tilePre, hscale, hbo]
    rw [hpre] at htile
    exact htile.trans (congrArg Host.Outcome.next (State.drainSet_drainable hu fun _ => rfl))
  · have hpre : vectorPre x.f i = none := (if_neg (hrange h0 h127)).trans (if_neg (not_not.2 hscale))
    rw [hpre] at hvec
    exact hvec.trans (congrArg Host.Outcome.next (State.drainSet_drainable hu fun _ => rfl))
  · have hpre : memoryPre x.f = none := if_neg hscale
    rw [hpre] at hmem
    let q := a.convert x true (List.range 128) u
    let w := q.2.onCore fun c => { c with ctx := { c.ctx with scope := sc } }
    have hscope : w.settle.core.ctx.scope = sc := congrArg (·.scope) (State.settles.settle (s := w)).core.ctx
    have hput : w.putItems chn [(ea, drainImage x.f q.1)] 64 = w.settle.storing chn _ _ :=
      State.putItems_of_admitted (pss := [ps]) (congrArg (fun r => [r]) hok) (by simpa using hplain)
    rw [State.storing, hscope] at hput
    exact hmem.trans (congrArg Host.Outcome.next ((State.drainSet_drainable hu fun _ => rfl).trans hput))
  · obtain ⟨hcore, hkeep⟩ := s.countLines_frame ev
    obtain ⟨-, hv, hp, ht, hcount⟩ := (s.countLines ev).core.replay_keeps n g
    have hset : (s.countLines ev).core.acc n = c.acc n := (congrArg (·.acc n) hcore :)
    rw [hset, hzero] at hcount
    exact ⟨_, exec_drainComparison_replays hfrozen hgroup hreplay hzero hfused, rfl, rfl, rfl, rfl, rfl, rfl, rfl, rfl, rfl, rfl,
      hv.trans (congrArg Core.v hcore :), hp.trans (congrArg Core.p hcore :), ht.trans (congrArg Core.t hcore :), hcount, hkeep⟩

end Sys2Proof.Machine
end

section
/-! Walks into the TLBs (R363, R366, R367), and scratch pages that arrive (R108, R244). -/

namespace Sys2Proof.Machine

variable {s : State}

/-! ### The leaf that a walk finds -/

/-- An entry that is a leaf is valid, below the root, and meets R366. -/
theorem classify_leaf {e level va e' level' : Nat} (h : classify e level va = .inl (.leaf e' level')) :
    e' = e ∧ level' = level ∧ level ≠ 0 ∧ field e 62 2 = 3 ∧ leafOk e level va = true := by
  unfold classify at h
  split at h
  · next h62 =>
    split at h
    · split at h <;> cases h
    · next h63 =>
      split at h
      · cases h
      · next hlevel =>
        split at h
        · next hok =>
          cases h
          refine ⟨rfl, rfl, hlevel, ?_, hok⟩
          have hhalf : e / 2 ^ 63 = e / 2 ^ 62 / 2 := (Nat.div_div_eq_div_mul ..).symm
          simp only [field, hhalf] at h62 h63 ⊢
          omega
        · cases h
  · repeat' split at h
    all_goals cases h

/-- An entry that names a table does not stand at the last level. -/
theorem classify_table {e level va next : Nat} (h : classify e level va = .inr next) : level ≠ 3 := by
  rintro rfl
  unfold classify at h
  repeat' split at h
  all_goals contradiction

theorem walkFrom_leaf {read : Nat → Nat → Nat} {va : Nat} : ∀ {fuel level base e l : Nat}, level ≤ 3 →
    walkFrom read va fuel level base = .leaf e l → 1 ≤ l ∧ l ≤ 3 ∧ field e 62 2 = 3 ∧ leafOk e l va = true
  | 0, _, _, _, _, _, h => by cases h
  | fuel + 1, level, base, e, l, hlevel, h => by
    rw [walkFrom] at h
    split at h
    · next w hw =>
      subst h
      obtain ⟨rfl, rfl, hpos, hvalid, hok⟩ := classify_leaf hw
      exact ⟨Nat.one_le_iff_ne_zero.2 hpos, hlevel, hvalid, hok⟩
    · next next hnext =>
      have := classify_table hnext
      exact walkFrom_leaf (by omega) h

theorem State.walkOn_leaf {die part va e level : Nat} (h : s.walkOn die part va = .leaf e level) :
    1 ≤ level ∧ level ≤ 3 ∧ field e 62 2 = 3 ∧ leafOk e level va = true := by
  unfold State.walkOn State.walkWith at h
  split at h
  · exact walkFrom_leaf (by omega) h
  · cases h

/-! ### TABLE_WALK -/

/-- The walk cache of a die after a walk. -/
def State.walkCached (s : State) (part va : Nat) : State :=
  let die := dieOf s.core.phys
  let tables := match s.part? part with
    | some p => walkTables (s.tableEntry die part (va52 va)) (va52 va) 4 0 p.quotas.root
    | none => []
  { s with walkCache := tables.foldl (fun l t => dieAdd 256 l (die, part, t.1, walkPrefix (va52 va) t.1, t.2)) s.walkCache }

/-- A leaf enters the TLB of the acting core's die, and the micro-TLB of the acting core where it runs the partition. -/
def State.leafCached (s : State) (part va e level : Nat) : State :=
  let x : Nat × Nat × Nat × Nat := (part, va52 va / 2 ^ 16, e, level)
  let s : State := { s with dieTlb := dieAdd 4096 s.dieTlb (dieOf s.core.phys, x) }
  if s.core.running ∧ s.core.part = part then s.onCore fun c => { c with tlb := tlbAdd 64 c.tlb x } else s

section
variable {part va : Nat} (hpoison : s.walkPoison (dieOf s.core.phys) part (va52 va) = none)
include hpoison

theorem exec_tableWalk_leaf {e level : Nat} (h : s.walkOn (dieOf s.core.phys) part (va52 va) = .leaf e level) :
    exec (.tableWalk part va) s = .next ((s.walkCached part va).leafCached part va e level) := by
  change execTableWalk part va s = _
  simp only [execTableWalk, hpoison, h]
  rfl

theorem exec_tableWalk_none (h : ∀ e level, s.walkOn (dieOf s.core.phys) part (va52 va) ≠ .leaf e level) :
    exec (.tableWalk part va) s = .next (s.walkCached part va) := by
  change execTableWalk part va s = _
  cases hw : s.walkOn (dieOf s.core.phys) part (va52 va) with
  | leaf e level => exact absurd hw (h e level)
  | transit e level => simp only [execTableWalk, hpoison, hw]; rfl
  | fail => simp only [execTableWalk, hpoison, hw]; rfl

end

/-- The micro-TLB is all of the acting core that a leaf changes. -/
theorem State.leafCached_core (s : State) (part va e level : Nat) :
    let x := (part, va52 va / 2 ^ 16, e, level)
    (s.leafCached part va e level).core = { s.core with
      tlb := if s.core.running = true ∧ s.core.part = part then (x :: s.core.tlb.filter (· != x)).take 64 else s.core.tlb } ∧
    (s.leafCached part va e level).dieTlb = dieAdd 4096 s.dieTlb (dieOf s.core.phys, x) ∧ (s.leafCached part va e level).mem = s.mem := by
  unfold State.leafCached
  dsimp only
  split <;> exact ⟨rfl, rfl, rfl⟩

/-! ### Scratch pages -/

theorem State.onCoreN_congr {n : Nat} {f g : Core → Core} (h : f (s.coreOf n) = g (s.coreOf n)) : s.onCoreN n f = s.onCoreN n g := by
  unfold State.onCoreN
  split
  · next hphys =>
    subst hphys
    rw [State.coreOf_acting] at h
    rw [h]
  · rw [h]

/-- A core whose freeze no longer waits for a page, and has ended where that was the last of its pages. -/
def Core.pageCome (ps : List Nat) (page : Nat) (c : Core) : Core :=
  { c with frozen := if ps.filter (· != page) = [] then none else some (.refill (ps.filter (· != page))) }

/-- A page arrives on a core that waits for pages. -/
theorem State.pageArrives_of_refill {n page : Nat} {ps : List Nat} (h : (s.coreOf n).frozen = some (.refill ps)) :
    s.pageArrives n page =
      ({ s.makeRoom n page with pages := bankPut (s.makeRoom n page).pages page (n, false) } : State).onCoreN n (Core.pageCome ps page) := by
  have hcore : ({ s.makeRoom n page with pages := bankPut (s.makeRoom n page).pages page (n, false) } : State).coreOf n = s.coreOf n :=
    (congrArg (·.coreOf n) (State.makeRoom_frame s n page) :)
  unfold State.pageArrives
  apply State.onCoreN_congr
  simp only [hcore, h, Core.pageCome, List.isEmpty_iff]

section
variable {page n m : Nat}

theorem exec_scratchPageRefill_absent (hn : s.frozenFor page = some n) (hm : s.pageHolder page = none) :
    exec (.scratchPageRefill page) s = .next (s.pageArrives n page) ∧ exec (.scratchPageMove page) s = .next s := by
  refine ⟨?_, ?_⟩
  · change execScratchPageRefill page s = _; simp only [execScratchPageRefill, hn, hm]
  · change execScratchPageMove page s = _; simp only [execScratchPageMove, hn, hm]

theorem exec_scratchPageMove_held (hn : s.frozenFor page = some n) (hm : s.pageHolder page = some m) :
    exec (.scratchPageMove page) s = .next (s.pageArrives n page) ∧ exec (.scratchPageRefill page) s = .next s := by
  refine ⟨?_, ?_⟩
  · change execScratchPageMove page s = _; simp only [execScratchPageMove, hn, hm]
  · change execScratchPageRefill page s = _; simp only [execScratchPageRefill, hn, hm]

theorem exec_scratchPage_unasked (hn : s.frozenFor page = none) :
    exec (.scratchPageRefill page) s = .next s ∧ exec (.scratchPageMove page) s = .next s := by
  refine ⟨?_, ?_⟩
  · change execScratchPageRefill page s = _; simp only [execScratchPageRefill, hn]
  · change execScratchPageMove page s = _; simp only [execScratchPageMove, hn]

end

end Sys2Proof.Machine
end

section
/-! Shootdowns (R369, R370): what is dropped, what has been performed, and what the acting core keeps. -/

namespace Sys2Proof.Machine

variable {s t : State} {part va first pages n : Nat} {whole : Bool}

/-! ### What a shootdown changes of the acting core -/

theorem State.settles.sendAtoms (part : Nat) : s.settles (s.sendAtoms part) := by
  refine .foldl (fun t a => ?_) _ s
  dsimp only
  split
  · exact .refl t
  · have hsent : t.settles { t with atoms := t.atoms.map fun x => if x.id = a.id then { x with sent := true } else x } := .of_same rfl rfl rfl
    exact (hsent.trans (.countAccess ..)).trans (.send _)

theorem State.settles.flushPart (part : Nat) : s.settles (s.flushPart part) := by
  unfold State.flushPart
  dsimp only
  refine State.settles.trans ?_ (.foldl (fun t w => .ite (.passPosted w) (.refl t)) _ _)
  refine State.settles.trans ?_ (.finishAtoms _)
  refine State.settles.trans ?_ (.finishPubs _)
  exact (State.settles.foldl (fun t c => .settleOf _) _ s).trans (.sendAtoms part)

/-- Does a shootdown of a range name a page? -/
def shotPage (first pages : Nat) (whole : Bool) (page : Nat) : Bool := whole || overlaps page 1 first pages

/-- The stores to a range that a core has not published are performed, or leave. -/
def State.publishStores (s : State) (n : Nat) (mine : List OwnStore) : State :=
  let c := s.coreOf n
  mine.foldl (fun s st => match st.loc.peer with
    | none => s.performVia (Path.ofCore n c.issued) st.loc.pa st.bytes st.whole
    | some d => (postedOf (some (n, c.issued)) 0 c.part c.task d st.chn st.loc.pa st.va (laidOver [] st.bytes) none).foldl
        (fun s w => ({ s with egress := s.egress ++ [w] }).passPosted w) s) s

/-- A core without its stores to a range and the lines filled through it. -/
def Core.shot (first pages : Nat) (whole : Bool) (c : Core) : Core :=
  { c with
    stores := c.stores.filter fun st => !shotPage first pages whole (va52 st.va / 2 ^ 16)
    snap := c.snap.filter fun x => !shotPage first pages whole (bankGet 0 c.filled x.1) }

theorem State.publishRange_eq (s : State) (n first pages : Nat) (whole : Bool) : s.publishRange n first pages whole =
    (s.publishStores n ((s.coreOf n).stores.filter fun st => shotPage first pages whole (va52 st.va / 2 ^ 16))).onCoreN n
      (Core.shot first pages whole) := rfl

theorem State.settles.publishStores (n : Nat) (mine : List OwnStore) : s.settles (s.publishStores n mine) := by
  unfold State.publishStores
  dsimp only
  refine .foldl (fun t st => ?_) _ s
  split
  · exact .performVia ..
  · refine .foldl (fun u w => ?_) _ t
    have hout : u.settles { u with egress := u.egress ++ [w] } := .of_same rfl rfl rfl
    exact hout.trans (.passPosted w)

theorem Core.shot_steady (c : Core) : c.steady (c.shot first pages whole) :=
  ⟨rfl, rfl, rfl, rfl, rfl, rfl, fun _ h => (List.mem_filter.1 h).1, fun _ h => (List.mem_filter.1 h).1⟩

theorem State.settles.publishRange (n : Nat) : s.settles (s.publishRange n first pages whole) := by
  rw [State.publishRange_eq]
  exact (State.settles.publishStores ..).trans (.onCoreN n Core.shot_steady fun _ => rfl)

/-- A core has no store to a range and no line filled through it. -/
def Core.clear (first pages : Nat) (whole : Bool) (c : Core) : Prop :=
  (∀ x ∈ c.snap, shotPage first pages whole (bankGet 0 c.filled x.1) = false) ∧
    ∀ st ∈ c.stores, shotPage first pages whole (va52 st.va / 2 ^ 16) = false

theorem Core.shot_clear (c : Core) : (c.shot first pages whole).clear first pages whole :=
  ⟨fun _ h => Bool.not_eq_true' _ ▸ (List.mem_filter.1 h).2, fun _ h => Bool.not_eq_true' _ ▸ (List.mem_filter.1 h).2⟩

theorem Core.clear.steady {c d : Core} (h : c.clear first pages whole) (k : c.steady d) : d.clear first pages whole := by
  refine ⟨fun x hx => ?_, fun st hst => h.2 st (k.stores st hst)⟩
  rw [k.filled]
  exact h.1 x (k.snap x hx)

theorem State.publishRange_clear : (s.publishRange s.core.phys first pages whole).core.clear first pages whole := by
  rw [State.publishRange_eq]
  generalize (s.coreOf s.core.phys).stores.filter _ = mine
  have hphys : (s.publishStores s.core.phys mine).core.phys = s.core.phys := (State.settles.publishStores ..).core.phys
  rw [State.onCoreN, if_pos hphys]
  exact Core.shot_clear _

/-- The stores of cores to a range are performed, or leave. -/
def State.publishAll (s : State) (first pages : Nat) (whole : Bool) (l : List Core) : State :=
  l.foldl (fun s c => s.publishRange c.phys first pages whole) s

theorem State.settles.publishAll (l : List Core) : s.settles (s.publishAll first pages whole l) := by
  refine State.settles.foldl (fun t c => ?_) l s
  exact State.settles.publishRange c.phys

theorem State.publishAll_clear {l : List Core} (h : ∃ c ∈ l, c.phys = s.core.phys) :
    (s.publishAll first pages whole l).core.clear first pages whole := by
  induction l generalizing s with
  | nil => obtain ⟨c, hc, -⟩ := h; exact absurd hc List.not_mem_nil
  | cons c r ih =>
    change ((s.publishRange c.phys first pages whole).publishAll first pages whole r).core.clear first pages whole
    by_cases hc : c.phys = s.core.phys
    · rw [hc]
      exact State.publishRange_clear.steady (State.settles.publishAll r).core
    · have hstep : (s.publishRange c.phys first pages whole).core.phys = s.core.phys := (State.settles.publishRange c.phys).core.phys
      obtain ⟨d, hd, hphys⟩ := h
      have hdr : d ∈ r := (List.mem_cons.1 hd).resolve_left fun heq => hc (heq ▸ hphys)
      exact ih ⟨d, hdr, hphys.trans hstep.symm⟩

/-- The core without the translations of a range in its micro-TLB. -/
def Core.untranslated (part first pages : Nat) (whole : Bool) (c : Core) : Core :=
  { c with tlb := c.tlb.filter fun x => !tlbHit part first pages whole x }

theorem Core.untranslated_steady (c : Core) : c.steady (c.untranslated part first pages whole) :=
  ⟨rfl, rfl, rfl, rfl, rfl, rfl, fun _ h => h, fun _ h => h⟩

/-- The cores that run a partition. -/
def State.running (s : State) (part : Nat) : List Core := s.allCores.filter fun c => c.running && c.part == part

theorem State.shoot_eq (s : State) (part va pages : Nat) (whole : Bool) :
    let first := va52 va / 2 ^ 16
    let u := ((s.flushPart part).publishAll first pages whole ((s.flushPart part).running part)).onCores (Core.untranslated part first pages whole)
    s.shoot part va pages whole = { u with
      dieTlb := u.dieTlb.filter fun x => !tlbHit part first pages whole x.2
      walkCache := u.walkCache.filter fun x => !cacheHit part first pages whole x } := rfl

/-- The acting core of the partition holds nothing of the range after its shootdown, where no block is poisoned. -/
theorem State.shoot_clear (hrunning : s.core.running = true) (hpart : s.core.part = part) (hpoison : s.poisoned = []) :
    (s.shoot part va pages whole).core.clear (va52 va / 2 ^ 16) pages whole := by
  have hflush : s.settles (s.flushPart part) := .flushPart part
  have hacting : (s.flushPart part).core ∈ (s.flushPart part).running part := by
    refine List.mem_filter.2 ⟨List.mem_cons_self .., ?_⟩
    rw [hflush.running hpoison, hrunning, hflush.core.part, hpart, beq_self_eq_true, Bool.and_self]
  have hpublished := State.publishAll_clear (first := va52 va / 2 ^ 16) (pages := pages) (whole := whole) ⟨_, hacting, rfl⟩
  rw [State.shoot_eq]
  exact hpublished.steady (Core.untranslated_steady _)

/-! ### Translations -/

theorem State.shoot_dieTlb : ∀ x ∈ (s.shoot part va pages whole).dieTlb, tlbHit part (va52 va / 2 ^ 16) pages whole x.2 = false :=
  fun x hx => by simpa using (List.mem_filter.1 hx).2

theorem State.shoot_walkCache : ∀ x ∈ (s.shoot part va pages whole).walkCache, cacheHit part (va52 va / 2 ^ 16) pages whole x = false :=
  fun x hx => by simpa using (List.mem_filter.1 hx).2

theorem State.shoot_tlb : ∀ c ∈ (s.shoot part va pages whole).allCores, ∀ x ∈ c.tlb, tlbHit part (va52 va / 2 ^ 16) pages whole x = false := by
  have hcore (c : Core) : ∀ x ∈ (c.untranslated part (va52 va / 2 ^ 16) pages whole).tlb, tlbHit part (va52 va / 2 ^ 16) pages whole x = false :=
    fun x hx => by simpa using (List.mem_filter.1 hx).2
  intro c hc
  rcases List.mem_cons.1 hc with rfl | hc
  · exact hcore _
  · obtain ⟨y, hy, rfl⟩ := List.mem_map.1 hc
    obtain ⟨z, -, rfl⟩ := List.mem_map.1 hy
    exact hcore z.2

/-! ### Accesses that translated before -/

/-- An access of some bytes meets its first frame. -/
theorem overlaps_frame (a : Nat) {n : Nat} (hn : n ≠ 0) : overlaps a n (a / 2 ^ 16 * 2 ^ 16) 65536 = true := by
  simp only [overlaps, Bool.and_eq_true, decide_eq_true_eq]
  omega

/-- The first and the last frame of an access. -/
def framesAt (l : Loc) (n : Nat) : List (Option Nat × Nat) := [(l.peer, l.pa / 2 ^ 16), (l.peer, (l.pa + n - 1) / 2 ^ 16)]

/-- Published stores, atomics and posted writes of a partition have frames, none of which is in use where no frame of the partition is. -/
theorem State.inUse_of_framesInUse_nil (h : s.framesInUse part = []) {x : Option Nat × Nat}
    (hx : x ∈ (s.pubs.filter (·.part == part)).flatMap (fun p => framesAt p.loc p.bytes.length)
      ++ (s.atoms.filter (·.part == part)).flatMap (fun a => framesAt a.loc a.size)
      ++ (s.egress.filter (·.part == part)).flatMap (fun w => framesAt ⟨some w.dev, w.pa⟩ w.bytes.length)) : s.inUse x = false :=
  Bool.eq_false_iff.2 (List.filter_eq_nil_iff.1 h x (List.mem_eraseDups.2 (List.mem_append_left _ (List.mem_append_left _ hx))))

theorem framesAt_first (l : Loc) (n : Nat) : (l.peer, l.pa / 2 ^ 16) ∈ framesAt l n := List.mem_cons_self ..

section
variable (h : s.framesInUse part = [])
include h

theorem State.pubs_of_framesInUse_nil : ∀ p ∈ s.pubs, p.part = part → p.bytes = [] := by
  intro p hp hpart
  by_contra hne
  have hmeets := overlaps_frame p.loc.pa (n := p.bytes.length) (by simpa using hne)
  have hfree := State.inUse_of_framesInUse_nil h (List.mem_append_left _ (List.mem_append_left _
    (List.mem_flatMap.2 ⟨p, List.mem_filter.2 ⟨hp, by simp [hpart]⟩, framesAt_first ..⟩)))
  simp only [State.inUse, Bool.or_eq_false_iff, List.any_eq_false] at hfree
  obtain ⟨⟨⟨hpubs, -⟩, -⟩, -⟩ := hfree
  exact hpubs p hp (by simp only [beq_self_eq_true, Bool.true_and, hmeets])

theorem State.egress_of_framesInUse_nil : ∀ w ∈ s.egress, w.part = part → w.bytes = [] := by
  intro w hw hpart
  by_contra hne
  have hmeets := overlaps_frame w.pa (n := w.bytes.length) (by simpa using hne)
  have hfree := State.inUse_of_framesInUse_nil h (List.mem_append_right _
    (List.mem_flatMap.2 ⟨w, List.mem_filter.2 ⟨hw, by simp [hpart]⟩, framesAt_first ..⟩))
  simp only [State.inUse, Bool.or_eq_false_iff, List.any_eq_false] at hfree
  obtain ⟨⟨-, hegress⟩, -⟩ := hfree
  exact hegress w hw (by simp only [beq_self_eq_true, Bool.true_and, hmeets])

theorem State.atoms_of_framesInUse_nil : ∀ a ∈ s.atoms, a.part = part → a.old.isSome = true ∨ a.sent = true := by
  intro a ha hpart
  have hmeets := overlaps_frame a.loc.pa (n := a.size) (by unfold Atom.size; split <;> decide)
  have hfree := State.inUse_of_framesInUse_nil h (List.mem_append_left _ (List.mem_append_right _
    (List.mem_flatMap.2 ⟨a, List.mem_filter.2 ⟨ha, by simp [hpart]⟩, framesAt_first ..⟩)))
  simp only [State.inUse, Bool.or_eq_false_iff, List.any_eq_false] at hfree
  obtain ⟨⟨⟨-, hatoms⟩, -⟩, -⟩ := hfree
  have hidle := hatoms a ha
  simp only [beq_self_eq_true, hmeets, Bool.and_true, Bool.and_eq_true, not_and, Option.isNone_iff_eq_none, Bool.not_eq_true'] at hidle
  cases hold : a.old with
  | some v => exact .inl rfl
  | none => exact .inr (by simpa using hidle hold)

end

/-! ### SHOOTDOWN -/

/-- The answer of a shootdown, or its wait for the frames in use. -/
def State.shotAnswered (u : State) (part : Nat) : State :=
  if u.framesInUse part = [] then u.notify .ok else u.onPart part fun p => { p with shots := p.shots ++ [u.framesInUse part] }

theorem State.shotAnswered_frame (u : State) (part : Nat) : (u.shotAnswered part).dieTlb = u.dieTlb ∧ (u.shotAnswered part).walkCache = u.walkCache ∧
    (u.shotAnswered part).allCores = u.allCores ∧ (u.shotAnswered part).core = u.core := by
  unfold State.shotAnswered
  split <;> exact ⟨rfl, rfl, rfl, rfl⟩

/-- Where no frame is in use, everything of the partition has been performed or has left. -/
theorem State.shotAnswered_done {u : State} (h : u.framesInUse part = []) : u.shotAnswered part = u.notify .ok ∧
    (∀ p ∈ (u.shotAnswered part).pubs, p.part = part → p.bytes = []) ∧ (∀ w ∈ (u.shotAnswered part).egress, w.part = part → w.bytes = []) ∧
    ∀ a ∈ (u.shotAnswered part).atoms, a.part = part → a.old.isSome = true ∨ a.sent = true := by
  rw [State.shotAnswered, if_pos h]
  exact ⟨rfl, State.pubs_of_framesInUse_nil h, State.egress_of_framesInUse_nil h, State.atoms_of_framesInUse_nil h⟩

theorem exec_shootdown (s : State) (part va pages : Nat) (whole : Bool) :
    exec (.shootdown part va pages whole) s = .next ((s.shoot part va pages whole).shotAnswered part) := rfl

theorem shotPage_eq_false {page : Nat} : shotPage first pages whole page = false ↔ whole = false ∧ overlaps page 1 first pages = false :=
  Bool.or_eq_false_iff

end Sys2Proof.Machine
end

section
/-! Rewriting leaves (R374): the entry of a 64 KiB leaf, the table of a split 2 MiB leaf, and the shootdown of a module at rest. -/

namespace Sys2Proof.Machine

variable {s t : State}

/-! ### A module at rest -/

/-- Nothing is published, on its way or posted, and no core holds a store. -/
structure State.atRest (s : State) : Prop where
  pubs : s.pubs = []
  atoms : s.atoms = []
  egress : s.egress = []
  stores : ∀ c ∈ s.allCores, c.stores = []

/-- What a step of a shootdown leaves of a module at rest. -/
structure State.rests (s t : State) : Prop where
  rest : t.atRest
  mem : t.mem = s.mem

theorem State.rests.refl (h : s.atRest) : s.rests s := ⟨h, rfl⟩

theorem State.rests.foldl {α : Type} {f : State → α → State} (hf : ∀ (s : State) (x : α), s.atRest → s.rests (f s x)) (l : List α) :
    ∀ s : State, s.atRest → s.rests (l.foldl f s) := by
  induction l with
  | nil => exact fun s h => .refl h
  | cons x r ih =>
    intro s h
    have hx := hf s x h
    have hr := ih _ hx.rest
    exact ⟨hr.rest, hr.mem.trans hx.mem⟩

theorem mem_bankPut {α : Type} {b : Bank α} {n : Nat} {x : α} {y : Nat × α} (h : y ∈ bankPut b n x) : y = (n, x) ∨ y ∈ b := by
  induction b with
  | nil => exact .inl (List.mem_singleton.1 h)
  | cons z r ih =>
    rw [bankPut] at h
    split_ifs at h
    · exact (List.mem_cons.1 h).imp_right fun k => List.mem_cons_of_mem _ k
    · exact List.mem_cons.1 h
    · rcases List.mem_cons.1 h with rfl | k
      · exact .inr (List.mem_cons_self ..)
      · exact (ih k).imp_right fun k => List.mem_cons_of_mem _ k

/-- A core by its number is one of the module's, or one at reset. -/
theorem State.coreOf_mem (s : State) (n : Nat) : s.coreOf n ∈ s.allCores ∨ s.coreOf n = Core.reset n := by
  unfold State.coreOf
  split
  · exact .inl (List.mem_cons_self ..)
  · split
    · next m c hfind => exact .inl (List.mem_cons_of_mem _ (List.mem_map.2 ⟨(m, c), List.mem_of_find?_eq_some hfind, rfl⟩))
    · exact .inr rfl

theorem State.atRest.coreOf (h : s.atRest) (n : Nat) : (s.coreOf n).stores = [] := by
  rcases s.coreOf_mem n with hn | hn
  · exact h.stores _ hn
  · rw [hn]; rfl

theorem State.atRest.onCoreN (h : s.atRest) (n : Nat) {f : Core → Core} (hf : ∀ c : Core, c.stores = [] → (f c).stores = []) :
    s.rests (s.onCoreN n f) := by
  refine ⟨?_, State.onCoreN_mem ..⟩
  unfold State.onCoreN
  split
  · refine ⟨h.pubs, h.atoms, h.egress, fun c hc => ?_⟩
    rcases List.mem_cons.1 hc with rfl | hc
    · exact hf _ (h.stores _ (List.mem_cons_self ..))
    · exact h.stores _ (List.mem_cons_of_mem _ hc)
  · refine ⟨h.pubs, h.atoms, h.egress, fun c hc => ?_⟩
    rcases List.mem_cons.1 hc with rfl | hc
    · exact h.stores _ (List.mem_cons_self ..)
    · obtain ⟨y, hy, rfl⟩ := List.mem_map.1 hc
      rcases mem_bankPut hy with rfl | hy
      · exact hf _ (h.coreOf n)
      · exact h.stores _ (List.mem_cons_of_mem _ (List.mem_map.2 ⟨y, hy, rfl⟩))

theorem State.atRest.settleOf (h : s.atRest) (n : Nat) : s.rests (s.settleOf n) := by
  have howed : s.owed n = [] := by simp [State.owed, h.atoms, h.pubs]
  have hpass : s.passOwn n = s := by simp [State.passOwn, h.egress]
  simp only [State.settleOf, howed, List.foldl_nil, hpass]
  exact h.onCoreN n fun c hc => hc

/-- What a flush does after the ended phases of the cores have been settled (R370). -/
def State.flushed (s : State) (part : Nat) : State :=
  let s := (s.sendAtoms part).finishPubs (s.pubs.filter fun p => p.part == part && !s.held p.core p.seq)
  let s := s.finishAtoms (s.atoms.filter fun a => a.part == part && a.loc.peer.isNone)
  (s.egress.filter fun w => w.part == part).foldl (fun s w => if s.mayPass w then s.passPosted w else s) s

theorem State.flushPart_eq (s : State) (part : Nat) :
    s.flushPart part = ((s.running part).foldl (fun s c => s.settleOf c.phys) s).flushed part := rfl

theorem State.atRest.flushed (h : s.atRest) (part : Nat) : s.flushed part = s := by
  have hatoms : s.sendAtoms part = s := by simp [State.sendAtoms, h.atoms]
  simp only [State.flushed, hatoms, h.pubs, h.atoms, h.egress, List.filter_nil, State.finishPubs, State.finishAtoms, List.foldl_nil]

theorem State.atRest.flushPart (h : s.atRest) (part : Nat) : s.rests (s.flushPart part) := by
  have hsettled : s.rests ((s.running part).foldl (fun s c => s.settleOf c.phys) s) :=
    State.rests.foldl (fun t c ht => State.atRest.settleOf ht c.phys) _ s h
  rw [State.flushPart_eq, hsettled.rest.flushed]
  exact hsettled

theorem State.atRest.publishRange (h : s.atRest) (n first pages : Nat) (whole : Bool) : s.rests (s.publishRange n first pages whole) := by
  have hnone : s.publishStores n ((s.coreOf n).stores.filter fun st => shotPage first pages whole (va52 st.va / 2 ^ 16)) = s := by
    rw [h.coreOf n]; rfl
  rw [State.publishRange_eq, hnone]
  exact h.onCoreN n fun c hc => by simp [Core.shot, hc]

theorem State.atRest.publishAll (h : s.atRest) (first pages : Nat) (whole : Bool) (l : List Core) :
    s.rests (s.publishAll first pages whole l) := by
  refine State.rests.foldl (fun t c ht => ?_) l s h
  exact State.atRest.publishRange ht ..

/-- The shootdown of a module at rest changes no byte of memory. -/
theorem State.atRest.shoot_mem (h : s.atRest) (part va pages : Nat) (whole : Bool) : (s.shoot part va pages whole).mem = s.mem := by
  obtain ⟨hrest, hmem⟩ := h.flushPart part
  have hpublished := (hrest.publishAll (va52 va / 2 ^ 16) pages whole ((s.flushPart part).running part)).mem
  rw [State.shoot_eq]
  generalize (s.flushPart part).publishAll _ _ _ _ = u at hpublished ⊢
  exact hpublished.trans hmem

/-! ### The entries of a leaf -/

/-- A write that nobody watches leaves a module at rest. -/
theorem State.atRest.perform (h : s.atRest) (hquiet : s.unwatched) (pa : Nat) (bs : List Byte) : (s.perform pa bs).atRest := by
  have hbooks := State.perform_onlyBooks hquiet pa bs false
  have hcores : (s.perform pa bs).allCores = s.allCores := (congrArg State.allCores hbooks :)
  exact ⟨(congrArg State.pubs hbooks :).trans h.pubs, (congrArg State.atoms hbooks :).trans h.atoms,
    (congrArg State.egress hbooks :).trans h.egress, fun c hc => h.stores c (hcores ▸ hc)⟩

theorem State.perform_unwatched (hquiet : s.unwatched) (pa : Nat) (bs : List Byte) : (s.perform pa bs).unwatched := by
  have hbooks := State.perform_onlyBooks hquiet pa bs false
  exact ⟨hbooks.monitors.trans hquiet.1, hbooks.poisoned.trans hquiet.2⟩

theorem State.perform_mem (hquiet : s.unwatched) (pa : Nat) (bs : List Byte) : (s.perform pa bs).mem = s.mem.writeN pa bs :=
  (State.perform_onlyBooks hquiet pa bs false).mem

theorem State.remap_of_rewriteLeaf {part va n : Nat} {new : Nat → Nat} {t : State} (h : State.rewriteLeaf 3 s part va new = some (t, n)) :
    s.remap part va new = some ((t.shoot part (va52 va / (2 ^ 16 * n) * (2 ^ 16 * n)) n false).transitEnds part) := by
  rw [State.remap, h]
  rfl

theorem State.transitEnds_mem (s : State) (part : Nat) : (s.transitEnds part).mem = s.mem := rfl

/-- A page of a 64 KiB leaf is rewritten in place, in a module at rest. -/
theorem State.remap_inPlace {part va a e : Nat} {new : Nat → Nat} (h : s.atRest) (hquiet : s.unwatched)
    (hslot : s.leafSlot part va = some (a, e, 3)) :
    ∃ t, s.remap part va new = some t ∧ t.mem = s.mem.writeN a (leBytes 8 (new e)) := by
  have hrewrite : State.rewriteLeaf 3 s part va new = some (s.perform a (leBytes 8 (new e)), 1) := by
    rw [State.rewriteLeaf, hslot]; rfl
  refine ⟨_, State.remap_of_rewriteLeaf hrewrite, ?_⟩
  rw [State.transitEnds_mem, (h.perform hquiet a (leBytes 8 (new e))).shoot_mem, State.perform_mem hquiet]

/-- A 2 MiB leaf as a table of 32 leaves, which its entry then names (R374). -/
def leafTable (e : Nat) : List Byte := (List.range 32).flatMap fun i => leBytes 8 (e + i)

theorem State.takeTable_frame {part bytes b : Nat} {u : State} (h : s.takeTable part bytes = some (b, u)) :
    { u with parts := s.parts } = s := by
  unfold State.takeTable at h
  split at h
  · cases h
  · split at h
    · cases h; rfl
    · obtain ⟨f, -, hf⟩ := Option.map_eq_some_iff.1 h
      cases hf; rfl

/-- A page of a 2 MiB leaf is rewritten in the table that its split writes, in a module at rest. -/
theorem State.remap_split {part va a e b c e' : Nat} {u : State} {new : Nat → Nat} (h : s.atRest) (hquiet : s.unwatched)
    (hslot : s.leafSlot part va = some (a, e, 2)) (htable : s.takeTable part 256 = some (b, u))
    (hleaf : ((u.perform b (leafTable e)).perform a (leBytes 8 (2 ^ 63 + b / 256))).leafSlot part va = some (c, e', 3)) :
    ∃ t, s.remap part va new = some t ∧
      t.mem = ((s.mem.writeN b (leafTable e)).writeN a (leBytes 8 (2 ^ 63 + b / 256))).writeN c (leBytes 8 (new e')) := by
  have hframe := State.takeTable_frame htable
  have hcores : u.allCores = s.allCores := (congrArg State.allCores hframe :)
  have hu : u.atRest := ⟨(congrArg State.pubs hframe :).trans h.pubs, (congrArg State.atoms hframe :).trans h.atoms,
    (congrArg State.egress hframe :).trans h.egress, fun x hx => h.stores x (hcores ▸ hx)⟩
  have huq : u.unwatched := ⟨(congrArg State.monitors hframe :).trans hquiet.1, (congrArg State.poisoned hframe :).trans hquiet.2⟩
  have humem : u.mem = s.mem := (congrArg State.mem hframe :)
  have hvq := State.perform_unwatched huq b (leafTable e)
  have hwq := State.perform_unwatched hvq a (leBytes 8 (2 ^ 63 + b / 256))
  have hrest := (((hu.perform huq b (leafTable e)).perform hvq a (leBytes 8 (2 ^ 63 + b / 256))).perform hwq c (leBytes 8 (new e')))
  have hrewrite : State.rewriteLeaf 3 s part va new =
      some (((u.perform b (leafTable e)).perform a (leBytes 8 (2 ^ 63 + b / 256))).perform c (leBytes 8 (new e')), 32) := by
    rw [State.rewriteLeaf, hslot]
    simp only [(by decide : ¬ 2 = 3), if_false, if_true, Nat.reduceMul, htable, one_mul]
    change Option.map _ (State.rewriteLeaf 2 ((u.perform b (leafTable e)).perform a (leBytes 8 (2 ^ 63 + b / 256))) part va new) = _
    rw [State.rewriteLeaf, hleaf]
    rfl
  refine ⟨_, State.remap_of_rewriteLeaf hrewrite, ?_⟩
  rw [State.transitEnds_mem, hrest.shoot_mem, State.perform_mem hwq, State.perform_mem hvq, State.perform_mem huq, humem]

/-! ### The bytes of a leaf and of a table -/

/-- One entry of a table of entries of equal size. -/
theorem flatMap_range_slice {α : Type} {f : Nat → List α} {w : Nat} (hf : ∀ i, (f i).length = w) {n i : Nat} (hi : i < n) :
    (((List.range n).flatMap f).drop (w * i)).take w = f i := by
  have hlen (k : Nat) : ((List.range k).flatMap f).length = w * k := by
    rw [List.length_flatMap, List.map_congr_left fun j _ => hf j, List.map_const', List.length_range, List.sum_replicate, smul_eq_mul, Nat.mul_comm]
  induction n with
  | zero => exact absurd hi (Nat.not_lt_zero i)
  | succ n ih =>
    rw [List.range_succ, List.flatMap_append, List.flatMap_singleton]
    rcases Nat.lt_succ_iff_lt_or_eq.1 hi with hlt | rfl
    · have hroom : w * i + w ≤ w * n := Nat.mul_succ w i ▸ Nat.mul_le_mul_left w hlt
      rw [List.drop_append_of_le_length (by rw [hlen]; omega), List.take_append_of_le_length (by rw [List.length_drop, hlen]; omega), ih hlt]
    · rw [List.drop_append_of_le_length (hlen i).ge, ← hlen i, List.drop_length, List.nil_append, ← hf i, List.take_length]

/-- Bytes within what is written are read back. -/
theorem Memory.readN_writeN_within {m : Memory} (a : Nat) (bs : List Byte) {k n : Nat} (h : m.wf = true) (hk : k + n ≤ bs.length) :
    (m.writeN a bs).readN (a + k) n = (bs.drop k).take n := by
  refine List.ext_getElem (by simp; omega) fun i h1 h2 => ?_
  have hi : i < n := by simpa using h1
  have hread := Memory.readN_getD (a := a + k) (n := n) (Memory.writeN_wf a bs h) hi
  rw [Memory.read_writeN a _ bs h, if_pos (by omega)] at hread
  rw [List.getElem_eq_getD Memory.blank, hread, List.getElem_take, List.getElem_drop, List.getElem_eq_getD Memory.blank,
    show a + k + i - a = k + i by omega]

theorem leafTable_length (e : Nat) : (leafTable e).length = 256 := by
  rw [leafTable, List.length_flatMap, List.map_congr_left fun j _ => leBytes_length 8 (e + j)]
  rfl

/-- Leaf i of a table. -/
theorem readN_leafTable {m : Memory} (h : m.wf = true) (b e : Nat) {i : Nat} (hi : i < 32) :
    (m.writeN b (leafTable e)).readN (b + 8 * i) 8 = leBytes 8 (e + i) := by
  rw [Memory.readN_writeN_within b _ h (by rw [leafTable_length]; omega)]
  exact flatMap_range_slice (fun j => leBytes_length 8 (e + j)) hi

/-- Settles O56: the walk and the scratch pages by what is found, the shootdown by what is in use, the rewrites in a module at rest. -/
theorem walksShootdownsAndScratchPages : Obligations.WalksShootdownsAndScratchPages := by
  refine ⟨fun s part va hpoison => ⟨fun e level hwalk => ?_, fun hnone => ?_⟩, fun s part va pages whole => ?_,
    fun s part va a e new hpubs hatoms hegress hstores hquiet hinv => ⟨fun hslot => ?_, fun b u hslot htable hapart hleaf => ?_⟩,
    fun s page n ps hn hfrozen => ⟨State.makeRoom_of_room, fun hm => ?_, fun m hm => ?_⟩, fun s page hn => exec_scratchPage_unasked hn⟩
  · obtain ⟨hlow, hhigh, hvalid, hok⟩ := State.walkOn_leaf hwalk
    obtain ⟨hcore, htlb, hmem⟩ := (s.walkCached part va).leafCached_core part va e level
    refine ⟨hlow, hhigh, hvalid, hok, _, exec_tableWalk_leaf hpoison hwalk, hmem, htlb, (congrArg Core.tlb hcore :), ?_⟩
    rw [hcore]
    exact ⟨rfl, rfl, rfl, rfl, rfl, rfl, rfl, rfl, rfl, rfl, rfl, rfl, rfl, rfl, rfl, rfl, rfl⟩
  · exact ⟨_, exec_tableWalk_none hpoison hnone, rfl, rfl, rfl⟩
  · obtain ⟨hdie, hcache, hcores, hcore⟩ := (s.shoot part va pages whole).shotAnswered_frame part
    refine ⟨_, exec_shootdown s part va pages whole, ?_, ?_, ?_, ⟨State.shotAnswered_done, fun hne => if_neg hne⟩, fun hrunning hpart hpoison => ?_⟩
    · rw [hdie]; exact State.shoot_dieTlb
    · rw [hcache]; exact State.shoot_walkCache
    · rw [hcores]; exact State.shoot_tlb
    · rw [hcore]
      obtain ⟨hsnap, hstores⟩ := State.shoot_clear (va := va) (pages := pages) (whole := whole) hrunning hpart hpoison
      exact ⟨fun x hx => shotPage_eq_false.1 (hsnap x hx), fun st hst => shotPage_eq_false.1 (hstores st hst)⟩
  · obtain ⟨t, hremap, hmem⟩ := State.remap_inPlace (new := new) ⟨hpubs, hatoms, hegress, hstores⟩ hquiet hslot
    refine ⟨t, hremap, ?_, fun x hx => ?_⟩
    · rw [hmem]; exact Memory.readN_writeN_same a (leBytes 8 (new e)) hinv
    · rw [hmem, Memory.read_writeN _ _ _ hinv, leBytes_length, if_neg (by omega)]
  · obtain ⟨t, hremap, hmem⟩ := State.remap_split (new := new) ⟨hpubs, hatoms, hegress, hstores⟩ hquiet hslot htable hleaf
    have hwf1 := Memory.writeN_wf b (leafTable e) hinv
    have hwf2 := Memory.writeN_wf a (leBytes 8 (2 ^ 63 + b / 256)) hwf1
    have h8 (x : Nat) : (leBytes 8 x).length = 8 := leBytes_length 8 x
    have hk : va52 va / 2 ^ 16 % 32 < 32 := Nat.mod_lt _ (by decide)
    generalize va52 va / 2 ^ 16 % 32 = k at hleaf hmem hk ⊢
    refine ⟨t, hremap, ?_, fun i hi => ?_⟩
    · rw [hmem, Memory.readN_writeN_apart hwf2 (by rw [h8]; omega)]
      exact Memory.readN_writeN_same a (leBytes 8 (2 ^ 63 + b / 256)) hwf1
    · rw [hmem]
      split
      · next heq => rw [heq]; exact Memory.readN_writeN_same (b + 8 * k) (leBytes 8 (new (e + k))) hwf2
      · next hne =>
        rw [Memory.readN_writeN_apart hwf2 (by rw [h8]; omega), Memory.readN_writeN_apart hwf1 (by rw [h8]; omega), readN_leafTable hinv b e hi]
  · obtain ⟨hrefill, hmove⟩ := exec_scratchPageRefill_absent hn hm
    exact ⟨hrefill.trans (congrArg Host.Outcome.next (State.pageArrives_of_refill hfrozen)), hmove⟩
  · obtain ⟨hmove, hrefill⟩ := exec_scratchPageMove_held hn hm
    exact ⟨hmove.trans (congrArg Host.Outcome.next (State.pageArrives_of_refill hfrozen)), hrefill⟩

end Sys2Proof.Machine
end

section
/-! TPOST (R209) and the ends of queues (R349, R416). -/

namespace Sys2Proof.Machine

variable {s : State}

/-! ### TPOST -/

section
variable {b a d : Nat} (hposting : s.core.posting = none)
include hposting

/-- A malformed operand of TPOST: a reserved bit, or a flag number without its notice. -/
def postMalformed (v : Nat) : Prop := v / 2 ^ 15 ≠ 0 ∨ field v 6 2 ≠ 0 ∨ (field v 14 1 = 0 ∧ field v 8 6 ≠ 0)

theorem tpost_raises_inGroup (hg : s.inGroup = true) : raises (.tpost b a d) s .groupViolation := by
  change execTpost b a d s = _
  simp only [execTpost, hposting, Option.isSome_none, Bool.false_eq_true, if_false, hg, if_true]
  rfl

variable (hg : s.inGroup = false)
include hg

theorem tpost_raises_malformed (h : postMalformed (s.rs b).toNat) : raises (.tpost b a d) s .illegal := by
  unfold postMalformed at h
  change execTpost b a d s = _
  simp only [execTpost, hposting, Option.isSome_none, Bool.false_eq_true, if_false, hg, if_pos h]
  rfl

variable (hok : ¬postMalformed (s.rs b).toNat)
include hok

theorem tpost_raises_absent (hq : s.queue? s.core.part (field (s.rs b).toNat 0 6) = none) : raises (.tpost b a d) s .illegal := by
  unfold postMalformed at hok
  change execTpost b a d s = _
  simp only [execTpost, hposting, Option.isSome_none, Bool.false_eq_true, if_false, hg, if_neg hok, hq]
  rfl

/-- The notice that TPOST asks for. -/
def postNotice (v : Nat) : Option Nat := if field v 14 1 = 1 then some (field v 8 6) else none

section
variable {x : Queue} (hq : s.queue? s.core.part (field (s.rs b).toNat 0 6) = some x)
include hq

theorem tpost_raises_perm (hprog : x.attr.prog = false) : raises (.tpost b a d) s .perm := by
  unfold postMalformed at hok
  change execTpost b a d s = _
  simp only [execTpost, hposting, Option.isSome_none, Bool.false_eq_true, if_false, hg, if_neg hok, hq, hprog, Bool.not_false, if_true]
  rfl

variable (hprog : x.attr.prog = true) {ps : List Piece} (hcheck : s.check .read 3 (s.rs a).toNat 128 64 = .ok ps)
include hprog hcheck

theorem exec_tpost_stalls (hrejects : x.rejects = false) (hfull : x.attr.depth ≤ s.taken s.core.part x) :
    exec (.tpost b a d) s = .next (s.stallOn (.queue (field (s.rs b).toNat 0 6))) := by
  unfold postMalformed at hok
  change execTpost b a d s = _
  simp only [execTpost, hposting, Option.isSome_none, Bool.false_eq_true, if_false, hg, if_neg hok, hq, hprog, Bool.not_true, hcheck,
    State.checked, hrejects, Bool.not_false, hfull, and_self, if_true]

variable (hroom : x.rejects = true ∨ s.taken s.core.part x < x.attr.depth)
include hroom

theorem exec_tpost_owing {v : State} (hv : s.finishOwn = v) (howing : v.owing = true) : exec (.tpost b a d) s = .next (v.freeze .publish) := by
  have hnot : ¬((!x.rejects) = true ∧ x.attr.depth ≤ s.taken s.core.part x) := by
    rcases hroom with h | h
    · simp [h]
    · omega
  unfold postMalformed at hok
  change execTpost b a d s = _
  simp only [execTpost, hposting, Option.isSome_none, Bool.false_eq_true, if_false, hg, if_neg hok, hq, hprog, Bool.not_true, hcheck,
    State.checked, if_neg hnot, State.inFull_owing hv howing]

/-- TPOST holds the bytes that it has read, and waits for its copy. -/
theorem exec_tpost_posts {v w : State} {bs : List Byte} (hv : s.finishOwn = v) (howing : v.owing = false)
    (hread : v.enginePost.readPieces ps = (.inl bs, w)) : exec (.tpost b a d) s = .next (w.onCore fun c => { c with
      posting := some ⟨field (s.rs b).toNat 0 6, bs, d, postNotice (s.rs b).toNat⟩, stall := none }).wait := by
  have hnot : ¬((!x.rejects) = true ∧ x.attr.depth ≤ s.taken s.core.part x) := by
    rcases hroom with h | h
    · simp [h]
    · omega
  unfold postMalformed at hok
  change execTpost b a d s = _
  simp only [execTpost, hposting, Option.isSome_none, Bool.false_eq_true, if_false, hg, if_neg hok, hq, hprog, Bool.not_true, hcheck,
    State.checked, if_neg hnot, State.inFull_ready hv howing, hread, postNotice]

end

end

/-! ### The ends of queues -/

section
variable {part q : Nat} {p : Partition} {x : Queue} (hp : s.part? part = some p) (hx : s.queue? part q = some x)
include hp hx

theorem exec_queueReopen : exec (.queueReopen part q) s = .next
    (if x.state ≠ .resetting ∨ x.head ≠ x.tail ∨ !p.queueDone q then s
     else (s.onQueue part q fun x => { x with head := 0, tail := 0, state := .opened, mark := none }).showQueue part q) := by
  change execQueueReopen part q s = _
  simp only [execQueueReopen, hp, hx]

theorem exec_queueClosed : exec (.queueClosed part q) s = .next
    (if x.state ≠ .opened ∨ x.mark.isNone ∨ !x.idx.isEmpty ∨ !p.queueDone q then s
     else (s.onQueue part q fun x => { x with state := .closed }).showQueue part q) := by
  change execQueueClosed part q s = _
  simp only [execQueueClosed, hp, hx]

end

/-- The bytes of a queue's control block in memory (Table 22-3). -/
def Queue.shown (x : Queue) (m : Memory) : Memory :=
  (m.writeN x.ctl (leBytes 8 x.tail ++ leBytes 8 x.head)).writeN (x.ctl + 30) (leBytes 1 x.state.code)

/-- Where nobody watches, a control block shown is written to memory and leaves the partitions and the acting core. -/
theorem State.showQueue_frame {part q : Nat} {x : Queue} (hquiet : s.unwatched) (hx : s.queue? part q = some x) :
    (s.showQueue part q).mem = x.shown s.mem ∧ (s.showQueue part q).parts = s.parts ∧ (s.showQueue part q).core = s.core ∧
      (s.showQueue part q).now = s.now := by
  have hshow : s.showQueue part q =
      (s.perform x.ctl (leBytes 8 x.tail ++ leBytes 8 x.head)).perform (x.ctl + 30) (leBytes 1 x.state.code) := by
    rw [State.showQueue, hx]
  have hfirst := State.perform_onlyBooks hquiet x.ctl (leBytes 8 x.tail ++ leBytes 8 x.head) false
  have hquiet' := State.perform_unwatched hquiet x.ctl (leBytes 8 x.tail ++ leBytes 8 x.head)
  have hsecond := State.perform_onlyBooks hquiet' (x.ctl + 30) (leBytes 1 x.state.code) false
  rw [hshow]
  refine ⟨?_, (congrArg State.parts hsecond :).trans (congrArg State.parts hfirst :), (congrArg State.core hsecond :).trans (congrArg State.core hfirst :),
    (congrArg State.now hsecond :).trans (congrArg State.now hfirst :)⟩
  rw [State.perform_mem hquiet', State.perform_mem hquiet]
  rfl

theorem State.queue?_of_parts {t : State} (h : t.parts = s.parts) (part q : Nat) : t.queue? part q = s.queue? part q := by
  rw [State.queue?, State.queue?, State.part?, State.part?, h]

/-- A queue that is changed and shown. -/
theorem State.queue?_showQueue_onQueue {part q : Nat} {x : Queue} (hquiet : s.unwatched) {f : Queue → Queue} (hf : ∀ x, (f x).q = x.q)
    (hx : s.queue? part q = some x) : ((s.onQueue part q f).showQueue part q).queue? part q = some (f x) := by
  have hchanged := State.queue?_onQueue_same hf hx
  rw [State.queue?_of_parts (State.showQueue_frame (s := s.onQueue part q f) hquiet hchanged).2.1, hchanged]

end Sys2Proof.Machine
end

section
/-! Tasks by their numbers (R335, R336), and what the end of a task leaves of its record (R342, R345, R210). -/

namespace Sys2Proof.Machine

variable {s t : State} {n i d : Nat} {u : Task}

/-! ### The one task of a number -/

/-- The tasks of a partition with a number are one. -/
def State.sole (s : State) (n i : Nat) (u : Task) : Prop := (s.part? n).map (fun p => p.tasks.filter (·.idx == i)) = some [u]

theorem State.sole_iff : s.sole n i u ↔ ∃ p, s.part? n = some p ∧ p.tasks.filter (·.idx == i) = [u] := Option.map_eq_some_iff

theorem idx_of_filter {l : List Task} (h : l.filter (·.idx == i) = [u]) : u.idx = i :=
  beq_iff_eq.1 (List.mem_filter.1 (h ▸ List.mem_singleton_self u : u ∈ l.filter (·.idx == i))).2

theorem State.sole.idx (h : s.sole n i u) : u.idx = i := by
  obtain ⟨p, -, hp⟩ := State.sole_iff.1 h
  exact idx_of_filter hp

/-- The one task of a number is the one that the number names, finished or not. -/
theorem Partition.named_sole {p : Partition} (h : p.tasks.filter (·.idx == i) = [u]) {v : Task} (hv : v ∈ p.tasks) :
    p.named i v = (v.idx == i) := by
  cases hidx : v.idx == i with
  | false => simp [Partition.named, hidx]
  | true =>
    have hvu : v = u := List.mem_singleton.1 (h ▸ List.mem_filter.2 ⟨hv, hidx⟩)
    subst hvu
    cases hfin : v.finished with
    | false => simp [Partition.named, hidx, hfin]
    | true =>
      have hall : (p.tasks.all fun w => w.idx != i || w.finished) = true := by
        refine List.all_eq_true.2 fun w hw => ?_
        by_cases hwi : w.idx = i
        · have hwv : w = v := List.mem_singleton.1 (h ▸ List.mem_filter.2 ⟨hw, beq_iff_eq.2 hwi⟩)
          rw [hwv, hfin, Bool.or_true]
        · simp [hwi]
      simp [Partition.named, hidx, hall]

theorem Partition.task?_of_filter {p : Partition} (h : p.tasks.filter (·.idx == i) = [u]) : p.task? i = some u := by
  have hfind : p.tasks.find? (p.named i) = p.tasks.find? (·.idx == i) := by
    rw [← List.head?_filter, ← List.head?_filter, List.filter_congr fun v hv => Partition.named_sole h hv]
  rw [Partition.task?, hfind, ← List.head?_filter, h]
  rfl

theorem State.sole.task? (h : s.sole n i u) : s.task? n i = some u := by
  obtain ⟨p, hp, hu⟩ := State.sole_iff.1 h
  rw [State.task?, hp]
  exact Partition.task?_of_filter hu

/-- A change of the first task that a test finds, seen by the numbers. -/
theorem filter_changeFirst_other {l : List Task} {q : Task → Bool} {f : Task → Task} (hq : ∀ v ∈ l, q v = true → v.idx ≠ i ∧ (f v).idx ≠ i) :
    (changeFirst q f l).filter (·.idx == i) = l.filter (·.idx == i) := by
  induction l with
  | nil => rfl
  | cons v r ih =>
    rw [changeFirst]
    split
    · next hv =>
      obtain ⟨hold, hnew⟩ := hq v (List.mem_cons_self ..) hv
      rw [List.filter_cons_of_neg (by simpa using hnew), List.filter_cons_of_neg (by simpa using hold)]
    · rw [List.filter_cons, List.filter_cons, ih fun w hw => hq w (List.mem_cons_of_mem _ hw)]

theorem filter_changeFirst_same {l : List Task} {f : Task → Task} (hf : (f u).idx = i) (h : l.filter (·.idx == i) = [u]) :
    (changeFirst (·.idx == i) f l).filter (·.idx == i) = [f u] := by
  induction l with
  | nil => cases h
  | cons v r ih =>
    rw [changeFirst]
    split
    · next hv =>
      rw [List.filter_cons_of_pos (p := fun t : Task => t.idx == i) hv] at h
      obtain ⟨rfl, hr⟩ := List.cons.inj h
      rw [List.filter_cons_of_pos (by simpa using hf), hr]
    · next hv =>
      rw [List.filter_cons_of_neg (p := fun t : Task => t.idx == i) hv] at h ⊢
      exact ih h

theorem changeFirst_congr {α : Type} {p q : α → Bool} (f : α → α) {l : List α} (h : ∀ x ∈ l, p x = q x) : changeFirst p f l = changeFirst q f l := by
  induction l with
  | nil => rfl
  | cons x r ih => rw [changeFirst, changeFirst, h x (List.mem_cons_self ..), ih fun y hy => h y (List.mem_cons_of_mem _ hy)]

theorem State.sole.onTask (h : s.sole n i u) {f : Task → Task} (hf : (f u).idx = i) : (s.onTask n i f).sole n i (f u) := by
  obtain ⟨p, hp, hu⟩ := State.sole_iff.1 h
  refine State.sole_iff.2 ⟨_, (State.part?_onPart_same fun _ => by rfl).trans (congrArg _ hp), ?_⟩
  change (changeFirst (p.named i) f p.tasks).filter _ = _
  rw [changeFirst_congr f fun v hv => Partition.named_sole hu hv]
  exact filter_changeFirst_same hf hu

theorem State.sole.onTask_other (h : s.sole n i u) (hd : d ≠ i) {f : Task → Task} (hf : ∀ v, (f v).idx = v.idx) : (s.onTask n d f).sole n i u := by
  obtain ⟨p, hp, hu⟩ := State.sole_iff.1 h
  refine State.sole_iff.2 ⟨_, (State.part?_onPart_same fun _ => by rfl).trans (congrArg _ hp), ?_⟩
  change (changeFirst (p.named d) f p.tasks).filter _ = _
  rw [filter_changeFirst_other fun v _ hv => ?_, hu]
  have hvd : v.idx = d := by
    simp only [Partition.named, Bool.and_eq_true, beq_iff_eq] at hv
    exact hv.1
  exact ⟨hvd ▸ hd, (hf v).trans hvd ▸ hd⟩

theorem State.sole.steady (h : s.sole n i u) (k : s.steady t) : t.sole n i u := by
  have hwork : (t.taskWork n).map (fun w => w.1.filter (·.idx == i)) = (s.taskWork n).map (fun w => w.1.filter (·.idx == i)) := by rw [k.work]
  rw [State.taskWork, State.taskWork, Option.map_map, Option.map_map] at hwork
  exact hwork.trans h

/-- Where no two tasks of a partition have one number, the task of a number is the one of it. -/
theorem State.sole_of_nodup (hnodup : (((s.part? n).map (·.tasks)).getD [] |>.map (·.idx)).Nodup) (h : s.task? n i = some u) : s.sole n i u := by
  cases hp : s.part? n with
  | none => rw [State.task?, hp] at h; cases h
  | some p =>
    rw [State.task?, hp] at h
    rw [hp] at hnodup
    have hu : u ∈ p.tasks := List.mem_of_find?_eq_some h
    have hui : u.idx = i := by
      have hnamed := List.find?_some h
      simp only [Partition.named, Bool.and_eq_true, beq_iff_eq] at hnamed
      exact hnamed.1
    refine State.sole_iff.2 ⟨p, hp, ?_⟩
    have hone : ∀ {l : List Task}, (l.map (·.idx)).Nodup → u ∈ l → l.filter (·.idx == i) = [u] := by
      intro l
      induction l with
      | nil => exact fun _ h => absurd h List.not_mem_nil
      | cons v r ih =>
        intro hnd hmem
        rw [List.map_cons, List.nodup_cons] at hnd
        rcases List.mem_cons.1 hmem with rfl | hmem
        · rw [List.filter_cons_of_pos (by simpa using hui), List.filter_eq_nil_iff.2 fun w hw hwi =>
            hnd.1 (List.mem_map.2 ⟨w, hw, (beq_iff_eq.1 hwi).trans hui.symm⟩)]
        · have hv : ¬(v.idx == i) = true := fun hv => hnd.1 (List.mem_map.2 ⟨u, hmem, hui.trans (beq_iff_eq.1 hv).symm⟩)
          rw [List.filter_cons_of_neg (p := fun t : Task => t.idx == i) hv, ih hnd.2 hmem]
    exact hone hnodup hu

/-! ### The end of a task -/

/-- The one task of a number is ending or draining, with a code. -/
def State.endsAs (s : State) (n i code : Nat) : Prop := ∃ w, s.sole n i w ∧ (w.state = .ending ∨ w.state = .draining) ∧ w.code = code

variable {code : Nat}

theorem State.endsAs.steady (h : s.endsAs n i code) (k : s.steady t) : t.endsAs n i code :=
  let ⟨w, hw, hstate, hcode⟩ := h
  ⟨w, hw.steady k, hstate, hcode⟩

/-- A change of tasks that keeps numbers and codes and leaves an ending task ending. -/
theorem State.endsAs.onTask (h : s.endsAs n i code) (d : Nat) {f : Task → Task} (hidx : ∀ v, (f v).idx = v.idx) (hcode : ∀ v, (f v).code = v.code)
    (hstate : ∀ v, v.state = .ending ∨ v.state = .draining → (f v).state = .ending ∨ (f v).state = .draining) : (s.onTask n d f).endsAs n i code := by
  obtain ⟨w, hw, hends, hwcode⟩ := h
  by_cases hd : d = i
  · subst hd
    exact ⟨f w, hw.onTask ((hidx w).trans hw.idx), hstate w hends, (hcode w).trans hwcode⟩
  · exact ⟨w, hw.onTask_other hd hidx, hends, hwcode⟩

theorem State.settles.hubWrite (m rec off k v : Nat) : s.settles (s.hubWrite m rec off k v) := by
  unfold State.hubWrite
  split
  · exact .perform ..
  · exact .refl s

theorem State.settles.headsIn (m rec cluster : Nat) (qs : List (Nat × List Head)) : s.settles (s.headsIn m rec cluster qs) := by
  refine .foldl (fun t x => ?_) _ s
  split <;> exact .of_same rfl rfl rfl

/-- What a record held goes with it. -/
theorem State.settles.forget (m rec : Nat) : s.settles (s.forget m rec) := by
  have hheads : s.settles (match s.savedOf m rec with
      | some x => s.headsIn m rec 0 x.queued
      | none => s) := by
    split
    · exact .headsIn ..
    · exact .refl s
  have hdrop (u : State) : u.settles (u.dropSaved m rec) := .of_same rfl rfl rfl
  have hpart (u : State) : u.settles (u.onPart m fun p => { p with
      recs := p.recs.filter (·.1 != rec)
      ready := p.ready.filter (·.cont != rec)
      handlers := p.handlers.filter (·.1 != rec)
      holds := p.holds.filter (·.cont != rec) }) := .onPart (fun _ => rfl) fun _ => rfl
  have hwaits (u : State) : u.settles { u with
      monitors := u.monitors.filter fun x => x.who != .record m rec
      rings := u.rings.filter fun x => x.attached || !x.of m rec } := .of_same rfl rfl rfl
  exact ((hheads.trans (hdrop _)).trans (hpart _)).trans (hwaits _)

section
variable (h : s.endsAs n i code)
include h

theorem State.endsAs.settleTask (task : Nat) : (s.settleTask n task).endsAs n i code := by
  unfold State.settleTask
  split
  · exact h
  · split
    · exact h
    · refine h.onTask task (fun v => ?_) (fun v => ?_) fun v hv => ?_
      · split <;> rfl
      · split <;> rfl
      · split
        · exact .inr rfl
        · exact hv

theorem State.endsAs.endRec (rec st : Nat) : (s.endRec n rec st).endsAs n i code := by
  have hforgotten : s.settles ((s.setRecSt n rec st 0).forget n rec) := (State.settles.hubWrite ..).trans (.forget ..)
  exact (h.steady hforgotten.tosteady).settleTask _

theorem State.endsAs.cancelCopies (task : Nat) : (s.cancelCopies n task).endsAs n i code :=
  h.steady (State.settles.of_same (s := s) (t := s.cancelCopies n task) rfl rfl rfl).tosteady

theorem State.endsAs.cancelRecords (task : Nat) : (s.cancelRecords n task).endsAs n i code := by
  unfold State.cancelRecords
  split
  · exact h
  · refine List.foldlRecOn _ _ (motive := fun t : State => t.endsAs n i code) h fun t ht r _ => ?_
    split
    · next m _ =>
      have hmarked : t.settles (t.setRecBits n r.1 8 1 1) := .hubWrite ..
      exact ht.steady (hmarked.trans (.onCoreN m Core.steady_preempt fun _ => rfl)).tosteady
    · exact ht.endRec ..

theorem State.endsAs.freeDeps {cancel : State → Nat → State} (hcancel : ∀ t d, t.endsAs n i code → (cancel t d).endsAs n i code) (idx k c : Nat) :
    (s.freeDeps cancel n idx k c).endsAs n i code := by
  refine List.foldlRecOn _ _ (motive := fun t : State => t.endsAs n i code) h fun t ht d _ => ?_
  have hedges (b : Bool) : (t.onTask n d fun u => { u with edges := u.edges.filter (· != idx), poison := u.poison || b }).endsAs n i code :=
    ht.onTask d (fun _ => rfl) (fun _ => rfl) fun _ hv => hv
  dsimp only
  split
  · exact hedges _
  · exact hcancel _ _ (hedges _)

end

/-- The end of another task, or of the task again, leaves an ending task as it is. -/
theorem State.endsAs.endTask (fuel : Nat) : ∀ (s : State) (idx c : Nat), s.endsAs n i code → (State.endTask fuel s n idx c).endsAs n i code := by
  induction fuel with
  | zero => exact fun _ _ _ h => h
  | succ fuel ih =>
    intro s idx c h
    unfold State.endTask
    split
    · exact h
    · next t ht =>
      dsimp only
      split
      · exact h
      · next hlive =>
        obtain ⟨w, hw, hstate, hcode⟩ := h
        have hidx : idx ≠ i := by
          rintro rfl
          have htw : t = w := Option.some.inj (ht.symm.trans hw.task?)
          subst htw
          rcases hstate with hst | hst <;> simp [hst] at hlive
        have hmarked : (s.onTask n idx fun t => { t with
            state := .ending, code := if t.code = 0 then c else t.code, holds := t.holds && c != 0x21 }).endsAs n i code :=
          ⟨w, hw.onTask_other hidx fun _ => rfl, hstate, hcode⟩
        exact (((hmarked.freeDeps (fun t d => ih t d 0x21) ..).cancelCopies _).cancelRecords _).settleTask _

/-- A task that has not ended is ending, or draining, after its end. -/
theorem State.ending_endsAs (h : s.sole n i u) (hstate : u.state = .queued ∨ u.state = .waiting ∨ u.state = .running) (c : Nat) :
    (s.ending n i c).endsAs n i (if u.code = 0 then c else u.code) := by
  have hlive : ¬(u.state ≠ .queued ∧ u.state ≠ .waiting ∧ u.state ≠ .running) := by
    rintro ⟨hq, hw, hr⟩
    rcases hstate with hst | hst | hst
    · exact hq hst
    · exact hw hst
    · exact hr hst
  have hmarked : (s.onTask n i fun t => { t with
      state := .ending, code := if t.code = 0 then c else t.code, holds := t.holds && c != 0x21 }).endsAs n i (if u.code = 0 then c else u.code) :=
    ⟨_, h.onTask h.idx, .inl rfl, rfl⟩
  unfold State.ending State.endTask
  rw [h.task?]
  simp only [if_neg hlive]
  exact (((hmarked.freeDeps (fun t d => State.endsAs.endTask _ t d 0x21) ..).cancelCopies _).cancelRecords _).settleTask _

/-! ### TCANCEL -/

section
variable {a e : Nat}

theorem tcancel_raises_inGroup (hg : s.inGroup = true) : raises (.tcancel a e) s .groupViolation := by
  change execTcancel a e s = _
  simp only [execTcancel, hg, if_true]
  rfl

variable (hg : s.inGroup = false)
include hg

theorem tcancel_raises_illegal (h : 2 ^ 32 ≤ (s.rs a).toNat) : raises (.tcancel a e) s .illegal := by
  change execTcancel a e s = _
  simp only [execTcancel, hg, Bool.false_eq_true, if_false, if_pos h]
  rfl

variable (hv : (s.rs a).toNat < 2 ^ 32)
include hv

theorem exec_tcancel_absent (ht : s.task? s.core.part (s.rs a).toNat = none) : exec (.tcancel a e) s = .next (s.result 6 [.s e 2]) := by
  change execTcancel a e s = _
  simp only [execTcancel, hg, Bool.false_eq_true, if_false, if_neg (Nat.not_le.2 hv), ht]

theorem exec_tcancel_task (ht : s.task? s.core.part (s.rs a).toNat = some u) : exec (.tcancel a e) s =
    .next (if u.finished then s.result 6 [.s e 1] else (s.result 6 [.s e 0]).ending s.core.part (s.rs a).toNat 0x21) := by
  change execTcancel a e s = _
  simp only [execTcancel, hg, Bool.false_eq_true, if_false, if_neg (Nat.not_le.2 hv), ht]

/-- A task that has not ended is ending after its cancellation. -/
theorem exec_tcancel_ends (ht : s.task? s.core.part (s.rs a).toNat = some u) (hstate : u.state = .queued ∨ u.state = .waiting ∨ u.state = .running)
    (hnodup : (((s.part? s.core.part).map (·.tasks)).getD [] |>.map (·.idx)).Nodup) : ∃ t w, exec (.tcancel a e) s = .next t ∧
      t.task? s.core.part (s.rs a).toNat = some w ∧ (w.state = .ending ∨ w.state = .draining) ∧ w.code = if u.code = 0 then 0x21 else u.code := by
  have hfin : u.finished = false := by rcases hstate with h | h | h <;> simp [Task.finished, h]
  have hsole : (s.result 6 [.s e 0]).sole s.core.part (s.rs a).toNat u := State.sole_of_nodup hnodup ht
  obtain ⟨w, hw, hends, hcode⟩ := State.ending_endsAs hsole hstate 0x21
  refine ⟨_, w, ?_, hw.task?, hends, hcode⟩
  rw [exec_tcancel_task hg hv ht, hfin, if_neg Bool.false_ne_true]

end

end Sys2Proof.Machine
end

section
/-! The copy of a posted descriptor that completes (R209), and entries that the scheduler takes (R335–R337, R349). -/

namespace Sys2Proof.Machine

variable {s t : State} {n i : Nat} {u : Task}

/-! ### Answers (R341, R389) -/

theorem State.settles.onQueue (m q : Nat) {f : Queue → Queue} (hf : ∀ y, ((f y).q, (f y).head, (f y).idx) = (y.q, y.head, y.idx)) :
    s.settles (s.onQueue m q f) := by
  refine .onPart (fun _ => rfl) fun p => ?_
  change (p.tasks, (p.queues.map _).map _) = (p.tasks, p.queues.map _)
  rw [List.map_map]
  refine congrArg _ (List.map_congr_left fun y _ => ?_)
  change (fun y : Queue => (y.q, y.head, y.idx)) (if y.q = q then f y else y) = _
  split
  · exact hf y
  · rfl

theorem State.settles.deliverNotice (m rec f : Nat) : s.settles (s.deliverNotice m rec f) := by
  unfold State.deliverNotice
  split
  · exact .onCoreN _ (fun _ => ⟨rfl, rfl, rfl, rfl, rfl, rfl, fun _ h => h, fun _ h => h⟩) fun _ => rfl
  · split
    · exact .hubWrite ..
    · exact .refl s

theorem State.settles.notify (x : Notice) : s.settles (s.notify x) := .of_same rfl rfl rfl

/-- The signal, the completion record and the notice of a task change no task. -/
theorem State.settles.answer (m idx : Nat) : s.settles (s.answer m idx) := by
  unfold State.answer
  split
  · exact .refl s
  · next t _ =>
    have hsignal (o : Option Nat) (bs : List Byte) : s.settles (match o with
        | some pa => s.perform pa bs
        | none => s) := by
      split
      · exact .perform ..
      · exact .refl s
    have hcounted (v : State) : v.settles (v.onQueue m t.q fun x => { x with completions := x.completions + 1 }) := .onQueue m t.q fun _ => rfl
    have hrecord (v : State) (g : Queue → Notice) : v.settles (match v.queue? m t.q with
        | some x => if x.attr.cring = 0 then v else (v.onQueue m t.q fun x => { x with completions := x.completions + 1 }).notify (g x)
        | none => v) := by
      split
      · exact .ite (.refl v) ((hcounted v).trans (.notify _))
      · exact .refl v
    have hnotice (v : State) : v.settles (match t.notice with
        | some (rec, f) => v.deliverNotice m rec f
        | none => v) := by
      split
      · exact .deliverNotice ..
      · exact .refl v
    exact ((hsignal _ _).trans (hrecord _ _)).trans (hnotice _)

/-- A rejected task keeps its code. -/
theorem State.sole.reject (h : s.sole n i u) (code : Nat) : (s.reject n i code).sole n i { u with state := .rejected, code := code } :=
  (h.onTask (f := fun t => { t with state := .rejected, code := code }) h.idx).steady (State.settles.answer ..).tosteady

/-! ### The copy of a posted descriptor -/

/-- The acting core once its copy has taken an index. -/
def Core.postDone (w : Posting) (idx : Nat) (c : Core) : Core :=
  let c := match w.notice with
    | some f => c.write (.fl f false)
    | none => c
  { c with posting := none, done := c.done ||| 2 ^ 7, late := c.late ++ [.s w.d (BitVec.ofNat 64 idx)], requeue := true }

theorem Core.postDone_fields (w : Posting) (idx : Nat) (c : Core) : (c.postDone w idx).posting = none ∧ (c.postDone w idx).done = c.done ||| 2 ^ 7 ∧
    (c.postDone w idx).late = c.late ++ [.s w.d (BitVec.ofNat 64 idx)] := by
  unfold Core.postDone
  cases w.notice <;> exact ⟨rfl, rfl, rfl⟩

/-- A task enters a partition with its notice, its entry at a place of its queue's ring. -/
def State.enters (s : State) (part q pos : Nat) (notice : Option (Nat × Nat)) : State := s.onPart part fun p => p.enter q pos notice

/-- The copy in a queue that has room: the ring slot holds the descriptor, and the queue the entry. -/
def State.postEntry (s : State) (part : Nat) (w : Posting) (x : Queue) (idx : Nat) (notice : Option (Nat × Nat)) : State :=
  let pos := x.tail % x.attr.depth
  (((s.perform (x.attr.ring + 128 * pos) w.desc).enters part w.q pos notice).onQueue part w.q fun x =>
    { x with tail := (x.tail + 1) % 2 ^ 64, idx := x.idx ++ [idx] }).showQueue part w.q

/-- The copy in a queue that accepts nothing: its task is rejected. -/
def State.postReject (s : State) (part : Nat) (w : Posting) (idx : Nat) (notice : Option (Nat × Nat)) : State :=
  ((s.enters part w.q 0 notice).onTask part idx fun u => { u with desc := some (Desc.of w.desc) }).reject part idx admQueueClosed

section
variable {w : Posting} {x : Queue} {p : Partition} (hposting : s.core.posting = some w) (hx : s.queue? s.core.part w.q = some x)
  (hp : s.part? s.core.part = some p)
include hposting hx hp

theorem exec_tpostCopyComplete : exec .tpostCopyComplete s = .next (if !x.rejects ∧ x.attr.depth ≤ x.held then s
    else if x.rejects then
      (s.onCore (Core.postDone w p.nextIdx)).postReject s.core.part w p.nextIdx (w.notice.map fun f => (s.core.cont, f))
    else (s.onCore (Core.postDone w p.nextIdx)).postEntry s.core.part w x p.nextIdx (w.notice.map fun f => (s.core.cont, f))) := by
  change execTpostCopyComplete s = _
  simp only [execTpostCopyComplete, hposting, hx, hp]
  rfl

end

/-- A task that enters under a number that only finished tasks have is the one of that number. -/
theorem State.enters_sole {part q pos : Nat} {notice : Option (Nat × Nat)} {p : Partition} (hp : s.part? part = some p)
    (hfinished : ∀ u ∈ p.tasks, u.idx = p.nextIdx → u.finished = true) :
    (s.enters part q pos notice).sole part p.nextIdx (Task.queued p.nextIdx q pos notice) := by
  refine State.sole_iff.2 ⟨_, (State.part?_onPart_same fun _ => by rfl).trans (congrArg _ hp), ?_⟩
  change ((p.tasks.filter fun t => !(t.idx == p.nextIdx && t.finished)) ++ [Task.queued p.nextIdx q pos notice]).filter _ = _
  rw [List.filter_append, List.filter_filter, List.filter_eq_nil_iff.2, List.nil_append]
  · exact List.filter_cons_of_pos (p := fun t : Task => t.idx == p.nextIdx) (beq_self_eq_true p.nextIdx)
  · intro u hu hkept
    simp only [Bool.and_eq_true, beq_iff_eq, Bool.not_eq_true', Bool.and_eq_false_iff, beq_eq_false_iff_ne] at hkept
    obtain ⟨hidx, hold | hfin⟩ := hkept
    · exact hold hidx
    · rw [hfinished u hu hidx] at hfin; cases hfin

/-- A posted task that is rejected (R209). -/
theorem State.postReject_spec {w : Posting} {p : Partition} {notice : Option (Nat × Nat)} {part : Nat} (hp : s.part? part = some p)
    (hfinished : ∀ u ∈ p.tasks, u.idx = p.nextIdx → u.finished = true) :
    (s.postReject part w p.nextIdx notice).core.posting = s.core.posting ∧ (s.postReject part w p.nextIdx notice).core.done = s.core.done ∧
      ((s.postReject part w p.nextIdx notice).task? part p.nextIdx).map (fun u => (u.state, u.code)) = some (.rejected, 0x46) := by
  have hentered := State.enters_sole (q := w.q) (pos := 0) (notice := notice) hp hfinished
  have hdescribed := hentered.onTask (f := fun u => { u with desc := some (Desc.of w.desc) }) rfl
  have hanswer (v : State) : v.settles (v.answer part p.nextIdx) := .answer ..
  refine ⟨(hanswer _).core.posting, (hanswer _).core.done, ?_⟩
  rw [State.postReject, (hdescribed.reject admQueueClosed).task?]
  rfl

/-- Memory once a posted entry stands in its ring and its queue's control block is shown. -/
theorem Memory.read_posted {m : Memory} (hwf : m.wf = true) {desc : List Byte} (hlen : desc.length = 128) (slot : Nat) (x : Queue) {k : Nat}
    (hout : k < x.ctl ∨ x.ctl + 16 ≤ k) (hstate : k ≠ x.ctl + 30) :
    (x.shown (m.writeN slot desc)).read k = if slot ≤ k ∧ k < slot + 128 then desc.getD (k - slot) 0 else m.read k := by
  have hslot := Memory.writeN_wf slot desc hwf
  rw [Queue.shown, Memory.read_writeN _ _ _ (Memory.writeN_wf _ _ hslot), Memory.read_writeN _ _ _ hslot, Memory.read_writeN _ _ _ hwf, hlen, if_neg, if_neg]
  · rfl
  · rw [List.length_append, leBytes_length, leBytes_length]
    omega
  · rw [leBytes_length]
    omega

/-- A posted entry, where nobody watches: its task, its queue, the ring slot and the control block. -/
theorem State.postEntry_spec {part : Nat} {w : Posting} {x : Queue} {p : Partition} {notice : Option (Nat × Nat)} (hquiet : s.unwatched) (hinv : s.inv)
    (hp : s.part? part = some p) (hx : s.queue? part w.q = some x) (hlen : w.desc.length = 128) :
    let pos := x.tail % x.attr.depth
    let slot := x.attr.ring + 128 * pos
    let t := s.postEntry part w x p.nextIdx notice
    t.core = s.core ∧ t.part? part = some { p with
        nextIdx := (p.nextIdx + 1) % 2 ^ 32
        tasks := (p.tasks.filter fun u => !(u.idx == p.nextIdx && u.finished)) ++ [Task.queued p.nextIdx w.q pos notice]
        queues := p.queues.map fun y => if y.q = w.q then { y with tail := (y.tail + 1) % 2 ^ 64, idx := y.idx ++ [p.nextIdx] } else y } ∧
      ∀ k, (k < x.ctl ∨ x.ctl + 16 ≤ k) → k ≠ x.ctl + 30 →
        t.mem.read k = if slot ≤ k ∧ k < slot + 128 then w.desc.getD (k - slot) 0 else s.mem.read k := by
  intro pos slot t
  have hbooks := State.perform_onlyBooks hquiet slot w.desc false
  have hentered : ((s.perform slot w.desc).enters part w.q pos notice).part? part = some (p.enter w.q pos notice) := by
    rw [State.enters, State.part?_onPart_same (fun _ => by rfl), State.part?, show (s.perform slot w.desc).parts = s.parts from (congrArg State.parts hbooks :)]
    exact congrArg (Option.map _) hp
  have hqueued : ((s.perform slot w.desc).enters part w.q pos notice).queue? part w.q = some x := by
    rw [State.queue?_of_part hentered, ← hx, State.queue?_of_part hp]
    rfl
  have hshown := State.showQueue_frame (s := ((s.perform slot w.desc).enters part w.q pos notice).onQueue part w.q fun x =>
    { x with tail := (x.tail + 1) % 2 ^ 64, idx := x.idx ++ [p.nextIdx] }) (State.perform_unwatched hquiet slot w.desc)
    (State.queue?_onQueue_same (fun _ => by rfl) hqueued)
  obtain ⟨hmem, hparts, hcore, -⟩ := hshown
  refine ⟨hcore.trans (congrArg State.core hbooks :), ?_, fun k hout hstate => ?_⟩
  · rw [State.part?, show t.parts = _ from hparts]
    exact (State.part?_onPart_same fun _ => by rfl).trans (congrArg (Option.map _) hentered)
  · rw [show t.mem = Queue.shown _ (s.mem.writeN slot w.desc) from hmem.trans (congrArg (Queue.shown _) (State.perform_mem hquiet slot w.desc))]
    exact Memory.read_posted hinv hlen slot { x with tail := (x.tail + 1) % 2 ^ 64, idx := x.idx ++ [p.nextIdx] } hout hstate

end Sys2Proof.Machine
end

section
/-! Entries that the scheduler takes (R335–R337, R349). -/

namespace Sys2Proof.Machine

variable {s v : State} {part q i : Nat} {p : Partition} {x : Queue} {t u : Task} {d : Desc}

/-! ### HEAD and the entries of a queue -/

/-- HEAD of a queue and the indices of its entries. -/
def State.entries (s : State) (part q : Nat) : Option (Nat × List Nat) := (s.queue? part q).map fun y => (y.head, y.idx)

theorem State.entries_eq : s.entries part q = (s.taskWork part).bind fun w => (w.2.find? (·.1 == q)).map (·.2) := by
  cases hp : s.part? part with
  | none => rw [State.entries, State.queue?, State.taskWork, hp]; rfl
  | some p =>
    rw [State.entries, State.queue?_of_part hp, State.taskWork, hp]
    change _ = ((p.queues.map fun y => (y.q, y.head, y.idx)).find? _).map _
    rw [List.find?_map, Option.map_map]
    rfl

theorem State.entries_steady (h : s.steady v) : v.entries part q = s.entries part q := by
  rw [State.entries_eq, State.entries_eq, h.work]

/-- A change of a partition that keeps its queues keeps their entries. -/
theorem State.entries_onPart {f : Partition → Partition} (hno : ∀ p, (f p).no = p.no) (hqueues : ∀ p, (f p).queues = p.queues) :
    (s.onPart part f).entries part q = s.entries part q := by
  rw [State.entries, State.entries, State.queue?, State.queue?, State.part?_onPart_same hno]
  cases s.part? part with
  | none => rfl
  | some p => exact congrArg (fun l : List Queue => (l.find? _).map _) (hqueues p)

theorem State.entries_reject (code : Nat) : (s.reject part i code).entries part q = s.entries part q :=
  (State.entries_steady (State.settles.answer part i).tosteady).trans (State.entries_onPart (fun _ => rfl) fun _ => rfl)

/-- A change of a partition that keeps its tasks, or changes each in place, leaves the one of a number the one. -/
theorem State.sole.mapTasks (h : s.sole part i u) {f : Partition → Partition} {g : Task → Task} (hno : ∀ p, (f p).no = p.no)
    (htasks : ∀ p, (f p).tasks = p.tasks.map g) (hidx : ∀ t, (g t).idx = t.idx) : (s.onPart part f).sole part i (g u) := by
  obtain ⟨p, hp, hu⟩ := State.sole_iff.1 h
  refine State.sole_iff.2 ⟨_, (State.part?_onPart_same hno).trans (congrArg _ hp), ?_⟩
  have hnumber : (fun t : Task => t.idx == i) ∘ g = fun t => t.idx == i := funext fun t => by rw [Function.comp, hidx]
  rw [htasks, List.filter_map, hnumber, hu]
  rfl

/-! ### The entry at HEAD -/

/-- The entry at a queue's HEAD is taken from it. -/
def State.entryTaken (s : State) (part q : Nat) : State :=
  ((s.onQueue part q fun x => { x with head := (x.head + 1) % 2 ^ 64, idx := x.idx.drop 1 }).showQueue part q).entryLeft (.queue q) fun c => c.part == part

/-- A queue whose first entry is taken, of a partition's. -/
def Partition.entryTaken (p : Partition) (q : Nat) : Partition :=
  { p with queues := p.queues.map fun x => if x.q = q then { x with head := (x.head + 1) % 2 ^ 64, idx := x.idx.drop 1 } else x }

/-- Taking an entry, where nobody watches. -/
theorem State.entryTaken_spec (hquiet : s.unwatched) (hp : s.part? part = some p) (hx : s.queue? part q = some x) :
    (s.entryTaken part q).part? part = some (p.entryTaken q) ∧ (s.entryTaken part q).now = s.now ∧
      (s.entryTaken part q).entries part q = some ((x.head + 1) % 2 ^ 64, x.idx.drop 1) := by
  have hchanged := State.queue?_onQueue_same (f := fun x => { x with head := (x.head + 1) % 2 ^ 64, idx := x.idx.drop 1 }) (fun _ => by rfl) hx
  have hpart : (s.onQueue part q fun x => { x with head := (x.head + 1) % 2 ^ 64, idx := x.idx.drop 1 }).part? part = some (p.entryTaken q) :=
    (State.part?_onPart_same fun _ => by rfl).trans (congrArg _ hp)
  obtain ⟨-, hparts, -, hnow⟩ := State.showQueue_frame
    (s := s.onQueue part q fun x => { x with head := (x.head + 1) % 2 ^ 64, idx := x.idx.drop 1 }) hquiet hchanged
  have hqueue := State.queue?_of_parts (t := s.entryTaken part q) (hparts :) part q
  refine ⟨?_, hnow, ?_⟩
  · rw [← hpart, State.part?, State.part?]
    exact congrArg (List.find? _) (hparts :)
  · rw [State.entries, hqueue, hchanged]
    rfl

/-- The task of an entry that is taken is the one of its number. -/
theorem State.entryTaken_sole (hp : s.part? part = some p) (hx : s.queue? part q = some x) (hquiet : s.unwatched)
    (hnodup : (p.tasks.map (·.idx)).Nodup) (ht : s.task? part i = some t) : (s.entryTaken part q).sole part i t := by
  obtain ⟨hpart, -, -⟩ := State.entryTaken_spec hquiet hp hx
  have hsole : s.sole part i t := State.sole_of_nodup (by rw [hp]; exact hnodup) ht
  obtain ⟨p', hp', htasks⟩ := State.sole_iff.1 hsole
  cases hp.symm.trans hp'
  exact State.sole_iff.2 ⟨_, hpart, htasks⟩

/-! ### Admission (R337, Table 18-5) -/

/-- Late tasks are lowered before the test of a HARD task only. -/
def State.tested (s : State) (part : Nat) (d : Desc) : State := if d.cls = 0 then s.lowerLate part else s

theorem State.tested_part? (hp : s.part? part = some p) :
    ∃ p', (s.tested part d).part? part = some p' ∧ p'.nextAdm = p.nextAdm := by
  unfold State.tested
  split
  · exact ⟨_, (State.part?_onPart_same fun _ => by rfl).trans (congrArg _ hp), rfl⟩
  · exact ⟨p, hp, rfl⟩

theorem State.tested_entries : (s.tested part d).entries part q = s.entries part q := by
  unfold State.tested
  split
  · exact State.entries_onPart (fun _ => rfl) fun _ => rfl
  · rfl

theorem State.tested_now : (s.tested part d).now = s.now := by
  unfold State.tested
  split <;> rfl

/-- A HARD task whose deadline has come, lowered to SOFT. -/
def Task.lowered (now : Nat) (t : Task) : Task :=
  if t.admitted && t.cls == 0 && decide (((t.desc.map (·.deadline)).getD 0) ≤ now) then { t with cls := 1, dem := true } else t

theorem Task.lowered_idx (now : Nat) (t : Task) : (t.lowered now).idx = t.idx := by
  unfold Task.lowered
  split <;> rfl

theorem Task.lowered_of_not_admitted (ht : t.admitted = false) (now : Nat) : t.lowered now = t := by
  rw [Task.lowered, ht, Bool.false_and, Bool.false_and, if_neg Bool.false_ne_true]

/-- A task that has not been admitted is not lowered. -/
theorem State.sole.tested (h : s.sole part i u) (hu : u.admitted = false) : (s.tested part d).sole part i u := by
  have hlowered : (s.lowerLate part).sole part i (u.lowered s.now) := h.mapTasks (fun _ => rfl) (fun _ => rfl) (Task.lowered_idx s.now)
  rw [Task.lowered_of_not_admitted hu] at hlowered
  unfold State.tested
  split
  · exact hlowered
  · exact h

/-- What a task that passes admission keeps to. -/
theorem State.admission_none (h : s.admission p x t d = none) :
    d.malformed = false ∧ d.budget ≠ 0 ∧ (d.cls ≠ 2 → s.now < d.deadline) := by
  unfold State.admission at h
  simp only [ite_eq_iff, reduceCtorEq, and_false, false_or, Bool.or_eq_true, not_or, Bool.not_eq_true] at h
  obtain ⟨-, ⟨hmalformed, -⟩, -, -, hbudget, hdeadline, -⟩ := h
  exact ⟨hmalformed, hbudget, fun hcls => Nat.not_le.1 fun hle => hdeadline ⟨hcls, hle⟩⟩

/-- The code of a check that fails in an open queue. -/
theorem State.admission_some {code : Nat} (hopen : x.state = .opened) (h : s.admission p x t d = some code) :
    0x40 ≤ code ∧ code ≤ 0x48 ∧ (d.malformed = true → code = 0x48) := by
  unfold State.admission at h
  rw [if_neg (not_not.2 hopen)] at h
  by_cases hmalformed : d.malformed = true
  · rw [hmalformed, Bool.true_or, if_pos rfl] at h
    cases h
    exact ⟨by decide, by decide, fun _ => rfl⟩
  · refine (fun hrange => ⟨hrange.1, hrange.2, fun hm => absurd hm hmalformed⟩ : 0x40 ≤ code ∧ code ≤ 0x48 → _) ?_
    simp only [ite_eq_iff, Option.some.injEq, reduceCtorEq, and_false, or_false] at h
    simp only [admDescriptor, admGroup, admDegraded, admBudgetZero, admPastDeadline, admWindow, admOverload, admFootprintFull] at h
    omega

/-- A task that is admitted waits, in its place of admission. -/
theorem State.takeIn_spec (hp : s.part? part = some p) (h : s.sole part i u) :
    ∃ w, (s.takeIn part i).sole part i w ∧ w.state = .waiting ∧ w.adm = p.nextAdm ∧ w.desc = u.desc ∧
      (s.takeIn part i).entries part q = s.entries part q := by
  unfold State.takeIn
  rw [hp, h.task?]
  have hadmitted (w : Task) (hw : w.idx = i) : ((s.onTask part i fun _ => w).onPart part fun p => { p with nextAdm := p.nextAdm + 1 }).sole part i w :=
    (h.onTask (f := fun _ => w) hw).mapTasks (g := id) (fun _ => rfl) (fun _ => (List.map_id _).symm) fun _ => rfl
  have hentries (f : Task → Task) : ((s.onTask part i f).onPart part fun p => { p with nextAdm := p.nextAdm + 1 }).entries part q = s.entries part q :=
    (State.entries_onPart (s := s.onTask part i f) (f := fun p => { p with nextAdm := p.nextAdm + 1 }) (fun _ => rfl) fun _ => rfl).trans
      (State.entries_onPart (f := fun p => { p with tasks := changeFirst (p.named i) f p.tasks }) (fun _ => rfl) fun _ => rfl)
  exact ⟨_, hadmitted _ h.idx, rfl, rfl, rfl, hentries _⟩

/-- The end of a TASK_TAKE of an open queue: the task is rejected or admitted. -/
def State.decided (s : State) (part i : Nat) (x : Queue) (t : Task) (d : Desc) : State :=
  match (s.tested part d).part? part with
  | none => s
  | some p => match (s.tested part d).admission p x t d with
    | some code => (if testedBy code then s.tested part d else s).reject part i code
    | none => (s.tested part d).takeIn part i

theorem State.decided_spec (hp : s.part? part = some p) (h : s.sole part i u) (hu : u.admitted = false) (hopen : x.state = .opened) :
    ∃ w, (s.decided part i x t d).sole part i w ∧ w.desc = u.desc ∧ (s.decided part i x t d).entries part q = s.entries part q ∧
      ((w.state = .waiting ∧ w.adm = p.nextAdm ∧ d.malformed = false ∧ d.budget ≠ 0 ∧ (d.cls ≠ 2 → s.now < d.deadline)) ∨
        (w.state = .rejected ∧ 0x40 ≤ w.code ∧ w.code ≤ 0x48 ∧ (d.malformed = true → w.code = 0x48))) := by
  obtain ⟨p', hp', hadm⟩ := State.tested_part? (d := d) hp
  unfold State.decided
  rw [hp']
  dsimp only
  split
  · next code hcode =>
    have hrange := State.admission_some hopen hcode
    have hrejected {r : State} (hr : r.sole part i u) (hentries : r.entries part q = s.entries part q) : ∃ w, (r.reject part i code).sole part i w ∧
        w.desc = u.desc ∧ (r.reject part i code).entries part q = s.entries part q ∧ w.state = .rejected ∧ w.code = code :=
      ⟨_, hr.reject code, rfl, (State.entries_reject code).trans hentries, rfl, rfl⟩
    have hends : ∃ w, ((if testedBy code then s.tested part d else s).reject part i code).sole part i w ∧ w.desc = u.desc ∧
        ((if testedBy code then s.tested part d else s).reject part i code).entries part q = s.entries part q ∧ w.state = .rejected ∧ w.code = code := by
      split
      · exact hrejected (h.tested hu) State.tested_entries
      · exact hrejected h rfl
    obtain ⟨w, hw, hdesc, hentries, hstate, rfl⟩ := hends
    exact ⟨w, hw, hdesc, hentries, .inr ⟨hstate, hrange⟩⟩
  · next hnone =>
    obtain ⟨hmalformed, hbudget, hdeadline⟩ := State.admission_none hnone
    obtain ⟨w, hw, hstate, hplace, hdesc, hentries⟩ := State.takeIn_spec (q := q) hp' (h.tested (d := d) hu)
    exact ⟨w, hw, hdesc, hentries.trans State.tested_entries, .inl ⟨hstate, hplace.trans hadm, hmalformed, hbudget, State.tested_now (d := d) ▸ hdeadline⟩⟩

/-! ### TASK_TAKE -/

section
variable (hp : s.part? part = some p) (hswap : p.swapped = false) (hquiesced : p.quiesced = false) (hfatal : p.fatal = false)
  (hx : p.queues.find? (·.q == q) = some x)
include hp hswap hquiesced hfatal hx

theorem exec_taskTake_none (hnext : p.next x = none) : exec (.taskTake part q) s = .next s := by
  change execTaskTake part q s = _
  simp only [execTaskTake, hp, hswap, hquiesced, hfatal, Bool.or_false, Bool.false_eq_true, if_false, hx, Option.bind_some, hnext, Option.map_none]

variable (hnext : p.next x = some i)
include hnext

theorem exec_taskTake_moves (hmoves : s.rootMoves part (s.entryAt x x.head).root = true) : exec (.taskTake part q) s = .next s := by
  change execTaskTake part q s = _
  simp only [execTaskTake, hp, hswap, hquiesced, hfatal, Bool.or_false, Bool.false_eq_true, if_false, hx, Option.bind_some, hnext, Option.map_some,
    hmoves, if_true]

theorem exec_taskTake (hmoves : s.rootMoves part (s.entryAt x x.head).root = false) (htask : (s.entryTaken part q).task? part i = some t)
    (hqueued : t.state = .queued) : exec (.taskTake part q) s = .next
      (if x.state = .resetting then ((s.entryTaken part q).onTask part i (·.posted (s.entryAt x x.head))).ending part i 0x21
       else ((s.entryTaken part q).onTask part i (·.posted (s.entryAt x x.head))).decided part i x (t.posted (s.entryAt x x.head)) (s.entryAt x x.head)) := by
  unfold State.entryTaken at htask
  change execTaskTake part q s = _
  simp only [execTaskTake, hp, hswap, hquiesced, hfatal, Bool.or_false, Bool.false_eq_true, if_false, hx, Option.bind_some, hnext, Option.map_some,
    hmoves, htask, hqueued, ne_eq, not_true, State.entryTaken]
  rfl

section
variable (hquiet : s.unwatched) (hnodup : (p.tasks.map (·.idx)).Nodup) (ht : s.task? part i = some t) (hqueued : t.state = .queued)
  (hmoves : s.rootMoves part (s.entryAt x x.head).root = false)
include hquiet hnodup ht hqueued hmoves

/-- The task of an entry taken from an open queue is admitted or rejected (R337). -/
theorem taskTake_decides (hopen : x.state = .opened) : ∃ u w, exec (.taskTake part q) s = .next u ∧ u.task? part i = some w ∧
    w.desc = some (s.entryAt x x.head) ∧ u.entries part q = some ((x.head + 1) % 2 ^ 64, x.idx.drop 1) ∧
    ((w.state = .waiting ∧ w.adm = p.nextAdm ∧ (s.entryAt x x.head).malformed = false ∧ (s.entryAt x x.head).budget ≠ 0 ∧
        ((s.entryAt x x.head).cls ≠ 2 → s.now < (s.entryAt x x.head).deadline)) ∨
      (w.state = .rejected ∧ 0x40 ≤ w.code ∧ w.code ≤ 0x48 ∧ ((s.entryAt x x.head).malformed = true → w.code = 0x48))) := by
  obtain ⟨hpart, hnow, hentries⟩ := State.entryTaken_spec hquiet hp ((State.queue?_of_part hp).trans hx)
  have hsole := State.entryTaken_sole hp ((State.queue?_of_part hp).trans hx) hquiet hnodup ht
  have hposted := hsole.onTask (f := (·.posted (s.entryAt x x.head))) hsole.idx
  have hplace : ((s.entryTaken part q).onTask part i (·.posted (s.entryAt x x.head))).part? part = some _ :=
    (State.part?_onPart_same fun _ => by rfl).trans (congrArg _ hpart)
  have hout : (t.posted (s.entryAt x x.head)).admitted = false := by
    rw [Task.admitted, show (t.posted (s.entryAt x x.head)).state = .queued from hqueued]
  obtain ⟨w, hw, hdesc, hkept, hend⟩ := State.decided_spec (q := q) (t := t.posted (s.entryAt x x.head)) (d := s.entryAt x x.head)
    hplace hposted hout hopen
  have hstay : ((s.entryTaken part q).onTask part i (·.posted (s.entryAt x x.head))).entries part q = (s.entryTaken part q).entries part q :=
    State.entries_onPart (fun _ => rfl) fun _ => rfl
  refine ⟨_, w, ?_, hw.task?, hdesc, hkept.trans (hstay.trans hentries), ?_⟩
  · rw [exec_taskTake hp hswap hquiesced hfatal hx hnext hmoves hsole.task? hqueued, if_neg (by simp [hopen])]
  · rw [← hnow]
    exact hend

/-- The task of an entry taken from a queue that is resetting ends (R349). -/
theorem taskTake_ends (hreset : x.state = .resetting) : ∃ u w, exec (.taskTake part q) s = .next u ∧ u.task? part i = some w ∧
    (w.state = .ending ∨ w.state = .draining) := by
  have hsole := State.entryTaken_sole hp ((State.queue?_of_part hp).trans hx) hquiet hnodup ht
  have hposted := hsole.onTask (f := (·.posted (s.entryAt x x.head))) hsole.idx
  obtain ⟨w, hw, hends, -⟩ := State.ending_endsAs hposted (.inl hqueued) 0x21
  exact ⟨_, w, by rw [exec_taskTake hp hswap hquiesced hfatal hx hnext hmoves hsole.task? hqueued, if_pos hreset], hw.task?, hends⟩

end

end

/-! ### The obligation -/

/-- Settles O52: TPOST checks its operand in the order of R209 and holds the bytes read; its copy enters the task, or rejects it; a
cancelled task ends; an entry taken is admitted or rejected by the first failing check; drained queues reopen or close. -/
theorem taskQueuesAndPosting : Obligations.TaskQueuesAndPosting := by
  unfold Obligations.TaskQueuesAndPosting
  refine ⟨fun s b a d hposting => ⟨tpost_raises_inGroup hposting, fun hg => tpost_raises_malformed hposting hg, fun hg hhigh hres hflag => ?_⟩,
    fun s w x p hposting hx hp hquiet hinv hlen hfinished => ?_,
    fun s a d => ⟨tcancel_raises_inGroup, fun hg => ⟨tcancel_raises_illegal hg, exec_tcancel_absent hg, fun u hv ht => ⟨fun hfin => ?_, fun hfin => ?_,
      exec_tcancel_ends hg hv ht⟩⟩⟩,
    fun s part q i p x t hp hswap hquiesced hfatal hx hquiet hnodup =>
      ⟨exec_taskTake_none hp hswap hquiesced hfatal hx, fun hnext ht hqueued => ⟨exec_taskTake_moves hp hswap hquiesced hfatal hx hnext,
        taskTake_decides hp hswap hquiesced hfatal hx hnext hquiet hnodup ht hqueued,
        taskTake_ends hp hswap hquiesced hfatal hx hnext hquiet hnodup ht hqueued⟩⟩,
    fun s part q p x hp hx hquiet => ⟨fun hreset hempty hdone => ?_, fun hstay => ?_, fun hopen hmark hempty hdone => ?_, fun hstay => ?_⟩⟩
  · have hok : ¬postMalformed (s.rs b).toNat := by
      rintro (h | h | ⟨h, h'⟩)
      · exact h hhigh
      · exact h hres
      · rcases hflag with hf | hf
        · rw [hf] at h; cases h
        · exact h' hf
    refine ⟨tpost_raises_absent hposting hg hok, fun x hq => ⟨tpost_raises_perm hposting hg hok hq, fun hprog ps hcheck =>
      ⟨exec_tpost_stalls hposting hg hok hq hprog hcheck, fun hroom => ⟨exec_tpost_owing hposting hg hok hq hprog hcheck hroom rfl,
        fun howing bs w hread => ?_⟩⟩⟩⟩
    exact ⟨_, exec_tpost_posts hposting hg hok hq hprog hcheck hroom rfl howing hread, rfl, rfl, rfl, rfl, rfl⟩
  · obtain ⟨hnone, hdone, hlate⟩ := Core.postDone_fields w p.nextIdx s.core
    refine ⟨fun hopen hfull => ?_, fun hopen hroom => ?_, fun hrejects => ?_⟩
    · rw [exec_tpostCopyComplete hposting hx hp, if_pos ⟨by rw [hopen]; rfl, hfull⟩]
    · obtain ⟨hcore, hpart, hmem⟩ := State.postEntry_spec (s := s.onCore (Core.postDone w p.nextIdx)) (notice := w.notice.map fun f => (s.core.cont, f))
        hquiet hinv hp hx hlen
      refine ⟨_, ?_, (congrArg Core.posting hcore).trans hnone, (congrArg Core.done hcore).trans hdone, (congrArg Core.late hcore).trans hlate, hpart, hmem⟩
      rw [exec_tpostCopyComplete hposting hx hp, if_neg (fun h => Nat.not_le.2 hroom h.2), if_neg (by simp [hopen])]
    · obtain ⟨hcore, hcdone, htask⟩ := State.postReject_spec (s := s.onCore (Core.postDone w p.nextIdx)) (w := w)
        (notice := w.notice.map fun f => (s.core.cont, f)) hp hfinished
      refine ⟨_, ?_, hcore.trans hnone, hcdone.trans hdone, htask⟩
      rw [exec_tpostCopyComplete hposting hx hp, if_neg (by simp [hrejects]), if_pos hrejects]
  · rw [exec_tcancel_task hg hv ht, if_pos hfin]
  · rw [exec_tcancel_task hg hv ht, if_neg (by simp [hfin])]
  · refine ⟨_, ?_, State.queue?_showQueue_onQueue hquiet (f := fun x => { x with head := 0, tail := 0, state := .opened, mark := none }) (fun _ => rfl) hx⟩
    rw [exec_queueReopen hp hx, if_neg (by simp [hreset, hempty, hdone])]
  · rw [exec_queueReopen hp hx, if_pos (by simpa using hstay)]
  · refine ⟨_, ?_, State.queue?_showQueue_onQueue hquiet (f := fun x => { x with state := .closed }) (fun _ => rfl) hx⟩
    rw [exec_queueClosed hp hx, if_neg (by simp [hopen, Option.isSome_iff_ne_none.1 hmark, hempty, hdone])]
  · rw [exec_queueClosed hp hx, if_pos (by simpa using hstay)]

end Sys2Proof.Machine
end

section
/-! The integer vector instructions (R141, R142, R146): one operation on the codes read, narrowed once. -/

namespace Sys2Proof.Machine

variable {s : State} {x : VArgs} {i : Instr} {bound n : Nat}

/-- The flags of reserved codes among the first n sources of a lane (R34). -/
def IntElt.sourceFlags (e : IntElt) (n a b c : Nat) : Flags :=
  if n = 1 then (e.code a).2 else if n = 2 then (e.code a).2 ||| (e.code b).2 else (e.code a).2 ||| (e.code b).2 ||| (e.code c).2

/-- An integer operation that is `f` of the codes read, with the flags of its sources, does with the lanes what R146 says. -/
theorem integerLanes_of_intOp {f : IntElt → Nat → Nat → Nat → Int} {g} (hexec : exec i s = s.intOp x bound g)
    (hg : ∀ e a b c, g e a b c = (f e (e.code a).1 (e.code b).1 (e.code c).1, e.sourceFlags n a b c)) :
    integerLanes i s x bound n f := by
  refine ⟨fun h => ?_, fun e h => ?_⟩
  · simp only [raises, hexec, State.intOp, h, State.refuse]
  · simp only [writesLanes, hexec, State.intOp, h, State.lanewise_eq_map, hg, IntElt.sourceFlags]

/-- The same of both forms of an instruction (R140). -/
theorem integerLanes_of_intOp_both {o : VR} {q : VL} {j : Instr} {f : IntElt → Nat → Nat → Nat → Int} (g)
    (hshort : exec i s = s.intOp (s.shortArgs o) bound g) (hlong : exec j s = s.intOp (s.longArgs q) bound g)
    (hg : ∀ e a b c, g e a b c = (f e (e.code a).1 (e.code b).1 (e.code c).1, e.sourceFlags n a b c)) :
    integerLanes i s (s.shortArgs o) bound n f ∧ integerLanes j s (s.longArgs q) bound n f :=
  ⟨integerLanes_of_intOp hshort hg, integerLanes_of_intOp hlong hg⟩

/-! ### What an operation makes of the codes, where its definition does not say it in these words -/

variable (e : IntElt) (a b c : Nat)

/-- A code read has only the element's bits. -/
theorem IntElt.code_lt : (e.code c).1 < 2 ^ e.w := by
  unfold IntElt.code
  dsimp only
  split
  · exact Nat.two_pow_pos _
  · exact Nat.mod_lt _ (Nat.two_pow_pos _)

theorem vMulh_eq : vMulh e a b c = (e.int (e.code a).1 * e.int (e.code b).1 / 2 ^ e.w, e.sourceFlags 2 a b c) := by
  simp [vMulh, int2, IntElt.sourceFlags]

theorem vAbs_eq : vAbs e a b c =
    (if e.int (e.code a).1 < 0 then -e.int (e.code a).1 else e.int (e.code a).1, e.sourceFlags 1 a b c) := by
  have h (y : Int) : (y.natAbs : Int) = if y < 0 then -y else y := by omega
  simp only [vAbs, int1, h, IntElt.sourceFlags, if_true]

theorem vSra_eq : vSra e a b c =
    ((((e.code a).1 % 2 ^ e.w : Nat) : Int).bmod (2 ^ e.w) / 2 ^ ((e.code b).1 % e.w), e.sourceFlags 2 a b c) := by
  rw [Nat.mod_eq_of_lt (e.code_lt a)]
  simp [vSra, code2, toSigned_eq_bmod, IntElt.sourceFlags]

theorem vPopc_eq : vPopc e a b c =
    ((((List.range e.w).filter fun k => (e.code a).1.testBit k).length : Int), e.sourceFlags 1 a b c) := by
  simp only [vPopc, int1, ones, IntElt.sourceFlags, if_true, funext (hasBit_eq_testBit _)]

/-- The leading zeros of a code: its highest one bit is one of the element's. -/
theorem vClz_eq : vClz e a b c =
    (if (e.code a).1 = 0 then (e.w : Int) else e.w - 1 - (e.code a).1.log2, e.sourceFlags 1 a b c) := by
  have h : ((leading e.w (e.code a).1 : Nat) : Int) = if (e.code a).1 = 0 then (e.w : Int) else e.w - 1 - (e.code a).1.log2 := by
    unfold leading
    split_ifs with h0
    · rfl
    · have := (Nat.log2_lt h0).2 (e.code_lt a)
      omega
  simp only [vClz, int1, h, IntElt.sourceFlags, if_true]

/-- Settles O37: each instruction is one operation of `State.intOp`, in both forms. -/
theorem integerVectorInstructions : Obligations.IntegerVectorInstructions := by
  refine ⟨fun s o q => ?arithmetic, fun s o q => ?bitwise⟩
  case arithmetic =>
    exact ⟨integerLanes_of_intOp_both vAdd rfl rfl fun _ _ _ _ => rfl, integerLanes_of_intOp_both vSub rfl rfl fun _ _ _ _ => rfl,
      integerLanes_of_intOp_both vMul rfl rfl fun _ _ _ _ => rfl, integerLanes_of_intOp_both vMulh rfl rfl vMulh_eq,
      integerLanes_of_intOp_both vMin rfl rfl fun _ _ _ _ => rfl, integerLanes_of_intOp_both vMax rfl rfl fun _ _ _ _ => rfl,
      integerLanes_of_intOp_both vAbs rfl rfl vAbs_eq, integerLanes_of_intOp_both vNeg rfl rfl fun _ _ _ _ => rfl,
      integerLanes_of_intOp (g := vMad) rfl fun _ _ _ _ => rfl⟩
  case bitwise =>
    exact ⟨integerLanes_of_intOp_both vAnd rfl rfl fun _ _ _ _ => rfl, integerLanes_of_intOp_both vOr rfl rfl fun _ _ _ _ => rfl,
      integerLanes_of_intOp_both vXor rfl rfl fun _ _ _ _ => rfl, integerLanes_of_intOp_both vNot rfl rfl fun _ _ _ _ => rfl,
      integerLanes_of_intOp_both vShl rfl rfl fun _ _ _ _ => rfl, integerLanes_of_intOp_both vShr rfl rfl fun _ _ _ _ => rfl,
      integerLanes_of_intOp_both vSra rfl rfl vSra_eq, integerLanes_of_intOp_both vPopc rfl rfl vPopc_eq,
      integerLanes_of_intOp_both vClz rfl rfl vClz_eq⟩

end Sys2Proof.Machine
end

section
/-! The conversions (R151–R155): the lanes that SEL names, and what each active element becomes. -/

namespace Sys2Proof.Machine

variable {s : State} {x : VArgs} {i : Instr} {bound ls ld sel : Nat}

/-! ### The lanes of a conversion (R151) -/

/-- The first of the lanes of width `w` that a conversion of `n` elements to or from lanes of width `other` uses. -/
def convBase (w other n sel : Nat) : Nat := if w < other then sel * n else 0

theorem convLanes_of_ratio_le (h : max ls ld / min ls ld ≤ sel) : convLanes ls ld sel = none := if_neg (Nat.not_lt.2 h)

theorem convLanes_of_lt_ratio (h : sel < max ls ld / min ls ld) :
    convLanes ls ld sel = some (4096 / max ls ld, convBase ls ld (4096 / max ls ld) sel, convBase ld ls (4096 / max ls ld) sel) := if_pos h

/-- The source lanes of a conversion lie in the register. -/
theorem convBase_add_le (h : sel < max ls ld / min ls ld) :
    convBase ls ld (4096 / max ls ld) sel + 4096 / max ls ld ≤ 4096 / ls := by
  unfold convBase
  split_ifs with hlt
  · rw [max_eq_right hlt.le, min_eq_left hlt.le] at h
    rw [max_eq_right hlt.le]
    have hls : 0 < ls := Nat.pos_of_ne_zero fun h0 => by simp [h0] at h
    calc sel * (4096 / ld) + 4096 / ld = (sel + 1) * (4096 / ld) := (Nat.succ_mul ..).symm
      _ ≤ ld / ls * (4096 / ld) := Nat.mul_le_mul_right _ h
      _ ≤ 4096 / ls := (Nat.le_div_iff_mul_le hls).2 <|
        calc ld / ls * (4096 / ld) * ls = ld / ls * ls * (4096 / ld) := Nat.mul_right_comm ..
          _ ≤ ld * (4096 / ld) := Nat.mul_le_mul_right _ (Nat.div_mul_le_self ..)
          _ ≤ 4096 := Nat.mul_div_le ..
  · rw [max_eq_left (Nat.not_lt.1 hlt), Nat.zero_add]

/-- The source of a conversion, element by element. -/
theorem State.convSource_eq_map {n lo : Nat} (h : lo + n ≤ 4096 / ls) :
    s.convSource x ls n lo = (List.range n).map fun k => if s.core.act x.p k then some (s.core.lane ls x.a (lo + k)) else none := by
  simp only [State.convSource, State.active_eq_map, State.lanes_eq_map, map_zipIdx_map_range]
  refine List.map_congr_left fun k hk => ?_
  have hk := List.mem_range.1 hk
  rw [toArray_getD_map_range _ _ (by omega)]

/-! ### Conversions of elements one by one -/

/-- The element results of a conversion: of each active element its code and flags. -/
def State.converted (s : State) (x : VArgs) (ls ld sel : Nat) (r : Nat → Nat → Nat → Nat × Flags) : List (Option (Nat × Flags)) :=
  (List.range (4096 / max ls ld)).map fun k =>
    if s.core.act x.p k then
      some (r k ((s.draws (4096 / max ls ld)).1.getD k 0) (s.core.lane ls x.a (convBase ls ld (4096 / max ls ld) sel + k)))
    else none

theorem State.convert_of_ratio_le (h : max ls ld / min ls ld ≤ sel) (r) : s.convert x bound ls ld sel r = s.refuse .illegal := by
  simp only [State.convert, convLanes_of_ratio_le h]

theorem State.convert_of_lt_ratio (h : sel < max ls ld / min ls ld) (r) : s.convert x bound ls ld sel r =
    ((s.draws (4096 / max ls ld)).2.raiseFlags ((s.converted x ls ld sel r).foldl (fun g y => g ||| (y.map (·.2)).getD 0) 0)).result bound
      [laneWrite x.d ld (convBase ld ls (4096 / max ls ld) sel) ((s.converted x ls ld sel r).map (·.map (·.1)))] := by
  have hrs : ((s.convSource x ls (4096 / max ls ld) (convBase ls ld (4096 / max ls ld) sel)).zipIdx.map fun q =>
      q.1.map (r q.2 ((s.draws (4096 / max ls ld)).1.toArray.getD q.2 0))) = s.converted x ls ld sel r := by
    rw [State.convSource_eq_map (convBase_add_le h), map_zipIdx_map_range]
    refine List.map_congr_left fun k _ => ?_
    cases s.core.act x.p k <;> simp
  simp only [State.convert, convLanes_of_lt_ratio h, hrs]

/-- An instruction that is a conversion of elements: refused where SEL names no lanes, else each element converted. -/
theorem converts_of_convert {r} (hexec : exec i s = .next (s.convert x bound ls ld sel r)) :
    (max ls ld / min ls ld ≤ sel → raises i s .illegal) ∧
    (sel < max ls ld / min ls ld → exec i s = .next
      (((s.draws (4096 / max ls ld)).2.raiseFlags ((s.converted x ls ld sel r).foldl (fun g y => g ||| (y.map (·.2)).getD 0) 0)).result bound
        [laneWrite x.d ld (convBase ld ls (4096 / max ls ld) sel) ((s.converted x ls ld sel r).map (·.map (·.1)))])) :=
  ⟨fun h => hexec.trans (congrArg _ (State.convert_of_ratio_le h r)), fun h => hexec.trans (congrArg _ (State.convert_of_lt_ratio h r))⟩

/-! ### The instructions (R152–R155) -/

variable {o : VL} {f : Fmt}

/-- A value rounded once into a format, with flags that stand already. -/
def Fmt.rounded (f : Fmt) (mode : Nat) (sat : Bool) (d : Nat) (v : Val × Flags) (g : Flags) : Nat × Flags :=
  ((f.store mode sat d v.1).1, g ||| v.2 ||| (f.store mode sat d v.1).2)

/-- VCVT of one code: a reserved code is the value that Table 2-8 stores, with NV (R152). -/
def cvtElement (fs fd : Fmt) (mode : Nat) (sat : Bool) (d c : Nat) : Nat × Flags :=
  match fs.value c with
  | .reserved => fd.rounded mode sat d (if fd.isInt then Val.zero else .nan false, 0) Flags.nv
  | v => fd.rounded mode sat d (v, 0) 0

/-- VDQNT of element k (R155). -/
def dqntElement (fd f : Fmt) (word mode : Nat) (sat : Bool) (k d c : Nat) : Nat × Flags :=
  let sc := scaleValue (field word (8 * (k / 32)) 8)
  if sc.isNan then f.rounded mode sat d (.nan false, Flags.nv) 0
  else match fd.value c with
    | .reserved => f.rounded mode sat d (.nan false, Flags.nv) 0
    | v => f.rounded mode sat d (v.mul sc) 0

theorem vcvt_raises (h : (s.core.rfmt o.fs).scale ≠ 0 ∨ (s.core.rfmt o.fd).scale ≠ 0) : raises (.vcvt o) s .format :=
  congrArg Host.Outcome.next (if_pos h)

theorem exec_vcvt (hs : (s.core.rfmt o.fs).scale = 0) (hd : (s.core.rfmt o.fd).scale = 0) :
    exec (.vcvt o) s = .next (s.convert (s.longArgs o) 4 (s.core.rfmt o.fs).lane (s.core.rfmt o.fd).lane o.sel fun _ =>
      cvtElement (s.core.rfmt o.fs) (s.core.rfmt o.fd) s.core.ctx.rnd s.core.ctx.sat) := by
  have hexec : exec (.vcvt o) s = execVcvt o s := rfl
  rw [hexec, execVcvt]
  simp only [hs, hd, ne_eq, not_true_eq_false, or_self, if_false]
  congr 2
  funext _ d c
  unfold cvtElement
  cases (s.core.rfmt o.fs).value c <;> rfl

theorem vi2f_raises (h : s.floatOf o.tf o.fd = none) : raises (.vi2f o) s .format := by
  have hexec : exec (.vi2f o) s = execVi2f o s := rfl
  simp only [raises, hexec, execVi2f, h, State.refuse]

theorem exec_vi2f (h : s.floatOf o.tf o.fd = some f) :
    exec (.vi2f o) s = .next (s.convert (s.longArgs o) 4 (typeWidth o.t) f.lane o.sel fun _ d c =>
      let y := f.rounded s.core.ctx.rnd s.core.ctx.sat d (Val.ofInt (if o.uc = 1 then c else toSigned (typeWidth o.t) c), 0) 0
      (y.1, y.2 &&& ~~~Flags.uf)) := by
  have hexec : exec (.vi2f o) s = execVi2f o s := rfl
  simp only [hexec, execVi2f, h, stored, Fmt.rounded]

theorem vf2i_raises (h : s.floatOf o.tf o.fd = none) : raises (.vf2i o) s .format := by
  have hexec : exec (.vf2i o) s = execVf2i o s := rfl
  simp only [raises, hexec, execVf2i, h, State.refuse]

theorem exec_vf2i (h : s.floatOf o.tf o.fd = some f) :
    exec (.vf2i o) s = .next (s.convert (s.longArgs o) 4 f.lane (typeWidth o.t) o.sel fun _ d c =>
      (Fmt.int (o.uc == 0) (typeWidth o.t)).rounded s.core.ctx.rnd false d ((f.operand c).1, 0) (f.operand c).2) := by
  have hexec : exec (.vf2i o) s = execVf2i o s := rfl
  simp only [hexec, execVf2i, h, stored, Fmt.rounded]

/-! ### Quantisation (R154, R155) -/

theorem mxOk_iff : mxOk f = true ↔ f.scale = 1 ∧ f.width ≤ 8 := by
  simp [mxOk]

theorem vqnt_vdqnt_raise (h : s.floatOf o.t 0 = none ∨ ¬((s.core.rfmt o.fd).scale = 1 ∧ (s.core.rfmt o.fd).width ≤ 8)) :
    raises (.vqnt o) s .format ∧ raises (.vdqnt o) s .format := by
  have hq : exec (.vqnt o) s = execVqnt o s := rfl
  have hd : exec (.vdqnt o) s = execVdqnt o s := rfl
  rw [raises, raises, hq, hd, execVqnt, execVdqnt]
  rcases hf : s.floatOf o.t 0 with _ | f
  · exact ⟨rfl, rfl⟩
  · rw [hf, ← mxOk_iff, Bool.not_eq_true] at h
    simp only [h.resolve_left (by simp), Bool.not_false, if_true, State.refuse, and_self]

section
variable (hf : s.floatOf o.t 0 = some f) (hscale : (s.core.rfmt o.fd).scale = 1) (hwidth : (s.core.rfmt o.fd).width ≤ 8)
include hf hscale hwidth

theorem exec_vdqnt : exec (.vdqnt o) s = .next (s.convert (s.longArgs o) 4 (s.core.rfmt o.fd).lane f.lane o.sel
    (dqntElement (s.core.rfmt o.fd) f (s.rs o.sd).toNat s.core.ctx.rnd s.core.ctx.sat)) := by
  have hexec : exec (.vdqnt o) s = execVdqnt o s := rfl
  rw [hexec, execVdqnt]
  simp only [hf, mxOk_iff.2 ⟨hscale, hwidth⟩, Bool.not_true, Bool.false_eq_true, if_false]
  congr 2
  funext k d c
  unfold dqntElement
  dsimp only
  split_ifs
  · rfl
  · cases (s.core.rfmt o.fd).value c <;> rfl

theorem vqnt_raises_of_ratio_le (h : max f.lane (s.core.rfmt o.fd).lane / min f.lane (s.core.rfmt o.fd).lane ≤ o.sel) :
    raises (.vqnt o) s .illegal := by
  have hexec : exec (.vqnt o) s = execVqnt o s := rfl
  simp only [raises, hexec, execVqnt, hf, mxOk_iff.2 ⟨hscale, hwidth⟩, Bool.not_true, Bool.false_eq_true, if_false,
    convLanes_of_ratio_le h, State.refuse]

theorem exec_vqnt (h : o.sel < max f.lane (s.core.rfmt o.fd).lane / min f.lane (s.core.rfmt o.fd).lane) :
    let n := 4096 / max f.lane (s.core.rfmt o.fd).lane
    let y := quantiseAll (s.core.rfmt o.fd) s.core.ctx.rnd (s.draws n).1 ((List.range n).map fun k =>
      if s.core.act (s.longArgs o).p k then
        some (f.operand (s.core.lane f.lane (s.longArgs o).a (convBase f.lane (s.core.rfmt o.fd).lane n o.sel + k))).1
      else none)
    exec (.vqnt o) s = .next ((((s.draws n).2.raiseFlags y.2.2).result 8
        [laneWrite (s.longArgs o).d (s.core.rfmt o.fd).lane (convBase (s.core.rfmt o.fd).lane f.lane n o.sel) y.2.1]).result 8
      [.s o.sd (BitVec.ofNat 64 (y.1.zipIdx.foldl (fun a k => a + k.1 * 2 ^ (8 * k.2)) 0))]) := by
  intro n y
  have hexec : exec (.vqnt o) s = execVqnt o s := rfl
  have hxs : (s.convSource (s.longArgs o) f.lane n (convBase f.lane (s.core.rfmt o.fd).lane n o.sel)).map
      (·.map fun c => (f.operand c).1) = (List.range n).map fun k => if s.core.act (s.longArgs o).p k then
        some (f.operand (s.core.lane f.lane (s.longArgs o).a (convBase f.lane (s.core.rfmt o.fd).lane n o.sel + k))).1 else none := by
    rw [State.convSource_eq_map (convBase_add_le h), List.map_map]
    exact List.map_congr_left fun k _ => by simp only [Function.comp, apply_ite (Option.map _)]; rfl
  simp only [hexec, execVqnt, hf, mxOk_iff.2 ⟨hscale, hwidth⟩, Bool.not_true, Bool.false_eq_true, if_false, convLanes_of_lt_ratio h]
  rw [hxs]

end

/-- Settles O40: VCVT, VI2F, VF2I and VDQNT are `State.convert` of an element's function, VQNT quantises the same lanes. -/
theorem vectorConversions : Obligations.VectorConversions := by
  intro s o x mode sat converts rounded fs fd
  have conv {i bound ls ld r g} (hexec : exec i s = .next (s.convert x bound ls ld o.sel g)) (hg : ∀ k d c, g k d c = r k d c) :
      converts i bound ls ld r := by
    obtain rfl : g = r := funext fun k => funext fun d => funext fun c => hg k d c
    exact converts_of_convert hexec
  clear_value converts
  refine ⟨vcvt_raises, fun hs hd => conv (exec_vcvt hs hd) fun _ d c => ?vcvt, fun h => ⟨vi2f_raises h, vf2i_raises h⟩,
    fun f h => ⟨conv (exec_vi2f h) fun _ _ _ => rfl, conv (exec_vf2i h) fun _ _ _ => rfl⟩, vqnt_vdqnt_raise,
    fun f hf hscale hwidth => ⟨conv (exec_vdqnt hf hscale hwidth) fun k d c => ?vdqnt, vqnt_raises_of_ratio_le hf hscale hwidth,
      fun h => ⟨_, BitVec.toNat_ofNat .., exec_vqnt hf hscale hwidth h⟩⟩⟩
  case vcvt =>
    unfold cvtElement
    cases fs.value c <;> rfl
  case vdqnt =>
    unfold dqntElement
    cases fd.value c <;> rfl

end Sys2Proof.Machine
end

section
/-! Permutations and lane moves (R156–R159). -/

namespace Sys2Proof.Machine

variable {s : State} {x : VArgs} {i : Instr} {bound w l : Nat}

/-! ### The lanes that an instruction names by number -/

/-- Lane k of width l of V[r], 0 where the register has no such lane. -/
def State.laneAt (s : State) (l r k : Nat) : Nat := if k < 4096 / l then s.core.lane l r k else 0

theorem State.lanes_getD (l r k : Nat) : (s.lanes l r).getD k 0 = s.laneAt l r k := by
  rw [State.lanes_eq_map, State.laneAt, List.getD_eq_getElem?_getD]
  split_ifs with h <;> simp [h]

theorem State.lanes_toArray_getD (l r k : Nat) : (s.lanes l r).toArray.getD k 0 = s.laneAt l r k := by
  rw [← State.lanes_getD, Array.getD_eq_getD_getElem?, List.getElem?_toArray, List.getD_eq_getElem?_getD]

theorem State.laneAt_of_lt {r k : Nat} (h : k < 4096 / l) : s.laneAt l r k = s.core.lane l r k := if_pos h

/-- The element of lane k of V[A], 0 where there is no such lane. -/
def State.elementAt (s : State) (x : VArgs) (k : Nat) : Nat :=
  if k < 4096 / (s.anyElt x).2 then s.core.lane (s.anyElt x).2 x.a k % 2 ^ (s.anyElt x).1 else 0

theorem State.laneAt_mod_width (x : VArgs) (k : Nat) : s.laneAt (s.anyElt x).2 x.a k % 2 ^ (s.anyElt x).1 = s.elementAt x k := by
  rw [State.laneAt, State.elementAt, apply_ite (· % 2 ^ (s.anyElt x).1), Nat.zero_mod]

theorem State.elementAt_mod_width (x : VArgs) (k : Nat) : s.elementAt x k % 2 ^ (s.anyElt x).1 = s.elementAt x k := by
  rw [← State.laneAt_mod_width, Nat.mod_mod]

/-! ### Bit copies of whole lanes -/

/-- An instruction that copies lanes gives each active lane the code that it names. -/
theorem copiesLanes_of_copyLanes {f g : Nat → Nat} (hexec : exec i s = .next (s.copyLanes x bound w l f))
    (hf : ∀ k < 4096 / l, f k = g k) : copiesLanes i s x bound w l g := by
  rw [copiesLanes, writesLanes, hexec, State.copyLanes, State.active_eq_map, map_zipIdx_map_range]
  refine congrArg (fun rs => Host.Outcome.next (s.putLanes _ _ _ rs)) (List.map_congr_left fun k hk => ?_)
  rw [hf k (List.mem_range.1 hk)]

/-- An instruction that its operands turn away. -/
theorem raises_of_refused {no : TrapNo} {c : Prop} [Decidable c] {t : State} (hexec : exec i s = .next (if c then s.refuse no else t))
    (hc : c) : raises i s no := by
  rw [raises, hexec, if_pos hc, State.refuse]

theorem exec_vperm (q : VL) : exec (.vperm q) s =
    let y := s.longArgs q
    let l := (s.anyElt y).2
    .next (if l ≤ 8 then s.refuse .illegal else s.copyLanes y 4 (s.anyElt y).1 l fun k =>
      let j := s.laneAt l y.c k % (2 * (4096 / l))
      if j < 4096 / l then s.laneAt l y.a j else s.laneAt l y.b (j - 4096 / l)) := by
  have hexec : exec (.vperm q) s = execVperm q s := rfl
  simp only [hexec, execVperm, State.lanes_toArray_getD]

theorem exec_vshuf (q : VL) : exec (.vshuf q) s = .next (s.copyLanes (s.longArgs q) 3 8 8 fun j =>
    if 128 ≤ s.laneAt 8 (s.longArgs q).c j then 0
    else s.laneAt 8 (s.longArgs q).a (64 * (j / 64) + s.laneAt 8 (s.longArgs q).c j % 64)) := by
  have hexec : exec (.vshuf q) s = execVshuf q s := rfl
  simp only [hexec, execVshuf, State.lanes_toArray_getD]

/-- The byte that VSHUF names lies in the group of the byte that receives it (R156). -/
theorem vshuf_copies (q : VL) : copiesLanes (.vshuf q) s (s.longArgs q) 3 8 8 fun j =>
    if 128 ≤ s.core.lane 8 (s.longArgs q).c j then 0
    else s.core.lane 8 (s.longArgs q).a (64 * (j / 64) + s.core.lane 8 (s.longArgs q).c j % 64) := by
  refine copiesLanes_of_copyLanes (exec_vshuf q) fun j hj => ?_
  rw [State.laneAt_of_lt hj, State.laneAt_of_lt (by omega)]

/-! ### VSLIDE (R157) -/

theorem State.slide_past {up : Bool} {k : Nat} (h : 4096 / (s.anyElt x).2 < k) : s.slide x up k = s.refuse .illegal := if_pos h

theorem State.slide_within {up : Bool} {k : Nat} (h : k ≤ 4096 / (s.anyElt x).2) : s.slide x up k =
    let n := 4096 / (s.anyElt x).2
    let at' := s.laneAt (s.anyElt x).2
    s.copyLanes x 2 (s.anyElt x).1 (s.anyElt x).2 fun j =>
      if up then (if k ≤ j then at' x.a (j - k) else at' x.b (n + j - k))
      else if j + k < n then at' x.a (j + k) else at' x.b (j + k - n) := by
  simp only [State.slide, Nat.not_lt.2 h, if_false, State.lanes_toArray_getD]

theorem exec_vslide (o : VR) : exec (.vslide o) s = .next (s.slide (s.shortArgs o) false 1) := rfl
theorem exec_vslideLong (q : VL) : exec (.vslideLong q) s = .next (s.slide (s.longArgs q) (q.x == 1) q.k) := rfl

/-- A slide down: the lane k above, from V[B] past the top. -/
theorem copiesLanes_of_slide_down {k : Nat} (hexec : exec i s = .next (s.slide x false k)) (h : k ≤ 4096 / (s.anyElt x).2) :
    copiesLanes i s x 2 (s.anyElt x).1 (s.anyElt x).2 fun j =>
      if j + k < 4096 / (s.anyElt x).2 then s.laneAt (s.anyElt x).2 x.a (j + k)
      else s.laneAt (s.anyElt x).2 x.b (j + k - 4096 / (s.anyElt x).2) :=
  copiesLanes_of_copyLanes (hexec.trans (congrArg _ (State.slide_within h))) fun _ _ => rfl

/-- A slide up: the lane k below, from V[B] below lane 0. -/
theorem copiesLanes_of_slide_up {k : Nat} (hexec : exec i s = .next (s.slide x true k)) (h : k ≤ 4096 / (s.anyElt x).2) :
    copiesLanes i s x 2 (s.anyElt x).1 (s.anyElt x).2 fun j =>
      if k ≤ j then s.laneAt (s.anyElt x).2 x.a (j - k) else s.laneAt (s.anyElt x).2 x.b (4096 / (s.anyElt x).2 + j - k) :=
  copiesLanes_of_copyLanes (hexec.trans (congrArg _ (State.slide_within h))) fun _ _ => rfl

/-! ### VBCAST (R157) -/

theorem exec_vbcast (o : VR) : exec (.vbcast o) s =
    .next (s.copyLanes (s.shortArgs o) 2 (s.anyElt (s.shortArgs o)).1 (s.anyElt (s.shortArgs o)).2 fun _ => (s.rs o.a).toNat) := rfl

theorem exec_vbcastLong_scalar {q : VL} (hx : q.x ≠ 1) : exec (.vbcastLong q) s =
    .next (s.copyLanes (s.longArgs q) 2 (s.anyElt (s.longArgs q)).1 (s.anyElt (s.longArgs q)).2 fun _ => (s.rs q.a).toNat) :=
  congrArg Host.Outcome.next (if_neg hx)

theorem exec_vbcastLong_lane {q : VL} (hx : q.x = 1) : exec (.vbcastLong q) s =
    let y := s.longArgs q
    let l := (s.anyElt y).2
    .next (if 4096 / l ≤ q.k then s.refuse .illegal else s.copyLanes y 2 (s.anyElt y).1 l fun _ => s.laneAt l y.a q.k) := by
  have hexec : exec (.vbcastLong q) s = execVbcastLong q s := rfl
  simp only [hexec, execVbcastLong, hx, if_true, State.lanes_getD]

/-! ### VEXT and VINS (R158) -/

theorem exec_vext (o : VR) : exec (.vext o) s =
    let x := s.shortArgs o
    .next (s.result 3 [.s o.d (BitVec.ofNat 64 (s.elementAt x ((s.rs o.b).toNat % (4096 / (s.anyElt x).2))))]) := by
  have hexec : exec (.vext o) s = execVext o s := rfl
  simp only [hexec, execVext, State.lanes_getD, State.laneAt_mod_width]

theorem exec_vextLong (q : VL) : exec (.vextLong q) s =
    let y := s.longArgs q
    .next (if 4096 / (s.anyElt y).2 ≤ q.k then s.refuse .illegal
      else s.result 3 [.s q.d (if q.x = 1 then BitVec.ofInt 64 (toSigned (s.anyElt y).1 (s.elementAt y q.k))
        else BitVec.ofNat 64 (s.elementAt y q.k))]) := by
  have hexec : exec (.vextLong q) s = execVextLong q s := rfl
  simp only [hexec, execVextLong, State.lanes_getD, State.laneAt_mod_width]

/-- The element of lane K in the long form of VEXT, zero-extended or sign-extended. -/
theorem vextLong_writes {q : VL} (h : q.k < 4096 / (s.anyElt (s.longArgs q)).2) : writesScalar (.vextLong q) s 3 q.d fun z =>
    (q.x ≠ 1 → z.toNat = s.elementAt (s.longArgs q) q.k % 2 ^ 64) ∧
    (q.x = 1 → 1 ≤ (s.anyElt (s.longArgs q)).1 → (s.anyElt (s.longArgs q)).1 ≤ 64 →
      z.toInt = ((s.elementAt (s.longArgs q) q.k : Nat) : Int).bmod (2 ^ (s.anyElt (s.longArgs q)).1)) := by
  refine ⟨_, (exec_vextLong q).trans (congrArg _ (if_neg (Nat.not_le.2 h))), fun hx => ?_, fun hx _ hw => ?_⟩
  · rw [if_neg hx, BitVec.toNat_ofNat]
  · rw [if_pos hx, ← toInt_signExtend_word hw, State.elementAt_mod_width]

theorem State.insertLane_of_lt {k : Nat} (h : k < 4096 / (s.anyElt x).2) (v : Word) : s.insertLane x k v =
    s.result 2 [laneWrite x.d (s.anyElt x).2 k [some (v.toNat % 2 ^ (s.anyElt x).1)]] := if_neg (Nat.not_le.2 h)

theorem State.insertLane_of_le {k : Nat} (h : 4096 / (s.anyElt x).2 ≤ k) (v : Word) : s.insertLane x k v = s.refuse .illegal := if_pos h

/-! ### VCMPR and VEXPD (R159) -/

/-- The active lanes by number, below lane n. -/
def State.activeBelow (s : State) (x : VArgs) (n : Nat) : List Nat := (List.range n).filter (s.core.act x.p)

/-- A list filled with zeros to a length, lane by lane. -/
theorem append_zeros_eq_map_range {l : List Nat} {n : Nat} (h : l.length ≤ n) :
    l ++ List.replicate (n - l.length) 0 = (List.range n).map (l.getD · 0) := by
  refine List.ext_getElem (by simp; omega) fun k h1 h2 => ?_
  rw [List.getElem_append]
  split_ifs with hk
  · simp [hk]
  · simp [List.getD_eq_getElem?_getD, List.getElem?_eq_none (Nat.not_lt.1 hk)]

/-- The active lanes packed from lane 0 up, zeros above. -/
theorem State.compressLanes_eq : s.compressLanes x = s.result 4 [laneWrite x.d (s.anyElt x).2 0
    ((List.range (4096 / (s.anyElt x).2)).map fun k =>
      some (((s.activeBelow x (4096 / (s.anyElt x).2)).map (s.elementAt x)).getD k 0))] := by
  have hkept : (((s.active (4096 / (s.anyElt x).2) x.p).zip (s.lanes (s.anyElt x).2 x.a)).filterMap fun q =>
      if q.1 then some (q.2 % 2 ^ (s.anyElt x).1) else none) = (s.activeBelow x (4096 / (s.anyElt x).2)).map (s.elementAt x) := by
    rw [State.active_eq_map, State.lanes_eq_map, List.zip_map', List.filterMap_map]
    refine (filterMap_ite_some ..).trans (List.map_congr_left fun k hk => (if_pos ?_).symm)
    exact List.mem_range.1 (List.mem_of_mem_filter hk)
  have hlen : ((s.activeBelow x (4096 / (s.anyElt x).2)).map (s.elementAt x)).length ≤ 4096 / (s.anyElt x).2 := by
    simpa [State.activeBelow] using List.length_filter_le (s.core.act x.p) (List.range (4096 / (s.anyElt x).2))
  simp only [State.compressLanes, hkept, append_zeros_eq_map_range hlen, List.map_map]
  rfl

/-- Lanes dealt out in turn: each active lane gets the next value, counted by the active lanes below it. -/
theorem foldl_deal (act : Nat → Bool) (f : Nat → Nat) : ∀ n, ((List.range n).map act).foldl
    (fun (acc : List (Option Nat) × Nat) q => if q then (some (f acc.2) :: acc.1, acc.2 + 1) else (none :: acc.1, acc.2)) ([], 0) =
      (((List.range n).map fun k => if act k then some (f ((List.range k).filter act).length) else none).reverse,
        ((List.range n).filter act).length)
  | 0 => rfl
  | n + 1 => by
    rw [List.range_succ, List.map_append, List.foldl_append, foldl_deal act f n]
    cases h : act n <;> simp [h]

/-- The r-th active lane receives the element of lane r. -/
theorem State.expandLanes_eq : s.expandLanes x = s.result 4 [laneWrite x.d (s.anyElt x).2 0
    ((List.range (4096 / (s.anyElt x).2)).map fun k =>
      if s.core.act x.p k then some (s.elementAt x (s.activeBelow x k).length) else none)] := by
  simp only [State.expandLanes, State.active_eq_map, State.lanes_toArray_getD, State.laneAt_mod_width]
  rw [foldl_deal (s.core.act x.p) (s.elementAt x), List.reverse_reverse]
  rfl

/-- Settles O41: the permutations copy the lanes that they name, the others move elements one by one. -/
theorem vectorPermutations : Obligations.VectorPermutations := by
  refine ⟨fun s o q => ?copies, fun s o q => ?elements⟩
  case copies =>
    intro x y w l n at' down
    refine ⟨raises_of_refused (exec_vperm q), fun h => ?vperm, vshuf_copies q, copiesLanes_of_slide_down (exec_vslide o),
      fun h => ?slidePast, fun h hx => ?slideDown, fun h hx => ?slideUp, copiesLanes_of_copyLanes (exec_vbcast o) fun _ _ => rfl,
      fun hx => copiesLanes_of_copyLanes (exec_vbcastLong_scalar hx) fun _ _ => rfl, fun hx h => ?bcastLane,
      fun hx => raises_of_refused (exec_vbcastLong_lane hx)⟩
    case vperm => exact copiesLanes_of_copyLanes ((exec_vperm q).trans (congrArg _ (if_neg (Nat.not_le.2 h)))) fun _ _ => rfl
    case slidePast => exact (exec_vslideLong q).trans (congrArg _ (State.slide_past h))
    case slideDown => exact copiesLanes_of_slide_down (by rw [exec_vslideLong, beq_eq_false_iff_ne.2 hx]) h
    case slideUp => exact copiesLanes_of_slide_up (by rw [exec_vslideLong, hx]; rfl) h
    case bcastLane =>
      exact copiesLanes_of_copyLanes ((exec_vbcastLong_lane hx).trans (congrArg _ (if_neg (Nat.not_le.2 h)))) fun _ _ => rfl
  case elements =>
    intro x y w l n elem actives compress expand
    exact ⟨⟨_, exec_vext o, BitVec.toNat_ofNat ..⟩,
      fun h => ⟨raises_of_refused (exec_vextLong q) h, congrArg Host.Outcome.next (State.insertLane_of_le h _)⟩,
      vextLong_writes, fun h => congrArg Host.Outcome.next (State.insertLane_of_lt h _),
      fun h => congrArg Host.Outcome.next (State.insertLane_of_lt (Nat.mod_lt _ h) _),
      congrArg Host.Outcome.next State.compressLanes_eq, congrArg Host.Outcome.next State.compressLanes_eq,
      congrArg Host.Outcome.next State.expandLanes_eq, congrArg Host.Outcome.next State.expandLanes_eq⟩

end Sys2Proof.Machine
end

section
/-! Error events (R182, R311, R392–R394, R398): counts, poison, the loss of a combining record, and fatal errors with their dumps. -/

namespace Sys2Proof.Machine

variable {s t u : State}

/-! ### Events that a unit counts (R394, R398) -/

/-- A unit that is no line of an array: its events count in the window and not in a Beryl map (R182, R394). -/
def noLine (w : HwUnit) : Prop := ∀ c l, w ≠ .arrayRow c l ∧ w ≠ .arrayCol c l

theorem exec_corrected_noLine {w : HwUnit} (h : noLine w) : exec (.errorEvent (.corrected w)) s = .next (s.countUnit w) := by
  cases w with
  | arrayRow c l => exact absurd rfl (h c l).1
  | arrayCol c l => exact absurd rfl (h c l).2
  | _ => rfl

theorem State.eventCount_countUnit_same (s : State) (w : HwUnit) : (s.countUnit w).eventCount w = s.eventCount w + 1 := by
  have hnone : (s.events.filter (·.1 != w)).find? (·.1 == w) = none := by simp [List.find?_eq_none]
  rw [State.eventCount, State.countUnit, List.find?_append, hnone]
  simp [State.eventCount]

theorem State.eventCount_countUnit_other {v w : HwUnit} (h : v ≠ w) : (s.countUnit w).eventCount v = s.eventCount v := by
  have hfilter : (s.events.filter (·.1 != w)).find? (·.1 == v) = s.events.find? (·.1 == v) := by
    rw [List.find?_filter]
    congr 1
    funext e
    by_cases he : e.1 = v <;> simp [he, h]
  have hlast : [(w, ((s.events.find? (·.1 == w)).map (·.2)).getD 0 + 1)].find? (·.1 == v) = none := by simp [h.symm]
  rw [State.eventCount, State.countUnit, List.find?_append, hfilter, hlast, Option.or_none]
  rfl

/-! ### Lines of an array (R182) -/

/-- A line is marked where its count in the Beryl map has reached the limit and it is neither marked nor lost yet. -/
theorem State.coreOf_markLine (s : State) (n p k : Nat) : (s.markLine n p k).coreOf n = { s.coreOf n with
    marked := if k ≤ bankGet 0 (s.coreOf n).beryl p ∧ p ∉ (s.coreOf n).marked ∧ p ∉ (s.coreOf n).lost
      then (s.coreOf n).marked ++ [p] else (s.coreOf n).marked } := by
  rw [State.markLine, State.coreOf_onCoreN _ _ fun c => by split <;> rfl]
  simp only [Bool.not_eq_true', List.contains_eq_mem, decide_eq_false_iff_not]
  split_ifs <;> rfl

theorem State.onCoreN_corr (s : State) (n : Nat) (g : Core → Core) : (s.onCoreN n g).corr = s.corr := by
  unfold State.onCoreN; split_ifs <;> rfl

/-- One event more of a physical line in the Beryl map. -/
def countBeryl (p : Nat) (c : Core) : Core := { c with beryl := bankSet 0 c.beryl p (bankGet 0 c.beryl p + 1) }

theorem State.lineEvent_eq (s : State) (n p k : Nat) :
    s.lineEvent n p k = ({ s with corr := (s.corr + 1) % 2 ^ 64 }.onCoreN n (countBeryl p)).markLine n p k := rfl

/-- An event of a line counts in CORR and in the Beryl map of its core. -/
theorem State.lineEvent_counts (s : State) (n p k : Nat) : (s.lineEvent n p k).corr = (s.corr + 1) % 2 ^ 64 ∧
    ((s.lineEvent n p k).coreOf n).beryl = bankSet 0 (s.coreOf n).beryl p (bankGet 0 (s.coreOf n).beryl p + 1) := by
  constructor
  · rw [State.lineEvent, State.markLine, State.onCoreN_corr, State.onCoreN_corr]
  · rw [State.lineEvent_eq, State.coreOf_markLine, State.coreOf_onCoreN _ _ fun _ => by rfl]
    rfl

/-! ### Poison (R392) -/

theorem State.mem_poison {b k : Nat} : b ∈ (s.poison k).poisoned ↔ b = k ∨ b ∈ s.poisoned := by
  change b ∈ (if s.poisoned.contains k then s.poisoned else s.poisoned ++ [k]) ↔ _
  split_ifs with h
  · exact ⟨.inr, fun hb => hb.elim (fun e => e ▸ List.contains_iff_mem.1 h) id⟩
  · rw [List.mem_append, List.mem_singleton, or_comm]

/-- The metadata code of a block of HBM4 that becomes poisoned. -/
theorem State.blockMeta_poison {a : Nat} (h : a < hbmSize) : bankGet 1 (s.poison (a / 256)).blockMeta (a / 256) = 5 := by
  have hstack : (stackOf (a / 256 * 256)).isSome = true := by
    rw [stackOf, if_pos ((Nat.div_mul_le_self a 256).trans_lt h)]; rfl
  change bankGet 1 (if (stackOf (a / 256 * 256)).isSome then bankSet 1 s.blockMeta (a / 256) 5 else s.blockMeta) (a / 256) = 5
  rw [if_pos hstack, bankSet, if_neg (by decide), bankGet_put, if_pos rfl]

theorem State.mem_foldl_poison {f : Nat → Nat} {b : Nat} (ks : List Nat) :
    ∀ s : State, b ∈ (ks.foldl (fun s k => s.poison (f k)) s).poisoned ↔ (∃ k ∈ ks, b = f k) ∨ b ∈ s.poisoned := by
  induction ks with
  | nil => simp
  | cons k r ih => exact fun s => by rw [List.foldl_cons, ih, State.mem_poison]; simp [or_assoc, or_left_comm]

theorem State.foldl_poison_mem (f : Nat → Nat) (ks : List Nat) : (ks.foldl (fun s k => s.poison (f k)) s).mem = s.mem :=
  List.foldlRecOn ks _ (motive := fun t : State => t.mem = s.mem) rfl fun _ h _ _ => h

/-- Failed metadata poisons the 128 blocks of its 32 KiB. -/
theorem exec_metadataFailed (s : State) (a : Nat) : ∃ t, exec (.errorEvent (.metadataFailed a)) s = .next t ∧ t.mem = s.mem ∧
    ∀ b, b ∈ t.poisoned ↔ (a / 32768 * 128 ≤ b ∧ b < a / 32768 * 128 + 128) ∨ b ∈ s.poisoned := by
  refine ⟨_, rfl, State.foldl_poison_mem (fun k => a / 32768 * 128 + k) _, fun b => ?_⟩
  refine (State.mem_foldl_poison (f := fun k => a / 32768 * 128 + k) _ s).trans (or_congr_left ?_)
  constructor
  · rintro ⟨k, hk, rfl⟩
    have := List.mem_range.1 hk
    omega
  · exact fun h => ⟨b - a / 32768 * 128, List.mem_range.2 (by omega), by omega⟩

/-! ### The loss of a combining record (R311) -/

/-- A lost record goes, with the requests that it made and those of peers that wait in it. -/
theorem State.loseRecord_frame {k : Nat} {r : CombRecord} (hk : s.combs[k]? = some r) : (s.loseRecord k false).mem = s.mem ∧
    (s.loseRecord k false).core = s.core ∧ (s.loseRecord k false).combs = s.combs.filter (·.id != r.id) ∧
    ∀ a, a ∈ (s.loseRecord k false).atoms ↔
      a ∈ s.atoms ∧ a.owner ≠ .comb r.id ∧ ¬ (a.inRecord = some r.id ∧ ∃ d tag, a.owner = .peer d tag) := by
  simp only [State.loseRecord, hk, Bool.false_eq_true, if_false, List.mem_filter, true_and]
  intro a
  cases a.owner with
  | peer d tag => simp
  | _ => simp

/-! ### Writes that nobody watches (R233) -/

/-- Memory and the controllers' books alone have changed. -/
def onlyMemory (s t : State) : Prop := { t with mem := s.mem, blockMeta := s.blockMeta, compress := s.compress, fresh := s.fresh } = s

theorem onlyMemory.parts (h : onlyMemory s t) : t.parts = s.parts := (congrArg State.parts h :)
theorem onlyMemory.part? (h : onlyMemory s t) (n : Nat) : t.part? n = s.part? n := by rw [State.part?, State.part?, h.parts]
theorem onlyMemory.notices (h : onlyMemory s t) : t.notices = s.notices := (congrArg State.notices h :)
theorem onlyMemory.dumps (h : onlyMemory s t) : t.dumps = s.dumps := (congrArg State.dumps h :)
theorem onlyMemory.cutting (h : onlyMemory s t) : t.cutting = s.cutting := (congrArg State.cutting h :)
theorem onlyMemory.allCores (h : onlyMemory s t) : t.allCores = s.allCores := (congrArg State.allCores h :)
theorem onlyMemory.unwatched (h : onlyMemory s t) (hquiet : s.unwatched) : t.unwatched :=
  ⟨(congrArg State.monitors h :).trans hquiet.1, (congrArg State.poisoned h :).trans hquiet.2⟩

theorem onlyMemory.trans (h : onlyMemory s t) (k : onlyMemory t u) : onlyMemory s u := by
  have e : ({ ({ u with mem := t.mem, blockMeta := t.blockMeta, compress := t.compress, fresh := t.fresh } : State) with
      mem := s.mem, blockMeta := s.blockMeta, compress := s.compress, fresh := s.fresh } : State) = s := by rw [k]; exact h
  exact e

theorem onlyMemory.of_onlyBooks {m : Memory} (h : onlyBooks { s with mem := m } t) : onlyMemory s t :=
  (congrArg (fun v : State => { v with mem := s.mem }) h :)

theorem State.put_onlyMemory (hquiet : s.unwatched) (pa : Nat) (bs : List Byte) : onlyMemory s (s.put pa bs) :=
  .of_onlyBooks (State.touchBlocks_onlyBooks (s := { s with mem := s.mem.writeN pa bs }) hquiet.2 pa bs.length false)

theorem State.perform_onlyMemory (hquiet : s.unwatched) (pa : Nat) (bs : List Byte) : onlyMemory s (s.perform pa bs) :=
  .of_onlyBooks (State.perform_onlyBooks hquiet pa bs false)

theorem State.showQueue_onlyMemory (hquiet : s.unwatched) (part q : Nat) : onlyMemory s (s.showQueue part q) := by
  unfold State.showQueue
  split
  · rfl
  · exact (State.perform_onlyMemory hquiet ..).trans (State.perform_onlyMemory (State.perform_unwatched hquiet ..) ..)

theorem State.showQueues_onlyMemory (hquiet : s.unwatched) (part : Nat) (l : List Queue) :
    onlyMemory s (l.foldl (fun s x => s.showQueue part x.q) s) :=
  List.foldlRecOn l _ (motive := onlyMemory s) rfl fun _ h _ _ => h.trans (State.showQueue_onlyMemory (h.unwatched hquiet) ..)

/-! ### Fatal errors (R393, R409) -/

theorem State.allCores_onCores (s : State) (f : Core → Core) : (s.onCores f).allCores = s.allCores.map f := by
  simp [State.allCores, State.onCores, Function.comp_def]

/-- The cores of a partition with a fatal error stop, those at once of whose bundle no op word has executed. -/
theorem State.fatalPart_stops (s : State) (part : Nat) :
    ∀ c ∈ (s.fatalPart part).allCores, c.part = part → c.running = false ∨ c.done ≠ 0 := by
  intro c hc hpart
  rw [State.fatalPart, State.allCores_onCores] at hc
  obtain ⟨d, -, rfl⟩ := List.mem_map.1 hc
  split_ifs at hpart ⊢ with h
  · exact .inl rfl
  · by_cases hrun : d.running = true
    · exact .inr fun hdone => h ⟨hpart, hrun, hdone⟩
    · exact .inl (Bool.eq_false_iff.2 hrun)

/-- A partition as a fatal error leaves it: fatal, its queues closed. -/
def Partition.stopped (p : Partition) : Partition :=
  { p with fatal := true, queues := p.queues.map fun x => { x with state := .closed } }

/-- The module after a fatal error, before the host is told: cores stopped, queues closed and shown. -/
def State.shutPart (s : State) (part : Nat) : State :=
  let t := (s.fatalPart part).onPart part fun p => { p with queues := p.queues.map fun x => { x with state := .closed } }
  (((t.part? part).map (·.queues)).getD []).foldl (fun s x => s.showQueue part x.q) t

theorem State.shutPart_frame {part : Nat} {p : Partition} (hp : s.part? part = some p) (hquiet : s.unwatched) :
    (s.shutPart part).part? part = some p.stopped ∧ (s.shutPart part).notices = s.notices ∧ (s.shutPart part).dumps = s.dumps ∧
      (s.shutPart part).cutting = s.cutting ∧ (s.shutPart part).unwatched ∧ (s.shutPart part).allCores = (s.fatalPart part).allCores := by
  set t := (s.fatalPart part).onPart part fun p => { p with queues := p.queues.map fun x => { x with state := .closed } } with ht
  have hshown : onlyMemory t (s.shutPart part) := State.showQueues_onlyMemory (s := t) hquiet part _
  have hfatal : (s.fatalPart part).part? part = some { p with fatal := true } :=
    (State.part?_onPart_same (f := fun p => { p with fatal := true }) fun _ => rfl).trans (congrArg _ hp)
  have hclosed : t.part? part = some p.stopped := (State.part?_onPart_same fun _ => by rfl).trans (congrArg _ hfatal)
  exact ⟨(hshown.part? part).trans hclosed, hshown.notices, hshown.dumps, hshown.cutting, hshown.unwatched hquiet, hshown.allCores⟩

theorem State.part?_notify (s : State) (x : Notice) (n : Nat) : (s.notify x).part? n = s.part? n := rfl

/-- With no QUIESCE under way, a partition's first fatal error stops it, tells the host and writes the dump to memory. -/
theorem State.fatalError_eq {part unit : Nat} {p : Partition} (hp : s.part? part = some p) (hcut : s.cutting = none) (hquiet : s.unwatched)
    (hfirst : ∀ d ∈ s.dumps, d.1 ≠ part) : ∃ t bs, onlyMemory ((s.shutPart part).notify (.fatal part unit)) t ∧
      s.fatalError part unit = { t with dumps := s.dumps ++ [(part, bs)] } := by
  obtain ⟨hpart, -, hdumps, hcutting, hstill, -⟩ := State.shutPart_frame hp hquiet
  set told := (s.shutPart part).notify (.fatal part unit) with htold
  refine ⟨_, told.dump p.stopped unit 0, State.put_onlyMemory (s := told) hstill (part * dumpSlot) (told.dump p.stopped unit 0), ?_⟩
  have hnone : s.dumps.any (·.1 == part) = false := by simpa using hfirst
  have hshut : (s.shutPart part).cutting = none := hcutting.trans hcut
  rw [← hdumps, htold]
  simp only [State.shutPart] at hpart hshut ⊢
  simp only [State.fatalError, hnone, Bool.false_eq_true, if_false, hp, hshut, State.part?_notify, hpart, State.notify_dumps]

/-- The first fatal error of a partition: fatal, its queues closed, its cores stopped, the host told, one dump more. -/
theorem exec_fatalPartition {part unit : Nat} {p : Partition} (hp : s.part? part = some p) (hcut : s.cutting = none) (hquiet : s.unwatched)
    (hfirst : ∀ d ∈ s.dumps, d.1 ≠ part) : ∃ t q, exec (.errorEvent (.fatalPartition part unit)) s = .next t ∧ t.part? part = some q ∧
      q.fatal = true ∧ (∀ x ∈ q.queues, x.state = .closed) ∧ t.notices = s.notices ++ [.fatal part unit] ∧
      (∀ c ∈ t.allCores, c.part = part → c.running = false ∨ c.done ≠ 0) ∧ ∃ bs, t.dumps = s.dumps ++ [(part, bs)] := by
  have hexec : exec (.errorEvent (.fatalPartition part unit)) s = .next (s.fatalError part unit) := rfl
  obtain ⟨hpart, hnotices, -, -, -, hcores⟩ := State.shutPart_frame hp hquiet
  obtain ⟨t, bs, hmem, hfatal⟩ := State.fatalError_eq (unit := unit) hp hcut hquiet hfirst
  refine ⟨_, p.stopped, hexec.trans (congrArg Host.Outcome.next hfatal), (hmem.part? part).trans hpart, rfl, fun x hx => ?_,
    hmem.notices.trans (congrArg (· ++ _) hnotices), fun c hc => ?_, bs, rfl⟩
  · obtain ⟨y, -, rfl⟩ := List.mem_map.1 hx
    rfl
  · exact State.fatalPart_stops s part c (hcores.subst (hmem.allCores.subst (motive := fun l => c ∈ l) hc))

end Sys2Proof.Machine
end

section
/-! Units leave service (R12, R14, R17, R394–R397): cores, lanes, engines and memory channels, and the end of an event window. -/

namespace Sys2Proof.Machine

variable {s : State}

/-! ### When a unit is retired (R394, R402) -/

theorem exec_unitRetirement_cutting (h : s.cutting.isSome = true) (w : HwUnit) : exec (.unitRetirement w) s = .next s :=
  congrArg Host.Outcome.next (if_pos h)

theorem exec_unitRetirement_line (h : s.cutting = none) (n l : Nat) :
    exec (.unitRetirement (.arrayRow n l)) s = .next (s.markLine n l (s.limitOf (.arrayRow n l))) :=
  congrArg Host.Outcome.next (if_neg (by simp [h]))

/-- A unit that is no array line, with no QUIESCE under way. -/
theorem exec_unitRetirement_unit {w : HwUnit} (hline : noLine w) (hcut : s.cutting = none) : exec (.unitRetirement w) s =
    .next (if s.retired.contains w || decide (s.eventCount w < s.limitOf w) then s else s.retire w) := by
  refine congrArg Host.Outcome.next ((if_neg (by simp [hcut])).trans ?_)
  cases w with
  | arrayRow c l => exact absurd rfl (hline c l).1
  | arrayCol c l => exact absurd rfl (hline c l).2
  | _ => rfl

theorem exec_unitRetirement_kept {w : HwUnit} (hline : noLine w) (h : w ∈ s.retired ∨ s.eventCount w < s.limitOf w) :
    exec (.unitRetirement w) s = .next s := by
  cases hcut : s.cutting with
  | some x => exact exec_unitRetirement_cutting (by rw [hcut]; rfl) w
  | none =>
    refine (exec_unitRetirement_unit hline hcut).trans (congrArg _ (if_pos ?_))
    simpa using h

theorem exec_unitRetirement_due {w : HwUnit} (hline : noLine w) (hcut : s.cutting = none) (hserves : w ∉ s.retired)
    (hdue : s.limitOf w ≤ s.eventCount w) : exec (.unitRetirement w) s = .next (s.retire w) := by
  refine (exec_unitRetirement_unit hline hcut).trans (congrArg _ (if_neg ?_))
  simpa [hserves] using hdue

/-! ### Cores (R394, R397) -/

theorem State.retireCore_running {n : Nat} (hserves : HwUnit.core n ∉ s.retired) (hrun : (s.coreOf n).running = true) (hnew : n ∉ s.doomed) :
    s.retireCore n = ({ s with doomed := s.doomed ++ [n] } : State).onCoreN n fun c => { c with preempt := true } := by
  rw [State.retireCore, if_neg (by simpa using hserves), if_pos hrun, if_neg (by simpa using hnew)]

theorem State.retireCore_idle {n : Nat} (hserves : HwUnit.core n ∉ s.retired) (hidle : (s.coreOf n).running = false) :
    s.retireCore n = ({ s with retired := s.retired ++ [.core n], doomed := s.doomed.filter (· != n) } : State).vacate n := by
  rw [State.retireCore, if_neg (by simpa using hserves), if_neg (by simp [hidle])]

theorem State.retest_retired (fuel : Nat) : ∀ (s : State) (part members : Nat), (State.retest fuel s part members).retired = s.retired := by
  induction fuel with
  | zero => exact fun _ _ _ => rfl
  | succ fuel ih =>
    intro s part members
    unfold State.retest
    split
    · rfl
    · split_ifs
      · rfl
      · exact ih _ part members

/-- A test of the groups that lost a core lowers tasks and nothing else of the units. -/
theorem State.retestLost_retired (s : State) (part lost : Nat) : (s.retestLost part lost).retired = s.retired := by
  unfold State.retestLost
  split
  · rfl
  · dsimp only
    split_ifs
    · rfl
    · exact List.foldlRecOn _ _ (motive := fun t : State => t.retired = s.retired) rfl fun t h m _ => (State.retest_retired _ t part m).trans h

/-- A partition without tasks has none to test again. -/
theorem State.retestLost_of_noTasks {part lost : Nat} {p : Partition} (hp : s.part? part = some p) (htasks : p.tasks = []) :
    s.retestLost part lost = s := by
  have hhard : (p.hardOn (2 ^ 256 - 1)).isEmpty = true := by rw [Partition.hardOn, htasks]; rfl
  simp only [State.retestLost, hp, hhard, if_true]

theorem State.vacate_retired (s : State) (n : Nat) : (s.vacate n).retired = s.retired := by
  unfold State.vacate
  dsimp only
  split
  · rfl
  · exact State.retestLost_retired ..

/-- What completing barrier generations leaves of a partition. -/
theorem Partition.completeOne_frame (p : Partition) (g : Nat) :
    (p.completeOne g).no = p.no ∧ (p.completeOne g).cores = p.cores ∧ (p.completeOne g).tasks = p.tasks := by
  unfold Partition.completeOne
  split_ifs <;> exact ⟨rfl, rfl, rfl⟩

theorem Partition.foldl_advance_frame (p : Partition) (gs : List Nat) :
    (gs.foldl Partition.advance p).no = p.no ∧ (gs.foldl Partition.advance p).cores = p.cores ∧ (gs.foldl Partition.advance p).tasks = p.tasks := by
  refine List.foldlRecOn gs _ (motive := fun q : Partition => q.no = p.no ∧ q.cores = p.cores ∧ q.tasks = p.tasks) ⟨rfl, rfl, rfl⟩
    fun q ⟨hno, hcores, htasks⟩ g _ => ?_
  obtain ⟨hno1, hcores1, htasks1⟩ := q.completeOne_frame g
  obtain ⟨hno2, hcores2, htasks2⟩ := (q.completeOne g).completeOne_frame g
  rw [Partition.advance_eq]
  exact ⟨hno2.trans (hno1.trans hno), hcores2.trans (hcores1.trans hcores), htasks2.trans (htasks1.trans htasks)⟩

/-- A partition of which a logical core has become vacant, its barrier groups tested again. -/
def Partition.withoutCore (p : Partition) (l : Nat) : Partition :=
  (List.range 256).foldl Partition.advance { p with cores := p.cores.set l none }

/-- The logical number of a core that leaves becomes vacant; here of the only partition, which has no tasks. -/
theorem State.vacate_parts {n l : Nat} {p : Partition} (hparts : s.parts = [p]) (hl : p.logical n = some l) (htasks : p.tasks = []) :
    ∃ q, (s.vacate n).parts = [q] ∧ q.cores = p.cores.set l none := by
  obtain ⟨hno, hcores, hnotasks⟩ : (p.withoutCore l).no = p.no ∧ (p.withoutCore l).cores = p.cores.set l none ∧ (p.withoutCore l).tasks = p.tasks :=
    Partition.foldl_advance_frame { p with cores := p.cores.set l none } (List.range 256)
  have hfind : s.parts.find? (fun p => (p.logical n).isSome) = some p := by rw [hparts]; simp [hl]
  have hleft : (s.onPart p.no (·.withoutCore l)).parts = [p.withoutCore l] := by simp [State.onPart, hparts]
  refine ⟨p.withoutCore l, ?_, hcores⟩
  simp only [State.vacate, hfind, hl, Option.getD_some]
  refine (congrArg State.parts (State.retestLost_of_noTasks (p := p.withoutCore l) ?_ (hnotasks.trans htasks))).trans hleft
  refine (congrArg (fun ps : List Partition => ps.find? (·.no == p.no)) hleft).trans ?_
  simp [hno]

/-! ### Lanes (R14, R17, log entry 74) -/

/-- The lanes of a lane's station that serve. -/
def State.lanesLeft (s : State) (k : Nat) : Nat := ((List.range 4).filter fun i => HwUnit.lane (k / 4 * 4 + i) ∉ s.retired).length

theorem State.lanesLeft_add_retired (s : State) (k : Nat) :
    s.lanesLeft k + ((stationOf k).filter s.retired.contains).length = 4 := by
  have hcount := List.length_eq_countP_add_countP (fun i => decide (HwUnit.lane (k / 4 * 4 + i) ∉ s.retired)) (l := List.range 4)
  have hgone : ((stationOf k).filter s.retired.contains).length =
      (List.range 4).countP fun i => ¬ decide (HwUnit.lane (k / 4 * 4 + i) ∉ s.retired) = true := by
    rw [stationOf, List.filter_map, List.length_map, List.countP_eq_length_filter]
    congr 2
    funext i
    simp
  rw [hgone, State.lanesLeft, ← List.countP_eq_length_filter]
  exact hcount.symm

/-- A station has no width once at most one of its lanes serves. -/
theorem State.stationWidth_eq_zero_iff (s : State) (k : Nat) : s.stationWidth k = 0 ↔ s.lanesLeft k = 1 ∨ s.lanesLeft k = 0 := by
  have hsum := s.lanesLeft_add_retired k
  rw [State.stationWidth]
  generalize ((stationOf k).filter s.retired.contains).length = gone at hsum ⊢
  obtain _ | _ | _ | gone := gone
  · exact iff_of_false (Nat.succ_ne_zero 3) (by omega)
  · exact iff_of_false (Nat.succ_ne_zero 1) (by omega)
  · exact iff_of_false (Nat.succ_ne_zero 0) (by omega)
  · exact iff_of_true rfl (by omega)

theorem State.retire_lane_serves {k : Nat} (h : ({ s with retired := s.retired ++ [.lane k] } : State).stationWidth k ≠ 0) :
    s.retire (.lane k) = { s with retired := s.retired ++ [.lane k] } := if_neg h

theorem State.retire_lane_station {k : Nat} (h : ({ s with retired := s.retired ++ [.lane k] } : State).stationWidth k = 0) :
    ∀ i < 4, HwUnit.lane (k / 4 * 4 + i) ∈ (s.retire (.lane k)).retired := by
  intro i hi
  set lost : State := { s with retired := s.retired ++ [.lane k] } with hlost
  have hretire : (s.retire (.lane k)).retired = lost.retired ++ (stationOf k).filter (!lost.retired.contains ·) :=
    congrArg State.retired (if_pos h)
  have hstation : HwUnit.lane (k / 4 * 4 + i) ∈ stationOf k := List.mem_map.2 ⟨i, List.mem_range.2 hi, rfl⟩
  by_cases hgone : HwUnit.lane (k / 4 * 4 + i) ∈ lost.retired
  · exact hretire ▸ List.mem_append_left _ hgone
  · exact hretire ▸ List.mem_append_right _ (List.mem_filter.2 ⟨hstation, by simpa using hgone⟩)

/-! ### Engines (R394) -/

/-- An engine is not its die's last as long as another one there serves. -/
theorem lastOf_engines_iff (s : State) (e : Nat) : lastOf s (enginesOf (e / 32)) (.engine e) = false ↔
    ∃ k < 32, 32 * (e / 32) + k ≠ e ∧ HwUnit.engine (32 * (e / 32) + k) ∉ s.retired := by
  simp [lastOf, enginesOf]

theorem State.retire_engine (s : State) (e : Nat) : (s.retire (.engine e)).retired =
    if lastOf s (enginesOf (e / 32)) (.engine e) then s.retired else s.retired ++ [.engine e] := by
  change (if _ then s else _ : State).retired = _
  split_ifs <;> rfl

theorem State.retire_engine_iff (s : State) (e : Nat) : (s.retire (.engine e)).retired = s.retired ++ [.engine e] ↔
    ∃ k < 32, 32 * (e / 32) + k ≠ e ∧ HwUnit.engine (32 * (e / 32) + k) ∉ s.retired := by
  rw [State.retire_engine, ← lastOf_engines_iff]
  cases lastOf s (enginesOf (e / 32)) (.engine e) with
  | true => simp
  | false => simp

/-! ### The end of a window (R394) -/

theorem exec_eventWindowEnd_same (h : s.cc / 2 ^ 30 = s.window) : exec .eventWindowEnd s = .next s :=
  congrArg Host.Outcome.next (if_pos h)

theorem exec_eventWindowEnd_next (h : s.cc / 2 ^ 30 ≠ s.window) : exec .eventWindowEnd s = .next ({ s with
    events := s.events.filter fun e => decide (s.limitOf e.1 ≤ e.2) && !s.servedCount e.1
    window := s.cc / 2 ^ 30 }.onCores fun c => { c with beryl := [] }) :=
  congrArg Host.Outcome.next (if_neg h)

/-! ### Memory channels (R396) -/

/-- The frames of a retiring channel leave every pool. -/
def State.poolsOff (s : State) (ch : Nat) : State :=
  { s with parts := s.parts.map fun p => { p with pool := p.pool.filter fun f => !onChannel ch (f * 2 ^ 16) 65536 } }

theorem exec_channelRetirement_serves {ch : Nat} (h : ch ∉ s.retiring) : exec (.channelRetirement ch) s = .next s :=
  congrArg Host.Outcome.next (if_pos (by simpa using h))

section
variable {ch : Nat} (h : ch ∈ s.retiring)
include h

theorem exec_channelRetirement_moves {part va f : Nat} (hpage : (s.poolsOff ch).pageOn ch = some (part, va, f)) :
    exec (.channelRetirement ch) s = .next ((s.poolsOff ch).movePage part va f) := by
  change execChannelRetirement ch s = _
  simp only [State.poolsOff] at hpage ⊢
  simp only [execChannelRetirement, List.contains_iff_mem.2 h, Bool.not_true, Bool.false_eq_true, if_false, hpage]

theorem exec_channelRetirement_fixed (hnone : (s.poolsOff ch).pageOn ch = none) (hfixed : (s.poolsOff ch).fixedOn ch = true) :
    exec (.channelRetirement ch) s = .next (s.poolsOff ch) := by
  change execChannelRetirement ch s = _
  simp only [State.poolsOff] at hnone hfixed ⊢
  simp only [execChannelRetirement, List.contains_iff_mem.2 h, Bool.not_true, Bool.false_eq_true, if_false, hnone, hfixed, if_true]

theorem exec_channelRetirement_leaves (hnone : (s.poolsOff ch).pageOn ch = none) (hfree : (s.poolsOff ch).fixedOn ch = false) :
    exec (.channelRetirement ch) s =
      .next { s.poolsOff ch with retiring := s.retiring.filter (· != ch), retired := s.retired ++ [channelUnit ch] } := by
  change execChannelRetirement ch s = _
  simp only [State.poolsOff] at hnone hfree ⊢
  simp only [execChannelRetirement, List.contains_iff_mem.2 h, Bool.not_true, Bool.false_eq_true, if_false, hnone, hfree]

end

end Sys2Proof.Machine
end

section
/-! Rails, clock and bring-up (R410–R412). -/

namespace Sys2Proof.Machine

variable {s : State}

/-- The clock after a measurement: a step of 100 MHz down when too much power is drawn or it is too hot, up when neither limit is met. -/
def State.stepped (s : State) (w temp : Nat) : Nat :=
  if s.powerLimit < w ∨ 95 < temp then max 7 (s.cclk - 1)
  else if w < s.powerLimit ∧ temp < 95 then min 14 (s.cclk + 1) else s.cclk

theorem State.stepped_range {w temp : Nat} (hlo : 7 ≤ s.cclk) (hhi : s.cclk ≤ 14) : 7 ≤ s.stepped w temp ∧ s.stepped w temp ≤ 14 := by
  unfold State.stepped
  split_ifs <;> omega

theorem exec_powerMeasurement_off (h : s.rails = false) (w temp : Nat) : exec (.powerMeasurement w temp) s = .next s :=
  congrArg Host.Outcome.next (if_pos (by simp [h]))

theorem exec_powerMeasurement_hot (h : s.rails = true) (w : Nat) {temp : Nat} (hhot : 110 ≤ temp) :
    exec (.powerMeasurement w temp) s = .next s.powerOff :=
  congrArg Host.Outcome.next ((if_neg (by simp [h])).trans (if_pos hhot))

theorem exec_powerMeasurement (h : s.rails = true) (w : Nat) {temp : Nat} (hcool : temp < 110) :
    exec (.powerMeasurement w temp) s = .next { s with power := w % 2 ^ 16, temp := temp, cclk := s.stepped w temp } :=
  congrArg Host.Outcome.next ((if_neg (by simp [h])).trans (if_neg (by omega)))

theorem exec_bringUp_ignored (h : s.rails = true ∨ s.boot ≠ 0) (fw : Firmware) (d vlan : Nat) : exec (.bringUp fw d vlan) s = .next s :=
  congrArg Host.Outcome.next (if_pos (by simpa using h))

/-- With the rails down and no bring-up before, the signature decides. -/
theorem exec_bringUp (hrails : s.rails = false) (hboot : s.boot = 0) (fw : Firmware) (d vlan : Nat) : exec (.bringUp fw d vlan) s =
    .next (if !fw.signed then { s with boot := 2 } else { s with
      rails := true, boot := 1, firmware := fw.digest % 2 ^ 256, devId := d % 1024, reach := 0, events := [], mgmtVlan := some vlan }) :=
  congrArg Host.Outcome.next (if_neg (by simp [hrails, hboot]))

end Sys2Proof.Machine
end

section
/-! Errors, retirement, and power together. -/

namespace Sys2Proof.Machine

theorem noLine_core (n : Nat) : noLine (.core n) := fun _ _ => ⟨nofun, nofun⟩
theorem noLine_lane (n : Nat) : noLine (.lane n) := fun _ _ => ⟨nofun, nofun⟩
theorem noLine_engine (n : Nat) : noLine (.engine n) := fun _ _ => ⟨nofun, nofun⟩

/-- Settles O60: error events, poison, lost records and fatal errors; the retirement of units, cores, lanes, engines and channels;
rails, clock and bring-up. What has more than one case (the lines of an array, cores, lanes, channels, the clock) is a lemma a case. -/
theorem unitsErrorsAndPower : Obligations.UnitsErrorsAndPower := by
  unfold Obligations.UnitsErrorsAndPower
  refine ⟨fun s w hline => ?counted, fun s n l => ⟨?lineCounted, fun hcut => ?lineMarked⟩, fun s a => ?ecc, exec_metadataFailed,
    fun s k r hk => ?recordLost, fun s part unit p => exec_fatalPartition, fun s w hcut => exec_unitRetirement_cutting hcut w,
    fun s w h hline => exec_unitRetirement_kept hline h, fun s n hcut hserves hdue => ?core, fun s k hcut hserves hdue => ?lane,
    fun s e hcut hserves hdue => ?engine, fun s => ⟨exec_eventWindowEnd_same, fun h => ?window⟩,
    fun s ch => ⟨exec_channelRetirement_serves, fun h => ?channel⟩, fun s => ⟨rfl, rfl⟩,
    fun s w temp => ⟨fun h => exec_powerMeasurement_off h w temp, fun h => exec_powerMeasurement_hot h w, fun h hcool hlo hhi => ?measured⟩,
    fun s fw d vlan => ⟨fun h b => exec_bringUp_ignored h ⟨fw, b⟩ d vlan, fun hrails hboot =>
      ⟨exec_bringUp hrails hboot ⟨fw, false⟩ d vlan, exec_bringUp hrails hboot ⟨fw, true⟩ d vlan⟩⟩⟩
  case counted =>
    exact ⟨_, exec_corrected_noLine hline, s.eventCount_countUnit_same w, rfl, fun v hv => State.eventCount_countUnit_other hv, rfl, rfl⟩
  case lineCounted =>
    intro w hw
    obtain rfl | hw := List.mem_cons.1 hw
    · exact ⟨_, rfl, s.lineEvent_counts n l _⟩
    · obtain rfl := List.mem_singleton.1 hw
      exact ⟨_, rfl, s.lineEvent_counts n (256 + l) _⟩
  case lineMarked =>
    exact ⟨_, exec_unitRetirement_line hcut n l, congrArg Core.marked (s.coreOf_markLine n l _)⟩
  case ecc =>
    exact ⟨_, rfl, State.mem_poison.2 (.inl rfl), fun b hb => State.mem_poison.2 (.inr hb), fun b => State.mem_poison.1, rfl, State.blockMeta_poison⟩
  case recordLost =>
    exact ⟨_, rfl, s.loseRecord_frame hk⟩
  case core =>
    refine ⟨_, exec_unitRetirement_due (noLine_core n) hcut hserves hdue, fun hidle => ?_, State.retireCore_running hserves,
      fun p l hidle hparts hl htasks => ?_⟩
    · rw [State.retire, State.retireCore_idle hserves hidle, State.vacate_retired]
      exact List.mem_append_right _ List.mem_cons_self
    · rw [State.retire, State.retireCore_idle hserves hidle]
      exact State.vacate_parts hparts hl htasks
  case lane =>
    intro lost left
    have hexec := exec_unitRetirement_due (noLine_lane k) hcut hserves hdue
    have hwidth : lost.stationWidth k = 0 ↔ left = 1 ∨ left = 0 := lost.stationWidth_eq_zero_iff k
    exact ⟨fun h1 h0 => hexec.trans (congrArg _ (State.retire_lane_serves fun h => (hwidth.1 h).elim h1 h0)),
      fun h => ⟨_, hexec, State.retire_lane_station (hwidth.2 h)⟩⟩
  case engine =>
    exact ⟨_, exec_unitRetirement_due (noLine_engine e) hcut hserves hdue, s.retire_engine_iff e⟩
  case window =>
    refine ⟨_, exec_eventWindowEnd_next h, rfl, rfl, fun c hc => ?_, rfl, rfl⟩
    rw [State.allCores_onCores] at hc
    obtain ⟨d, -, rfl⟩ := List.mem_map.1 hc
    rfl
  case channel =>
    exact ⟨exec_channelRetirement_leaves h, exec_channelRetirement_fixed h, fun _ _ _ => exec_channelRetirement_moves h⟩
  case measured =>
    obtain ⟨hmin, hmax⟩ := s.stepped_range (w := w) (temp := temp) hlo hhi
    exact ⟨_, exec_powerMeasurement h w hcool, rfl, rfl, hmin, hmax, rfl, rfl, fun hover => if_pos hover,
      fun hw ht => (if_neg (by omega)).trans (if_pos ⟨hw, ht⟩), fun hw ht => (if_neg (by omega)).trans (if_neg (by omega))⟩

end Sys2Proof.Machine
end
